-- ==== Sys2Proof/Word.lean ====
section
/-! DEFINITION. The words of the PH-1 and their plainest arithmetic (R3, R146, R150 of spec/). -/

namespace Sys2Proof

/-- The smallest addressable unit (R205). -/
abbrev Byte := BitVec 8

/-- One vector register of one lane, or one tile element (R77, R87). -/
abbrev Word := BitVec 32

/-- One warp-uniform register, a PC, a virtual address or a system register (R35, R77, R93). -/
abbrev DWord := BitVec 64

/-- A set of lanes, bit `l` for lane `l` (R5, R47). -/
abbrev LaneMask := BitVec 32

/-- Every lane of a warp. -/
def LaneMask.all : LaneMask := BitVec.allOnes 32

/-- Is lane `l` in the set? -/
def LaneMask.has (m : LaneMask) (l : Nat) : Bool := m.getLsbD l

/-- The lanes of a set, in increasing order (R225). -/
def LaneMask.lanes (m : LaneMask) : List Nat := (List.range 32).filter (fun l => m.getLsbD l)

/-- The set of the lanes of `0 … 31` that satisfy `p`. -/
def LaneMask.ofPred (p : Nat → Bool) : LaneMask :=
  (List.range 32).foldl (fun m l => if p l then m ||| BitVec.ofNat 32 (2 ^ l) else m) 0

/-- The lowest lane of a set, 0 for the empty set. -/
def LaneMask.lowest (m : LaneMask) : Nat := ((LaneMask.lanes m).head?).getD 0

end Sys2Proof
end

