-- ==== Sys2Proof/Config.lean ====
section
/-! DEFINITION. What one PH-1 fixes and spec/ leaves open: constants without a body, so that nothing in Lean
can find their value. Each is named by a row of notes/assumptions/. -/

namespace Sys2Proof

/-- The result bits of an approximate function (R168): `op` is the opcode, the argument the FP32 operand.
The machine keeps the result within the bound of R168. UNVERIFIED free value, log entry 12. -/
opaque Config.approx : Nat → Word → Word

/-- From which the column of each data bit in the check matrix of the ECC is found (R317). Free value, log entry 13. -/
opaque Config.eccColumn : Nat → Word

/-- Does a package answer at a GT (R326)? Free value, log entry 17. -/
opaque Config.packageAnswers : Nat → Nat → Bool

/-- Spare vertical wires on a die after reset, 4 for each bundle (R389): the number of bundles is not in
spec/. Free value, log entry 7. -/
opaque Config.vwSpares : Nat → DWord

/-- First sample of an island's monitor after reset (R389 gives no reset value). Free value, log entry 11. -/
opaque Config.islandReset : Nat → DWord

/-- Does the signature of a firmware header verify under the fused Crevik key (R418)? Free value, log entry 10. -/
opaque Config.signatureOk : BitVec 2048 → Bool

/-- The signature of a quote by the device identity key (R421). Free value, log entry 10. -/
opaque Config.quoteSignature : BitVec 3456 → BitVec 768

/-- The DER bytes of the device certificate chain (R421). Free value, log entry 10. -/
opaque Config.certificateChain : List Byte

/-- Digests that the boot and re-admission steps extend and spec/ does not give: fuse state and SVN floor,
repair and spare maps (R420). The first argument is the register, the second counts the extensions.
Free value, log entry 10. -/
opaque Config.measureDigest : Nat → Nat → BitVec 384

/-- The firmware bank from which the part boots (R418): VERSION, SVN and SIG of its header, the 4 KiB units of its image, and the image's
bytes. Free values, log entry 10. -/
opaque Config.bootVersion : Word
opaque Config.bootSvn : Word
opaque Config.bootSignature : BitVec 768
opaque Config.bootUnits : Nat
opaque Config.bootByte : Nat → Byte

/-- Size in 4 KiB units of the image that a SAVE writes (R365); the argument is a serial number of the save. Free
value, log entry 14. -/
opaque Config.imageUnits : Nat → Nat

/-- Bytes of a tenant's image that the loft writes for SAVE (R365: the format is the loft's own); the
argument is a serial number of the save and the byte's place. Free value, log entry 14. -/
opaque Config.imageByte : Nat → Nat → Byte

/-- The GT of a switch with the measured one-way delay to it, by the number of the boot and the switch; none of a switch that has failed
or that the package does not reach (R419). Free value, log entry 15. -/
opaque Config.podTime : Nat → Nat → Option Nat

/-- The port at which the package's fibre pairs join the switches, where it reaches one (R47). Free value, log entry 15. -/
opaque Config.podPackage : Nat

/-- What the tests of a boot find, by the number of the boot (R417 steps 4, 5 and 7): HBM channels that fail, quads that are
lost, and wavelengths that fail their training, as direction and position: one named again has failed on its spare too. Free values, log
entry 86. -/
opaque Config.failedChannels : Nat → List Nat
opaque Config.failedQuads : Nat → List Nat
opaque Config.failedWaves : Nat → List (Nat × Nat)

/-- What another package has put into a line that it holds O or M, by the line, the offset and a number of the period in which it has owned
it so: a byte, or none where it has written none (R403). Free values, log entry 73. -/
opaque Config.ownerByte : Nat → Nat → Nat → Option Byte

/-- What the other packages of a pod grid contribute, by its tag (R22): at a GT, whether every other member grid has been
accepted, whether each is wholly placed, the member warps there that have not retired, those of them that have arrived in a
phase of a barrier of an index, and whether a member grid has ended. Free values, log entry 36. -/
opaque Config.podAccepted : Nat → Nat → Bool
opaque Config.podPlaced : Nat → Nat → Bool
opaque Config.podMembers : Nat → Nat → Nat
opaque Config.podArrivals : Nat → Nat → Nat → Nat → Nat
opaque Config.podEnded : Nat → Nat → Bool

/-- Vertical wires that the tests of a re-admission remap to spares (R423, R389); the argument counts the extensions of the
measurement registers. Free value, log entry 86. -/
opaque Config.remappedWires : Nat → Nat

/-- An uncorrectable error on a vertical wire that those tests detect, if any: core of the die, bundle and wire (R318). Free value, log
entry 86. -/
opaque Config.wireError : Nat → Option (Nat × Nat × Nat)

/-- Which of a request's pieces a copy engine writes next: the order is not promised (R256); the argument counts the free values drawn.
Free value, log entry 29. -/
opaque Config.nextPiece : Nat → Nat

/-- The check symbols of a flit's Reed–Solomon code, by the bytes that it covers, the bytes of a message's descriptor, by virtual channel and
address, and the tenant and class that another package's request carries, by the free values drawn (R394). Free values, log entry 18. -/
opaque Config.fecByte : Nat → Nat → Byte
opaque Config.descriptorByte : Nat → Nat → Nat → Byte
opaque Config.requestSender : Nat → Nat

/-- Does an ownership request of another package want the line's data (R403)? By a number of the draw. Free value, log entry 18. -/
opaque Config.wantsData : Nat → Bool

/-- Flits that the sender of an inbound direction had sent after one that failed its CRC, which it sends again with it (R396, R401). Free
value, log entry 18. -/
opaque Config.sentAfter : Nat → Nat

/-- Core cycles of memory time that a tile transfer adds to the anvil's busy time (R176, R389: not in spec/); the
argument counts the free values drawn. Free value, log entry 22. -/
opaque Config.memoryTime : Nat → Nat

end Sys2Proof
end

