-- ==== Sys2Proof/Machine/Bits.lean ====
section
/-! DEFINITION. Byte order and bit-field helpers (R1, R3, R31): everything in memory is little-endian. -/

namespace Sys2Proof

/-- The least number of a list. -/
def least (l : List Nat) : Option Nat :=
  l.foldl (fun (m : Option Nat) x => match m with | none => some x | some y => some (min x y)) none

/-- The number that a list of bytes holds, least significant byte first (R3). -/
def leNat : List Byte → Nat
  | [] => 0
  | b :: bs => b.toNat + 256 * leNat bs

/-- The `n` low bytes of a number, least significant first (R3). -/
def leBytes : Nat → Nat → List Byte
  | 0, _ => []
  | n + 1, v => BitVec.ofNat 8 v :: leBytes n (v / 256)

/-- The word of `n` bits that a list of bytes holds. -/
def leWord (n : Nat) (bs : List Byte) : BitVec n := BitVec.ofNat n (leNat bs)

/-- Bits `[hi:lo]` of a number. -/
def bitsOf (v hi lo : Nat) : Nat := (v >>> lo) % 2 ^ (hi + 1 - lo)

/-- Bit `n` of a number. -/
def bitOf (v n : Nat) : Bool := v.testBit n

/-- `v` placed at bit `lo`. -/
def fieldAt (v lo : Nat) : Nat := v <<< lo

/-- 1 for true. -/
def ofBool (b : Bool) : Nat := if b then 1 else 0

/-- The low `n` bits of `v` read as a two's complement integer. -/
def signedOf (n v : Nat) : Int := (BitVec.ofNat n v).toInt

/-- Exclusive or of the bits of a list of truth values: true where the number of ones is odd. -/
def oddOnes (bs : List Bool) : Bool := bs.foldl Bool.xor false

/-- Cut a list into pieces of `n`, `fuel` pieces at most. -/
def chunksOf (n : Nat) : Nat → List α → List (List α)
  | 0, _ => []
  | fuel + 1, l => l.take n :: chunksOf n fuel (l.drop n)

end Sys2Proof
end

