-- ==== Sys2Proof/Machine/Sparse.lean ====
section
/-! DEFINITION. Finite tables with a default: a list of (key, value) pairs. A key that is not listed reads as the
default; a write of the default removes the entry; keys stand in rising order. Equal tables are then equal lists. -/

namespace Sys2Proof

/-- A table from numbers to `β`. -/
abbrev Sparse (β : Type) := List (Nat × β)

namespace Sparse

/-- The value at `k`, the default `d` where none is listed. -/
def get (d : β) : Sparse β → Nat → β
  | [], _ => d
  | (j, x) :: m, k => if j = k then x else get d m k

/-- Is something listed at `k`? -/
def mem (m : Sparse β) (k : Nat) : Bool := m.any (fun e => e.1 == k)

/-- Remove `k`. -/
def del (m : Sparse β) (k : Nat) : Sparse β := m.filter (fun e => !(e.1 == k))

/-- Insert before the first larger key. -/
def insert (k : Nat) (x : β) : Sparse β → Sparse β
  | [] => [(k, x)]
  | (j, y) :: m => if k < j then (k, x) :: (j, y) :: m else (j, y) :: insert k x m

/-- Write `x` at `k`; the default is not listed. -/
def set [DecidableEq β] (d : β) (m : Sparse β) (k : Nat) (x : β) : Sparse β :=
  if x = d then del m k else insert k x (del m k)

/-- Change the value at `k`. -/
def modify [DecidableEq β] (d : β) (m : Sparse β) (k : Nat) (f : β → β) : Sparse β := set d m k (f (get d m k))

/-- Keys strictly rising, all above `b`. -/
def risingFrom (b : Nat) : Sparse β → Bool
  | [] => true
  | (j, _) :: m => b < j && risingFrom j m

/-- The canonical form: keys strictly rising and no entry equal to the default. -/
def canonical [DecidableEq β] (d : β) (m : Sparse β) : Bool :=
  (match m with
   | [] => true
   | (j, _) :: m' => risingFrom j m') && m.all (fun e => !decide (e.2 = d))

end Sparse

end Sys2Proof
end

