-- ==== Sys2Proof/Syntax.lean ====
section
/-! DEFINITION. Instructions as terms: operand codes (R45), the twelve fields of an instruction word (R39), and one
constructor for each row of spec/opcode_table.json. The first 161 rows are instructions and carry their fields; the
other 90 are the operations and events of the part's other agents and carry the data that the agent supplies; those
that carry none stand last. -/

namespace Sys2Proof

/-- An operand code, by the classes of R45. `maps` is the SA of format X: first map in [3:0], second in [7:4] (R42). -/
inductive Opnd where
  | v (n : Fin 128)
  | k (n : Fin 32)
  | special (n : Fin 22)
  | p (n : Fin 8)
  | acc (n : Fin 16)
  | pf (n : Fin 4)
  | cv (n : Fin 8)
  | imm
  | zero
  | none
  | maps (a b : Fin 16)
  deriving DecidableEq, Repr

/-- A port of a switch: the switch, and the package whose two links end there (R409). -/
structure Port where
  switch : Nat
  pkg : Nat
  deriving DecidableEq, Repr

/-- The fields of an instruction word beside its opcode (R39). -/
structure Fields where
  /-- GRD[13]: the guard predicate is negated (R40). -/
  neg : Bool := false
  /-- GRD[12:10]: the guard predicate (R40). -/
  pred : Fin 8 := 7
  /-- REUSE, a hint that changes no result and no trap (R41). -/
  reuse : BitVec 3 := 0
  dst : Opnd := .none
  sa : Opnd := .none
  sb : Opnd := .none
  sc : Opnd := .none
  mod : BitVec 7 := 0
  aux : BitVec 8 := 0
  imm : BitVec 32 := 0
  deriving DecidableEq, Repr

/-- One constructor per row of spec/opcode_table.json. -/
inductive Instr where
  /-- NOP (R122): Does nothing and retires as an ordinary entry. -/
  | nop (f : Fields)
  /-- MOV (R122): Copies a 32-, 64- or 128-bit source to the destination in each active lane. -/
  | mov (f : Fields)
  /-- MOVI (R122): Writes IMM32 to the destination. -/
  | movi (f : Fields)
  /-- MOVK (R122): Copies a whole k register to a destination. -/
  | movk (f : Fields)
  /-- MOVS (R122): Reads a special register into the destination. -/
  | movs (f : Fields)
  /-- SEL (R122): Selects one of two sources per lane by a predicate. -/
  | sel (f : Fields)
  /-- IADD (R123): Adds two 32-bit integers, wrapping or saturating. -/
  | iadd (f : Fields)
  /-- ISUB (R123): Subtracts two 32-bit integers, wrapping or saturating. -/
  | isub (f : Fields)
  /-- IADDC (R125): Adds with carry in and optionally writes the carry out to a predicate. -/
  | iaddc (f : Fields)
  /-- IMUL (R123): Multiplies two 32-bit integers modulo 2^32. -/
  | imul (f : Fields)
  /-- IMULH (R123): Returns the upper 32 bits of the exact 64-bit product. -/
  | imulh (f : Fields)
  /-- IMAD (R123): Computes A times B plus C modulo 2^32. -/
  | imad (f : Fields)
  /-- IMAL (R123): Computes a widened product plus a 64-bit addend modulo 2^64. -/
  | imal (f : Fields)
  /-- IDIV (R124): Divides toward zero without trapping, with fixed results for border cases. -/
  | idiv (f : Fields)
  /-- IREM (R124): Returns the remainder with the sign of A without trapping. -/
  | irem (f : Fields)
  /-- IMIN (R123): Returns the lesser of two integers, signed or unsigned. -/
  | imin (f : Fields)
  /-- IMAX (R123): Returns the greater of two integers, signed or unsigned. -/
  | imax (f : Fields)
  /-- IABS (R123): Returns the absolute value, optionally saturated. -/
  | iabs (f : Fields)
  /-- INEG (R123): Negates a 32-bit integer, optionally saturated. -/
  | ineg (f : Fields)
  /-- IADD64 (R123): Adds two 64-bit integers modulo 2^64. -/
  | iadd64 (f : Fields)
  /-- ISUB64 (R123): Subtracts two 64-bit integers modulo 2^64. -/
  | isub64 (f : Fields)
  /-- LEA (R123): Adds a shifted extended 32-bit index to a 64-bit base. -/
  | lea (f : Fields)
  /-- AND (R126): Bitwise AND of two words. -/
  | and (f : Fields)
  /-- OR (R126): Bitwise OR of two words. -/
  | or (f : Fields)
  /-- XOR (R126): Bitwise XOR of two words. -/
  | xor (f : Fields)
  /-- ANDN (R126): Computes A AND NOT B. -/
  | andn (f : Fields)
  /-- NOT (R126): Bitwise complement of a word. -/
  | not (f : Fields)
  /-- SHL (R126): Shifts left, giving zero for counts of 32 or more. -/
  | shl (f : Fields)
  /-- SHR (R126): Shifts right logically. -/
  | shr (f : Fields)
  /-- SHA (R126): Shifts right arithmetically. -/
  | sha (f : Fields)
  /-- ROTL (R126): Rotates left by N mod 32. -/
  | rotl (f : Fields)
  /-- FSHF (R126): Funnel-shifts a 64-bit pair right or left. -/
  | fshf (f : Fields)
  /-- BFE (R127): Extracts a bit field, sign- or zero-extended. -/
  | bfe (f : Fields)
  /-- BFI (R127): Inserts a bit field into a base word. -/
  | bfi (f : Fields)
  /-- POPC (R126): Counts the ones in a word. -/
  | popc (f : Fields)
  /-- CLZ (R126): Counts leading zeros. -/
  | clz (f : Fields)
  /-- CTZ (R126): Counts trailing zeros. -/
  | ctz (f : Fields)
  /-- BREV (R126): Reverses the bits of a word. -/
  | brev (f : Fields)
  /-- BMIX (R128): Assembles a word from selected, zeroed, sign-filled or inverted bytes of a pair. -/
  | bmix (f : Fields)
  /-- ICMP (R129): Compares 32-bit integers and writes a predicate, optionally combined. -/
  | icmp (f : Fields)
  /-- ICMP64 (R129): Compares 64-bit integers and writes a predicate, optionally combined. -/
  | icmp64 (f : Fields)
  /-- PTAB (R130): Computes any function of three predicates from an 8-bit table. -/
  | ptab (f : Fields)
  /-- PMOV_GET (R131): Writes the lane's eight predicates as a word. -/
  | pmovGet (f : Fields)
  /-- PMOV_SET (R131): Sets masked predicates p0-p6 from bits of a word. -/
  | pmovSet (f : Fields)
  /-- LPOLL (R133): Combines a predicate over the active lanes by AND, OR, SAME or MASK. -/
  | lpoll (f : Fields)
  /-- LXCH (R134): Reads a value from another active lane of the segment. -/
  | lxch (f : Fields)
  /-- LFOLD (R135): Folds values across active lanes, whole or over the lanes below. -/
  | lfold (f : Fields)
  /-- LGRP (R135): Writes masks of active lanes holding equal values or a uniformity mask. -/
  | lgrp (f : Fields)
  /-- FADD (R163): Adds FP32 values with one rounding. -/
  | fadd (f : Fields)
  /-- FSUB (R163): Subtracts FP32 values with one rounding. -/
  | fsub (f : Fields)
  /-- FMUL (R163): Multiplies FP32 values with one rounding. -/
  | fmul (f : Fields)
  /-- FFMA (R163): Fused multiply-add in FP32. -/
  | ffma (f : Fields)
  /-- FMIN (R164): Returns the lesser FP32 value with NaN and signed-zero rules. -/
  | fmin (f : Fields)
  /-- FMAX (R164): Returns the greater FP32 value with NaN and signed-zero rules. -/
  | fmax (f : Fields)
  /-- FCMP (R165): Compares floating-point values and writes a predicate. -/
  | fcmp (f : Fields)
  /-- FCLASS (R166): Sets a predicate from the class of a floating-point value. -/
  | fclass (f : Fields)
  /-- FDIV (R167): Correctly rounded FP32 division. -/
  | fdiv (f : Fields)
  /-- FSQRT (R167): Correctly rounded FP32 square root. -/
  | fsqrt (f : Fields)
  /-- FRCP (R168): Approximate FP32 reciprocal. -/
  | frcp (f : Fields)
  /-- FRSQ (R168): Approximate FP32 reciprocal square root. -/
  | frsq (f : Fields)
  /-- FEX2 (R168): Approximate base-2 exponential. -/
  | fex2 (f : Fields)
  /-- FLG2 (R168): Approximate base-2 logarithm. -/
  | flg2 (f : Fields)
  /-- FSIN (R168): Approximate sine. -/
  | fsin (f : Fields)
  /-- FCOS (R168): Approximate cosine. -/
  | fcos (f : Fields)
  /-- FTANH (R168): Approximate hyperbolic tangent. -/
  | ftanh (f : Fields)
  /-- FSGM (R168): Approximate logistic sigmoid. -/
  | fsgm (f : Fields)
  /-- HADD2 (R163): Adds packed FP16 pairs. -/
  | hadd2 (f : Fields)
  /-- HMUL2 (R163): Multiplies packed FP16 pairs. -/
  | hmul2 (f : Fields)
  /-- HFMA2 (R163): Fused multiply-add on packed FP16 pairs. -/
  | hfma2 (f : Fields)
  /-- BADD2 (R163): Adds packed BF16 pairs. -/
  | badd2 (f : Fields)
  /-- BMUL2 (R163): Multiplies packed BF16 pairs. -/
  | bmul2 (f : Fields)
  /-- BFMA2 (R163): Fused multiply-add on packed BF16 pairs. -/
  | bfma2 (f : Fields)
  /-- DADD (R163): Adds FP64 values. -/
  | dadd (f : Fields)
  /-- DMUL (R163): Multiplies FP64 values. -/
  | dmul (f : Fields)
  /-- DFMA (R163): Fused multiply-add in FP64. -/
  | dfma (f : Fields)
  /-- CVT (R170): Converts between FP32, FP64, FP16 and BF16. -/
  | cvt (f : Fields)
  /-- F2I (R171): Converts a floating-point value to an integer with clamping. -/
  | f2i (f : Fields)
  /-- I2F (R172): Converts an integer to FP32 or FP64. -/
  | i2f (f : Fields)
  /-- PACK8 (R173): Rounds four FP32 values to E4M3 and packs them. -/
  | pack8 (f : Fields)
  /-- UNPK8 (R174): Converts E4M3 bytes to FP32 exactly. -/
  | unpk8 (f : Fields)
  /-- TOS24 (R175): Rounds an FP32 value to S24. -/
  | tos24 (f : Fields)
  /-- FROMS24 (R175): Widens an S24 value to FP32. -/
  | froms24 (f : Fields)
  /-- PACK16 (R173): Rounds two FP32 values to a packed FP16 or BF16 pair. -/
  | pack16 (f : Fields)
  /-- PACKI8 (R173): Rounds four FP32 values to clamped INT8 or UINT8 and packs them. -/
  | packi8 (f : Fields)
  /-- OMSET (R187): Writes an operand map descriptor from four k registers. -/
  | omset (f : Fields)
  /-- OMLD (R187): Loads an operand map descriptor from memory. -/
  | omld (f : Fields)
  /-- GIDX (R187): Enables or disables gathering in an operand map. -/
  | gidx (f : Fields)
  /-- CVDECL (R188): Declares the members of a convergence register and clears SIGNED. -/
  | cvdecl (f : Fields)
  /-- CVSIGN (R188): Sets the SIGNED bits of active member lanes. -/
  | cvsign (f : Fields)
  /-- MMA8 (R189): Multiplies E4M3 tiles exactly into a partial tile rounded toward zero. -/
  | mma8 (f : Fields)
  /-- MMAH (R190): Multiplies FP16 tiles with a fixed summation tree. -/
  | mmah (f : Fields)
  /-- MMAB (R190): Multiplies BF16 tiles with a fixed summation tree. -/
  | mmab (f : Fields)
  /-- MMAI (R191): Multiplies INT8 tiles into an exact INT32 partial tile. -/
  | mmai (f : Fields)
  /-- SACC (R193): Scales a partial tile by row and tile scales and accumulates it. -/
  | sacc (f : Fields)
  /-- IACC (R194): Adds an INT32 partial tile into an accumulator with saturation. -/
  | iacc (f : Fields)
  /-- ACCZ (R195): Clears an accumulator tile. -/
  | accz (f : Fields)
  /-- ACCLD (R195): Loads an accumulator tile from memory through a map. -/
  | accld (f : Fields)
  /-- ACCST (R195): Stores a tile to memory through a map. -/
  | accst (f : Fields)
  /-- ACCMOV (R195): Copies a tile into an accumulator tile. -/
  | accmov (f : Fields)
  /-- DRAIN (R196): Converts a tile and writes it to memory with an optional bound check. -/
  | drain (f : Fields)
  /-- DRAINA (R198): Sends every tile element as an addend to its destination's home. -/
  | draina (f : Fields)
  /-- LD (R227): Loads a value per lane, optionally with acquire or SC ordering. -/
  | ld (f : Fields)
  /-- ST (R228): Stores a value per lane, optionally with release, SC or bound check. -/
  | st (f : Fields)
  /-- LDFE (R230): Waits for a full granule, reads it and optionally empties it. -/
  | ldfe (f : Fields)
  /-- STFE (R231): Writes a granule and sets its full bit as a QUAD release. -/
  | stfe (f : Fields)
  /-- FECLR (R232): Empties the full bits of a scratch range. -/
  | feclr (f : Fields)
  /-- ATOM (R233): Performs an atomic read-modify-write at the home and returns the old value. -/
  | atom (f : Fields)
  /-- ACAS (R234): Atomically compares and swaps, returning the old value. -/
  | acas (f : Fields)
  /-- RED (R233): Performs an atomic reduction at the home without returning a value. -/
  | red (f : Fields)
  /-- FENCE (R236): Waits for older loads and for older write-completion times at its scope. -/
  | fence (f : Fields)
  /-- PREF (R237): Hints a translation, lease and sector fill without any effect. -/
  | pref (f : Fields)
  /-- BRA (R137): Branches active lanes to a checked target. -/
  | bra (f : Fields)
  /-- BRX (R137): Branches each active lane to a register target. -/
  | brx (f : Fields)
  /-- CALL (R137): Writes the link pair and branches to a checked target. -/
  | call (f : Fields)
  /-- CALLX (R137): Writes the link pair and branches to a register target. -/
  | callx (f : Fields)
  /-- RET (R137): Sends each active lane to the PC in its link pair. -/
  | ret (f : Fields)
  /-- EXIT (R138): Makes active lanes exited and retires the warp when none is left. -/
  | exit (f : Fields)
  /-- WSYNC (R139): Blocks active lanes until every named lane waits with the same mask. -/
  | wsync (f : Fields)
  /-- YIELD (R140): Gives up the split's and warp's next issue opportunity. -/
  | yield (f : Fields)
  /-- SLEEP (R141): Blocks active lanes until a GT deadline or GTWAKE. -/
  | sleep (f : Fields)
  /-- RGACQ (R142): Acquires an extended register block or waits for one. -/
  | rgacq (f : Fields)
  /-- RGREL (R142): Releases the extended register block and grants the oldest waiter. -/
  | rgrel (f : Fields)
  /-- ROLE (R143): Changes priority, extended block and entry in one serialising step. -/
  | role (f : Fields)
  /-- BRK (R144): Traps BREAKPOINT in active lanes. -/
  | brk (f : Fields)
  /-- TRAP (R144): Traps USER_TRAP with a 16-bit code in active lanes. -/
  | trap (f : Fields)
  /-- KICK (R286): Hands a list of copy requests to the core's wain. -/
  | kick (f : Fields)
  /-- KICK_DIE (R291): Hands a list of copy requests to a die bulk engine of the silo. -/
  | kickDie (f : Fields)
  /-- WAINST (R290): Reads, and optionally clears the error fields of, the block's wain status. -/
  | wainst (f : Fields)
  /-- QPUSH (R293): Appends 64-byte items to a stage queue as a PKG release. -/
  | qpush (f : Fields)
  /-- QPOP (R293): Removes the next claimed item of a stage queue into memory. -/
  | qpop (f : Fields)
  /-- QPEEK (R293): Copies the next claimed item of a stage queue without removing it. -/
  | qpeek (f : Fields)
  /-- QCLOSE (R295): Closes queue 0 of a pipeline. -/
  | qclose (f : Fields)
  /-- LNCH (R296): Enqueues a launch record and returns its status and GRIDID. -/
  | lnch (f : Fields)
  /-- SHADOW (R297): Gives each page of a range a shadow frame. -/
  | shadow (f : Fields)
  /-- PUBLISH (R299): Switches each page of a range to its shadow at one switch time. -/
  | publish (f : Fields)
  /-- BARA (R379): Arrives at a barrier and returns the phase of the arrival. -/
  | bara (f : Fields)
  /-- BARW (R379): Waits until a barrier phase has completed. -/
  | barw (f : Fields)
  /-- BARS (R379): Arrives at a barrier and waits for that phase. -/
  | bars (f : Fields)
  /-- BARQ (R380): Reports a barrier's state without arriving or waiting. -/
  | barq (f : Fields)
  /-- BCINIT (R384): Initialises a byte-count object. -/
  | bcinit (f : Fields)
  /-- BCADD (R384): Subtracts an amount from a byte-count object as a QUAD release. -/
  | bcadd (f : Fields)
  /-- BCWAIT (R384): Waits until a byte-count object is complete. -/
  | bcwait (f : Fields)
  /-- CNTRD (R390): Samples a monitor counter. -/
  | cntrd (f : Fields)
  /-- GTRD (R388): Reads global time whole. -/
  | gtrd (f : Fields)
  /-- TCINV (R340): Removes a range's translations from the core and floor caches and discards fetched lines. -/
  | tcinv (f : Fields)
  /-- TCRCL (R340): Recalls a tenant range's translations from every unit of the package. -/
  | tcrcl (f : Fields)
  /-- PLACE (R341): Asks the gleaner to place a page near, on a die, far or in DRAM. -/
  | place (f : Fields)
  /-- REPL (R341): Asks the gleaner to replicate a FRAME page across silos. -/
  | repl (f : Fields)
  /-- PROBE (R342): Reports a page's entry, lease and frame state. -/
  | probe (f : Fields)
  /-- PROBE_F (R342): Reports the state of a frame named by its id. -/
  | probeF (f : Fields)
  /-- SYSRD (R313): Reads a system register. -/
  | sysrd (f : Fields)
  /-- SYSWR (R313): Writes a system register that has no behaviour of its own. -/
  | syswr (f : Fields)
  /-- ERET (R314): Returns handler lanes to TRAP_PC or the slot after it. -/
  | eret (f : Fields)
  /-- TRQPOP (R315): Moves the oldest trap record of the warp to memory. -/
  | trqpop (f : Fields)
  /-- BNDSET (R316): Writes a bound register, refusing NaN or inverted bounds. -/
  | bndset (f : Fields)
  /-- BNDRD (R316): Reads a bound register. -/
  | bndrd (f : Fields)
  /-- DIAGST (R317): Flips ECC check bits or injects link bit errors. -/
  | diagst (f : Fields)
  /-- DIAGLD (R317): Returns the check bits and syndrome class of an ECC word. -/
  | diagld (f : Fields)
  /-- WDOG (R319): Sets a tenant's hang limit or save bound and returns the old one. -/
  | wdog (f : Fields)
  /-- HALT (R320): Ends a grid by killing every gang of it without relaunch. -/
  | halt (f : Fields)
  /-- IDLE (R321): Waits for a block event or at most 1000 ns. -/
  | idle (f : Fields)
  /-- SPLIT_RESIZE (R214): A write of SPLIT requests a scratch/frame resize of the column, or is refused. -/
  | splitResize (col : Nat) (val : DWord)
  /-- RESIZE_COMPLETE (R214): The last evicted frame of a growing resize is cleared; BUSY clears and DONE sets. -/
  | resizeComplete (col : Nat)
  /-- ELAST_CLEAR (R318): A write with bit 63 set clears VALID of ELAST. -/
  | elastClear (die : Nat) (val : DWord)
  /-- LCFG_WRITE (R398): A SUPERVISOR write of LCFG sets limits and retrains FAILED wavelengths. -/
  | lcfgWrite (dir : Nat) (val : DWord)
  /-- ISSUE_OPPORTUNITY (R24): Each core cycle the core chooses a warp and its split selector fills primary and secondary slots. -/
  | issueOpportunity (core : Nat)
  /-- LOAD_DATA_RETURN (R227): A load's data returns and fixes its lanes' outcome. -/
  | loadDataReturn (wid : Nat)
  /-- ENTRY_RETIRE (R108): The oldest reorder entry whose lanes all have outcomes retires and makes its effects. -/
  | entryRetire (wid : Nat)
  /-- TRANSLATION_WALK (R306): A page-table walk for a parked lane completes, resuming it or delivering TRANSLATION. -/
  | translationWalk (wid lane : Nat)
  /-- WATCHDOG (R304): A warp's hang count reaches WDOG_LIMIT and WATCHDOG is delivered. -/
  | watchdog (wid : Nat)
  /-- FE_TIMEOUT (R211): A lane's LDFE wait reaches FE_LIMIT and traps. -/
  | feTimeout (wid lane : Nat)
  /-- LDFE_SERVE (R211): A granule becomes full and the oldest waiting LDFE request is served. -/
  | ldfeServe (granule : Nat)
  /-- BCWAIT_RETURN (R385): A byte-count object becomes complete and waiting BCWAITs return as acquires. -/
  | bcwaitReturn (wid : Nat)
  /-- BARRIER_PHASE_COMPLETE (R374): Every non-retired member has arrived; the phase advances and waiters return. -/
  | barrierPhaseComplete (bar : Nat)
  /-- SLEEP_WAKE (R141): GT reaches a sleeping split's deadline and its lanes are released. -/
  | sleepWake (wid : Nat)
  /-- IDLE_WAKE (R321): An awaited event or 1000 ns ends an IDLE. -/
  | idleWake (wid : Nat)
  /-- RGACQ_GRANT (R142): A waiting RGACQ or acquiring ROLE is granted a freed extended block. -/
  | rgacqGrant (core : Nat)
  /-- KICK_QUEUE_FREE (R286): A kick queue entry frees and a waiting KICK lane is served. -/
  | kickQueueFree (engine : Nat)
  /-- GLEANER_QUEUE_FREE (R341): A gleaner queue entry frees and a waiting PLACE or REPL lane is served. -/
  | gleanerQueueFree (silo : Nat)
  /-- LAUNCH_RECORD_ENQUEUE (R266): A record enqueued through the host queue is checked and accepted or refused. -/
  | launchRecordEnqueue (record : BitVec 2048)
  /-- PIPELINE_DESCRIPTOR (R272): A pipeline descriptor is enqueued and its stage records checked. -/
  | pipelineDescriptor (record : BitVec 2048)
  /-- GANG_PLACEMENT (R18): The loft places a queue head's gang whole when its resources fit. -/
  | gangPlacement (queue quad base : Nat)
  /-- CORESIDENT_PLACEMENT (R19): A CORESIDENT grid is placed whole once its target placement is reserved. -/
  | coresidentPlacement (queue : Nat) (places : List (Nat × Nat))
  /-- STAGE_LAUNCH (R273): The loft launches a stage gang, claiming items and reserving output slots. -/
  | stageLaunch (pipe stage quad base : Nat)
  /-- ALLOCATION_CLEAR_DONE (R207): The background clearing of a freed scratch allocation finishes. -/
  | allocationClearDone (col unit : Nat)
  /-- SLICE_END (R278): The loft ends a budgetless tenant's slice on quads needed by a budgeted tenant. -/
  | sliceEnd (queue : Nat)
  /-- PARTIAL_EVICTION (R280): The loft evicts warps from a core to make room for higher-priority work. -/
  | partialEviction (core queue : Nat)
  /-- CONTEXT_RESTORE (R281): A saved warp is reloaded to its core before it issues again. -/
  | contextRestore (wid : Nat)
  /-- SAVE_BOUND_EXPIRY (R305): A save exceeds the save bound and the context is killed. -/
  | saveBoundExpiry (wid : Nat)
  /-- FATAL_DIE_ERROR (R308): A compute die suffers a fatal error and every gang on it is killed. -/
  | fatalDieError (die : Nat)
  /-- SECTOR_FILL (R216): A sector fetch into a frame completes and waiting accesses proceed. -/
  | sectorFill (fid sector : Nat)
  /-- GLEANER_POLICY_MOVE (R338): The gleaner starts a move or eviction by its own policy. -/
  | gleanerPolicyMove (tenant vpn : Nat) (target : Option Nat)
  /-- MOVE_SWITCH (R331): At switch time T the entry names the new frame and the source becomes FORWARDING. -/
  | moveSwitch (tenant vpn : Nat)
  /-- EVICTION_SWITCH (R332): An eviction switches the entry to its backing kind and forwards to backing. -/
  | evictionSwitch (tenant vpn : Nat)
  /-- FORWARDING_FREE (R330): GT passes the horizon and a FORWARDING frame becomes FREE and cleared. -/
  | forwardingFree (fid : Nat)
  /-- REPLICA_SWITCH (R334): A page's entry becomes REPLICA and replicas become MAPPED. -/
  | replicaSwitch (tenant vpn : Nat)
  /-- REPLICA_COLLAPSE (R334): After H the entry reverts to FRAME, replicas are freed and held writes performed. -/
  | replicaCollapse (tenant vpn : Nat)
  /-- WAIN_REQUEST (R287): The wain fetches and checks a copy request and copies it. -/
  | wainRequest (core serial : Nat)
  /-- WAIN_REQUEST_COMPLETE (R288): A request's last byte is written, with its publish where MODE.PUB is set. -/
  | wainRequestComplete (core serial : Nat)
  /-- DIE_ENGINE_REQUEST (R291): A die bulk engine fetches and performs a copy request. -/
  | dieEngineRequest (die engine serial : Nat)
  /-- DRAINA_ADDITION (R199): A home applies an FP32 addend as one element-atomic addition. -/
  | drainaAddition (n : Nat)
  /-- ORD_GROUP_APPLY (R200): A held ticketed group is applied when the line's counter reaches its ticket. -/
  | ordGroupApply (line : Nat)
  /-- QUOTE (R421): Returns a signed quote of the measurement registers and nonce. -/
  | quote (nonce : BitVec 256)
  /-- EXTEND (R420): Extends MEAS7 with a host digest. -/
  | extend (digest : BitVec 384)
  /-- UPDATE (R418): Writes firmware to the inactive bank and checks it. -/
  | update (header : BitVec 2048) (image : List Byte)
  /-- DIE_READMISSION (R423): A die is saved, reset, tested and restored or withdrawn. -/
  | dieReadmission (die : Nat) (lost : List Nat)
  /-- LOAD (R417): In RECOVERY the ROM checks an image, writes it to bank A and resets. -/
  | load (header : BitVec 2048) (image : List Byte)
  /-- ISLAND_RECALIBRATION (R424): An island holds its clock for at most 20 us to recalibrate. -/
  | islandRecalibration (island ns : Nat)
  /-- THERMAL_THROTTLE (R428): An island at 110 C is slowed 100 MHz every 10 us. -/
  | thermalThrottle (island : Nat) (temp : BitVec 16)
  /-- THERMAL_SHUTDOWN (R428): An island at 125 C causes package power to be removed. -/
  | thermalShutdown (island : Nat) (temp : BitVec 16)
  /-- FLIT_RECEIVE (R396): A received flit is corrected, CRC-checked and delivered or replayed. -/
  | flitReceive (dir : Nat) (bytes : List Byte)
  /-- CHECK_INTERVAL_END (R397): A wavelength's check interval ends and a BER event may withdraw it. -/
  | checkIntervalEnd (dir wave errors : Nat)
  /-- WITHDRAW_MSG (R398): The sender receives WITHDRAW and announces the flit boundary. -/
  | withdrawMsg (dir wave : Nat)
  /-- TRAINING_ATTEMPT_END (R398): A training attempt passes or fails, leading to READY, SPARED or FAILED. -/
  | trainingAttemptEnd (dir wave errors : Nat)
  /-- RESTORE_MSG (R398): The sender receives RESTORE and announces the hand-back boundary. -/
  | restoreMsg (dir wave : Nat)
  /-- LOSS_OF_LOCK (R399): The receiver loses lock on 5 or more wavelengths and the direction goes DOWN. -/
  | lossOfLock (dir : Nat) (lost : BitVec 8)
  /-- RDS (R403): The switch resolves a read request for a line. -/
  | rds (line pkg : Nat)
  /-- RDX (R403): The switch resolves an ownership request, invalidating other holders. -/
  | rdx (line pkg : Nat)
  /-- WB (R403): The switch applies an owner's masked bytes at the home. -/
  | wb (line pkg tag : Nat) (keep : Bool) (bytes : List (Nat × Byte))
  /-- EV (R403): The switch removes a clean holder. -/
  | ev (line pkg : Nat)
  /-- HOME_READ (R403): The switch resolves a home core's read of an exported line. -/
  | homeRead (line : Nat)
  /-- HOME_WRITE (R403): The switch resolves a home core's write and removes the entry. -/
  | homeWrite (line pkg tag : Nat) (bytes : List (Nat × Byte))
  /-- FORWARDED_REQUEST (R403): A holder receives a forwarded request and supplies its data. -/
  | forwardedRequest (line : Nat)
  /-- INVALIDATION (R403): A holder receives an invalidation and acknowledges it. -/
  | invalidation (line : Nat)
  /-- BACK_INVALIDATION (R405): A holder receives a back-invalidation, writing back masked bytes first. -/
  | backInvalidation (line : Nat)
  /-- SWITCH_FAILURE (R406): A switch silent for 4 us is declared failed and its range passes on. -/
  | switchFailure (switch : Nat)
  /-- REQUEST_RESEND (R406): A request unanswered for 8 us is sent again to the range's holder. -/
  | requestResend (wid lane : Nat)
  /-- REBUILD_HOLD_END (R407): Every floor has acknowledged and the rebuild enters UNCACHED. -/
  | rebuildHoldEnd (switch : Nat) (bytes : List (Nat × Nat × Byte))
  /-- REBUILD_OPEN (R407): The rebuilt range opens under the directory rules. -/
  | rebuildOpen (switch : Nat)
  /-- PORT_DOWN_EXPIRY (R409): A port-down lasts PORTTO and waiting accesses fail uncorrectable. -/
  | portDownExpiry (port : Port)
  /-- CXL_MEM_READ (R412): A host read over CXL.mem is performed at the HBM channel. -/
  | cxlMemRead (addr n : Nat)
  /-- CXL_MEM_WRITE (R412): A host write over CXL.mem is performed at the HBM channel. -/
  | cxlMemWrite (addr : Nat) (bytes : List Byte)
  /-- HOST_LANE_FAILURE (R412): The host PCIe link loses lanes and falls back to x8 or x4, as HOSTST shows. -/
  | hostLaneFailure (lanes : Nat)
  /-- INJECTION_DURATION_END (R317): The duration of a DIAGST.LINK injection runs out and error injection on the wavelength stops. -/
  | injectionDurationEnd (dir wave : Nat)
  /-- TOKENS_REACH_ZERO (R277): A tenant's tokens run down to 0, so it no longer holds budget and its further use is borrowed or uncharged. -/
  | tokensReachZero (tenant : Nat)
  /-- PCMD_QUEUE_FREE (R353): A command queue entry frees and a waiting PCMD write submits. -/
  | pcmdQueueFree
  /-- PERIOD_BOUNDARY (R276): A 10 us budget period begins and tokens are reset less repayment. -/
  | periodBoundary
  /-- READPART (R355): Writes a partition entry to the payload. -/
  | readpart
  /-- READTEN (R356): Writes a tenant entry to the payload. -/
  | readten
  /-- SETTEN (R356): Writes a tenant entry, defining or undefining the tenant. -/
  | setten
  /-- MODE (R363): Replaces partition entries after checks, saving, evicting and recalling. -/
  | mode
  /-- TENANT_RESET (R360): Advances a tenant's generation and ends, recalls and evicts its work. -/
  | tenantReset
  /-- SEGMENT (R357): Declares, narrows or removes a shared segment. -/
  | segment
  /-- SAVE (R365): Writes a tenant's image after writing back its frames. -/
  | save
  /-- RESTORE (R366): Restores a tenant's image whole or changes nothing. -/
  | restore
  /-- CERT (R421): Returns the device certificate chain. -/
  | cert
  /-- ACTIVATE (R422): Passes the management cores to the new firmware bank. -/
  | activate
  /-- ACTIVATE_TIMEOUT (R422): New firmware misses its ready point in 100 ms and the loft reverts. -/
  | activateTimeout
  /-- HOST_RESET (R421): The host RESET command performs a loft reset. -/
  | hostReset
  /-- LOFT_RESET (R417): Power-on or PERST# runs the boot steps. -/
  | loftReset
  /-- POWER_LOSS (R428): Package power goes away and every piece of state, GT and retained records included, is lost. -/
  | powerLoss
  deriving DecidableEq, Repr


/-- One event of the part's agenda: the GT in ns at which it takes place, and the operation. -/
structure Event where
  time : Nat
  op : Instr
  deriving DecidableEq, Repr

end Sys2Proof
end

