-- ==== Sys2Proof/Machine/State.lean ====
section
/-! DEFINITION. The state of the machine, all of it plain data, and the state after reset (R7, R9, R77, R417).
Every `Sparse` table reads its default where nothing is listed; the default stands beside the accessor. -/

namespace Sys2Proof.Machine

/-! ## Warps -/

/-- The four states of a lane (R97). -/
inductive LaneStatus where
  | running | waiting | parked | exited
  deriving DecidableEq, Repr

/-- The handler tag of a lane inside a trap handler (R97). -/
structure Tag where
  cause : Nat
  pc : DWord
  deriving DecidableEq, Repr

/-- One lane of a warp (R35, R93, R97, R103). A lane that is not listed in its warp has exited. -/
structure Lane where
  pc : DWord := 0
  status : LaneStatus := .exited
  tag : Option Tag := none
  trapPc : DWord := 0
  trapCause : DWord := 0
  trapAddr : DWord := 0
  /-- The address whose translation a parked lane awaits (R306). -/
  parkAddr : DWord := 0
  /-- The lanes that parked with this one at an instruction that acts once for the warp, or at a fetch: they share its walk (R202). -/
  parkWith : LaneMask := 0
  /-- The starvation count of the lane's split (R103). -/
  starve : Nat := 0
  deriving DecidableEq, Repr

/-- One register written by one lane (R79, R84, R85). -/
inductive RegWrite where
  | v (n : Nat) (x : Word)
  | p (n : Nat) (b : Bool)
  | k (n : Nat) (x : DWord)
  deriving DecidableEq, Repr

/-- The outcome of one lane of an entry (R108). -/
inductive LaneOutcome where
  /-- Completed: its register writes, and where it goes if not to the next slot. -/
  | done (writes : List RegWrite) (goto : Option DWord)
  /-- Trapped: cause code, TRAP_ADDR and record CODE (R301, R302, R311). -/
  | trap (cause : Nat) (addr : DWord) (code : Nat)
  /-- Parked on the translation of an address (R306). -/
  | park (addr : DWord)
  deriving DecidableEq, Repr

/-- What an unretired entry waits for (R23, R99, R109). -/
inductive Wait where
  /-- Nothing: every lane has its outcome. -/
  | nothing
  /-- Its turn: it is performed once the entries before it allow that (R109, R244). -/
  | turn
  /-- The data of a load in flight (R227). -/
  | loadData
  /-- An access in flight beside a load: its lanes have passed their checks, and it is still to be performed. -/
  | sent
  /-- Granules to become full (R230). -/
  | full
  /-- Byte-count objects to complete (R384). -/
  | byteCount
  /-- A barrier (R375, R379): its number in the table, the phase of the arrival once counted, whether the arrival is
  held in PEND, and the phase waited for. -/
  | barrier (bar : Nat) (counted : Option Nat) (pend : Bool) (target : Option Nat)
  /-- WSYNC with its mask (R139). -/
  | wsync (mask : LaneMask)
  /-- SLEEP until a deadline in GT (R141). -/
  | sleep (deadline : Nat)
  /-- IDLE until a deadline in GT (R321), with the block's event count at its start. -/
  | idle (deadline : Nat) (seen : Nat)
  /-- RGACQ, or a ROLE that acquires (R142, R143). -/
  | extBlock
  /-- FENCE: GT to reach this write-completion time, and the warp's addends to be applied (R236). -/
  | fence (gwct : Nat)
  /-- KICK lanes waiting for an entry of a kick queue (R286). -/
  | kickQueue
  /-- PLACE or REPL lanes waiting for the gleaner (R341). -/
  | gleaner
  /-- SYSWR of PCMD waiting for a command-queue entry (R353), with the block's address. -/
  | pcmd (addr : DWord)
  deriving DecidableEq, Repr

/-- A reorder-buffer entry (R108). -/
structure Entry where
  pc : DWord
  /-- Lanes of the split. -/
  lanes : LaneMask
  /-- Lanes whose guard was true (R40). -/
  active : LaneMask
  instr : Instr
  word : BitVec 96
  /-- Outcomes found so far, by lane. -/
  outs : Sparse LaneOutcome := []
  wait : Wait := .nothing
  /-- GT at issue; the LDFE limit, SLEEP and IDLE count from it (R141, R211, R321). -/
  since : Nat := 0
  /-- WISSUED of the warp at issue, which tells the instruction from its others. -/
  op : Nat := 0
  /-- Exceptions raised by the lanes, ORed into FPFLAGS at retirement (R94). -/
  flags : BitVec 5 := 0
  /-- The lanes of the split have gone on to their next PCs before the entry retires. -/
  moved : Bool := false
  /-- The entry's access has been overtaken by a younger one through an edge of this scope (R245): the agents within its
  extent may not notice. -/
  owed : Option Nat := none
  deriving DecidableEq, Repr

/-- Record kept with a saved warp of a barrier instruction that was waiting (R381). -/
structure BarrierNote where
  pc : DWord
  lanes : LaneMask
  bar : Nat
  counted : Option Nat
  pend : Bool
  /-- The phase that a BARW waits for. -/
  target : Option Nat := none
  deriving DecidableEq, Repr

/-- Where a context stands (R281, R305); a retired warp is kept for its records and its barriers (R310, R373). -/
inductive Residence where
  | resident | saved | savedHung | retired
  deriving DecidableEq, Repr

/-- A trap record of 64 bytes (R311). -/
abbrev TrapRecord := List Byte

/-- One warp: its registers (R77), lanes, reorder buffer and the loft's queue of its trap records. -/
structure Warp where
  -- registers; every absent entry is 0 or false
  /-- v registers, key 128·lane + n. -/
  v : Sparse Word := []
  k : Sparse DWord := []
  /-- p0 to p6, key 8·lane + n. -/
  p : Sparse Bool := []
  /-- Tiles as 4096 elements, element (i, j) at 64·i + j; missing elements are 0 (R87). -/
  acc : Sparse (List Word) := []
  pf : Sparse (List Word) := []
  cv : Sparse DWord := []
  om : Sparse (BitVec 256) := []
  bd : Sparse (BitVec 128) := []
  -- warp-context registers (R93)
  tvec : DWord := 0
  fpflags : DWord := 0
  fptrapen : DWord := 0
  feLimit : DWord := 1000000
  gtwake : DWord := 0
  prio : Nat := 0
  ext : Bool := false
  wsel : Nat := 0
  nf : Nat := 0
  na : Nat := 0
  -- lanes and issue
  lanes : Sparse Lane := []
  rob : List Entry := []
  /-- What the waiting lanes of a SLEEP, an IDLE or a WSYNC keep of it once it has retired in its turn: its deadline or its mask, and where
  they go on (R139, R141, R145, R321). -/
  pauses : List Entry := []
  /-- Lanes of the split that the secondary fetch slot last chose (R102). -/
  secondary : Option LaneMask := none
  waitCount : Nat := 0
  /-- Core cycle of the last issue, or of becoming resident (R24). -/
  lastIssue : Nat := 0
  /-- Lanes skipped at the warp's next opportunity (R140). -/
  yielded : LaneMask := 0
  /-- The warp gives way to every other ready warp at the next opportunity (R140). -/
  yieldWarp : Bool := false
  /-- Fetched lines: line address and 512 bits (R38). -/
  lines : List (DWord × BitVec 512) := []
  /-- GT from which the hang count runs (R304). -/
  hangBase : Nat := 0
  /-- GT during which every lane not exited was parked, not counted (R306). -/
  parkedSince : Option Nat := none
  /-- Latest write-completion time of the warp's store-like accesses (R236). -/
  gwct : Nat := 0
  /-- SC stamp of the warp's last SC access (R251). -/
  scStamp : Nat := 0
  -- monitors (R389)
  wretired : DWord := 0
  wissued : DWord := 0
  wstall : DWord := 0
  barwait : DWord := 0
  -- trap records (R309)
  records : List TrapRecord := []
  lost : Nat := 0
  seq : Nat := 0
  /-- Records that have entered the queue, for IDLE (R321). -/
  entered : Nat := 0
  -- placement (R47)
  grid : Nat := 0
  block : Nat := 0
  warpNo : Nat := 0
  tenant : Nat := 0
  gen : Nat := 0
  /-- What %tenant and %pkg read for the life of the warp (R47, R86): a RESTORE changes neither. -/
  spTenant : Nat := 0
  spPkg : Nat := 0
  gcore : Nat := 0
  slot : Nat := 0
  residence : Residence := .resident
  notes : List BarrierNote := []
  /-- The check of the entry PC is still to be made (R37). -/
  starting : Bool := false
  deriving DecidableEq, Repr

/-! ## Engines, cores, dies -/

/-- A kick accepted by a wain or a die bulk engine (R286, R291). -/
structure Kick where
  wid : Nat
  grid : Nat
  block : Nat
  /-- PC of the KICK, for fault records (R311). -/
  pc : DWord
  /-- Scratch offset of the next request not yet fetched. -/
  offset : Nat
  /-- Requests not yet fetched. -/
  left : Nat
  serial : Nat := 0
  /-- The lane that kicked, and WISSUED of its warp at the issue of the KICK, which tells the KICK (R102). -/
  lane : Nat := 0
  op : Nat := 0
  deriving DecidableEq, Repr

/-- A request in progress (R238, R287). -/
structure Request where
  wid : Nat
  grid : Nat
  block : Nat
  pc : DWord
  /-- Scratch offset of the request. -/
  offset : Nat
  src : DWord
  dst : DWord
  sstride : Int
  dstride : Int
  rowb : Nat
  rows : Nat
  mode : Nat
  bcaddr : DWord
  /-- Bytes written so far. -/
  pos : Nat := 0
  /-- Pieces still to be copied, by their number: they are written in no promised order (R256). -/
  todo : List Nat := []
  /-- Places of those pieces whose source word was uncorrectable (R431). -/
  bad : List Nat := []
  /-- The checks of R287 have passed. -/
  checked : Bool := false
  /-- Serial number of its kick. -/
  kick : Nat := 0
  serial : Nat := 0
  lane : Nat := 0
  op : Nat := 0
  deriving DecidableEq, Repr

/-- A copy engine: the wain of a core or a die bulk engine (R286, R291). -/
structure Engine where
  queue : List Kick := []
  progress : List Request := []
  deriving DecidableEq, Repr

/-- A translation that a cache holds (R327): the entry as the walk read it and the end of the lease. -/
structure Cached where
  tenant : Nat
  gen : Nat
  vpn : Nat
  word0 : DWord
  word1 : DWord
  /-- Frame named for a shared DRAM leaf whose backing a frame holds (R358). -/
  sharedFrame : Option Nat := none
  /-- Access of the segment, [0] read, [1] write; 3 without one. -/
  acc : Nat := 3
  leaseEnd : Nat
  deriving DecidableEq, Repr

/-- State of one core beside its warps. -/
structure Core where
  cycles : Nat := 0
  /-- GT from which the core's clock is counted, and its cycles since then (R387). -/
  since : Nat := 0
  spent : Nat := 0
  wain : Engine := {}
  tcache : List Cached := []
  /-- Warps with an unretired RGACQ, or a ROLE that acquires, in the order in which those issued (R142). -/
  extQueue : List Nat := []
  esel : DWord := 0
  lsel : DWord := 0
  anvil : DWord := 0
  tcmiss : DWord := 0
  wainb : DWord := 0
  lastTenant : Option Nat := none
  /-- Warps evicted from the core by partial eviction (R280). -/
  evictions : Nat := 0
  deriving DecidableEq, Repr

/-- The SPLIT register of a bin column (R213). -/
structure Column where
  scrmib : Nat := 2
  /-- Scratchpad size before the resize in progress. -/
  oldmib : Nat := 2
  busy : Bool := false
  done : Bool := false
  refused : Bool := false
  evicted : Nat := 0
  deriving DecidableEq, Repr

/-- A request of PLACE or REPL in the gleaner's queue (R341). -/
structure GleanerReq where
  tenant : Nat
  /-- Generation of the tenant that asks (R359). -/
  gen : Nat := 0
  vpn : Nat
  /-- Columns of the target set; empty for .DRAM. -/
  cols : List Nat
  /-- Make a replica set (REPL). -/
  repl : Bool
  /-- PLACE.DRAM: evict. -/
  dram : Bool
  deriving DecidableEq, Repr

/-- State of one silo: compute die and floor. -/
structure Die where
  ftcache : List Cached := []
  engines : Sparse Engine := []
  gleaner : List GleanerReq := []
  elast : DWord := 0
  eccCor : DWord := 0
  eccUnc : DWord := 0
  vwRemap : DWord := 0
  /-- Spares taken so far; VW_SPARE is what Config gives less this (R389). -/
  vwUsed : Nat := 0
  /-- Quads withdrawn (R8). -/
  withdrawn : List Nat := []
  deriving DecidableEq, Repr

/-! ## Memory and tables -/

/-- A physical place of a byte: HBM backing by address with the package in [48:40], or a bin column and offset. -/
inductive Loc where
  | hbm (addr : Nat)
  | bin (col : Nat) (off : Nat)
  deriving DecidableEq, Repr

/-- One addend of a DRAINA on its way to its home (R198). -/
structure Addend where
  wid : Nat
  tenant : Nat
  /-- Generation of the tenant that sent it (R359). -/
  gen : Nat := 0
  loc : Loc
  /-- Frame id if the place lies in a frame: forwarding applies at the home. -/
  fid : Option Nat
  /-- The address, the lease end of the copy through which it was sent, and the core that sent it (R242). -/
  va : DWord := 0
  lease : Nat := 0
  gcore : Nat := 0
  value : Word
  /-- Ticket of an .ORD group and the number of the instruction that sent it (R200). -/
  ticket : Option Nat := none
  group : Nat := 0
  deriving DecidableEq, Repr

/-- An LDFE request waiting at its granule's column (R211), in order of arrival. -/
structure FeRequest where
  wid : Nat
  lane : Nat
  /-- Granule number: physical byte address divided by 16. -/
  granule : Nat
  since : Nat
  deriving DecidableEq, Repr

/-- What memory holds. Byte addresses of the one numbering: HBM by backing address, then the bins from 2^49, column c
at 2^49 + c·2^24. -/
structure Mem where
  cells : List Host.Cell := []
  /-- Syndrome of each 32-byte ECC word that is not clean, key byte address / 32 (R317). -/
  ecc : Sparse Word := []
  /-- Full bits, key byte address / 16 (R210). -/
  full : Sparse Bool := []
  /-- Write-mask bits of remote-line frames, key byte address (R219). -/
  mask : Sparse Bool := []
  /-- Next-ticket counters, key byte address / 256 (R200). -/
  tickets : Sparse Nat := []
  addends : List Addend := []
  feQueue : List FeRequest := []
  /-- SC stamp of each home: columns 0 to 383, then channels from 384 (R251). -/
  scStamps : Sparse Nat := []
  /-- EXPORT bits, key backing address / 256 (R402). -/
  exported : Sparse Bool := []
  /-- HBM pages retired (R366) and channels left out at boot (R417). -/
  retired : List Nat := []
  leftOut : List Nat := []
  deriving DecidableEq, Repr

/-- States of a frame (R329). -/
inductive FrameState where
  | free | filling | mapped | forwarding | draining
  deriving DecidableEq, Repr

/-- Roles of a frame (R329). -/
inductive FrameRole where
  | page | replica | shadow | remoteLine
  deriving DecidableEq, Repr

/-- A frame-table entry (R329), with the backing and the full horizon that the floor keeps at a switch (R324). -/
structure Frame where
  dirty : BitVec 64 := 0
  valid : BitVec 64 := 0
  /-- FWD; 0x1FFFFF means the backing. -/
  fwd : Nat := 0
  fwdcnt : Nat := 0
  age : Nat := 0
  owner : Nat := 0
  state : FrameState := .free
  role : FrameRole := .page
  vpn : Nat := 0
  /-- Backing address of the page held. -/
  backing : Nat := 0
  horizon : Nat := 0
  /-- The owner accessed the frame since the last period boundary (R338). -/
  touched : Bool := false
  /-- FORWARDING by a PUBLISH: reads through a stale translation stay at this frame (R252). -/
  published : Bool := false
  deriving DecidableEq, Repr

/-- A forward entry of an HBM channel (R331). -/
structure ChannelForward where
  /-- Backing page number, package included: address / 4096. -/
  page : Nat
  fid : Nat
  horizon : Nat
  /-- By a PUBLISH (R335): reads through a stale translation stay at the backing (R252). -/
  published : Bool := false
  tenant : Nat := 0
  vpn : Nat := 0
  deriving DecidableEq, Repr

/-- An entry of the loft's shadow table (R335). -/
structure Shadow where
  tenant : Nat
  vpn : Nat
  fid : Nat
  copy : Bool
  /-- Sectors of a .COPY shadow already filled. -/
  filled : BitVec 64
  deriving DecidableEq, Repr

/-- A replica set (R334). -/
structure ReplicaSet where
  tenant : Nat := 0
  vpn : Nat := 0
  master : Nat := 0
  /-- Replica frames, one in each of the other silos. -/
  frames : List Nat := []
  deriving DecidableEq, Repr

/-- A write that a collapse holds, in order of arrival (R334): the page, the warp, lane and PC of its instruction, and the serial number of
the request of an engine that makes it, 0 for a warp's own. -/
structure Arrival where
  tenant : Nat
  vpn : Nat
  wid : Nat
  lane : Nat := 0
  pc : DWord
  req : Nat := 0
  deriving DecidableEq, Repr

/-- What the gleaner has in progress on a page (R331, R332, R334). -/
inductive MoveKind where
  | place | evict | replicate | collapse
  deriving DecidableEq, Repr

/-- A move, eviction, replication or collapse in progress. -/
structure Move where
  kind : MoveKind
  tenant : Nat
  vpn : Nat
  /-- Leaf words read when the operation began, MIG set; the ACAS at the switch compares them (R332). -/
  word0 : DWord
  word1 : DWord
  src : Option Nat
  dst : List Nat
  horizon : Nat := 0
  /-- Stores at the source, complete only at the switch (R333): warp, lanes of the instruction, and what tells it (`Entry.op`). -/
  writers : List (Nat × LaneMask × Nat) := []
  deriving DecidableEq, Repr

/-- The frame tables and what the gleaners and the loft keep beside the page tables. -/
structure Tables where
  frames : Sparse Frame := []
  forwards : List ChannelForward := []
  shadows : List Shadow := []
  replicas : Sparse ReplicaSet := []
  moves : List Move := []
  /-- Writes that collapses have held and that are still to be performed, oldest first (R334, R343). -/
  arrivals : List Arrival := []
  /-- The lease horizon that the loft keeps for a page, whatever software writes into HZN (R325, R327); key 2^44·tenant + VPN. -/
  horizons : Sparse Nat := []
  deriving DecidableEq, Repr

/-- A partition entry (R348, R355): bit n of each bitmap. -/
structure Partition where
  quads : BitVec 96 := 0
  cols : BitVec 384 := 0
  chans : BitVec 384 := 0
  engs : BitVec 64 := 0
  tenants : BitVec 16 := 0
  deriving DecidableEq, Repr

/-- A tenant entry (R356). -/
structure Tenant where
  ptroot : Nat := 0
  gen : Nat := 0
  part : Nat := 0
  defined : Bool := false
  priocap : Nat := 0
  budget : Nat := 0
  lease : Nat := 0
  sigma : BitVec 32 := 0
  frameq : Nat := 0
  replq : Nat := 0
  wdoglim : Nat := 0
  savebnd : Nat := 0
  /-- GT from which the hang limit applies, and the one that applied before (R319). -/
  limitFrom : Nat := 0
  limitBefore : Nat := 0
  deriving DecidableEq, Repr

/-- A shared segment (R357). -/
structure Segment where
  base : Nat := 0
  len : Nat := 0
  grant : BitVec 16 := 0
  acc : Nat := 0
  deriving DecidableEq, Repr

/-! ## The loft's launch queues, grids and budgets -/

/-- STATE of a retained record (R264). -/
inductive GridState where
  | queued | placing | running | retired | refused
  deriving DecidableEq, Repr

/-- A grid or pipeline that the loft holds: its record and STATUS (R262 to R264). -/
structure Grid where
  record : BitVec 2048 := 0
  enqgt : Nat := 0
  gen : Nat := 0
  used : Nat := 0
  state : GridState := .queued
  /-- REASON: the status code of R266. -/
  reason : Nat := 0
  tenant : Nat := 0
  /-- Gangs not yet placed for the first time: the next %gang (R20). -/
  nextGang : Nat := 0
  /-- Gangs waiting for a relaunch (R268). -/
  relaunch : List Nat := []
  /-- Gangs retired or ended for good. -/
  finished : List Nat := []
  /-- Dies on which a gang of the grid has been placed (R21). A die stays listed when its only gang is killed and relaunched alone: its die
  group goes on, and a relaunch there finds the die's BROKEN barriers (log entry 97, DESIGN CHOICE). -/
  dies : List Nat := []
  /-- GT at which every package's grid of the pod grid had been accepted: its pod barriers are allocated in that order (R14). -/
  podGt : Option Nat := none
  /-- Stage launches: pipeline and stage, items claimed, output slots reserved (R273). -/
  pipe : Option Nat := none
  stage : Nat := 0
  claimed : List (List Byte) := []
  reserved : Nat := 0
  deriving DecidableEq, Repr

/-- A block that is resident or saved, or whose allocation is not yet free (R207, R290). -/
structure Block where
  grid : Nat
  block : Nat
  gang : Nat
  gangid : Nat
  gcore : Nat
  /-- First 4 KiB unit of the scratch allocation, by its frame number (R214), and the number of units. -/
  unit : Nat
  units : Nat
  alive : Bool := true
  -- wain status (R290)
  pend : Nat := 0
  errcnt : Nat := 0
  cause : Nat := 0
  errreq : Nat := 0
  /-- Events that IDLE awaits, counted (R321). -/
  events : Nat := 0
  deriving DecidableEq, Repr

/-- A stage of a pipeline (R271). -/
structure Stage where
  record : BitVec 2048
  qcap : Nat
  inmax : Nat
  outmax : Nat
  qmin : Nat
  qmax : Nat
  /-- Items of the input queue, oldest first; those claimed are in the stage's grids. -/
  items : List (List Byte) := []
  closed : Bool := false
  ended : Bool := false
  quads : List Nat := []
  deriving DecidableEq, Repr

/-- A pipeline (R272). -/
structure Pipeline where
  tenant : Nat := 0
  prio : Nat := 0
  stages : List Stage := []
  dropped : Nat := 0
  deriving DecidableEq, Repr

/-- The budget account of a tenant (R276, R277), in quad-ns; `tokens` may be read as unspent tokens. -/
structure Budget where
  tokens : Int := 0
  /-- The allotment of this period: a change of BUDGET applies from the next (R356). -/
  allot : Nat := 0
  debt : Nat := 0
  /-- Repayments due in the coming periods, next first. -/
  due : List Nat := []
  /-- Borrowed in this period. -/
  borrowed : Nat := 0
  /-- The tokens of this period have run down (R277). -/
  spent : Bool := false
  deriving DecidableEq, Repr

/-- The target placement reserved for a CORESIDENT grid (R19). -/
structure Target where
  grid : Nat
  /-- Gang, quad and base core. -/
  places : List (Nat × Nat × Nat)
  /-- Runs of scratch kept for its blocks: core, first unit and length. -/
  runs : List (Nat × Nat × Nat) := []
  deriving DecidableEq, Repr

/-- An accepted MODE whose columns or shadows still hold it in step 2 (R363): the partitions to come, the tenants for which placement
has stopped, and the contexts saved in step 1. -/
structure ModeWork where
  partitions : List Partition
  tenants : List Nat
  saved : List Nat
  deriving DecidableEq, Repr

/-- A barrier (R372). -/
structure Barrier where
  id : Nat
  /-- Scope code (R11). -/
  scope : Nat
  grid : Nat
  /-- Block, gang or die that owns it, by scope. -/
  owner : Nat
  index : Nat
  phase : Nat := 0
  broken : Bool := false
  arr : List Nat := []
  pend : List Nat := []
  deriving DecidableEq, Repr

/-- A partition command waiting at the loft (R353). -/
structure Command where
  addr : DWord
  /-- The block and the payload, read whole before the loft acts (R353). -/
  taken : Option (List Byte × List Byte) := none
  deriving DecidableEq, Repr

/-- The save area of a context in the tenant's HBM (R281): its bytes, and the registers that stand there while the context is saved. Where
the loft lays the area out is its own (log entry 51). -/
structure SaveArea where
  bytes : Nat := 0
  v : Sparse Word := []
  k : Sparse DWord := []
  p : Sparse Bool := []
  acc : Sparse (List Word) := []
  pf : Sparse (List Word) := []
  cv : Sparse DWord := []
  om : Sparse (BitVec 256) := []
  bd : Sparse (BitVec 128) := []
  -- the warp-context registers of R93
  tvec : DWord := 0
  fpflags : DWord := 0
  fptrapen : DWord := 0
  feLimit : DWord := 1000000
  winfo : DWord := 0
  gtwake : DWord := 0
  /-- Each lane's PC, state, handler tag and trap-report registers. -/
  lanes : Sparse Lane := []
  deriving DecidableEq, Repr

/-- The scratch of a saved block: its bytes, syndromes and full granules, by offset in the allocation. -/
structure ScratchImage where
  bytes : Sparse Byte
  ecc : Sparse Word
  full : Sparse Bool
  deriving DecidableEq, Repr

/-- A tenant's image as the loft knows it (R365, log entry 14): `serial` names the bytes that SAVE wrote. -/
structure Image where
  serial : Nat
  tenant : Tenant
  segments : List Segment
  quads : BitVec 96
  cols : BitVec 384
  grids : List (Nat × Grid)
  queues : List (List Nat)
  blocks : List (Block × ScratchImage)
  barriers : List Barrier
  warps : List (Nat × Warp)
  areas : List (Nat × SaveArea)
  deriving DecidableEq, Repr

/-- The loft. -/
structure Loft where
  partitions : Sparse Partition := []
  tenants : Sparse Tenant := []
  /-- Shared segments, key 8·tenant + segment. -/
  segments : Sparse Segment := []
  pcmd : List Command := []
  pstatLast : Nat := 0
  pstatSeq : Nat := 0
  /-- Launch queues, key 4·tenant + PRIO: grid numbers, head first (R267). -/
  queues : Sparse (List Nat) := []
  /-- Retained records by GRIDID. -/
  grids : Sparse Grid := []
  nextGrid : Nat := 1
  blocks : List Block := []
  /-- Allocations being cleared: column, unit, units (R207). -/
  clearing : List (Nat × Nat × Nat) := []
  /-- Pipelines by GRIDID. -/
  pipelines : Sparse Pipeline := []
  budgets : Sparse Budget := []
  /-- Number of the budget period (R276). -/
  period : Nat := 0
  /-- Held tenants and classes, 4·tenant + class (R279). -/
  heldBack : List Nat := []
  /-- TXB at the last period boundary. -/
  lastTxb : Sparse DWord := []
  /-- Targets of the CORESIDENT grids that wait, the oldest first (R19). -/
  targets : List Target := []
  /-- Saved contexts whose tenant has held budget in this period: resumed by its end (R27). -/
  overdue : List Nat := []
  /-- A MODE in its second step (R363). -/
  mode : Option ModeWork := none
  /-- The tenant of a reset whose frames are still to become FREE (R360). -/
  resetting : Option Nat := none
  barriers : List Barrier := []
  nextBarrier : Nat := 0
  faultLogs : Sparse (List TrapRecord) := []
  /-- Save areas that the loft holds in the tenants' HBM, by context (R281). -/
  saveAreas : Sparse SaveArea := []
  /-- Images that SAVE has written, newest first. -/
  images : List Image := []
  nextWid : Nat := 1
  nextSerial : Nat := 0
  deriving DecidableEq, Repr

/-! ## Links and directories -/

/-- States of the wavelength that holds a position (R398); SPARED is the flag `Wave.spare`. -/
inductive WaveState where
  | active | withdrawing | training | ready | restoring | failed
  deriving DecidableEq, Repr

/-- A wavelength in one of these states carries beats (R398, R400). -/
def WaveState.carries : WaveState → Bool
  | .active | .withdrawing => true
  | _ => false

/-- A wavelength of a link direction (R397, R398, R413). -/
structure Wave where
  state : WaveState := .active
  /-- Training attempts run. -/
  attempts : Nat := 0
  /-- A spare holds the position and has not been handed back yet: the position's own wavelength is SPARED, held out for good. -/
  spare : Bool := false
  /-- While it is RESTORING: SEQ of the first flit at the new width, as this package has announced it (R398). -/
  boundary : Option Nat := none
  /-- Injection by DIAGST.LINK: rate, and the GT at which it ends, 0 for never (R317). -/
  rate : Nat := 0
  until_ : Nat := 0
  /-- GT of the DIAGST (R413). -/
  from_ : Nat := 0
  /-- Injections that are over and may still count in a check interval: rate, and the GTs of start and end. -/
  past : List (Nat × Nat × Nat) := []
  /-- GT up to which FECCOR has counted the errors injected. -/
  checked : Nat := 0
  /-- GT from which the wavelength has carried beats. -/
  since : Nat := 0
  deriving DecidableEq, Repr

/-- The fields of a flit (R394); `Flit.bytes` lays them out. -/
structure Flit where
  seq : Nat := 0
  /-- 0 idle, 1 data, 2 control. -/
  type : Nat := 1
  ack : Nat := 0
  gen : Nat := 0
  tenant : Nat := 0
  tclass : Nat := 0
  /-- 0 request, 1 response, 2 directory, 3 control. -/
  vc : Nat := 0
  msgs : Nat := 1
  dpkg : Nat := 0
  spkg : Nat := 0
  payload : List Byte := []
  deriving DecidableEq, Repr

/-- A direction of a link. Key 2·link + direction, direction 1 inbound (R392). -/
structure LinkDir where
  waves : Sparse Wave := []
  down : Bool := false
  /-- Set while a DOWN direction waits to come UP again. -/
  trainmax : Nat := 4
  errth : Nat := 4295
  /-- Sequence number of the next flit that is not idle. -/
  seq : Nat := 0
  /-- Sequence number of the flit that the direction's receiver delivers next (R396). -/
  expected : Nat := 0
  /-- The inbound direction has come UP again: the next flit received intact tells the number (R399). -/
  resync : Bool := false
  /-- The last 256 flits sent, idle ones apart, for replay (R396). -/
  replay : List Flit := []
  /-- Flits held when the link went DOWN (R399). -/
  heldFlits : List Flit := []
  /-- Consecutive failed replays of the flit awaited (R399). -/
  failedReplays : Nat := 0
  /-- Flits carried up to the GT `counted`, in 1/32 flit: each active wavelength carries 1/32 flit in 1 ns (R394, R395);
  the beat counter is 8 times the flits since then, for every change of the active set moves `counted`. -/
  slots : Nat := 0
  redSlots : Nat := 0
  counted : Nat := 0
  /-- Flits carried that are not counted as sent or delivered, and those of them at fewer than 8 wavelengths (R401). -/
  lost : DWord := 0
  redLost : DWord := 0
  -- counters of R401
  feccor : DWord := 0
  crcerr : DWord := 0
  replays : DWord := 0
  berevt : DWord := 0
  withdraw : DWord := 0
  restored : DWord := 0
  spareuse : DWord := 0
  downevt : DWord := 0
  deriving DecidableEq, Repr

/-- States of a directory entry (R402); an I entry is not listed. -/
inductive DirState where
  | shared | exclusive | owned | modified
  deriving DecidableEq, Repr

/-- A directory entry of a switch (R402). -/
structure DirEntry where
  /-- Line number with package: backing address / 256. -/
  line : Nat
  state : DirState
  owner : Nat := 0
  holders : List Nat := []
  /-- Number of the period in which another package has owned the line O with the bytes that it holds. -/
  epoch : Nat := 0
  /-- Least recently used has the smallest number. -/
  used : Nat := 0
  deriving DecidableEq, Repr

/-- What a request asks of a directory (R403). -/
inductive DirKind where
  | rds | rdx | homeRead | homeWrite
  deriving DecidableEq, Repr

/-- A request of another package in progress at its switch, or held behind one (R403); the first of a line is in progress. -/
structure DirRequest where
  kind : DirKind
  line : Nat
  pkg : Nat
  /-- Offsets and bytes of a home write. -/
  bytes : List (Nat × Byte) := []
  deriving DecidableEq, Repr

/-- Phases of a rebuild (R407). -/
inductive RebuildPhase where
  | hold | uncached | open_
  deriving DecidableEq, Repr

/-- A failed switch and the rebuild of its range (R406, R407). -/
structure Rebuild where
  failed : Nat
  holder : Nat
  phase : RebuildPhase := .hold
  /-- Lines written in UNCACHED. -/
  written : List Nat := []
  /-- Lines reported. -/
  reported : Nat := 0
  deriving DecidableEq, Repr

/-- A remote access awaiting its response (R406). -/
structure Pending where
  wid : Nat
  lane : Nat
  line : Nat
  since : Nat
  resent : Nat := 0
  deriving DecidableEq, Repr

/-- The links, the switches and the host link. -/
structure Net where
  dirs : Sparse LinkDir := []
  /-- Spares taken, key 2·fibre + direction; each direction has two (R392). -/
  sparesUsed : Sparse Nat := []
  /-- TXB, key 4·tenant + class (R401). -/
  txb : Sparse DWord := []
  dirfwd : DWord := 0
  dirhome : DWord := 0
  backinv : DWord := 0
  biwb : DWord := 0
  swfail : DWord := 0
  rebuilt : DWord := 0
  uncached : DWord := 0
  portdn : DWord := 0
  portto : Nat := 1000000
  directory : List DirEntry := []
  recency : Nat := 0
  requests : List DirRequest := []
  rebuilds : List Rebuild := []
  /-- Switches in port-down, and the GT from which PORTTO counts (R409). -/
  portdown : Sparse Nat := []
  /-- Switches that have removed this package from their entries since their port-down expired (R409). -/
  expired : List Nat := []
  pendings : List Pending := []
  /-- 128-byte blocks that unretired loads have asked for without a frame: warp, `Entry.op` and block (R414). -/
  asked : List (Nat × Nat × Nat) := []
  /-- GT from which the flits of every direction are counted (R401). -/
  flitsFrom : Nat := 0
  /-- Writes already applied at a home: source package and tag (R406). -/
  applied : List (Nat × Nat) := []
  -- HOSTST (R400)
  lanes : Nat := 16
  hostGen : Nat := 7
  hostCache : Bool := true
  hostMem : Bool := true
  hostFlit : Bool := true
  hostUp : Bool := true
  /-- %pkg (R47), learned at boot. -/
  pkg : Nat := 0
  deriving DecidableEq, Repr

/-! ## Firmware, host and islands -/

/-- A firmware bank (R418). -/
structure Bank where
  header : BitVec 2048 := 0
  image : List Byte := []
  valid : Bool := false
  deriving DecidableEq, Repr

/-- A result that the loft returns to the host (R421, R412). -/
inductive HostResult where
  | ok | busy
  | quote (bytes : List Byte)
  | chain (bytes : List Byte)
  | read (addr : Nat) (bytes : List Byte) (poison : Bool)
  | launch (status grid : Nat)
  deriving DecidableEq, Repr

/-- Firmware, identity and power (R417 to R428). -/
structure Firmware where
  powered : Bool := true
  booted : Bool := true
  recovery : Bool := false
  bankA : Bank := {}
  bankB : Bank := {}
  /-- Bank B is the active one. -/
  activeB : Bool := false
  /-- GT at which the new firmware took over, until its ready point (R422). -/
  activating : Option Nat := none
  /-- ACTIVATEs that wait for the partition command in progress, or for an activation to end (R422). -/
  activateWaits : Nat := 0
  /-- The new firmware has reached its ready point (R422). -/
  reached : Bool := false
  /-- The next die to be re-admitted after an activation (R422). -/
  nextDie : Nat := 0
  /-- The die that is being re-admitted, and the contexts that were saved for it (R423). -/
  readmitting : Option (Nat × List Nat) := none
  svnFloor : Nat := 0
  meas : Sparse (BitVec 384) := []
  /-- Extensions of MEAS2 and MEAS3 made so far (log entry 10). -/
  extensions : Nat := 0
  /-- Monitors of the islands that an event has set (R389). -/
  islands : Sparse (Option DWord) := []
  /-- Islands being throttled, and the GT of the last step (R428). -/
  throttled : Sparse (Option Nat) := []
  /-- Islands that hold their clock, and until which GT (R424). -/
  recalibrating : Sparse Nat := []
  notifications : List (Nat × Nat) := []
  results : List HostResult := []
  deriving DecidableEq, Repr

/-- The entry being performed: its warp, PC, lanes and word. The model's own sub-step state (log entry 3). -/
structure Current where
  wid : Nat := 0
  pc : DWord := 0
  lanes : LaneMask := 0
  word : BitVec 96 := 0
  /-- The entry's place in the reorder buffer, where it is performed in its turn and not at its issue. -/
  place : Option Nat := none
  /-- The access is left in flight. -/
  late : Bool := false
  /-- `Entry.op` of the instruction. -/
  op : Nat := 0
  deriving DecidableEq, Repr

/-- A fetch slot filled at the last issue opportunity (R100). The model's own sub-step state (log entry 3). -/
structure Pick where
  wid : Nat
  pc : DWord
  lanes : LaneMask
  /-- An entry of the reorder buffer whose turn has come. -/
  place : Option Nat := none
  /-- The instruction word fetched for the split, and TGT of its slot, which the entry PC needs (R37). -/
  word : BitVec 96 := 0
  target : Bool := true
  /-- The starvation count of the split when it was chosen (R103). -/
  starve : Nat := 0
  deriving DecidableEq, Repr

/-! ## The whole state -/

/-- The state of the machine. -/
structure State where
  /-- Global time in ns (R387). -/
  gt : Nat := 0
  /-- Contexts, resident or saved, by a number of the model's own. -/
  warps : Sparse Warp := []
  cores : Sparse Core := []
  columns : Sparse Column := []
  dies : Sparse Die := []
  mem : Mem := {}
  tables : Tables := {}
  loft : Loft := {}
  net : Net := {}
  fw : Firmware := {}
  /-- Agenda of dated operations and events (log entry 3). -/
  schedule : List Event := []
  chosen : List Pick := []
  cur : Current := {}
  /-- Which of the coming loads and stores stay in flight, and which entries let a younger one go first (log entry 5). -/
  late : List Bool := []
  /-- Counter of the free values drawn (log entry 5). -/
  freshCount : Nat := 0
  /-- Core to which the default schedule gives the next opportunity (log entry 3). -/
  nextCore : Nat := 0
  /-- Steps taken by the default schedule (log entry 3). -/
  turn : Nat := 0
  deriving DecidableEq, Repr

/-- Why the machine stops. -/
inductive Fault where
  /-- An access to a backing address at or beyond the 768 GB of HBM (R7, R221). Raised by the memory operations; safe:
  the spec gives such an address no content. -/
  | noSuchHbm (addr : Nat)
  deriving DecidableEq, Repr

/-- Why a meaning is refused. -/
inductive Refusal where
  /-- No meaning yet. Raised by the arms of Dispatch only; safe. -/
  | notModelled (mnemonic : String)
  deriving DecidableEq, Repr

/-- Tenant 0 after reset (R349). -/
def Tenant.provider : Tenant :=
  { ptroot := 0, gen := 0, part := 0, defined := true, priocap := 3, budget := 960, lease := 2048,
    sigma := 0xFFFFFFFF, frameq := 1572864, replq := 4096, wdoglim := 100000000, savebnd := 50000 }

/-- Partition 0 after reset: it owns every resource (R349). -/
def Partition.everything : Partition :=
  { quads := BitVec.allOnes 96, cols := BitVec.allOnes 384, chans := BitVec.allOnes 384, engs := BitVec.allOnes 64,
    tenants := 1 }

/-- A measurement register extended by a digest (R420). -/
def extendMeas (m d : BitVec 384) : BitVec 384 := sha384 (leBytes 48 m.toNat ++ leBytes 48 d.toNat)

/-- The digest of a firmware header (R417, R420). -/
def headerDigest (h : BitVec 2048) : BitVec 384 := sha384 (leBytes 256 h.toNat)

/-- The measurement registers after the boot of a bank (R417, R420); `n` extensions of MEAS2 and MEAS3 came before. -/
def bootMeas (b : Bank) (n : Nat) : Sparse (BitVec 384) :=
  [(0, extendMeas 0 (sha384 b.image)), (1, extendMeas 0 (headerDigest b.header)), (2, extendMeas 0 (Config.measureDigest 2 n)),
   (3, extendMeas 0 (Config.measureDigest 3 (n + 1)))]

/-- The image from which the part boots: whole units of 4 KiB, at most 64 MiB (R418). -/
def bootImage : List Byte := (List.range (4096 * (Config.bootUnits % 16385))).map Config.bootByte

/-- The header of the bank from which the part boots, as R418 lays it out. -/
def bootHeader : BitVec 2048 :=
  leWord 2048 (leBytes 4 0x57465844 ++ leBytes 4 Config.bootVersion.toNat ++ leBytes 4 Config.bootSvn.toNat ++
    leBytes 4 (4096 * (Config.bootUnits % 16385)) ++ leBytes 48 (sha384 bootImage).toNat ++ leBytes 96 Config.bootSignature.toNat)

/-- The bank from which the part boots. -/
def Bank.booted : Bank := { header := bootHeader, image := bootImage, valid := true }

/-- The machine right after reset (R349, R417 steps 1 to 8): no warp is resident and nothing is queued. Tenant 0 has
its allotment of period 0 (R276), and the security-version floor is the SVN booted (R418). -/
def State.reset : State :=
  { loft := { partitions := [(0, Partition.everything)], tenants := [(0, Tenant.provider)],
              budgets := [(0, { tokens := 960000, allot := 960 })] },
    fw := { bankA := Bank.booted, svnFloor := Config.bootSvn.toNat, meas := bootMeas Bank.booted 0, extensions := 2,
            notifications := [(0x0B, 0)] } }

end Sys2Proof.Machine
end

