-- ==== Sys2Proof/Machine/Access.lean ====
section
/-! DEFINITION. The accessors of the state: one way to read and one way to write each register, table and lane. -/

namespace Sys2Proof.Machine

/-! ## Tables of the state -/

namespace State

def warp (s : State) (wid : Nat) : Warp := Sparse.get {} s.warps wid
def setWarp (s : State) (wid : Nat) (w : Warp) : State := { s with warps := Sparse.set {} s.warps wid w }
def updWarp (s : State) (wid : Nat) (f : Warp → Warp) : State := s.setWarp wid (f (s.warp wid))
def dropWarp (s : State) (wid : Nat) : State := { s with warps := Sparse.del s.warps wid }

def core (s : State) (c : Nat) : Core := Sparse.get {} s.cores c
def setCore (s : State) (c : Nat) (x : Core) : State := { s with cores := Sparse.set {} s.cores c x }
def updCore (s : State) (c : Nat) (f : Core → Core) : State := s.setCore c (f (s.core c))

def column (s : State) (c : Nat) : Column := Sparse.get {} s.columns c
def setColumn (s : State) (c : Nat) (x : Column) : State := { s with columns := Sparse.set {} s.columns c x }

def die (s : State) (d : Nat) : Die := Sparse.get {} s.dies d
def setDie (s : State) (d : Nat) (x : Die) : State := { s with dies := Sparse.set {} s.dies d x }
def updDie (s : State) (d : Nat) (f : Die → Die) : State := s.setDie d (f (s.die d))

def frame (s : State) (fid : Nat) : Frame := Sparse.get {} s.tables.frames fid
def setFrame (s : State) (fid : Nat) (x : Frame) : State :=
  { s with tables := { s.tables with frames := Sparse.set {} s.tables.frames fid x } }
def updFrame (s : State) (fid : Nat) (f : Frame → Frame) : State := s.setFrame fid (f (s.frame fid))

def tenant (s : State) (t : Nat) : Tenant := Sparse.get {} s.loft.tenants t
def setTenant (s : State) (t : Nat) (x : Tenant) : State :=
  { s with loft := { s.loft with tenants := Sparse.set {} s.loft.tenants t x } }

def partition (s : State) (p : Nat) : Partition := Sparse.get {} s.loft.partitions p
def setPartition (s : State) (p : Nat) (x : Partition) : State :=
  { s with loft := { s.loft with partitions := Sparse.set {} s.loft.partitions p x } }

def grid (s : State) (g : Nat) : Grid := Sparse.get {} s.loft.grids g
def setGrid (s : State) (g : Nat) (x : Grid) : State :=
  { s with loft := { s.loft with grids := Sparse.set {} s.loft.grids g x } }
def updGrid (s : State) (g : Nat) (f : Grid → Grid) : State := s.setGrid g (f (s.grid g))

def pipeline (s : State) (g : Nat) : Pipeline := Sparse.get {} s.loft.pipelines g
def setPipeline (s : State) (g : Nat) (x : Pipeline) : State :=
  { s with loft := { s.loft with pipelines := Sparse.set {} s.loft.pipelines g x } }

def segment (s : State) (t n : Nat) : Segment := Sparse.get {} s.loft.segments (8 * t + n)

def budget (s : State) (t : Nat) : Budget := Sparse.get {} s.loft.budgets t
def setBudget (s : State) (t : Nat) (x : Budget) : State :=
  { s with loft := { s.loft with budgets := Sparse.set {} s.loft.budgets t x } }

def queue (s : State) (q : Nat) : List Nat := Sparse.get [] s.loft.queues q
def setQueue (s : State) (q : Nat) (x : List Nat) : State :=
  { s with loft := { s.loft with queues := Sparse.set [] s.loft.queues q x } }

def linkDir (s : State) (d : Nat) : LinkDir := Sparse.get {} s.net.dirs d
def setLinkDir (s : State) (d : Nat) (x : LinkDir) : State :=
  { s with net := { s.net with dirs := Sparse.set {} s.net.dirs d x } }

/-- Cycles that a core has counted at the present GT (R387). -/
def cyclesNow (s : State) (c : Nat) : Nat :=
  let x := s.core c
  x.cycles + ((s.gt - x.since) * 36 / 10 - x.spent)

/-- Block `b` of grid `g`: the one alive, else one not yet cleared away. -/
def block? (s : State) (g b : Nat) : Option Block :=
  s.loft.blocks.find? (fun x => x.grid == g && x.block == b && x.alive) <|>
  s.loft.blocks.find? (fun x => x.grid == g && x.block == b)
def updBlock (s : State) (g b : Nat) (f : Block → Block) : State :=
  { s with loft := { s.loft with
      blocks := s.loft.blocks.map (fun x => if x.grid == g && x.block == b then f x else x) } }

/-- GT as the 64-bit value that cores read (R387). R387 lets readers of one package differ by up to 2 ns: every reader reads the same here
(log entry 15, DESIGN CHOICE). -/
def gtWord (s : State) : DWord := BitVec.ofNat 64 s.gt

/-- A notification to the host (R410, R428). -/
def notify (s : State) (code arg : Nat) : State :=
  { s with fw := { s.fw with notifications := s.fw.notifications ++ [(code, arg)] } }

/-- A result for the host (R412, R421). -/
def answer (s : State) (r : HostResult) : State := { s with fw := { s.fw with results := s.fw.results ++ [r] } }

/-- Draw the number of a free value (log entry 5). -/
def fresh (s : State) : State := { s with freshCount := s.freshCount + 1 }

end State

/-! ## Units (R8) -/

/-- %die of a global core number. -/
def dieOf (gcore : Nat) : Nat := gcore / 48
/-- %quad within the die. -/
def quadOf (gcore : Nat) : Nat := gcore % 48 / 4
/-- %core within the quad. -/
def coreOf (gcore : Nat) : Nat := gcore % 4
/-- Island of a core (R426). -/
def islandOf (core : Nat) : Nat := 8 * dieOf core + quadOf core / 2
/-- Does the core's island hold its clock (R424)? -/
def clockHeld (s : State) (core : Nat) : Bool := s.gt < Sparse.get 0 s.fw.recalibrating (islandOf core)
/-- The GT from which the clock of a core runs: now, or at the end of a hold of its island (R424). -/
def State.runsFrom (s : State) (core : Nat) : Nat := max s.gt (Sparse.get 0 s.fw.recalibrating (islandOf core))
/-- Number of a quad in QUADS: %die × 12 + %quad (R348). -/
def gquadOf (gcore : Nat) : Nat := gcore / 4
/-- The column of a frame id: silo × 48 + column (R215). -/
def colOfFid (fid : Nat) : Nat := bitsOf fid 20 18 * 48 + bitsOf fid 17 12
/-- The frame within its column. -/
def frameOfFid (fid : Nat) : Nat := bitsOf fid 11 0
/-- Frame id of a frame of a global column (R215). -/
def fidOf (gcol fr : Nat) : Nat := (gcol / 48) * 2 ^ 18 + (gcol % 48) * 2 ^ 12 + fr

/-! ## Registers of a warp -/

namespace Warp

def lane (w : Warp) (l : Nat) : Lane := Sparse.get {} w.lanes l
def setLane (w : Warp) (l : Nat) (x : Lane) : Warp := { w with lanes := Sparse.set {} w.lanes l x }
def updLane (w : Warp) (l : Nat) (f : Lane → Lane) : Warp := w.setLane l (f (w.lane l))

/-- V(l, n) (R77). -/
def getV (w : Warp) (l n : Nat) : Word := Sparse.get 0 w.v (128 * l + n)
def setV (w : Warp) (l n : Nat) (x : Word) : Warp := { w with v := Sparse.set 0 w.v (128 * l + n) x }

/-- K(n) (R77). -/
def getK (w : Warp) (n : Nat) : DWord := Sparse.get 0 w.k n
def setK (w : Warp) (n : Nat) (x : DWord) : Warp := { w with k := Sparse.set 0 w.k n x }

/-- P(l, n): p7 reads true (R46). -/
def getP (w : Warp) (l n : Nat) : Bool := if n == 7 then true else Sparse.get false w.p (8 * l + n)
/-- A write to p7 is discarded (R46). -/
def setP (w : Warp) (l n : Nat) (b : Bool) : Warp :=
  if n == 7 then w else { w with p := Sparse.set false w.p (8 * l + n) b }

def getCv (w : Warp) (n : Nat) : DWord := Sparse.get 0 w.cv n
def setCv (w : Warp) (n : Nat) (x : DWord) : Warp := { w with cv := Sparse.set 0 w.cv n x }
def getOm (w : Warp) (n : Nat) : BitVec 256 := Sparse.get 0 w.om n
def setOm (w : Warp) (n : Nat) (x : BitVec 256) : Warp := { w with om := Sparse.set 0 w.om n x }
def getBd (w : Warp) (n : Nat) : BitVec 128 := Sparse.get 0 w.bd n
def setBd (w : Warp) (n : Nat) (x : BitVec 128) : Warp := { w with bd := Sparse.set 0 w.bd n x }
def getAcc (w : Warp) (n : Nat) : List Word := Sparse.get [] w.acc n
def setAcc (w : Warp) (n : Nat) (t : List Word) : Warp := { w with acc := Sparse.set [] w.acc n t }
def getPf (w : Warp) (n : Nat) : List Word := Sparse.get [] w.pf n
def setPf (w : Warp) (n : Nat) (t : List Word) : Warp := { w with pf := Sparse.set [] w.pf n t }

/-- The running lanes. -/
def running (w : Warp) : LaneMask := LaneMask.ofPred (fun l => (w.lane l).status == .running)

/-- Lanes that have not exited. -/
def live (w : Warp) : LaneMask := LaneMask.ofPred (fun l => (w.lane l).status != .exited)

/-- WINFO (R93). -/
def winfo (w : Warp) : DWord :=
  BitVec.ofNat 64 (w.na * 2 ^ 2 + w.nf * 2 ^ 7 + w.wsel * 2 ^ 10 + ofBool w.ext * 2 ^ 12 + w.prio * 2 ^ 13)

/-- SUPERVISOR is tenant 0's level (R50). -/
def supervisor (w : Warp) : Bool := w.tenant == 0

/-- W (R106). -/
def window (w : Warp) : Nat := 32 * 2 ^ w.wsel

end Warp

/-! ## Program counters (R35, R36) -/

/-- Is the value a PC (R35)? -/
def isPc (x : DWord) : Bool := x.extractLsb' 0 6 ≤ 4

/-- The line of a PC. -/
def lineOf (pc : DWord) : DWord := pc &&& ~~~63#64

/-- The slot of a PC. -/
def slotOf (pc : DWord) : Nat := (pc.extractLsb' 0 6).toNat

/-- The slot that follows (R36). -/
def nextPc (pc : DWord) : DWord := if slotOf pc < 4 then pc + 1 else lineOf pc + 64

/-! ## Fields of a launch record (R262, R263) -/

/-- Bits `[hi:lo]` of the 64-bit word at byte `at8` of a record. -/
def recBits (r : BitVec 2048) (at8 hi lo : Nat) : Nat := bitsOf r.toNat (8 * at8 + hi) (8 * at8 + lo)

namespace Rec

def entry (r : BitVec 2048) : DWord := r.extractLsb' 0 64
def nblkx (r : BitVec 2048) : Nat := recBits r 8 15 0
def nblky (r : BitVec 2048) : Nat := recBits r 8 31 16
def nblkz (r : BitVec 2048) : Nat := recBits r 8 47 32
def podtag (r : BitVec 2048) : Nat := recBits r 8 63 48
def scratch (r : BitVec 2048) : Nat := recBits r 16 23 0
def warps (r : BitVec 2048) : Nat := recBits r 16 28 24
def g (r : BitVec 2048) : Nat := recBits r 16 31 29
def wsel (r : BitVec 2048) : Nat := recBits r 16 33 32
def extFlag (r : BitVec 2048) : Bool := recBits r 16 34 34 == 1
def a (r : BitVec 2048) : Nat := recBits r 16 39 35
def f (r : BitVec 2048) : Nat := recBits r 16 42 40
def prio (r : BitVec 2048) : Nat := recBits r 24 1 0
def coresident (r : BitVec 2048) : Bool := recBits r 24 2 2 == 1
/-- POLICY is TRAP. -/
def policyTrap (r : BitVec 2048) : Bool := recBits r 24 5 5 == 1
def relaunch (r : BitVec 2048) : Nat := recBits r 24 13 6
def pipe (r : BitVec 2048) : Bool := recBits r 24 14 14 == 1
def stage (r : BitVec 2048) : Nat := recBits r 24 17 15
def barcore (r : BitVec 2048) : Nat := recBits r 24 22 18
def barquad (r : BitVec 2048) : Nat := recBits r 24 25 23
def bardie (r : BitVec 2048) : Nat := recBits r 24 29 26
def barpkg (r : BitVec 2048) : Nat := recBits r 24 34 30
def barpod (r : BitVec 2048) : Nat := recBits r 24 37 35
def tclass (r : BitVec 2048) : Nat := recBits r 24 39 38
def tenant (r : BitVec 2048) : Nat := recBits r 24 43 40
def xgen (r : BitVec 2048) : Nat := recBits r 24 59 44
def genchk (r : BitVec 2048) : Bool := recBits r 24 60 60 == 1
def kind (r : BitVec 2048) : Nat := recBits r 24 63 62
/-- PARAM slot `n`, loaded into k`n` (R83). -/
def param (r : BitVec 2048) (n : Nat) : DWord := r.extractLsb' (8 * (128 + 8 * n)) 64
/-- Blocks of the grid (R12). -/
def blocks (r : BitVec 2048) : Nat := nblkx r * nblky r * nblkz r
/-- Gangs of the grid (R12). -/
def gangs (r : BitVec 2048) : Nat := blocks r / g r
/-- Scratch units of 4 KiB of a block (R207). -/
def units (r : BitVec 2048) : Nat := (scratch r + 4095) / 4096

end Rec

end Sys2Proof.Machine
end

