-- ==== Sys2Proof/Machine/Encoding.lean ====
section
/-! DEFINITION. The encoding tables of spec/ (R42 to R53, R121, R136, R162, R186, R223, R284, R312, R339, R378, R384,
R388, R390): for each instruction its opcode, format and level, the class each operand field accepts, the modifier
and immediate bits it assigns, and the modifier values that are legal. -/

namespace Sys2Proof

/-- The five formats of R42. -/
inductive Format where
  | a | m | b | x | s
  deriving DecidableEq, Repr

/-- The lowest privilege at which an opcode decodes (R50). -/
inductive Level where
  | user
  | supervisor
  /-- By the register number (R52). -/
  | byRegister
  deriving DecidableEq, Repr

/-- What an operand field accepts. A 32-bit source or destination of R118 is `w32`; `i` adds the immediate code
of SB; `q128` is a v group of four, an even k pair or 0xFE; `v128` has no k form (R160); `base` is the SA of format M. -/
inductive FieldClass where
  | unused
  | w32 | w32i | w64 | w64i | q128 | v128
  | vOnly | vPair | vOrZero | vPairOrZero
  | immOnly | kOnly | kOrImm | kOrNone | kOrZero | kByFour
  | special
  | p | pOrZero | pOrNone | pzOrNone
  | acc | pf | accOrPf | cv
  | base
  | map | map2
  deriving DecidableEq, Repr

namespace FieldClass

/-- Is the code of this operand accepted in a field of this class (R45, R46)? -/
def accepts : FieldClass → Opnd → Bool
  | unused, .none => true
  | w32, .v _ => true | w32, .k _ => true | w32, .zero => true
  | w32i, .v _ => true | w32i, .k _ => true | w32i, .zero => true | w32i, .imm => true
  | w64, .v _ => true | w64, .k _ => true | w64, .zero => true
  | w64i, .v _ => true | w64i, .k _ => true | w64i, .zero => true | w64i, .imm => true
  | q128, .v _ => true | q128, .k _ => true | q128, .zero => true
  | v128, .v _ => true | v128, .zero => true
  | vOnly, .v _ => true
  | vPair, .v _ => true
  | vOrZero, .v _ => true | vOrZero, .zero => true
  | vPairOrZero, .v _ => true | vPairOrZero, .zero => true
  | immOnly, .imm => true
  | kOnly, .k _ => true
  | kOrImm, .k _ => true | kOrImm, .imm => true
  | kOrNone, .k _ => true | kOrNone, .none => true
  | kOrZero, .k _ => true | kOrZero, .zero => true
  | kByFour, .k _ => true
  | special, .special _ => true
  | p, .p _ => true
  | pOrZero, .p _ => true | pOrZero, .zero => true
  | pOrNone, .p _ => true | pOrNone, .none => true
  | pzOrNone, .p _ => true | pzOrNone, .zero => true | pzOrNone, .none => true
  | acc, .acc _ => true
  | pf, .pf _ => true
  | accOrPf, .acc _ => true | accOrPf, .pf _ => true
  | cv, .cv _ => true
  | base, .v _ => true | base, .k _ => true | base, .zero => true
  | map, .maps _ b => b.val == 0
  | map2, .maps _ _ => true
  | _, _ => false

/-- How many consecutive v registers a v code in this field names (R48). -/
def vGroup : FieldClass → Nat
  | w64 | w64i | vPair | vPairOrZero | base => 2
  | q128 | v128 => 4
  | _ => 1

/-- How many consecutive k registers a k code in this field names (R48, R187). -/
def kGroup : FieldClass → Nat
  | q128 => 2
  | kByFour => 4
  | _ => 1

/-- Is the code aligned to its group (R48, R42, R186)? -/
def aligned (c : FieldClass) : Opnd → Bool
  | .v n => n.val % c.vGroup == 0
  | .k n => n.val % c.kGroup == 0
  | _ => true

/-- Does the field touch v64 to v127 (R48)? Aligned groups never pass v127 or k31. -/
def extended (c : FieldClass) : Opnd → Bool
  | .v n => n.val + c.vGroup > 64
  | _ => false

end FieldClass

/-- The classes of the four operand fields of one instruction. -/
structure Signature where
  dst : FieldClass := .unused
  sa : FieldClass := .unused
  sb : FieldClass := .unused
  sc : FieldClass := .unused
  deriving DecidableEq, Repr

namespace Fields

/-- MOD[2:0], the size of R43. -/
def size (f : Fields) : Nat := (f.mod.extractLsb' 0 3).toNat
/-- MOD[4:3], the ordering of R43. -/
def ordering (f : Fields) : Nat := (f.mod.extractLsb' 3 2).toNat
/-- AUX[2:0], the scope of R43, and the compare code of R129 and R165. -/
def scope (f : Fields) : Nat := (f.aux.extractLsb' 0 3).toNat
/-- MOD[5]: `.U` in class 0, and the second form of several memory instructions. -/
def mod5 (f : Fields) : Bool := f.mod.getLsbD 5
/-- MOD[6]: `.SAT` in class 0, `.BND` of ST, the release half of ATOM and ACAS. -/
def mod6 (f : Fields) : Bool := f.mod.getLsbD 6
/-- MOD[0]. -/
def mod0 (f : Fields) : Bool := f.mod.getLsbD 0
/-- AUX[4:3], the combine code of R129. -/
def combine (f : Fields) : Nat := (f.aux.extractLsb' 3 2).toNat
/-- AUX[7:4], the operation of R233, the tenant of TCRCL, the bound register of ST.BND. -/
def auxHigh (f : Fields) : Nat := (f.aux.extractLsb' 4 4).toNat
/-- IMM32[15:0], the system register number of format S. -/
def regNumber (f : Fields) : Nat := (f.imm.extractLsb' 0 16).toNat
/-- IMM32[2:0], the target slot of format B. -/
def targetSlot (f : Fields) : Nat := (f.imm.extractLsb' 0 3).toNat
/-- XSPEC[4:0]: a k register named by SACC and DRAINA (R186). -/
def xspecK (f : Fields) : Nat := (f.imm.extractLsb' 10 5).toNat

end Fields

/-- The row of the encoding tables for one instruction. -/
structure Row where
  opc : BitVec 10
  format : Format := .a
  level : Level := .user
  sig : Signature := {}
  /-- Bits of MOD, AUX and IMM32 that the row assigns (R44). -/
  modMask : BitVec 7 := 0
  auxMask : BitVec 8 := 0
  immMask : BitVec 32 := 0
  /-- The values of the assigned bits are legal. -/
  legal : Bool := true
  deriving DecidableEq, Repr

/-- MOD[2:0] names a size of the list. -/
def Fields.sizeIn (f : Fields) (l : List Nat) : Bool := l.contains f.size

/-- The class of a value of the size in MOD[2:0] (R222). -/
def valueClass (f : Fields) : FieldClass :=
  if f.size == 3 then .w64 else if f.size == 4 then .q128 else .w32

/-- The class of a v value of the size in MOD[2:0], without a k form (R223: LDFE, STFE). -/
def vValueClass (f : Fields) : FieldClass :=
  if f.size == 3 then .vPairOrZero else if f.size == 4 then .v128 else .vOrZero

/-- The combine source of R129: unused without a combine code. -/
def combineClass (f : Fields) : FieldClass := if f.combine == 0 then .unused else .p

/-- A three-operand row of 32-bit operands. -/
def row3 (opc : BitVec 10) (sc : FieldClass := .unused) (modMask : BitVec 7 := 0) (auxMask : BitVec 8 := 0) : Row :=
  { opc, sig := { dst := .w32, sa := .w32, sb := .w32i, sc }, modMask, auxMask }

/-- A two-operand row of 32-bit operands. -/
def row2 (opc : BitVec 10) (modMask : BitVec 7 := 0) : Row :=
  { opc, sig := { dst := .w32, sa := .w32 }, modMask }

/-- A row of format M whose modifier fields are all zero. -/
def rowM (opc : BitVec 10) (dst sb : FieldClass := .unused) (sa : FieldClass := .base) : Row :=
  { opc, format := .m, sig := { dst, sa, sb }, immMask := BitVec.allOnes 32 }

/-- A row of format A with no operand and no modifier. -/
def row0 (opc : BitVec 10) (level : Level := .user) : Row := { opc, level }

/-- The system registers of R52 that exist, with "SYSWR writes it" (R93, R213, R318, R352, R389, R400, R401). -/
def sysRegWritable (n : Nat) : Option Bool :=
  if n ≤ 8 then some (!(n == 2 || n == 3 || n == 7))
  else if n == 0x120 then some true
  else if n == 0x200 then some true
  else if n == 0x201 || n == 0x202 then some false
  else if n == 0x300 then some true
  else if n == 0x301 then some false
  else if n == 0x302 || n == 0x303 then some true
  else if 0x310 ≤ n && n ≤ 0x319 then some false
  else if 0x340 ≤ n && n ≤ 0x37F then some false
  else if 0x380 ≤ n && n ≤ 0x387 then some false
  else if n == 0x3C0 then some false
  else if n == 0x400 || n == 0x401 then some true
  else if 0x500 ≤ n && n ≤ 0x504 then some false
  else if 0x505 ≤ n && n ≤ 0x507 then some true
  else if 0x520 ≤ n && n ≤ 0x522 then some true
  else if n == 0x523 then some false
  else if 0x540 ≤ n && n ≤ 0x57F then some false
  else none

/-- The registers that R52 lets USER read. -/
def sysRegUserReadable (n : Nat) : Bool := n ≤ 0xFF || (0x500 ≤ n && n ≤ 0x5FF)

/-- The registers that R52 lets USER write: the warp context. -/
def sysRegUserWritable (n : Nat) : Bool := n ≤ 0xFF

/-- Legal modifiers of ATOM and RED beside size and scope (R223, R233). -/
def atomLegal (f : Fields) (red : Bool) : Bool :=
  f.sizeIn [2, 3] && f.auxHigh ≤ 7 && !(red && f.auxHigh == 6)
    && (!f.mod5 || f.auxHigh == 4 || f.auxHigh == 5) && !(f.auxHigh == 7 && f.size == 3)
    && f.ordering ≤ 2 && f.scope ≤ 5

namespace Instr

/-- The row of an instruction, its classes and bits settled by its own modifiers; `none` for an event. -/
def row : Instr → Option Row
  -- class 0 (R121)
  | nop _ => some (row0 0x000)
  | mov f => some {
      opc := 0x001, modMask := 7, legal := f.sizeIn [2, 3, 4],
      sig := { dst := valueClass f, sa := valueClass f } }
  | movi _ => some { opc := 0x002, sig := { dst := .w32, sb := .immOnly } }
  | movk _ => some { opc := 0x003, sig := { dst := .w64, sa := .kOnly } }
  | movs _ => some { opc := 0x004, sig := { dst := .w32, sa := .special } }
  | sel f => some {
      opc := 0x005, modMask := 7, legal := f.sizeIn [2, 3],
      sig := if f.size == 3 then { dst := .w64, sa := .w64, sb := .w64i, sc := .p }
        else { dst := .w32, sa := .w32, sb := .w32i, sc := .p } }
  | iadd _ => some (row3 0x010 (modMask := 0x60))
  | isub _ => some (row3 0x011 (modMask := 0x60))
  | iaddc _ => some (row3 0x012 .pOrZero (auxMask := 0x0F))
  | imul _ => some (row3 0x013)
  | imulh _ => some (row3 0x014 (modMask := 0x20))
  | imad _ => some (row3 0x015 .w32)
  | imal _ => some { opc := 0x016, modMask := 0x20, sig := { dst := .w64, sa := .w32, sb := .w32i, sc := .w64 } }
  | idiv _ => some (row3 0x017 (modMask := 0x20))
  | irem _ => some (row3 0x018 (modMask := 0x20))
  | imin _ => some (row3 0x019 (modMask := 0x20))
  | imax _ => some (row3 0x01A (modMask := 0x20))
  | iabs _ => some (row2 0x01B 0x40)
  | ineg _ => some (row2 0x01C 0x40)
  | iadd64 _ => some { opc := 0x01D, sig := { dst := .w64, sa := .w64, sb := .w64i } }
  | isub64 _ => some { opc := 0x01E, sig := { dst := .w64, sa := .w64, sb := .w64i } }
  | lea _ => some { opc := 0x01F, modMask := 0x20, auxMask := 0x0F, sig := { dst := .w64, sa := .w64, sb := .w32i } }
  | and _ => some (row3 0x020)
  | or _ => some (row3 0x021)
  | xor _ => some (row3 0x022)
  | andn _ => some (row3 0x023)
  | not _ => some (row2 0x024)
  | shl _ => some (row3 0x025)
  | shr _ => some (row3 0x026)
  | sha _ => some (row3 0x027)
  | rotl _ => some (row3 0x028)
  | fshf _ => some (row3 0x029 .w32 (modMask := 1))
  | bfe _ => some (row3 0x02A (modMask := 0x20))
  | bfi _ => some (row3 0x02B .w32)
  | popc _ => some (row2 0x02C)
  | clz _ => some (row2 0x02D)
  | ctz _ => some (row2 0x02E)
  | brev _ => some (row2 0x02F)
  | bmix _ => some (row3 0x030 .w32)
  | icmp f => some {
      opc := 0x031, modMask := 0x20, auxMask := 0x1F, legal := f.scope ≤ 5,
      sig := { dst := .pOrZero, sa := .w32, sb := .w32i, sc := combineClass f } }
  | icmp64 f => some {
      opc := 0x032, modMask := 0x20, auxMask := 0x1F, legal := f.scope ≤ 5,
      sig := { dst := .pOrZero, sa := .w64, sb := .w64i, sc := combineClass f } }
  | ptab _ => some { opc := 0x033, immMask := 0xFF, sig := { dst := .pOrZero, sa := .p, sb := .p, sc := .p } }
  | pmovGet f => some { opc := 0x034, modMask := 1, legal := !f.mod0, sig := { dst := .w32 } }
  | pmovSet f => some { opc := 0x034, modMask := 1, immMask := 0x7F, legal := f.mod0, sig := { sa := .w32 } }
  | lpoll f => some {
      opc := 0x038, modMask := 1, auxMask := 3,
      sig := { dst := if f.aux.extractLsb' 0 2 == 3 then .w32 else .pOrZero, sa := .p } }
  | lxch f => some {
      opc := 0x039, auxMask := 0x1F, legal := f.aux.extractLsb' 2 3 ≤ 4,
      sig := { dst := .vOnly, sa := .vOnly, sb := .w32i, sc := .pzOrNone } }
  | lfold f => some {
      opc := 0x03A, modMask := 0x21, auxMask := 7,
      legal := f.scope ≤ 5 && (!f.mod5 || f.scope == 1 || f.scope == 2),
      sig := { dst := if f.mod0 then .vOrZero else .w32, sa := .vOnly } }
  | lgrp f => some {
      opc := 0x03B, modMask := 7, auxMask := 1, legal := f.sizeIn [2, 3],
      sig := { dst := .w32, sa := if f.size == 3 then .vPair else .vOnly } }
  -- class 1 (R162)
  | fadd _ => some (row3 0x080 (modMask := 3) (auxMask := 1))
  | fsub _ => some (row3 0x081 (modMask := 3) (auxMask := 1))
  | fmul _ => some (row3 0x082 (modMask := 3) (auxMask := 1))
  | ffma _ => some (row3 0x083 .w32 (modMask := 3) (auxMask := 3))
  | fmin _ => some (row3 0x084)
  | fmax _ => some (row3 0x085)
  | fcmp f => some {
      opc := 0x086, auxMask := 0x3F,
      sig := if f.aux.getLsbD 5 then { dst := .pOrZero, sa := .w64, sb := .w64, sc := combineClass f }
        else { dst := .pOrZero, sa := .w32, sb := .w32i, sc := combineClass f } }
  | fclass f => some {
      opc := 0x087, auxMask := 0x20, immMask := 0x3FF,
      sig := { dst := .pOrZero, sa := if f.aux.getLsbD 5 then .w64 else .w32 } }
  | fdiv _ => some (row3 0x088 (modMask := 3))
  | fsqrt _ => some (row2 0x089 3)
  | frcp _ => some (row2 0x08A)
  | frsq _ => some (row2 0x08B)
  | fex2 _ => some (row2 0x08C)
  | flg2 _ => some (row2 0x08D)
  | fsin _ => some (row2 0x08E)
  | fcos _ => some (row2 0x08F)
  | ftanh _ => some (row2 0x090)
  | fsgm _ => some (row2 0x091)
  | hadd2 _ => some (row3 0x0A0 (modMask := 3) (auxMask := 1))
  | hmul2 _ => some (row3 0x0A1 (modMask := 3) (auxMask := 1))
  | hfma2 _ => some (row3 0x0A2 .w32 (modMask := 3) (auxMask := 3))
  | badd2 _ => some (row3 0x0A3 (modMask := 3) (auxMask := 1))
  | bmul2 _ => some (row3 0x0A4 (modMask := 3) (auxMask := 1))
  | bfma2 _ => some (row3 0x0A5 .w32 (modMask := 3) (auxMask := 3))
  | dadd _ => some { opc := 0x0B0, modMask := 3, auxMask := 1, sig := { dst := .w64, sa := .w64, sb := .w64 } }
  | dmul _ => some { opc := 0x0B1, modMask := 3, auxMask := 1, sig := { dst := .w64, sa := .w64, sb := .w64 } }
  | dfma _ => some {
      opc := 0x0B2, modMask := 3, auxMask := 3,
      sig := { dst := .w64, sa := .w64, sb := .w64, sc := .w64 } }
  | cvt f => some {
      opc := 0x0C0, auxMask := 0x1F,
      legal := f.aux.extractLsb' 0 2 != f.aux.extractLsb' 2 2 && (!f.aux.getLsbD 4 || f.aux.getLsbD 1),
      sig := { dst := if f.aux.extractLsb' 2 2 == 1 then .w64 else .w32,
               sa := if f.aux.extractLsb' 0 2 == 1 then .w64 else .w32 } }
  | f2i f => some {
      opc := 0x0C1, modMask := 3, auxMask := 7,
      sig := { dst := if f.aux.getLsbD 1 then .w64 else .w32, sa := if f.aux.getLsbD 0 then .w64 else .w32 } }
  | i2f f => some {
      opc := 0x0C2, modMask := 3, auxMask := 7,
      sig := { dst := if f.aux.getLsbD 0 then .w64 else .w32, sa := if f.aux.getLsbD 1 then .w64 else .w32 } }
  | pack8 _ => some { opc := 0x0C3, auxMask := 1, sig := { dst := .w32, sa := .v128 } }
  | unpk8 f => some {
      opc := 0x0C4, auxMask := 7, legal := f.aux.getLsbD 2 || f.aux.extractLsb' 0 2 == 0,
      sig := { dst := if f.aux.getLsbD 2 then .w32 else .v128, sa := .w32 } }
  | tos24 _ => some (row2 0x0C5)
  | froms24 _ => some (row2 0x0C6)
  | pack16 _ => some (row3 0x0C7 (auxMask := 1))
  | packi8 _ => some { opc := 0x0C8, auxMask := 1, sig := { dst := .w32, sa := .v128 } }
  -- class 2 (R186)
  | omset _ => some { opc := 0x100, format := .x, sig := { sa := .map, sb := .kByFour } }
  | omld _ => some { opc := 0x101, format := .x, sig := { sa := .map, sb := .kOnly } }
  | gidx _ => some { opc := 0x102, format := .x, sig := { sa := .map, sb := .vOrZero } }
  | cvdecl _ => some { opc := 0x103, format := .x, sig := { dst := .cv, sb := .kOrNone } }
  | cvsign _ => some { opc := 0x104, format := .x, sig := { dst := .cv } }
  | mma8 _ => some { opc := 0x108, format := .x, sig := { dst := .pf, sa := .map2, sc := .cv } }
  | mmah _ => some { opc := 0x109, format := .x, sig := { dst := .pf, sa := .map2, sc := .cv } }
  | mmab _ => some { opc := 0x10A, format := .x, sig := { dst := .pf, sa := .map2, sc := .cv } }
  | mmai _ => some { opc := 0x10B, format := .x, sig := { dst := .pf, sa := .map2, sc := .cv } }
  | sacc _ => some { opc := 0x110, format := .x, immMask := 0x7C00, sig := { dst := .acc, sa := .map, sb := .pf, sc := .cv } }
  | iacc _ => some { opc := 0x111, format := .x, sig := { dst := .acc, sb := .pf, sc := .cv } }
  | accz _ => some { opc := 0x112, format := .x, sig := { dst := .acc, sc := .cv } }
  | accld _ => some { opc := 0x113, format := .x, sig := { dst := .acc, sa := .map, sc := .cv } }
  | accst _ => some { opc := 0x114, format := .x, sig := { sa := .map, sb := .accOrPf, sc := .cv } }
  | accmov _ => some { opc := 0x115, format := .x, sig := { dst := .acc, sb := .accOrPf, sc := .cv } }
  | drain _ => some { opc := 0x118, format := .x, immMask := 0x1F, sig := { sa := .map, sb := .accOrPf, sc := .cv } }
  | draina f => some {
      opc := 0x119, format := .x, modMask := 1, immMask := if f.mod0 then 0x7C1F else 0x1F,
      sig := { sa := .map, sb := .accOrPf, sc := .cv } }
  -- class 3 (R223)
  | ld f => some { rowM 0x180 with
      sig := { dst := valueClass f, sa := .base }, modMask := 0x3F, auxMask := 7,
      legal := f.size ≤ 4 && f.ordering ≤ 2 && f.scope ≤ 5 && (!f.mod5 || f.size ≤ 1) }
  | st f => some { rowM 0x181 with
      sig := { sa := .base, sb := valueClass f }, modMask := 0x5F,
      auxMask := if f.mod6 then 0xF7 else 7,
      legal := f.size ≤ 4 && f.ordering ≤ 2 && f.scope ≤ 5 && (!f.mod6 || f.size == 2) }
  | ldfe f => some { rowM 0x182 with
      sig := { dst := vValueClass f, sa := .base }, modMask := 0x27,
      legal := f.sizeIn [2, 3, 4] }
  | stfe f => some { rowM 0x183 with
      sig := { sa := .base, sb := vValueClass f }, modMask := 7,
      legal := f.sizeIn [2, 3, 4] }
  | feclr _ => some (rowM 0x184 (sb := .w32))
  | atom f => some { rowM 0x188 with
      sig := { dst := valueClass f, sa := .base, sb := valueClass f }, modMask := 0x7F,
      auxMask := 0xF7, legal := atomLegal f false && (!f.mod6 || f.ordering == 1) }
  | acas f => some {
      rowM 0x189 with
      sig := { dst := valueClass f, sa := .base, sb := valueClass f, sc := valueClass f }, modMask := 0x5F, auxMask := 7,
      legal := f.sizeIn [2, 3, 4] && f.ordering ≤ 2 && f.scope ≤ 5 && (!f.mod6 || f.ordering == 1) }
  | red f => some { rowM 0x18A with
      sig := { sa := .base, sb := valueClass f }, modMask := 0x3F, auxMask := 0xF7,
      legal := atomLegal f true }
  | fence f => some { opc := 0x190, format := .m, auxMask := 7, legal := f.scope ≤ 5 }
  | pref _ => some (rowM 0x191)
  -- class 4 (R136)
  | bra f => some { opc := 0x200, format := .b, immMask := BitVec.allOnes 32, legal := f.targetSlot ≤ 4 }
  | brx _ => some { opc := 0x201, sig := { sa := .w64 } }
  | call f => some { opc := 0x202, format := .b, immMask := BitVec.allOnes 32, legal := f.targetSlot ≤ 4 }
  | callx _ => some { opc := 0x203, sig := { sa := .w64 } }
  | ret _ => some (row0 0x204)
  | exit _ => some (row0 0x205)
  | wsync _ => some { opc := 0x206, sig := { sb := .kOrImm } }
  | yield _ => some (row0 0x207)
  | sleep _ => some { opc := 0x208, sig := { sb := .kOrImm } }
  | rgacq _ => some (row0 0x209)
  | rgrel _ => some (row0 0x20A)
  | role f => some {
      opc := 0x20B, sig := { sa := if f.imm.getLsbD 5 then .kOnly else .unused, sb := .immOnly },
      legal := f.imm.extractLsb' 6 26 == 0 && f.imm.extractLsb' 3 2 != 3 }
  | brk _ => some (row0 0x20C)
  | trap _ => some { opc := 0x20D, immMask := 0xFFFF }
  -- class 5 (R284)
  | kick f => some { rowM 0x280 (sb := .w32) with modMask := 0x20, legal := !f.mod5 }
  | kickDie f => some { rowM 0x280 (sb := .w32) with modMask := 0x20, auxMask := 0x38, legal := f.mod5 }
  | wainst _ => some { opc := 0x281, modMask := 1, sig := { dst := .w64 } }
  | qpush _ => some (rowM 0x288 (dst := .pOrZero) (sb := .kOrZero))
  | qpop _ => some (rowM 0x289 (dst := .pOrZero) (sb := .kOrZero))
  | qpeek _ => some (rowM 0x28A (dst := .pOrZero) (sb := .kOrZero))
  -- the implicit handle is read too: it traps QUEUE_FAULT (R295, log entry 93)
  | qclose _ => some { opc := 0x28B, format := .m, sig := { sb := .kOrZero } }
  | lnch _ => some (rowM 0x290 (dst := .w64))
  | shadow _ => some { rowM 0x298 (sa := .kOrZero) (sb := .kOnly) with modMask := 0x20 }
  | publish f => some { rowM 0x299 (sa := .kOrZero) (sb := .kOnly) with auxMask := 7, legal := f.scope ≤ 5 }
  -- class 6 (R339, R378, R384, R388, R390)
  | bara f => some {
      opc := 0x300, auxMask := 7, legal := 1 ≤ f.scope && f.scope ≤ 5,
      sig := { dst := .w32, sb := .kOrImm } }
  | barw f => some {
      opc := 0x301, auxMask := 7, legal := 1 ≤ f.scope && f.scope ≤ 5,
      sig := { sa := .w32, sb := .kOrImm } }
  | bars f => some { opc := 0x302, auxMask := 7, legal := 1 ≤ f.scope && f.scope ≤ 5, sig := { sb := .kOrImm } }
  | barq f => some {
      opc := 0x303, auxMask := 7, legal := 1 ≤ f.scope && f.scope ≤ 5,
      sig := { dst := .q128, sb := .kOrImm } }
  | bcinit _ => some (rowM 0x308 (sb := .w32))
  | bcadd _ => some (rowM 0x309 (sb := .w32))
  | bcwait _ => some (rowM 0x30A)
  | cntrd f => some {
      opc := 0x310, format := .s, level := .byRegister, immMask := 0xFFFF, sig := { dst := .w64 },
      legal := 0x500 ≤ f.regNumber && f.regNumber ≤ 0x5FF && (sysRegWritable f.regNumber).isSome }
  | gtrd _ => some { opc := 0x311, sig := { dst := .w64 } }
  | tcinv _ => some (rowM 0x318 (sa := .kOrZero) (sb := .kOnly))
  | tcrcl _ => some { rowM 0x319 (sa := .kOrZero) (sb := .kOnly) with level := .supervisor, auxMask := 0xF0 }
  | place f => some { rowM 0x31A (dst := .pOrZero) with
      modMask := 0x60,
      sig := { dst := .pOrZero, sa := .base,
               sb := if f.mod.extractLsb' 5 2 == 2 then .w32 else .unused } }
  | repl _ => some (rowM 0x31B (dst := .pOrZero))
  | probe f => some { rowM 0x31C (dst := .q128) with modMask := 0x20, legal := !f.mod5 }
  | probeF f => some {
      opc := 0x31C, format := .m, modMask := 0x20,
      legal := f.mod5 && decide (f.sa = .zero) && decide (f.sb ≠ .zero),
      sig := { dst := .q128, sa := .base, sb := .w32 } }
  -- class 7 (R312)
  | sysrd f => some {
      opc := 0x380, format := .s, level := .byRegister, immMask := 0xFFFF, sig := { dst := .w64 },
      legal := (sysRegWritable f.regNumber).isSome }
  | syswr f => some {
      opc := 0x381, format := .s, level := .byRegister, immMask := 0xFFFF, sig := { sa := .w64 },
      legal := sysRegWritable f.regNumber == some true }
  | eret _ => some { opc := 0x382, modMask := 1 }
  | trqpop _ => some { opc := 0x383, sig := { dst := .pOrZero, sa := .w64 } }
  | bndset _ => some { opc := 0x384, auxMask := 0x0F, sig := { sa := .q128 } }
  | bndrd _ => some { opc := 0x385, auxMask := 0x0F, sig := { dst := .q128 } }
  | diagst f => some {
      opc := 0x386, level := .supervisor, auxMask := 3, legal := f.aux.extractLsb' 0 2 != 3,
      sig := { sa := .w64, sb := .w64 } }
  | diagld f => some {
      opc := 0x387, level := .supervisor, auxMask := 3, legal := f.aux.extractLsb' 0 2 ≤ 1,
      sig := { dst := .w64, sa := .w64 } }
  | wdog _ => some { opc := 0x388, level := .supervisor, modMask := 1, sig := { dst := .w64, sa := .w32, sb := .w32i } }
  | halt _ => some { opc := 0x389, level := .supervisor, sig := { sa := .w32 } }
  | idle _ => some (row0 0x38A)
  | _ => none

end Instr

end Sys2Proof
end

