-- ==== Sys2Proof/WellFormed.lean ====
section
/-! DEFINITION. Which instructions a word can hold: every check of R53 order 3 (ILLOP) that the word alone decides.
Alignment of register groups is not one of them: such a word decodes and traps REGALIGN (R53 order 5). -/

namespace Sys2Proof

/-- Why a word is no instruction. Every one of these is ILLOP (R53). -/
inductive Reject where
  /-- An opcode that R50 does not assign (R51). -/
  | unassignedOpcode
  /-- GRD = 0b1111 (R40). -/
  | guard
  /-- A code outside every class of R45. -/
  | operandCode
  /-- A code of a class that its field does not accept, or a code in an unused field (R45, R46, R44). -/
  | operandClass
  /-- A nonzero bit of MOD, AUX or IMM32 that nothing assigns (R44). -/
  | unassignedBit
  /-- An illegal value of a modifier, a slot of 5 to 7, or a system register number that no register occupies
  (R43, R42, R52). -/
  | modifier
  /-- Fewer than the twelve bytes of an instruction (R30). -/
  | truncated
  deriving DecidableEq, Repr

/-- The bits of IMM32 that are assigned: all of them when SB is the immediate (R42). -/
def Row.immBits (r : Row) (f : Fields) : BitVec 32 := if f.sb = .imm then BitVec.allOnes 32 else r.immMask

/-- GRD is not 0b1111 (R40). -/
def Fields.guardOk (f : Fields) : Bool := !(f.neg && f.pred == 7)

/-- Every operand field holds a code of a class its row accepts (R45). -/
def Row.operandsOk (r : Row) (f : Fields) : Bool :=
  r.sig.dst.accepts f.dst && r.sig.sa.accepts f.sa && r.sig.sb.accepts f.sb && r.sig.sc.accepts f.sc

/-- No bit is set that the row does not assign (R44). -/
def Row.bitsOk (r : Row) (f : Fields) : Bool :=
  f.mod &&& ~~~r.modMask == 0 && f.aux &&& ~~~r.auxMask == 0 && f.imm &&& ~~~r.immBits f == 0

namespace Instr

/-- The fields of an instruction; none for an event. -/
def fields : Instr → Option Fields
  | nop f | mov f | movi f | movk f | movs f | sel f | iadd f | isub f | iaddc f | imul f | imulh f | imad f | imal f
  | idiv f | irem f | imin f | imax f | iabs f | ineg f | iadd64 f | isub64 f | lea f | and f | or f | xor f | andn f
  | not f | shl f | shr f | sha f | rotl f | fshf f | bfe f | bfi f | popc f | clz f | ctz f | brev f | bmix f
  | icmp f | icmp64 f | ptab f | pmovGet f | pmovSet f | lpoll f | lxch f | lfold f | lgrp f | fadd f | fsub f
  | fmul f | ffma f | fmin f | fmax f | fcmp f | fclass f | fdiv f | fsqrt f | frcp f | frsq f | fex2 f | flg2 f
  | fsin f | fcos f | ftanh f | fsgm f | hadd2 f | hmul2 f | hfma2 f | badd2 f | bmul2 f | bfma2 f | dadd f | dmul f
  | dfma f | cvt f | f2i f | i2f f | pack8 f | unpk8 f | tos24 f | froms24 f | pack16 f | packi8 f | omset f | omld f
  | gidx f | cvdecl f | cvsign f | mma8 f | mmah f | mmab f | mmai f | sacc f | iacc f | accz f | accld f | accst f
  | accmov f | drain f | draina f | ld f | st f | ldfe f | stfe f | feclr f | atom f | acas f | red f | fence f
  | pref f | bra f | brx f | call f | callx f | ret f | exit f | wsync f | yield f | sleep f | rgacq f | rgrel f
  | role f | brk f | trap f | kick f | kickDie f | wainst f | qpush f | qpop f | qpeek f | qclose f | lnch f
  | shadow f | publish f | bara f | barw f | bars f | barq f | bcinit f | bcadd f | bcwait f | cntrd f | gtrd f
  | tcinv f | tcrcl f | place f | repl f | probe f | probeF f | sysrd f | syswr f | eret f | trqpop f | bndset f
  | bndrd f | diagst f | diagld f | wdog f | halt f | idle f => some f
  | _ => none

/-- The first check an instruction fails, if any. -/
def reject (i : Instr) : Option Reject :=
  match i.row, i.fields with
  | some r, some f =>
    if !f.guardOk then some .guard
    else if !r.operandsOk f then some .operandClass
    else if !r.bitsOk f then some .unassignedBit
    else if !r.legal then some .modifier
    else none
  | _, _ => some .unassignedOpcode

/-- The instruction can stand in a word (R53 order 3). -/
def WellFormed (i : Instr) : Prop := i.reject = none

end Instr

end Sys2Proof
end

