-- ==== Sys2Proof/Machine/Operands.lean ====
section
/-! DEFINITION. Reading and writing operands (R45 to R48, R118, R160, R222): every source class and every destination
class of the instruction set, for one lane. -/

namespace Sys2Proof.Machine

namespace Warp

/-- A 32-bit source: s32 (R118). -/
def src32 (w : Warp) (l : Nat) (o : Opnd) (imm : BitVec 32) : Word :=
  match o with
  | .v n => w.getV l n
  | .k n => (w.getK n).setWidth 32
  | .imm => imm
  | _ => 0

/-- V(l, n+1) << 32 | V(l, n) (R118). -/
def pairV (w : Warp) (l n : Nat) : DWord := w.getV l (n + 1) ++ w.getV l n

/-- A 64-bit source: s64; an immediate is sign-extended, or zero-extended where the entry says so (R46, R119). -/
def src64 (w : Warp) (l : Nat) (o : Opnd) (imm : BitVec 32) (zeroExtend : Bool := false) : DWord :=
  match o with
  | .v n => w.pairV l n
  | .k n => w.getK n
  | .imm => if zeroExtend then imm.setWidth 64 else imm.signExtend 64
  | _ => 0

/-- A 128-bit source: a v group of four, an even k pair, or zero (R48). -/
def src128 (w : Warp) (l : Nat) (o : Opnd) : BitVec 128 :=
  match o with
  | .v n => w.pairV l (n + 2) ++ w.pairV l n
  | .k n => w.getK (n + 1) ++ w.getK n
  | _ => 0

/-- Element `i` of a v group of four (R160). -/
def srcElem (w : Warp) (l : Nat) (o : Opnd) (i : Nat) : Word :=
  match o with
  | .v n => w.getV l (n + i)
  | _ => 0

/-- A predicate source (R118). -/
def srcP (w : Warp) (l : Nat) (o : Opnd) : Bool :=
  match o with
  | .p n => w.getP l n
  | _ => false

/-- The base of format M (R42). -/
def base (w : Warp) (l : Nat) (o : Opnd) : DWord :=
  match o with
  | .v n => w.pairV l n
  | .k n => w.getK n
  | _ => 0

/-- addr(l) of format M (R42). -/
def addr (w : Warp) (l : Nat) (f : Fields) : DWord := w.base l f.sa + f.imm.signExtend 64

end Warp

/-! ## Destinations: the writes of one lane -/

/-- A 32-bit result to d32; a k register takes it zero-extended (R118). -/
def dst32 (o : Opnd) (x : Word) : List RegWrite :=
  match o with
  | .v n => [.v n x]
  | .k n => [.k n (x.setWidth 64)]
  | _ => []

/-- A 64-bit result to d64 (R118). -/
def dst64 (o : Opnd) (x : DWord) : List RegWrite :=
  match o with
  | .v n => [.v n (x.setWidth 32), .v (n + 1) (x.extractLsb' 32 32)]
  | .k n => [.k n x]
  | _ => []

/-- A 128-bit result to a group (R48). -/
def dst128 (o : Opnd) (x : BitVec 128) : List RegWrite :=
  match o with
  | .v n => [.v n (x.setWidth 32), .v (n + 1) (x.extractLsb' 32 32), .v (n + 2) (x.extractLsb' 64 32),
             .v (n + 3) (x.extractLsb' 96 32)]
  | .k n => [.k n (x.setWidth 64), .k (n + 1) (x.extractLsb' 64 64)]
  | _ => []

/-- A truth value to dp; p7 and 0xFE discard it (R46, R118). -/
def dstP (o : Opnd) (b : Bool) : List RegWrite :=
  match o with
  | .p n => [.p n b]
  | _ => []

/-- A loaded value of `8·n` bits to a destination of R222, extended by sign or by zero for .B and .H. -/
def dstLoad (o : Opnd) (size : Nat) (unsigned : Bool) (x : Nat) : List RegWrite :=
  match size with
  | 0 => match o with
    | .v n => [.v n (if unsigned then BitVec.ofNat 32 x else (BitVec.ofNat 8 x).signExtend 32)]
    | .k n => [.k n (if unsigned then BitVec.ofNat 64 x else (BitVec.ofNat 8 x).signExtend 64)]
    | _ => []
  | 1 => match o with
    | .v n => [.v n (if unsigned then BitVec.ofNat 32 x else (BitVec.ofNat 16 x).signExtend 32)]
    | .k n => [.k n (if unsigned then BitVec.ofNat 64 x else (BitVec.ofNat 16 x).signExtend 64)]
    | _ => []
  | 2 => dst32 o (BitVec.ofNat 32 x)
  | 3 => dst64 o (BitVec.ofNat 64 x)
  | _ => dst128 o (BitVec.ofNat 128 x)

/-- The stored or operand value of a size: 1, 2, 4, 8 or 16 bytes (R222). -/
def srcValue (w : Warp) (l : Nat) (o : Opnd) (size : Nat) : Nat :=
  match size with
  | 0 => (w.src32 l o 0).toNat % 2 ^ 8
  | 1 => (w.src32 l o 0).toNat % 2 ^ 16
  | 2 => (w.src32 l o 0).toNat
  | 3 => (w.src64 l o 0).toNat
  | _ => (w.src128 l o).toNat

/-- Bytes of a size code (R43). -/
def sizeBytes (size : Nat) : Nat := 2 ^ size

namespace Warp

/-- Apply the v and p writes of one lane (R79, R85). -/
def writeLane (w : Warp) (l : Nat) (ws : List RegWrite) : Warp :=
  ws.foldl (fun w r => match r with
    | .v n x => w.setV l n x
    | .p n b => w.setP l n b
    | .k _ _ => w) w

/-- Apply the k writes of the lowest lane that completes (R84). -/
def writeK (w : Warp) (ws : List RegWrite) : Warp :=
  ws.foldl (fun w r => match r with
    | .k n x => w.setK n x
    | _ => w) w

end Warp

/-! ## Decode-time checks of operands (R53 orders 5 to 7) -/

/-- Every field is aligned to its group (R48, R116). -/
def alignedOk (g : Signature) (f : Fields) : Bool :=
  g.dst.aligned f.dst && g.sa.aligned f.sa && g.sb.aligned f.sb && g.sc.aligned f.sc

/-- Some field touches v64 to v127 (R48). -/
def touchesExtended (g : Signature) (f : Fields) : Bool :=
  g.dst.extended f.dst || g.sa.extended f.sa || g.sb.extended f.sb || g.sc.extended f.sc

/-- An acc or pf code at or beyond the warp's allotment (R53 order 7, R87). -/
def unallocated (w : Warp) : Opnd → Bool
  | .acc n => n.val ≥ w.na
  | .pf n => n.val ≥ w.nf
  | _ => false

end Sys2Proof.Machine
end

