-- ==== Sys2Proof/Machine/Memory.lean ====
section
/-! DEFINITION. Memory: one numbering of every byte of HBM and of the bins, canonical cells, error-correcting words
(R220, R317, R318), full bits (R210) and write masks (R219). -/

namespace Sys2Proof.Machine

/-! ## The numbering -/

/-- First number of the bins. HBM backing addresses with their package lie below it (R324). -/
def binBase : Nat := 2 ^ 49

/-- The number of a byte. -/
def Loc.phys : Loc → Nat
  | .hbm a => a
  | .bin c o => binBase + c * 2 ^ 24 + o

/-- The place `n` bytes on. -/
def Loc.plus : Loc → Nat → Loc
  | .hbm a, n => .hbm (a + n)
  | .bin c o, n => .bin c (o + n)

/-- Byte `b` of a frame (R215). -/
def frameLoc (fid b : Nat) : Loc := .bin (colOfFid fid) (frameOfFid fid * 4096 + b)

/-- Byte `b` of a 4 KiB unit of a column. A unit has the number of its frame: with S MiB of scratch, units 4096 − 256·S to
4095 are the scratchpad (R214). -/
def scratchLoc (gcol unit b : Nat) : Loc := .bin gcol (unit * 4096 + b)

/-- Bytes of HBM on one package: 768 GB (R7, R221), a GB being 2^30 bytes as the GiB of R3 is: the spec does not say which (log entry
35, DESIGN CHOICE). -/
def hbmBytes : Nat := 768 * 2 ^ 30

/-- Does a backing address lie in HBM? -/
def inHbm (a : Nat) : Bool := a % 2 ^ 40 < hbmBytes

/-- HBM channel of a backing address (R350). -/
def channelOf (a : Nat) : Nat := (a % 2 ^ 40 / 4096) % 384

/-- The package of a backing address (R324). -/
def pkgOf (a : Nat) : Nat := bitsOf a 48 40

/-- The die on which an error at a byte is counted and recorded (R318, R389). -/
def dieOfPhys (p : Nat) : Nat := if p < binBase then channelOf p / 48 else (p - binBase) / 2 ^ 24 / 48

/-! ## Cells -/

namespace State

/-- One byte of memory; a byte that nothing has written reads 0 (log entry 1). -/
def byteAt (s : State) (p : Nat) : Byte := Sparse.get 0 s.mem.cells p

/-- Write one byte, keeping the canonical form. -/
def setByte (s : State) (p : Nat) (b : Byte) : State :=
  { s with mem := { s.mem with cells := Sparse.set 0 s.mem.cells p b } }

/-- `n` bytes as they stand. -/
def rawBytes (s : State) (p n : Nat) : List Byte := (List.range n).map (fun i => s.byteAt (p + i))

/-- Write bytes from `p` up. -/
def setBytes (s : State) (p : Nat) : List Byte → State
  | [] => s
  | b :: bs => (s.setByte p b).setBytes (p + 1) bs

/-! ## Error-correcting words -/

def syndrome (s : State) (p : Nat) : Word := Sparse.get 0 s.mem.ecc (p / 32)

def setSyndrome (s : State) (p : Nat) (x : Word) : State :=
  { s with mem := { s.mem with ecc := Sparse.set 0 s.mem.ecc (p / 32) x } }

end State

/-- Class of a syndrome (R317). -/
inductive EccClass where
  | clean
  /-- Correctable; the data bit that the correction flips, if it flips one. -/
  | correctable (flip : Option Nat)
  | uncorrectable
  deriving DecidableEq, Repr

/-- Bits set in a word. -/
def weightOf (x : Word) : Nat := ((List.range 32).filter (fun i => x.getLsbD i)).length

/-- The next word from `x` up that has odd weight 3 or more and is not taken. -/
def nextColumn (taken : List Word) (x : Word) : Nat → Word
  | 0 => x
  | n + 1 => if weightOf x % 2 == 1 && weightOf x ≥ 3 && !taken.contains x then x else nextColumn taken (x + 1) n

/-- Columns of the first `n` data bits, each a distinct word of odd weight 3 or more (R317). Which they are is the part's own: they
follow from a free value (log entry 13). -/
def dataColumns : Nat → List Word
  | 0 => []
  | n + 1 => dataColumns n ++ [nextColumn (dataColumns n) (Config.eccColumn n) 4096]

/-- The check bits of 256 data bits: the sum of the columns of the bits that are set. -/
def checkBits (d : BitVec 256) : Word :=
  (List.range 256).foldl (fun a i => if d.getLsbD i then a ^^^ ((dataColumns 256)[i]?.getD 0) else a) 0

/-- The decoder's classes (R317). -/
def eccClass (syn : Word) : EccClass :=
  let weight := weightOf syn
  if weight == 0 then .clean
  else if weight == 1 then .correctable none
  else if weight % 2 == 0 then .uncorrectable
  else
    match (dataColumns 256).idxOf? syn with
    | some i => .correctable (some i)
    | none => .uncorrectable

/-- A byte of the word at `p` with the corrected bit flipped. -/
def flipByte (flip : Option Nat) (p : Nat) (b : Byte) : Byte :=
  match flip with
  | some i => if i / 8 == p % 32 then b ^^^ BitVec.ofNat 8 (2 ^ (i % 8)) else b
  | none => b

namespace State

/-- Count a corrected error at `p` (R389). -/
def countCorrected (s : State) (p : Nat) : State :=
  s.updDie (dieOfPhys p) (fun d => { d with eccCor := d.eccCor + 1 })

/-- ELAST of an uncorrectable error at `p` (R318). -/
def elastOf (p : Nat) : DWord :=
  if p < binBase then
    BitVec.ofNat 64 (2 ^ 63 + 2 * 2 ^ 60 + p % 2 ^ 40 / 32 * 32)
  else
    BitVec.ofNat 64 (2 ^ 63 + ((p - binBase) / 2 ^ 24) * 2 ^ 40 + (p - binBase) % 2 ^ 24 / 32 * 32)

/-- Count and record a detected uncorrectable error at `p` (R318, R389). -/
def countUncorrectable (s : State) (p : Nat) : State :=
  s.updDie (dieOfPhys p) (fun d => { d with eccUnc := d.eccUnc + 1, elast := elastOf p })

/-- Read the part of one ECC word from `p`, `n` bytes within the word: the bytes as corrected, and whether the word is
uncorrectable (R220). -/
def readWordPart (s : State) (p n : Nat) : State × List Byte × Bool :=
  match eccClass (s.syndrome p) with
  | .clean => (s, s.rawBytes p n, false)
  | .correctable flip =>
    (s.countCorrected p, (List.range n).map (fun i => flipByte flip (p + i) (s.byteAt (p + i))), false)
  | .uncorrectable => (s.countUncorrectable p, s.rawBytes p n, true)

/-- Read `n` bytes from `p`, word by word; `fuel` bounds the number of words. -/
def readFrom (s : State) (p n : Nat) : Nat → State × List Byte × Bool
  | 0 => (s, [], false)
  | fuel + 1 =>
    if n = 0 then (s, [], false)
    else
      let k := min n (32 - p % 32)
      let (s, bs, bad) := s.readWordPart p k
      let (s, bs', bad') := s.readFrom (p + k) (n - k) fuel
      (s, bs ++ bs', bad || bad')

/-- Read `n` bytes from `p` with ECC (R220). -/
def readBytes (s : State) (p n : Nat) : State × List Byte × Bool := s.readFrom p n (n / 32 + 2)

/-- The read of an ECC word before part of it is written (R220, R317): a correctable word is corrected, an uncorrectable one is left so;
the error is detected there, and counted (R389, R431). -/
def readyWord (s : State) (p : Nat) : State :=
  match eccClass (s.syndrome p) with
  | .clean => s
  | .correctable flip =>
    let q := p / 32 * 32
    let fixed := (List.range 32).map (fun i => flipByte flip (q + i) (s.byteAt (q + i)))
    ((s.countCorrected p).setBytes q fixed).setSyndrome p 0
  | .uncorrectable => s.countUncorrectable p

/-- Write part of one ECC word (R220, R317): a whole word gets new check bits. -/
def writeWordPart (s : State) (p : Nat) (bs : List Byte) : State :=
  if bs.length = 32 then (s.setBytes p bs).setSyndrome p 0 else (s.readyWord p).setBytes p bs

/-- Write bytes of one ECC word together, given by their offsets in the word at `p`: one write, of the whole word or of a part. -/
def mergeWord (s : State) (p : Nat) (bs : List (Nat × Byte)) : State :=
  let put := fun (s : State) => bs.foldl (fun s b => s.setByte (p + b.1) b.2) s
  if bs.isEmpty then s
  else if (List.range 32).all (fun i => bs.any (fun b => b.1 == i)) then (put s).setSyndrome p 0
  else put (s.readyWord p)

/-- Write bytes given by their offsets from `p`, the first byte of an ECC word, in `words` words (R219, R220). -/
def mergeBytes (s : State) (p words : Nat) (bs : List (Nat × Byte)) : State :=
  (List.range words).foldl (fun s w =>
    s.mergeWord (p + 32 * w) ((bs.filter (fun b => b.1 / 32 == w)).map (fun b => (b.1 % 32, b.2)))) s

/-- Write bytes from `p`, word by word. -/
def writeFrom (s : State) (p : Nat) (bs : List Byte) : Nat → State
  | 0 => s
  | fuel + 1 =>
    if bs.isEmpty then s
    else
      let k := min bs.length (32 - p % 32)
      (s.writeWordPart p (bs.take k)).writeFrom (p + k) (bs.drop k) fuel

/-- Write bytes from `p` with ECC (R220). -/
def writeBytes (s : State) (p : Nat) (bs : List Byte) : State := s.writeFrom p bs (bs.length / 32 + 2)

/-- Make every ECC word of `[p, p+n)` uncorrectable (R220, R409, R431): a syndrome of weight 2. -/
def poison (s : State) (p n : Nat) : State :=
  (List.range ((p + n + 31) / 32 - p / 32)).foldl (fun s i => s.setSyndrome ((p / 32 + i) * 32) 3) s

/-! ## Full bits and write masks -/

/-- The full bit of the granule at `p` (R210). -/
def isFull (s : State) (p : Nat) : Bool := Sparse.get false s.mem.full (p / 16)

def setFull (s : State) (p : Nat) (b : Bool) : State :=
  { s with mem := { s.mem with full := Sparse.set false s.mem.full (p / 16) b } }

/-- The write-mask bit of a byte of a remote-line frame (R219). -/
def isMasked (s : State) (p : Nat) : Bool := Sparse.get false s.mem.mask p

def setMask (s : State) (p : Nat) (b : Bool) : State :=
  { s with mem := { s.mem with mask := Sparse.set false s.mem.mask p b } }

def setMasks (s : State) (p n : Nat) (b : Bool) : State :=
  (List.range n).foldl (fun s i => s.setMask (p + i) b) s

/-- Clear `[p, p+n)`: bytes zero, granules empty, words clean, masks and tickets clear (R200, R207, R330). -/
def clearBytes (s : State) (p n : Nat) : State :=
  let out := fun (k unit : Nat) => k * unit < p || p + n ≤ k * unit
  { s with mem := { s.mem with
      cells := s.mem.cells.filter (fun e => out e.1 1)
      ecc := s.mem.ecc.filter (fun e => out e.1 32)
      full := s.mem.full.filter (fun e => out e.1 16)
      mask := s.mem.mask.filter (fun e => out e.1 1)
      tickets := s.mem.tickets.filter (fun e => out e.1 256) } }

end State

/-- The canonical form of memory: addresses strictly rising, no byte equal to what an unlisted address reads as. -/
def Memory.wf (m : Mem) : Bool := Sparse.canonical 0 m.cells

end Sys2Proof.Machine
end

