-- ==== Sys2Proof/Machine/Flits.lean ====
section
/-! DEFINITION. Flits: their layout, CRC and beats (R394, R395). -/

namespace Sys2Proof.Machine

/-! ## CRC-32 of IEEE 802.3 -/

/-- One bit of the CRC, in the reflected form of the polynomial 0x04C11DB7. R394 names the CRC and its polynomial; its bit order, start
value and final complement are those of IEEE 802.3 (PRESUMED, log entry 94). -/
def crcBit (c : BitVec 32) : BitVec 32 := if c.getLsbD 0 then (c >>> 1) ^^^ 0xEDB88320#32 else c >>> 1

/-- One byte of the CRC. -/
def crcByte (c : BitVec 32) (b : Byte) : BitVec 32 := (List.range 8).foldl (fun c _ => crcBit c) (c ^^^ b.setWidth 32)

/-- The CRC of bytes. -/
def crc32 (bs : List Byte) : BitVec 32 := ~~~(bs.foldl crcByte 0xFFFFFFFF#32)

/-! ## The layout (R394) -/

namespace Flit

/-- Bytes 0 to 239: header and payload. -/
def body (f : Flit) : List Byte :=
  leBytes 2 (f.seq % 2 ^ 12 + f.type % 16 * 2 ^ 12) ++ leBytes 2 (f.ack % 2 ^ 12) ++ leBytes 2 f.gen ++
  leBytes 1 (f.tenant % 16 + f.tclass % 4 * 2 ^ 4 + f.vc % 4 * 2 ^ 6) ++ leBytes 1 f.msgs ++
  leBytes 2 (f.dpkg % 512) ++ leBytes 2 (f.spkg % 512) ++ leBytes 4 0 ++
  (List.range 224).map (fun i => f.payload.getD i 0)

/-- The 256 bytes of a flit. The check symbols of its Reed–Solomon code are a free value: the code's polynomials are not in spec/ (log
entry 18). -/
def bytes (f : Flit) : List Byte :=
  let covered := f.body ++ leBytes 4 (crc32 f.body).toNat
  covered ++ (List.range 12).map (Config.fecByte (leNat covered))

/-- Beat `b` of 32 bytes (R395). -/
def beat (f : Flit) (b : Nat) : List Byte := (f.bytes.drop (32 * b)).take 32

end Flit

/-- The fields of a received flit. -/
def parseFlit (bs : List Byte) : Flit :=
  let n := fun (i k : Nat) => leNat ((bs.drop i).take k)
  { seq := n 0 2 % 2 ^ 12, type := n 0 2 / 2 ^ 12, ack := n 2 2 % 2 ^ 12, gen := n 4 2, tenant := n 6 1 % 16,
    tclass := n 6 1 / 2 ^ 4 % 4, vc := n 6 1 / 2 ^ 6, msgs := n 7 1, dpkg := n 8 2 % 512, spkg := n 10 2 % 512,
    payload := (bs.drop 16).take 224 }

/-- The CRC of a received flit holds (R396). -/
def crcOk (bs : List Byte) : Bool := bs.length == 256 && leNat ((bs.drop 240).take 4) == (crc32 (bs.take 240)).toNat

/-- A payload of one message: its descriptor of 16 bytes, whose format is not in spec/, and its data in 0, 64 or 128 bytes (log entry
18). -/
def messagePayload (vc addr : Nat) (data : List Byte) : List Byte :=
  let room := if data.isEmpty then 0 else if data.length ≤ 64 then 64 else 128
  (List.range 16).map (Config.descriptorByte vc addr) ++ (List.range room).map (fun i => data.getD i 0)

end Sys2Proof.Machine
end

