-- ==== Sys2Proof/Machine/Directory.lean ====
section
/-! DEFINITION. Routing over the links and the MOESI directories of the switches (R392, R393, R402 to R409), as far as
one package can see them: the entry of a line, its holders, and this package's remote-line frames. -/

namespace Sys2Proof.Machine

/-- The line hash of a backing address (R393). -/
def lineHash (a : Nat) : Nat :=
  let g := bitsOf a 48 14
  ((bitsOf g 7 0 ^^^ bitsOf g 15 8) ^^^ (bitsOf g 23 16 ^^^ bitsOf g 31 24)) ^^^ bitsOf g 34 32

/-- The switch of a line's hash range, before any failure. -/
def rangeOf (a : Nat) : Nat := lineHash a % 128

/-- The set of a line's entry (R402). -/
def dirSet (line : Nat) : Nat := (bitsOf line 31 0 ^^^ bitsOf line 40 32) % 65536

/-- The order in which other switches take a failed switch's range (R406). -/
def failoverOrder (k : Nat) : List Nat := [64, 32, 16, 8, 4, 2, 1].map (fun b => k ^^^ b)

namespace State

/-- Has the switch failed (R406)? -/
def switchFailed (s : State) (k : Nat) : Bool := s.net.rebuilds.any (fun r => r.failed == k)

/-- The rebuild of a range, where its switch has failed. -/
def rebuildOf (s : State) (k : Nat) : Option Rebuild := s.net.rebuilds.find? (fun r => r.failed == k)

/-- The switch that serves a range now (R406). -/
def rangeHolder (s : State) (k : Nat) : Nat :=
  match s.rebuildOf k with
  | some r => r.holder
  | none => k

/-- Is a direction of a link DOWN (R399)? -/
def dirDown (s : State) (link dir : Nat) : Bool := (s.linkDir (2 * link + dir)).down

/-- Is a link DOWN in either direction? -/
def linkDown (s : State) (link : Nat) : Bool := s.dirDown link 0 || s.dirDown link 1

/-- The link that carries traffic for a line (R393, R406); none when both links of the fibre pair are DOWN. -/
def routeOf (s : State) (a : Nat) : Option Nat :=
  let k := s.rangeHolder (rangeOf a)
  let l := 2 * k + lineHash a / 128
  let other := 2 * k + (1 - lineHash a / 128)
  if !s.linkDown l then some l else if !s.linkDown other then some other else none

/-- The wavelengths of a direction that carry beats, in ascending order (R395). -/
def carrying (x : LinkDir) : List Nat := (List.range 8).filter (fun w => (Sparse.get ({} : Wave) x.waves w).state.carries)

/-- How many wavelengths of a direction carry beats. -/
def activeWaves (s : State) (d : Nat) : Nat := (carrying (s.linkDir d)).length

/-- GT from which the flits of a direction are not yet counted: no flit is counted from before the bring-up (R401). -/
def flitStart (s : State) (d : Nat) : Nat := max (s.linkDir d).counted s.net.flitsFrom

/-- Flits of a direction up to now, all and those at fewer than 8 wavelengths, in 1/32 flit (R394, R395). -/
def flitSlots (s : State) (d : Nat) : Nat × Nat :=
  let x := s.linkDir d
  let n := if x.down then 0 else s.activeWaves d
  let k := n * (s.gt - s.flitStart d)
  (x.slots + k, x.redSlots + (if n < 8 then k else 0))

/-- Settle the flits of a direction before its active set changes, which it does only between two flits: the flit in progress is
finished at the old width (R395). -/
def settleFlits (s : State) (d : Nat) : State :=
  let x := s.linkDir d
  let (a, b) := s.flitSlots d
  let whole := (a + 31) / 32 * 32
  s.setLinkDir d { x with slots := whole, redSlots := b + (if b > x.redSlots then whole - a else 0), counted := s.gt }

/-- The beat counter of a direction: beats sent since its active set changed (R395). A wavelength carries a beat in 4 ns. -/
def beatCounter (s : State) (d : Nat) : Nat := s.activeWaves d * (s.gt - s.flitStart d) / 4

/-- The wavelength of beat `j`: the active ones in ascending order, round and round (R395). -/
def beatWave (s : State) (d j : Nat) : Option Nat :=
  let on := carrying (s.linkDir d)
  on[j % on.length]?

/-- The argument of a notification about a wavelength: link, direction, wavelength (R410). -/
def waveArg (d w : Nat) : Nat := d / 2 + d % 2 * 2 ^ 8 + w * 2 ^ 9

/-- A RESTORING wavelength is ACTIVE: the boundary is reached (R398). What was carried at the old width is settled first (R395). -/
def restoreWave (s : State) (d w : Nat) : State :=
  let s := s.settleFlits d
  let x := s.linkDir d
  let s := s.setLinkDir d { x with
    restored := x.restored + 1
    waves := Sparse.set {} x.waves w { Sparse.get {} x.waves w with
      state := .active, attempts := 0, spare := false, boundary := none, checked := s.gt, since := s.gt } }
  s.notify 0x02 (waveArg d w)

/-- Before a flit goes out, the wavelengths whose announced boundary it is carry beats again (R398, R411). -/
def reachBoundary (s : State) (d : Nat) : State :=
  ((List.range 8).filter (fun w =>
    let x := Sparse.get ({} : Wave) (s.linkDir d).waves w
    x.state == .restoring && x.boundary == some (s.linkDir d).seq)).foldl (fun s w => s.restoreWave d w) s

/-- Send one flit on the outbound direction of a link: sequence number, ACK and replay store (R394, R396). -/
def putFlit (s : State) (link : Nat) (f : Flit) : State :=
  let s := s.reachBoundary (2 * link)
  let x := s.linkDir (2 * link)
  let ack := ((s.linkDir (2 * link + 1)).expected + 4095) % 4096
  let sent := x.replay ++ [{ f with seq := x.seq, ack, spkg := s.net.pkg }]
  s.setLinkDir (2 * link) { x with seq := (x.seq + 1) % 4096, replay := sent.drop (sent.length - 256) }

/-- Send a message about an address for a tenant and class (R393, R394, R401), in one flit of its own (log entry 18, DESIGN CHOICE), to the
address's home or to the package given. -/
def sendMessage (s : State) (t c vc a : Nat) (data : List Byte := []) (dst : Nat := pkgOf a) : State :=
  match s.routeOf a with
  | none => s
  | some link =>
    let s := s.putFlit link { gen := (s.tenant t).gen, tenant := t, tclass := c, vc, dpkg := dst, payload := messagePayload vc a data }
    let n := 4 * t + c
    { s with net := { s.net with txb := Sparse.set 0 s.net.txb n (Sparse.get 0 s.net.txb n + 256) } }

/-- Answer a request of package `p`: its tenant and class are that package's (log entry 18). -/
def sendAnswer (s : State) (vc line p : Nat) (data : List Byte := []) : State :=
  let who := Config.requestSender s.freshCount % 64
  s.fresh.sendMessage (who / 4) (who % 4) vc (256 * line) data p

/-- Send a control flit on a link, whose first data bytes say what it names (log entry 18). -/
def sendControl (s : State) (link : Nat) (what : List Byte) : State :=
  s.putFlit link { type := 2, vc := 3, payload := messagePayload 3 link what }

/-- Ask the sender of a link's inbound direction for replay from a sequence number (R396). -/
def askReplay (s : State) (link seq : Nat) : State := s.sendControl link (leBytes 2 (seq % 4096))

/-- Announce a flit boundary of an outbound direction, by the sequence number of the first flit at the new width (R398). -/
def announce (s : State) (d : Nat) : State := s.sendControl (d / 2) (leBytes 2 (((s.linkDir d).seq + 1) % 4096))

/-- WITHDRAW or RESTORE of a wavelength of an inbound direction, sent on the reverse direction (R398). -/
def askWave (s : State) (d w : Nat) : State := s.sendControl (d / 2) (leBytes 1 w)

/-! ## Remote-line frames of this package -/

/-- The remote-line frame that holds a line, with the line's number in the frame (R219). -/
def remoteFrame (s : State) (line : Nat) : Option (Nat × Nat) :=
  match s.tables.frames.find? (fun e => e.2.role == .remoteLine && e.2.state != .free &&
      e.2.backing / 4096 == line / 16) with
  | some e => some (e.1, line % 16)
  | none => none

/-- Send the masked bytes of one sector home; what is uncorrectable here poisons the sector there (R219, R220). -/
def sendMasked (s : State) (t here home : Nat) : State :=
  let masked := (List.range 64).filter (fun i => s.isMasked (here + i))
  if masked.isEmpty then s
  else
    let (s, bs, bad) := s.readBytes here 64
    let s := s.sendMessage t 0 2 home bs
    let s := s.mergeBytes home 2 (masked.map (fun i => (i, bs.getD i 0)))
    if bad then s.poison home 64 else s

/-- Send the masked bytes of one line of a remote-line frame home and clear the mask (R219). -/
def writeBackLine (s : State) (fid n : Nat) : State :=
  let fr := s.frame fid
  let here := (frameLoc fid (n * 256)).phys
  let home := fr.backing / 4096 * 4096 + n * 256
  let s := (List.range 4).foldl (fun s i => s.sendMasked fr.owner (here + 64 * i) (home + 64 * i)) s
  let s := s.setMasks here 256 false
  s.updFrame fid (fun f => { f with dirty := f.dirty &&& ~~~(BitVec.ofNat 64 (0xF * 2 ^ (4 * n))) })

/-- Invalidate one line of a remote-line frame (R403). -/
def dropLine (s : State) (fid n : Nat) : State :=
  let s := s.setMasks (frameLoc fid (n * 256)).phys 256 false
  s.updFrame fid (fun f => { f with
    valid := f.valid &&& ~~~(BitVec.ofNat 64 (0xF * 2 ^ (4 * n)))
    dirty := f.dirty &&& ~~~(BitVec.ofNat 64 (0xF * 2 ^ (4 * n))) })

/-! ## Entries -/

def dirEntry? (s : State) (line : Nat) : Option DirEntry := s.net.directory.find? (fun e => e.line == line)

/-- Change an entry without a request: it is used no more recently (R405). -/
def changeDirEntry (s : State) (line : Nat) (f : DirEntry → DirEntry) : State :=
  { s with net := { s.net with directory := s.net.directory.map (fun x => if x.line == line then f x else x) } }

/-- Place or replace a line's entry, most recently used. -/
def setDirEntry (s : State) (e : DirEntry) : State :=
  { s with net := { s.net with
      directory := s.net.directory.filter (fun x => x.line != e.line) ++ [{ e with used := s.net.recency }]
      recency := s.net.recency + 1 } }

def dropDirEntry (s : State) (line : Nat) : State :=
  { s with net := { s.net with directory := s.net.directory.filter (fun x => x.line != line) } }

/-- The EXPORT bit of a line (R402). -/
def isExported (s : State) (line : Nat) : Bool := Sparse.get false s.mem.exported line

def setExported (s : State) (line : Nat) (b : Bool) : State :=
  { s with mem := { s.mem with exported := Sparse.set false s.mem.exported line b } }

/-- This package loses a line it holds: masked bytes go home first where it owns the line (R403, R405). -/
def loseLine (s : State) (line : Nat) (owned : Bool) : State :=
  match s.remoteFrame line with
  | some (fid, n) => (if owned then s.writeBackLine fid n else s).dropLine fid n
  | none => s

/-- The page frame of this package that holds a backing page now: the home's copy of its lines stands there (log entry 20, DEDUCED). -/
def homeFrame (s : State) (line : Nat) : Option Nat :=
  if pkgOf (256 * line) != s.net.pkg then none
  else (s.tables.frames.find? (fun e => e.2.role == .page && (e.2.state == .mapped || e.2.state == .draining) &&
    e.2.backing / 4096 == line / 16)).map (·.1)

def sectorBit (n : Nat) : BitVec 64 := BitVec.ofNat 64 (2 ^ n)

/-- Before a master sector changes, the replicas of its set lose it (R334, R343). -/
def invalidateReplicas (s : State) (master n : Nat) : State :=
  s.tables.replicas.foldl (fun s (e : Nat × ReplicaSet) =>
    if e.2.master == master then
      e.2.frames.foldl (fun s r => s.updFrame r (fun f => { f with valid := f.valid &&& ~~~sectorBit n })) s
    else s) s

/-- Bytes that reach a line's home, at their offsets, with ECC (R220): each sector where the home's copy of it stands. The
replicas of a master lose the sector first (R334, R343). -/
def putHome (s : State) (line : Nat) (bytes : List (Nat × Byte)) : State :=
  (List.range 4).foldl (fun s i =>
    let here := (bytes.filter (fun b => b.1 / 64 == i)).map (fun b => (b.1 % 64, b.2))
    let n := 4 * (line % 16) + i
    match s.homeFrame line with
    | some fid =>
      let s := if here.isEmpty then s else s.invalidateReplicas fid n
      if here.isEmpty || !(s.frame fid).valid.getLsbD n then s.mergeBytes (256 * line + 64 * i) 2 here
      else (s.mergeBytes (frameLoc fid (64 * n)).phys 2 here).updFrame fid (fun f =>
        { f with dirty := f.dirty ||| sectorBit n })
    | none => s.mergeBytes (256 * line + 64 * i) 2 here) s

/-- A line that another package holds O or M (R403). -/
def ownedElsewhere (s : State) (line : Nat) : Option DirEntry :=
  (s.dirEntry? line).filter (fun e => (e.state == .owned || e.state == .modified) && e.owner != s.net.pkg)

/-- The number of the period whose bytes an owner holds: it can write again while it holds the line M. -/
def ownEpoch (s : State) (e : DirEntry) : Nat := if e.state == .modified then s.net.recency else e.epoch

/-- Bytes that agents read at an address: those that another package's owner supplies, over those of the home (R403). -/
def merged (s : State) (a : Nat) (bs : List Byte) : List Byte :=
  match s.ownedElsewhere (a / 256) with
  | some e => bs.zipIdx.map (fun x => (Config.ownerByte e.line ((a + x.2) % 256) (s.ownEpoch e)).getD x.1)
  | none => bs

/-- Another package that holds a line O or M sends its masked bytes to the home before it loses it (R403, R405). -/
def settleOwner (s : State) (line : Nat) : State :=
  match s.ownedElsewhere line with
  | some e => s.putHome line ((List.range 256).filterMap (fun i => (Config.ownerByte line i (s.ownEpoch e)).map (fun b => (i, b))))
  | none => s

/-- All holders of an entry but one lose the line (R403, R405): the owner's masked bytes go home first. -/
def invalidateHolders (s : State) (e : DirEntry) (keep : Option Nat) : State :=
  let owned := e.state == .owned || e.state == .modified
  let s := if owned && keep != some e.owner then s.settleOwner e.line else s
  if keep != some s.net.pkg && (e.holders.contains s.net.pkg || e.owner == s.net.pkg && e.state != .shared) then
    s.loseLine e.line (owned && e.owner == s.net.pkg)
  else s

/-- Evict an entry: back-invalidate its holders and report the line removed (R405); this package acknowledges on the line's link (R393). -/
def backInvalidate (s : State) (e : DirEntry) : State :=
  let mine := e.holders.contains s.net.pkg || (e.owner == s.net.pkg && e.state != .shared)
  let owned := e.owner == s.net.pkg && (e.state == .owned || e.state == .modified)
  let s := s.invalidateHolders e none
  let s := if mine then s.sendAnswer 2 e.line (pkgOf (256 * e.line)) else s
  let s := if mine then
      { s with net := { s.net with backinv := s.net.backinv + 1
                                   biwb := s.net.biwb + (if owned then 1 else 0) } }
    else s
  (s.dropDirEntry e.line).setExported e.line false

/-- The entries of a line's set (R402). -/
def setEntries (s : State) (line : Nat) : List DirEntry :=
  s.net.directory.filter (fun e =>
    s.rangeHolder (rangeOf (e.line * 256)) == s.rangeHolder (rangeOf (line * 256)) && dirSet e.line == dirSet line)

/-- Evict the least recently used entry of a line's set, if it holds 16 (R405). -/
def evictOne (s : State) (line : Nat) : State :=
  let same := s.setEntries line
  if same.length < 16 then s
  else
    match same.foldl (fun (b : Option DirEntry) e =>
        match b with
        | none => some e
        | some x => if e.used < x.used then some e else some x) none with
    | some e => s.backInvalidate e
    | none => s

/-- Make room in the set of a line (R405). A set that a rebuild has filled beyond 16 gives up as many as it takes. -/
def makeDirRoom (s : State) (line : Nat) : State :=
  (List.range ((s.setEntries line).length - 15)).foldl (fun s _ => s.evictOne line) s

/-- Count a resolution for this package (R401). -/
def countResolved (s : State) (p : Nat) (forwarded : Bool) : State :=
  if p != s.net.pkg then s
  else if forwarded then { s with net := { s.net with dirfwd := s.net.dirfwd + 1 } }
  else { s with net := { s.net with dirhome := s.net.dirhome + 1 } }

/-- A read (RDS) of a line by package `p` (R403). -/
def dirRead (s : State) (line p : Nat) : State :=
  match s.dirEntry? line with
  | none =>
    let s := (s.makeDirRoom line).setDirEntry { line, state := .exclusive, owner := p, holders := [p] }
    (s.setExported line true).countResolved p false
  | some e =>
    let holders := if e.holders.contains p then e.holders else e.holders ++ [p]
    match e.state with
    | .shared => (s.setDirEntry { e with holders }).countResolved p false
    | .exclusive =>
      if e.owner == p then (s.setDirEntry e).countResolved p false
      else (s.setDirEntry { e with state := .shared, owner := 0, holders }).countResolved p true
    | .owned | .modified =>
      if e.owner == p then (s.setDirEntry e).countResolved p false
      else (s.setDirEntry { e with state := .owned, holders, epoch := s.ownEpoch e }).countResolved p true

/-- A read of a line by this package that keeps no copy of it (R414): it resolves as RDS does, and adds neither holder nor entry. -/
def dirPeek (s : State) (line : Nat) : State :=
  let p := s.net.pkg
  match s.dirEntry? line with
  | none => s.countResolved p false
  | some e =>
    match e.state with
    | .shared => (s.setDirEntry e).countResolved p false
    | .exclusive => (s.setDirEntry { e with state := .shared, owner := 0 }).countResolved p true
    | .owned | .modified => (s.setDirEntry { e with state := .owned, epoch := s.ownEpoch e }).countResolved p true

/-- An ownership request (RDX) of a line by package `p` (R403): every other holder is invalidated. -/
def dirOwn (s : State) (line p : Nat) : State :=
  match s.dirEntry? line with
  | none =>
    let s := (s.makeDirRoom line).setDirEntry { line, state := .modified, owner := p, holders := [p] }
    (s.setExported line true).countResolved p false
  | some e =>
    let s := if e.owner == p && e.state == .modified then s else s.invalidateHolders e (some p)
    ((s.setDirEntry { line, state := .modified, owner := p, holders := [p] }).setExported line true).countResolved p
      (e.state != .shared && e.owner != p)

/-- This package's floor takes a line E or M for a store (R403): a request goes out unless it is so already. -/
def takeLine (s : State) (t c line : Nat) : State :=
  let held := (s.dirEntry? line).any (fun e => e.owner == s.net.pkg && (e.state == .exclusive || e.state == .modified))
  if held then s.changeDirEntry line (fun e => { e with state := .modified, owner := s.net.pkg, holders := [s.net.pkg] })
  else (s.sendMessage t c 0 (256 * line)).dirOwn line s.net.pkg

/-- A write-back (WB) by the owner `p` (R403); it keeps the line clean or drops it. A line left without holder has no entry any more, and its
EXPORT bit is clear at once (log entry 118, DESIGN CHOICE). -/
def dirWriteBack (s : State) (line p : Nat) (keep : Bool) : State :=
  match s.dirEntry? line with
  | some e =>
    if e.owner == p && (e.state == .owned || e.state == .modified) then
      let holders := if keep then e.holders else e.holders.filter (· != p)
      if holders.isEmpty then (s.dropDirEntry line).setExported line false
      else s.setDirEntry { line, state := .shared, owner := 0, holders }
    else s
  | none => s

/-- A drop (EV) by a clean holder `p` (R403). -/
def dirDrop (s : State) (line p : Nat) : State :=
  match s.dirEntry? line with
  | some e =>
    if e.state == .shared || (e.state == .exclusive && e.owner == p) then
      let holders := e.holders.filter (· != p)
      if holders.isEmpty then (s.dropDirEntry line).setExported line false
      else s.setDirEntry { line, state := .shared, owner := 0, holders }
    else s.setDirEntry { e with holders := e.holders.filter (fun q => q != p || q == e.owner) }
  | none => s

/-- A read by the home's own cores of an exported line (R403): M {q} becomes O {q}. -/
def dirHomeRead (s : State) (line : Nat) : State :=
  let home := pkgOf (256 * line)
  match s.dirEntry? line with
  | some e =>
    (s.setDirEntry (if e.state == .modified then { e with state := .owned, epoch := s.ownEpoch e } else e)).countResolved home
      (e.state != .shared)
  | none => s.countResolved home false

/-- A write by the home's own cores of an exported line (R403): holders invalidated, entry removed, EXPORT cleared. -/
def dirHomeWrite (s : State) (line : Nat) : State :=
  let home := pkgOf (256 * line)
  match s.dirEntry? line with
  | some e => (((s.invalidateHolders e none).dropDirEntry line).setExported line false).countResolved home (e.state != .shared)
  | none => (s.setExported line false).countResolved home false

/-- A request on the line is in progress at its switch (R403). -/
def lineBusy (s : State) (line : Nat) : Bool := s.net.requests.any (fun r => r.line == line)

/-- What a remote access of this package meets at the line's switch (R403, R407, R409): it goes on, or it waits. -/
def remoteWaits (s : State) (a : Nat) : Bool :=
  (s.routeOf a).isNone || s.lineBusy (a / 256) ||
    (match s.rebuildOf (rangeOf a) with
     | some r => r.phase == .hold
     | none => false)

/-- Is the line's range being rebuilt: its remote lines are frozen, and no copy is granted (R407)? -/
def rangeClosed (s : State) (a : Nat) : Bool :=
  match s.rebuildOf (rangeOf a) with
  | some r => r.phase != .open_
  | none => false

/-- Is the line's range in UNCACHED (R407)? -/
def rangeUncached (s : State) (a : Nat) : Bool :=
  match s.rebuildOf (rangeOf a) with
  | some r => r.phase == .uncached
  | none => false

/-- Count an access served uncached in a rebuild and record a line written (R401, R407). -/
def noteUncached (s : State) (a : Nat) (write : Bool) : State :=
  { s with net := { s.net with
      uncached := s.net.uncached + 1
      rebuilds := s.net.rebuilds.map (fun r =>
        if r.failed == rangeOf a && write && !r.written.contains (a / 256) then
          { r with written := r.written ++ [a / 256] } else r) } }

/-- Is a line of this package's HBM exported (R402)? Its accesses here are requests of the home to the line's switch. -/
def homeExported (s : State) (a : Nat) : Bool := pkgOf a == s.net.pkg && s.isExported (a / 256)

/-- An access of the home's own cores to an exported line goes to the line's switch (R402, R403); while the range is rebuilt it is
performed at the home (R407). -/
def homeTouch (s : State) (t cls a : Nat) (write : Bool) : State :=
  if !s.homeExported a then s
  else
    let s := s.sendMessage t cls 0 a
    if s.rangeUncached a then s.noteUncached a write
    else if write then s.dirHomeWrite (a / 256) else s.dirHomeRead (a / 256)

/-- Read bytes of a remote line at its home for a tenant and class: the request, its resolution, and the line's current content (R403,
R414). `keep`: this package becomes a holder. -/
def askHome (s : State) (t cls a n : Nat) (keep : Bool) : State × List Byte × Bool :=
  let s := s.sendMessage t cls 0 a
  let s := if s.rangeUncached a then s.noteUncached a false
    else if keep then s.dirRead (a / 256) s.net.pkg else s.dirPeek (a / 256)
  let (s, bs, bad) := s.readBytes a n
  (s, s.merged a bs, bad)

end State

end Sys2Proof.Machine
end

