-- ==== Sys2Proof/Machine/Translation.lean ====
section
/-! DEFINITION. Address ranges (R205), page-table walks (R323 to R326), caches and leases (R327, R328), and the
performance of accesses on scratch, frames, HBM and remote pages (R216 to R219, R229, R331 to R337). -/

namespace Sys2Proof.Machine

/-! ## Ranges -/

/-- The rows of R205. -/
inductive VaRange where
  | global (va : Nat)
  | scratch (off : Nat)
  | window (slot off : Nat)
  | nowhere
  deriving DecidableEq, Repr

def scratchBase : Nat := 0xFFFFFF0000000000
def windowBase : Nat := 0xFFFFFF0100000000

def rangeOfVa (va : DWord) : VaRange :=
  let a := va.toNat
  if a < 2 ^ 56 then .global a
  else if scratchBase ≤ a && a < scratchBase + 0x800000 then .scratch (a - scratchBase)
  else if windowBase ≤ a && a < windowBase + 4 * 0x800000 then
    .window ((a - windowBase) / 0x800000) ((a - windowBase) % 0x800000)
  else .nowhere

/-- Who makes an access: a warp, or an engine for a block. -/
structure Agent where
  wid : Nat := 0
  /-- The serial number of the request that an engine performs. -/
  req : Nat := 0
  /-- An addend on its way: its additions come in no promised order (R199). -/
  addend : Bool := false
  tenant : Nat := 0
  gcore : Nat := 0
  grid : Nat := 0
  block : Nat := 0
  deriving DecidableEq, Repr

/-- What an access needs and does. -/
inductive AccKind where
  | read | write | rmw | fetch
  /-- Read or write of a wain or a die bulk engine, and of DRAIN and DRAINA (R298). -/
  | engineRead | engineWrite
  /-- DIAGST and DIAGLD: R, W and SUP are not checked (R317). -/
  | diag
  deriving DecidableEq, Repr

def AccKind.needsRead : AccKind → Bool
  | .read | .rmw | .fetch | .engineRead => true
  | _ => false

def AccKind.needsWrite : AccKind → Bool
  | .write | .rmw | .engineWrite => true
  | _ => false

/-! ## Leaf entries (R324) -/

namespace Leaf

def valid (w0 : DWord) : Bool := w0.getLsbD 0
def pin (w0 : DWord) : Bool := w0.getLsbD 2
def sup (w0 : DWord) : Bool := w0.getLsbD 3
def r (w0 : DWord) : Bool := w0.getLsbD 4
def w (w0 : DWord) : Bool := w0.getLsbD 5
def shr (w0 : DWord) : Bool := w0.getLsbD 6
def shd (w0 : DWord) : Bool := w0.getLsbD 7
def mig (w0 : DWord) : Bool := w0.getLsbD 8
def target (w0 : DWord) : Nat := bitsOf w0.toNat 29 9
/-- 0 DRAM, 1 FRAME, 2 REPLICA, 3 REMOTE. -/
def kind (w0 : DWord) : Nat := bitsOf w0.toNat 31 30
def hzn (w0 : DWord) : Nat := bitsOf w0.toNat 63 32
/-- Word 0 with a bit set or cleared. -/
def withBit (w0 : DWord) (n : Nat) (b : Bool) : DWord :=
  if b then w0 ||| BitVec.ofNat 64 (2 ^ n) else w0 &&& ~~~BitVec.ofNat 64 (2 ^ n)
/-- Word 0 with KIND and TARGET. -/
def withTarget (w0 : DWord) (kind target : Nat) : DWord :=
  (w0 &&& ~~~0xFFFFFE00#64) ||| BitVec.ofNat 64 (kind * 2 ^ 30 + target * 2 ^ 9)
/-- Word 0 with HZN. -/
def withHzn (w0 : DWord) (h : Nat) : DWord :=
  (w0 &&& 0xFFFFFFFF#64) ||| BitVec.ofNat 64 ((h + 255) / 256 % 2 ^ 32 * 2 ^ 32)
/-- The kind of a page's backing: DRAM on this package, REMOTE elsewhere (R217). -/
def backingKind (pkg backing : Nat) : Nat := if pkgOf backing == pkg then 0 else 3

end Leaf

/-- The 64-bit horizon that HZN stands for at a GT (R324): congruent to 256·h modulo 2^40 and in
(GT + 16640 − 2^40, GT + 16640]. -/
def horizonOf (gt h : Nat) : Nat :=
  let top := gt + 16640
  ((top : Int) - ((top : Int) - 256 * (h : Int)) % 2 ^ 40).toNat

/-! ## Walks -/

/-- What a walk finds (R323, R326, R350). -/
inductive Walk where
  /-- A valid leaf: its address and two words. -/
  | leaf (addr : Nat) (word0 word1 : DWord)
  /-- No mapping, with the address of an invalid leaf where the walk reached one. -/
  | noMapping
  /-- A table page on a channel that the partition does not own: PERMISSION. -/
  | forbidden
  /-- A table page beyond HBM. -/
  | hole (addr : Nat)
  deriving DecidableEq, Repr

namespace State

/-- The partition of a tenant (R349). -/
def partOf (s : State) (t : Nat) : Partition := s.partition (s.tenant t).part

/-- Does the tenant's partition own the channel of a backing address (R350)? -/
def ownsChannel (s : State) (t a : Nat) : Bool := (s.partOf t).chans.getLsbD (channelOf a)

/-- May the tenant's traffic reach a bin column (R351)? -/
def ownsColumn (s : State) (t col : Nat) : Bool := (s.partOf t).cols.getLsbD col

/-- A 64-bit word of a table as its ECC word gives it, corrected where that is possible (R220); `checkWalk` counts the errors of a walk. -/
def raw64 (s : State) (p : Nat) : DWord := leWord 64 (s.readWordPart p 8).2.1

/-- Write a 64-bit word of a table: a partial write of its ECC word (R220). -/
def setRaw64 (s : State) (p : Nat) (x : DWord) : State := s.writeWordPart p (leBytes 8 x.toNat)

/-- Physical address of this package's HBM byte `a`. -/
def local_ (s : State) (a : Nat) : Nat := s.net.pkg * 2 ^ 40 + a % 2 ^ 40

/-- Interior levels of a walk (R323). -/
def walkFrom (s : State) (t va : Nat) : List Nat → Nat → Walk
  | [], table =>
    if !s.ownsChannel t table then .forbidden
    else if !inHbm table then .hole table
    else
      let a := s.local_ (table + bitsOf va 19 12 * 16)
      let w0 := s.raw64 a
      let w1 := s.raw64 (a + 8)
      if Leaf.valid w0 then .leaf a w0 w1 else .noMapping
  | sh :: rest, table =>
    if !s.ownsChannel t table then .forbidden
    else if !inHbm table then .hole table
    else
      let e := (s.raw64 (s.local_ (table + (va / 2 ^ sh % 512) * 8))).toNat
      if !bitOf e 0 || bitsOf e 63 40 != 0 || bitsOf e 11 1 != 0 then .noMapping
      else s.walkFrom t va rest (bitsOf e 39 12 * 4096)

/-- The five-level walk of a tenant's table, before the checks against the frame table. -/
def rawWalk (s : State) (t va : Nat) : Walk := s.walkFrom t va [47, 38, 29, 20] (s.tenant t).ptroot

/-- The walk with the checks of R325: a FRAME entry whose frame does not hold the page, or a REPLICA entry whose set is
another page's, is no mapping. -/
def walk (s : State) (t va : Nat) : Walk :=
  match s.rawWalk t va with
  | .leaf a w0 w1 =>
    let vpn := va / 4096
    if Leaf.kind w0 == 1 then
      let fr := s.frame (Leaf.target w0)
      if fr.owner == t && fr.vpn == vpn && fr.state != .free then .leaf a w0 w1 else .noMapping
    else if Leaf.kind w0 == 2 then
      let set := Sparse.get {} s.tables.replicas (Leaf.target w0 % 4096)
      if set.tenant == t && set.vpn == vpn && Sparse.mem s.tables.replicas (Leaf.target w0 % 4096) then .leaf a w0 w1
      else .noMapping
    else .leaf a w0 w1
  | r => r

/-! ## Caches -/

/-- Is a copy live for a page (R327)? No access is made through a copy at or after its lease end. -/
def liveCopy (s : State) (t vpn : Nat) (c : Cached) : Bool :=
  c.tenant == t && c.gen == (s.tenant t).gen && c.vpn == vpn && s.gt < c.leaseEnd

/-- Add a copy to a cache of `n` entries; a full cache drops its oldest (log entry 19). -/
def addCopy (n : Nat) (l : List Cached) (c : Cached) : List Cached :=
  let l := l.filter (fun x => !(x.tenant == c.tenant && x.vpn == c.vpn))
  (l ++ [c]).drop (l.length + 1 - n)

/-- Look a page up in the core's cache and then in the floor's (R327). -/
def lookup (s : State) (gcore t vpn : Nat) : State × Option Cached :=
  match (s.core gcore).tcache.find? (s.liveCopy t vpn) with
  | some c => (s, some c)
  | none =>
    let s := s.updCore gcore (fun x => { x with tcmiss := x.tcmiss + 1 })
    match (s.die (dieOf gcore)).ftcache.find? (s.liveCopy t vpn) with
    | some c => (s.updCore gcore (fun x => { x with tcache := addCopy 2048 x.tcache c }), some c)
    | none => (s, none)

/-- The lease horizon of a page that the loft keeps (R325, R327). -/
def keptHorizon (s : State) (t vpn : Nat) : Nat := Sparse.get 0 s.tables.horizons (2 ^ 44 * t + vpn)

/-- The lease horizon of a page as the loft and the gleaner recover it from the 32 bits of HZN (R242, R324). -/
def horizon (s : State) (t vpn : Nat) : Nat := horizonOf s.gt ((s.keptHorizon t vpn + 255) / 256 % 2 ^ 32)

/-- The loft's lease horizon of a page: it is kept in units of 256 ns, and shown in HZN of the entry (R324, R325). -/
def raiseHorizon (s : State) (t vpn leaf : Nat) (w0 : DWord) (h : Nat) : State :=
  if h ≤ s.keptHorizon t vpn then s
  else
    let s : State := { s with tables := { s.tables with
      horizons := Sparse.set 0 s.tables.horizons (2 ^ 44 * t + vpn) ((h + 255) / 256 * 256) } }
    s.setRaw64 leaf (Leaf.withHzn w0 h)

/-- Hand out a translation to a floor and a core, raising the horizon of the page (R327). -/
def handOut (s : State) (gcore : Nat) (leaf : Nat) (w0 : DWord) (c : Cached) : State :=
  let s := s.updDie (dieOf gcore) (fun d => { d with ftcache := addCopy 32768 d.ftcache c })
  let s := s.updCore gcore (fun x => { x with tcache := addCopy 2048 x.tcache c })
  s.raiseHorizon c.tenant c.vpn leaf w0 c.leaseEnd

/-- Segment of a tenant that covers a page of its own. -/
def segmentOf (s : State) (o vpn : Nat) (p : Segment → Bool) : Option Segment :=
  (List.range 8).findSome? (fun n =>
    let g := s.segment o n
    if g.len != 0 && g.base ≤ vpn * 4096 && vpn * 4096 < g.base + g.len && p g then some g else none)

/-- A page of another tenant that a shared backing page is (R358). -/
structure SharedPage where
  owner : Nat
  vpn : Nat
  /-- The frame that holds the backing for the owner. -/
  frame : Option Nat
  acc : Nat

/-- The page whose segment gives a tenant a shared backing page (R358). -/
def sharedPage (s : State) (t : Nat) (backing : Nat) : Option SharedPage :=
  let grant := fun (o vpn : Nat) (frame : Option Nat) =>
    (s.segmentOf o vpn (fun g => g.grant.getLsbD t)).map (fun g => ({ owner := o, vpn, frame, acc := g.acc } : SharedPage))
  let held := s.tables.frames.findSome? (fun e =>
    if (e.2.state == .mapped || e.2.state == .draining) && e.2.role == .page && e.2.backing == backing && e.2.owner != t then
      grant e.2.owner e.2.vpn (some e.1)
    else none)
  match held with
  | some x => some x
  | none =>
    -- no frame holds it: a segment page of an owner whose leaf names this backing
    (List.range 16).findSome? (fun o =>
      if o == t || !(s.tenant o).defined then none
      else (List.range 8).findSome? (fun n =>
        let g := s.segment o n
        if g.len == 0 || !g.grant.getLsbD t then none
        else (List.range (g.len / 4096)).findSome? (fun i =>
          match s.rawWalk o (g.base + 4096 * i) with
          | .leaf _ _ w1 =>
            if w1.toNat == backing then some { owner := o, vpn := g.base / 4096 + i, frame := none, acc := g.acc } else none
          | _ => none)))

/-- Is a leaf with SHR set that of a grantee: the page lies in no segment of the tenant's own (R324, R358)? -/
def grantee (s : State) (t vpn : Nat) (w0 : DWord) : Bool :=
  Leaf.kind w0 == 0 && Leaf.shr w0 && (s.segmentOf t vpn (fun _ => true)).isNone

/-- The table words that a walk reads: byte address and length of each. -/
def walkReads (s : State) (t va : Nat) : List Nat → Nat → List (Nat × Nat)
  | [], table => if s.ownsChannel t table && inHbm table then [(s.local_ (table + bitsOf va 19 12 * 16), 16)] else []
  | sh :: rest, table =>
    if !s.ownsChannel t table || !inHbm table then []
    else
      let a := s.local_ (table + (va / 2 ^ sh % 512) * 8)
      let e := (s.raw64 a).toNat
      (a, 8) :: (if !bitOf e 0 || bitsOf e 63 40 != 0 || bitsOf e 11 1 != 0 then []
        else s.walkReads t va rest (bitsOf e 39 12 * 4096))

/-- The channels check the words that a walk reads (R220): their errors are counted. The walk goes on with an uncorrectable word as
it stands, for which the spec names no effect (log entry 88, DESIGN CHOICE). -/
def checkWalk (s : State) (t va : Nat) : State :=
  (s.walkReads t va [47, 38, 29, 20] (s.tenant t).ptroot).foldl (fun s x => (s.readBytes x.1 x.2).1) s

/-- Complete a walk for a page: what the loft hands out, or why it does not (R306, R326, R328, R350, R358). -/
inductive WalkResult where
  | handed (s : State)
  /-- MIG is set: the lookup waits. -/
  | waits
  | noMapping
  | permission
  | hole (addr : Nat)

def completeWalk (s : State) (gcore t va : Nat) : WalkResult :=
  let s := s.checkWalk t va
  match s.walk t va with
  | .noMapping => .noMapping
  | .forbidden => .permission
  | .hole a => .hole a
  | .leaf a w0 w1 =>
    let backing := w1.toNat
    let vpn := va / 4096
    if Leaf.mig w0 then .waits
    else
      let copy : Cached := { tenant := t, gen := (s.tenant t).gen, vpn, word0 := w0, word1 := w1,
                             leaseEnd := s.gt + (s.tenant t).lease }
      if s.grantee t vpn w0 then
        match s.sharedPage t backing with
        | some x =>
          -- the owner's page keeps the grantee's lease too: it is the page that moves, and while it does none is handed out (R328)
          let c := { copy with sharedFrame := x.frame, acc := x.acc }
          match s.rawWalk x.owner (x.vpn * 4096) with
          | .leaf b v0 _ =>
            if Leaf.mig v0 then .waits
            else .handed ((s.raiseHorizon x.owner x.vpn b v0 copy.leaseEnd).handOut gcore a w0 c)
          | _ => .handed (s.handOut gcore a w0 c)
        | none => .permission
      else if Leaf.kind w0 == 3 then
        if Config.packageAnswers (pkgOf backing) s.gt then .handed (s.handOut gcore a w0 copy) else .permission
      else if pkgOf backing == s.net.pkg && !s.ownsChannel t backing then .permission
      else .handed (s.handOut gcore a w0 copy)

/-! ## Frames -/

/-- Copy one 64-byte sector: a correctable word is corrected and counted, and an uncorrectable word poisons the target
sector and is consumed by nobody (R220, R333). A fill does as a move and a write-back do: both words of its sector are poisoned (log entry
110, DESIGN CHOICE). -/
def carrySector (s : State) (src dst : Nat) : State :=
  let (s, bs, bad) := s.readBytes src 64
  let s := ((s.setBytes dst bs).setSyndrome dst 0).setSyndrome (dst + 32) 0
  if bad then s.poison dst 64 else s

/-- Copy `n` bytes sector by sector. -/
def carry (s : State) (src dst n : Nat) : State :=
  (List.range (n / 64)).foldl (fun s i => s.carrySector (src + 64 * i) (dst + 64 * i)) s

def sectorValid (s : State) (fid n : Nat) : Bool := (s.frame fid).valid.getLsbD n

def markValid (s : State) (fid n : Nat) : State := s.updFrame fid (fun f => { f with valid := f.valid ||| sectorBit n })
def markDirty (s : State) (fid n : Nat) : State := s.updFrame fid (fun f => { f with dirty := f.dirty ||| sectorBit n })

/-- Fetch one sector of a page frame from its backing (R216). -/
def fillFromBacking (s : State) (fid n : Nat) : State :=
  if s.sectorValid fid n then s
  else (s.carry ((s.frame fid).backing + 64 * n) (frameLoc fid (64 * n)).phys 64).markValid fid n

/-- Fetch one sector of a remote-line frame, merging under the mask (R219): its line is read through the directory. A word that is
uncorrectable at home is so here, except one that was written here whole (R220). While the line's range is rebuilt no copy is granted (R407). -/
def fillRemote (s : State) (fid n : Nat) (cls : Nat := 0) : State :=
  let fr := s.frame fid
  let home := fr.backing + 64 * n
  if s.sectorValid fid n || s.rangeClosed home then s
  else
    let here := (frameLoc fid (64 * n)).phys
    let (s, bs, bad) := s.askHome fr.owner cls home 64 true
    let fetched := (bs.zipIdx.map (fun x => (x.2, x.1))).filter (fun x => !s.isMasked (here + x.1))
    let s := s.mergeBytes here 2 fetched
    let whole := fun (w : Nat) => (List.range 32).all (fun i => s.isMasked (here + 32 * w + i))
    ((List.range 2).foldl (fun s w => if bad && !whole w then s.poison (here + 32 * w) 32 else s) s).markValid fid n

/-- The frame that holds a backing page for whichever tenant (R358). -/
def holderOf (s : State) (backing : Nat) : Option Nat :=
  (s.tables.frames.find? (fun e => e.2.backing == backing && (e.2.state == .mapped || e.2.state == .draining) &&
    (e.2.role == .page || e.2.role == .remoteLine))).map (·.1)

/-! ### Places -/

/-- The place of an access after translation and forwarding. -/
inductive Place where
  /-- Scratch bytes. -/
  | scratch (loc : Loc)
  | hbm (addr : Nat)
  | frame (fid off : Nat)
  | remote (addr : Nat)
  /-- A place to which FORWARDING frames have passed the access on: each counts it where it is performed (R329). -/
  | forwarded (hops : List Nat) (p : Place)
  deriving DecidableEq, Repr

/-- The place itself, once the forwarding is counted. -/
def Place.bare : Place → Place
  | .forwarded _ p => p.bare
  | p => p

/-- The remote-line frame in which this package holds a remote page now (R219). -/
def remoteHolder (s : State) (a : Nat) : Option Nat :=
  (s.tables.frames.find? (fun e => e.2.role == .remoteLine && (e.2.state == .mapped || e.2.state == .draining) &&
    e.2.backing / 4096 == a / 4096)).map (·.1)

/-- The entry that forwards from a backing address: a channel's (R331), or what a PUBLISH left of a page with no frame (R252, R335), which
reads through stale translations pass by. -/
def forwardOf (s : State) (read : Bool) (a : Nat) : Option ChannelForward :=
  s.tables.forwards.find? (fun y => y.page == a / 4096 && s.gt < y.horizon && !(read && y.published))

/-- Where an access ends: the FORWARDING frames that pass it on, whether a PUBLISH left one of the places, and the place. -/
structure Path where
  hops : List Nat := []
  published : Bool := false
  place : Place

/-- Follow what forwards from a place (R331 to R333, R337): FORWARDING frames and the forward entries of channels, but what a PUBLISH
has left still serves reads through stale translations (R252). A remote page that a frame holds is reached there (R219). -/
def follow (s : State) (read : Bool) (x : Path) : Nat → Path
  | 0 => x
  | n + 1 =>
    match x.place with
    | .frame fid off =>
      let fr := s.frame fid
      if fr.state == .forwarding && !(read && fr.published) then
        let next := if fr.fwd != 0x1FFFFF then Place.frame fr.fwd off
          else if pkgOf fr.backing == s.net.pkg then .hbm (fr.backing + off) else .remote (fr.backing + off)
        s.follow read { hops := x.hops ++ [fid], published := x.published || fr.published, place := next } n
      else x
    | .hbm a =>
      match s.forwardOf read a with
      | some y => s.follow read { x with published := x.published || y.published, place := .frame y.fid (a % 4096) } n
      | none => x
    | .remote a =>
      match s.forwardOf read a, s.remoteHolder a with
      | some y, _ => s.follow read { x with published := x.published || y.published, place := .frame y.fid (a % 4096) } n
      | none, some fid => { x with place := .frame fid (a % 4096) }
      | none, none => x
    | _ => x

/-- The path of an access from the place that its translation names: each hop leads to a later place of the page, so there are no
more than frames and forward entries. -/
def pathFrom (s : State) (p : Place) (read : Bool) : Path :=
  s.follow read { place := p } (2 * s.tables.frames.length + 2)

/-- The place of a path, with the hops still to be counted. -/
def Path.target (x : Path) : Place := if x.hops.isEmpty then x.place else .forwarded x.hops x.place

/-- The place of byte `off` of the page that a tenant's entry names now; of the backing given where it names none (R334, R335). -/
def namedPlace (s : State) (t vpn off backing : Nat) : Place :=
  let home := fun (b : Nat) => if pkgOf b == s.net.pkg then Place.hbm (b + off) else .remote (b + off)
  let named := match s.walk t (vpn * 4096) with
    | .leaf _ w0 w1 =>
      match Leaf.kind w0 with
      | 1 => Place.frame (Leaf.target w0) off
      | 2 => .frame (Sparse.get ({} : ReplicaSet) s.tables.replicas (Leaf.target w0 % 4096)).master off
      | _ =>
        match if s.grantee t vpn w0 then s.holderOf w1.toNat else none with
        | some fid => .frame fid off
        | none => home w1.toNat
    | _ => home backing
  (s.pathFrom named true).place

/-- The backing address of a place of a page. -/
def Place.backing (s : State) : Place → Nat
  | .frame fid off => (s.frame fid).backing + off
  | .hbm a | .remote a => a
  | .scratch l => l.phys
  | .forwarded _ p => p.backing s

/-- Copy a sector of the visible page in frame `src` into the frame of a replica or a shadow. A remote line whose range is rebuilt is read at
its home (R407), under the bytes that this package has written (R219). -/
def fillFromVisible (s : State) (src fid n cls : Nat) : State :=
  let fr := s.frame src
  let from_ := (frameLoc src (64 * n)).phys
  let here := (frameLoc fid (64 * n)).phys
  if fr.role == .remoteLine && !s.sectorValid src n && s.rangeClosed (fr.backing + 64 * n) then
    let (s, bs, bad) := s.askHome fr.owner cls (fr.backing + 64 * n) 64 false
    let s := s.writeBytes here (bs.zipIdx.map (fun x => if s.isMasked (from_ + x.2) then s.byteAt (from_ + x.2) else x.1))
    (if bad then s.poison here 64 else s).markValid fid n
  else
    let s := if fr.role == .remoteLine then s.fillRemote src n cls else s.fillFromBacking src n
    (s.carry from_ here 64).markValid fid n

/-- A shadow takes the current content of a line that another package owns, `a` being the sector's backing: it is read as the home's cores
read it (R335, R403). Only the owner's bytes are laid over what was copied; an uncorrectable word that they leave in part stays so (R220). -/
def mergeShadow (s : State) (fid n cls a : Nat) : State :=
  match s.ownedElsewhere (a / 256) with
  | some _ =>
    let here := (frameLoc fid (64 * n)).phys
    let s := s.homeTouch (s.frame fid).owner cls a false
    let old := s.rawBytes here 64
    let new := s.merged a old
    s.mergeBytes here 2 (((old.zip new).zipIdx.filter (fun x => x.1.1 != x.1.2)).map (fun x => (x.2, x.1.2)))
  | none => s

/-- Fill a sector of a replica or a shadow from the place of its page: a frame, or the backing, on another package by a read of the line
there (R334, R335, R414). -/
def fillFrom (s : State) (fid n cls : Nat) (p : Place) : State :=
  let here := (frameLoc fid (64 * n)).phys
  match p.bare with
  | .frame src _ =>
    let s := s.fillFromVisible src fid n cls
    if (s.frame fid).role == .shadow then s.mergeShadow fid n cls ((s.frame src).backing + 64 * n) else s
  | .hbm a => ((s.carry a here 64).markValid fid n).mergeShadow fid n cls a
  | p =>
    let (s, bs, bad) := s.askHome (s.frame fid).owner cls (p.backing s) 64 false
    let s := s.writeBytes here bs
    (if bad then s.poison here 64 else s).markValid fid n

/-- The master of the set that a replica frame belongs to. -/
def masterOf (s : State) (fid : Nat) : Option Nat :=
  (s.tables.replicas.find? (fun (e : Nat × ReplicaSet) => e.2.frames.contains fid)).map (·.2.master)

/-- Fetch one sector of a frame by its role (R216, R219, R334, R335): a replica fills from its set's master, and a .COPY shadow from the page
that the entry names. -/
def fillSector (s : State) (fid n : Nat) (cls : Nat := 0) : State :=
  if s.sectorValid fid n then s
  else
    let fr := s.frame fid
    match fr.role with
    | .remoteLine => s.fillRemote fid n cls
    | .page => s.fillFromBacking fid n
    | .shadow => s.fillFrom fid n cls (s.namedPlace fr.owner fr.vpn (64 * n) fr.backing)
    | .replica =>
      match s.masterOf fid with
      | some m => s.fillFrom fid n cls (.frame m (64 * n))
      | none => s.fillFrom fid n cls (s.namedPlace fr.owner fr.vpn (64 * n) fr.backing)

/-- Before a visible sector of a page changes, its .COPY shadow takes the old content (R335). -/
def preserveShadow (s : State) (backing n : Nat) : State :=
  s.tables.shadows.foldl (fun s sh =>
    if sh.copy && !s.sectorValid sh.fid n &&
        (s.namedPlace sh.tenant sh.vpn 0 (s.frame sh.fid).backing).backing s / 4096 == backing / 4096 then s.fillSector sh.fid n
    else s) s

/-- Before the home's content of a line changes, the shadows of its page take the old content (R297, R335). -/
def preserveLine (s : State) (line : Nat) : State :=
  (List.range 4).foldl (fun s i => s.preserveShadow (line / 16 * 4096) (4 * (line % 16) + i)) s

/-- The owner's access resets AGE (R329, R338). -/
def touchFrame (s : State) (fid t : Nat) : State :=
  if (s.frame fid).owner == t then s.updFrame fid (fun f => { f with age := 0, touched := true }) else s

/-- Read `n` bytes of a frame for a tenant and class, all in one sector, filling it first (R216, R219). Where another package owns the
line, its bytes are read (R403). -/
def frameRead (s : State) (t cls fid off n : Nat) : State × List Byte × Bool :=
  let here := (frameLoc fid off).phys
  let fr := s.frame fid
  let masked := fr.role == .remoteLine && (List.range n).all (fun i => s.isMasked (here + i))
  let s := if s.sectorValid fid (off / 64) || masked then s else s.fillSector fid (off / 64) cls
  if fr.role == .remoteLine || fr.role == .shadow then s.readBytes here n
  else
    let (s, bs, bad) := (s.homeTouch t cls (fr.backing + off) false).readBytes here n
    (s, s.merged (fr.backing + off) bs, bad)

/-- Write bytes of a frame for a tenant and class, all in one sector (R216, R219, R334, R335). -/
def frameWrite (s : State) (t cls fid off : Nat) (bs : List Byte) : State :=
  let fr := s.frame fid
  let n := off / 64
  let here := (frameLoc fid off).phys
  match fr.role with
  | .remoteLine =>
    let line := (fr.backing + off) / 256
    let s := s.preserveShadow fr.backing n
    let s := if s.rangeUncached (line * 256) then s.noteUncached (line * 256) true else s.takeLine fr.owner cls line
    ((s.writeBytes here bs).setMasks here bs.length true).markDirty fid n
  | .shadow =>
    let s := if bs.length == 64 then s else s.fillSector fid n
    ((s.writeBytes here bs).markValid fid n).markDirty fid n
  | _ =>
    let s := s.preserveShadow fr.backing n
    let s := (s.homeTouch t cls (fr.backing + off) true).invalidateReplicas fid n
    let s := if bs.length == 64 then s else s.fillSector fid n
    ((s.writeBytes here bs).markValid fid n).markDirty fid n

/-! ## Where an access is performed -/

/-- What a translated or scratch access meets. -/
inductive Access where
  | at (s : State) (p : Place)
  /-- A value trap of this cause (R224). -/
  | trap (s : State) (cause : Nat)
  | park (s : State)
  /-- The access waits: a replica collapse, a port-down, a rebuild in HOLD. -/
  | wait (s : State)
  | hole (a : Nat)

/-- Does the copy allow the access (R326, R358)? -/
def permits (c : Cached) (supervisor : Bool) (k : AccKind) : Bool :=
  k == .diag ||
    ((!Leaf.sup c.word0 || supervisor) &&
     (!k.needsRead || (Leaf.r c.word0 && bitOf c.acc 0)) &&
     (!k.needsWrite || (Leaf.w c.word0 && bitOf c.acc 1)))

/-- Begin the collapse of a page's replica set (R334). Where software has changed the entry, MIG goes into none, and the gleaner loses at the
end (R332, R337, R343). -/
def beginCollapse (s : State) (t vpn : Nat) : State :=
  match s.tables.replicas.find? (fun (e : Nat × ReplicaSet) => e.2.tenant == t && e.2.vpn == vpn) with
  | none => s
  | some (n, set) =>
    let collapse := fun (s : State) (w0 w1 : DWord) => ({ s with tables := { s.tables with
      moves := s.tables.moves ++ [{ kind := .collapse, tenant := t, vpn, word0 := w0, word1 := w1, src := some set.master,
                                    dst := set.frames, horizon := s.horizon t vpn }] } } : State)
    if s.tables.moves.any (fun m => m.tenant == t && m.vpn == vpn) then s
    else
      match s.rawWalk t (vpn * 4096) with
      | .leaf a w0 w1 =>
        if Leaf.kind w0 == 2 && Leaf.target w0 % 4096 == n then
          let w0' := Leaf.withBit w0 8 true
          collapse ((s.checkWalk t (vpn * 4096)).setRaw64 a w0') w0' w1
        else collapse s 0 0
      | _ => collapse s 0 0

/-- An access that the switch of its line resolves goes on to its place, or it waits: for the port, for a rebuild in HOLD, or for a request
of the line in progress (R403, R407, R409). -/
def switchAccess (s : State) (ag : Agent) (lane a : Nat) (p : Place) : Access :=
  if s.remoteWaits a then
    let s := if s.net.pendings.any (fun p => p.wid == ag.wid && p.lane == lane && p.line == a / 256) then s
      else { s with net := { s.net with
          pendings := s.net.pendings ++ [{ wid := ag.wid, lane, line := a / 256, since := s.gt }] } }
    .wait s
  else if !inHbm a then .hole a
  else .at { s with net := { s.net with
      pendings := s.net.pendings.filter (fun p => !(p.wid == ag.wid && p.lane == lane && p.line == a / 256)) } } p

/-- A remote access. -/
def remoteAccess (s : State) (ag : Agent) (lane a : Nat) : Access := s.switchAccess ag lane a (.remote a)

/-- Remove a page's copies from the caches of a core and its floor (R252). -/
def dropStale (s : State) (gcore t vpn : Nat) : State :=
  let out := fun (c : Cached) => !(c.tenant == t && c.vpn == vpn)
  (s.updCore gcore (fun x => { x with tcache := x.tcache.filter out })).updDie (dieOf gcore)
    (fun d => { d with ftcache := d.ftcache.filter out })

/-- An access that reaches a remote-line frame: it waits as a remote access does, and while the line's range is rebuilt it
is performed at the home (R219, R407, R409). -/
def throughLines (s : State) (ag : Agent) (lane fid off : Nat) : Access :=
  let home := (s.frame fid).backing + off
  match s.remoteAccess ag lane home with
  | .at s p => .at s (if s.rangeUncached home then p else .frame fid off)
  | a => a

/-- An access at the place that forwarding has found. One to an exported line of this package, in HBM or in a frame, is a request of the
home to the line's switch (R402). -/
def arriveAt (s : State) (ag : Agent) (lane : Nat) (p : Place) : Access :=
  match p with
  | .frame f off =>
    let a := (s.frame f).backing + off
    if (s.frame f).role == .remoteLine then s.throughLines ag lane f off
    else if (s.frame f).role != .shadow && s.homeExported a then s.switchAccess ag lane a p
    else .at s p
  | .hbm a => if s.homeExported a then s.switchAccess ag lane a p else .at s p
  | .remote a => s.remoteAccess ag lane a
  | _ => .at s p

/-- An access from the place that its translation names: what forwards for the page is followed, and a write that a PUBLISH has made
stale removes the translation (R252, R331). -/
def reach (s : State) (ag : Agent) (lane vpn : Nat) (p : Place) (k : AccKind) : Access :=
  let x := s.pathFrom p (!k.needsWrite)
  let s := if k.needsWrite && x.published then s.dropStale ag.gcore ag.tenant vpn else s
  match s.arriveAt ag lane x.place with
  | .at s p => .at s ({ x with place := p } : Path).target
  | a => a

/-- Boundary of R351 for a frame that is not shared. -/
def reachFrame (s : State) (ag : Agent) (lane vpn fid off : Nat) (k : AccKind) (shared : Bool) : Access :=
  if !shared && !s.ownsColumn ag.tenant (colOfFid fid) then .trap s 8
  else s.reach ag lane vpn (.frame fid off) k

/-- Is an engine's request in progress? -/
def requestRuns (s : State) (serial : Nat) : Bool :=
  s.cores.any (fun e => e.2.wain.progress.any (fun r => r.serial == serial)) ||
  s.dies.any (fun e => e.2.engines.any (fun x => x.2.progress.any (fun r => r.serial == serial)))

/-- Does an arrival still wait: some lane of its warp stands at its instruction, or the request that makes it is in progress? -/
def arrivalWaits (s : State) (a : Arrival) : Bool :=
  let w := s.warp a.wid
  if a.req != 0 then s.requestRuns a.req
  else w.residence == .resident &&
    (w.lanes.any (fun e => e.2.pc == a.pc && e.2.status == .running) || w.rob.any (fun e => e.pc == a.pc))

/-- Writes that collapses of a page have held and that still wait, the oldest first (R334). -/
def heldWrites (s : State) (t vpn : Nat) : List Arrival :=
  s.tables.arrivals.filter (fun a => a.tenant == t && a.vpn == vpn && s.arrivalWaits a)

/-- The write that an agent makes to a page of a tenant, as collapses hold it: the PC names an instruction, the serial number an engine's
request. -/
def arrivalOf (s : State) (ag : Agent) (lane t vpn : Nat) : Arrival :=
  { tenant := t, vpn, wid := ag.wid, lane, pc := if ag.req == 0 then s.cur.pc else 0, req := ag.req }

/-- A write joins those that a collapse of a tenant's page holds: by a warp or by an engine. -/
def holdWrite (s : State) (ag : Agent) (lane t vpn : Nat) : State :=
  let a := s.arrivalOf ag lane t vpn
  if ag.addend || s.tables.arrivals.contains a then s
  else { s with tables := { s.tables with arrivals := s.tables.arrivals.filter s.arrivalWaits ++ [a] } }

/-- An older held write of the page must be performed first. -/
def behindHeld (s : State) (ag : Agent) (lane t vpn : Nat) : Bool :=
  match (s.heldWrites t vpn).head? with
  | some a => ag.addend || a != s.arrivalOf ag lane t vpn
  | none => false

/-- A held write is performed: it holds others back no more. -/
def passArrival (s : State) (ag : Agent) (lane t vpn : Nat) : State :=
  { s with tables := { s.tables with arrivals := s.tables.arrivals.erase (s.arrivalOf ag lane t vpn) } }

/-- The owner's page that a copy reaches: a grantee's copy names the frame of another tenant (R358). -/
def ownerPage (s : State) (t vpn : Nat) (c : Cached) : Nat × Nat :=
  match c.sharedFrame with
  | some fid => ((s.frame fid).owner, (s.frame fid).vpn)
  | none => (t, vpn)

/-- Is the page one of a replica set now? -/
def isReplicated (s : State) (t vpn : Nat) : Bool :=
  s.tables.replicas.any (fun e => e.2.tenant == t && e.2.vpn == vpn) &&
    (match s.walk t (vpn * 4096) with
     | .leaf _ w0 _ => Leaf.kind w0 == 2
     | _ => false)

/-- Where a global access through a live copy ends (R229), before a held write is taken out. -/
def copyAccess (s : State) (ag : Agent) (lane va : Nat) (c : Cached) (k : AccKind) : Access :=
  let off := va % 4096
  let vpn := va / 4096
  let backing := c.word1.toNat
  let (o, v) := s.ownerPage ag.tenant vpn c
  if !permits c (ag.tenant == 0) k then .trap s 8
  else if k.needsWrite && Leaf.kind c.word0 != 2 && c.sharedFrame.isSome && s.isReplicated o v then
    -- a grantee's write to a page of replicas collapses the owner's set (R334)
    .wait ((s.beginCollapse o v).holdWrite ag lane o v)
  else if k.needsWrite && Leaf.kind c.word0 != 2 && s.behindHeld ag lane o v then .wait s
  else
    match Leaf.kind c.word0 with
    | 0 =>
      match c.sharedFrame with
      | some fid => s.reachFrame ag lane vpn fid off k true
      | none =>
        if !s.grantee ag.tenant vpn c.word0 && !s.ownsChannel ag.tenant backing then .trap s 8
        else if !inHbm backing then .hole backing
        else s.reach ag lane vpn (.hbm (s.local_ (backing + off))) k
    | 1 => s.reachFrame ag lane vpn (Leaf.target c.word0) off k false
    | 2 =>
      let set := Sparse.get {} s.tables.replicas (Leaf.target c.word0 % 4096)
      if k == .diag then .trap s 8
      else if k.needsWrite then
        -- a copy handed out before a collapse that is over: the master's frame holds the page
        if Sparse.mem s.tables.replicas (Leaf.target c.word0 % 4096) then
          .wait ((s.beginCollapse ag.tenant vpn).holdWrite ag lane ag.tenant vpn)
        else if s.behindHeld ag lane ag.tenant vpn then .wait s
        else match s.namedPlace ag.tenant vpn off backing with
          | .frame fid off => s.reachFrame ag lane vpn fid off k false
          | _ => .park s
      else
        match set.frames.find? (fun f => colOfFid f / 48 == dieOf ag.gcore) with
        | some f => s.reachFrame ag lane vpn f off k false
        | none => s.reachFrame ag lane vpn set.master off k false
    | _ =>
      if k == .diag then .trap s 8
      else s.reach ag lane vpn (.remote (backing + off)) k

/-- A global access through a live copy (R229, R334). -/
def throughCopy (s : State) (ag : Agent) (lane va : Nat) (c : Cached) (k : AccKind) : Access :=
  match s.copyAccess ag lane va c k with
  | .at s' p =>
    let (o, v) := s.ownerPage ag.tenant (va / 4096) c
    .at (if k.needsWrite && !s'.tables.arrivals.isEmpty then s'.passArrival ag lane o v else s') p
  | r => r

/-- The scratch location that an agent's address names (R206, R208), if it lies within an allocation it may reach, in a column of its
tenant (R348, R351). The engines that work for a block that has retired still reach its own scratch until they are done (R138, R207). -/
def scratchPlace (s : State) (ag : Agent) (r : VaRange) (engine : Bool := false) : Option Loc :=
  let inBlock := fun (b : Block) (off : Nat) =>
    if (b.alive || engine) && off < b.units * 4096 && s.ownsColumn ag.tenant b.gcore then some (scratchLoc b.gcore (b.unit + off / 4096) (off % 4096)) else none
  match r with
  | .scratch off =>
    match s.block? ag.grid ag.block with
    | some b => inBlock b off
    | none => none
  | .window c off =>
    match s.block? ag.grid ag.block with
    | some me =>
      match s.loft.blocks.find? (fun b => b.alive && b.grid == ag.grid && b.gang == me.gang &&
          b.gcore == ag.gcore / 4 * 4 + c) with
      | some b => inBlock b off
      | none => none
    | none => none
  | _ => none

/-- Resolve an address for an access: range, translation, permission and place (R205, R224, R229, R298). -/
def resolve (s : State) (ag : Agent) (lane : Nat) (va : DWord) (k : AccKind) : Access :=
  match rangeOfVa va with
  | .nowhere => .trap s 8
  | .global a =>
    let (s, c) := s.lookup ag.gcore ag.tenant (a / 4096)
    match c with
    | none => .park s
    | some c =>
      match s.throughCopy ag lane a c k with
      | .at s' p =>
        -- engine and drain writes to a page that holds a shadow land in the shadow (R298)
        if k == .engineWrite then
          match s'.tables.shadows.find? (fun sh => sh.tenant == ag.tenant && sh.vpn == a / 4096) with
          | some sh => .at s' (.frame sh.fid (a % 4096))
          | none => .at s' p
        else .at s' p
      | r => r
  | r =>
    if k == .fetch then .trap s 8
    else
      match s.scratchPlace ag r (k == .engineRead || k == .engineWrite) with
      | some loc => .at s (.scratch loc)
      | none => .trap s 8

/-! ## Performing an access at its place -/

/-- Record the write-completion time of a store-like access (R241). -/
def noteStore (s : State) (wid t : Nat) : State := s.updWarp wid (fun w => { w with gwct := max w.gwct t })

/-- A store at the source of a move or eviction is complete only at the switch (R333, R347). -/
def joinMove (s : State) (wid fid : Nat) : State :=
  let x := (wid, if s.cur.wid == wid then s.cur.lanes else 0, s.cur.op)
  { s with tables := { s.tables with moves := s.tables.moves.map (fun m =>
      if m.src == some fid && (m.kind == .place || m.kind == .evict) && !m.writers.contains x then
        { m with writers := m.writers ++ [x] } else m) } }

/-- Record a write that a warp has performed at a place (R236, R241). -/
def noteWrite (s : State) (wid : Nat) (p : Place) : State :=
  match p.bare with
  | .frame fid _ => (s.noteStore wid s.gt).joinMove wid fid
  | _ => s.noteStore wid s.gt

/-- Has the instruction that runs asked for the 128-byte block of an address already (R414)? -/
def askedBlock (s : State) (a : Nat) : Bool := s.cur.wid != 0 && s.net.asked.contains (s.cur.wid, s.cur.op, a / 128)

/-- Remember the block of an address for the instruction that runs, and forget those of instructions that have retired. -/
def noteAsked (s : State) (a : Nat) : State :=
  if s.cur.wid == 0 then s
  else
    let live := fun (x : Nat × Nat × Nat) => (x.1 == s.cur.wid && x.2.1 == s.cur.op) ||
      (s.warp x.1).rob.any (fun e => e.op == x.2.1)
    { s with net := { s.net with asked := s.net.asked.filter live ++ [(s.cur.wid, s.cur.op, a / 128)] } }

/-- An uncached read at a remote home (R414): an instruction sends one request for each 128-byte block that it reads. -/
def remoteRead (s : State) (t cls a n : Nat) : State × List Byte × Bool :=
  if s.askedBlock a then
    let (s, bs, bad) := s.readBytes a n
    (s, s.merged a bs, bad)
  else (s.noteAsked a).askHome t cls a n false

/-- A store to a REMOTE page without a frame: performed at the home after every holder is invalidated, as a home write
is (R229, R403). DEDUCED, log entry 20. -/
def remoteWrite (s : State) (t cls a : Nat) (bs : List Byte) : State :=
  let s := s.sendMessage t cls 0 a bs
  let s := if s.rangeUncached a then s.noteUncached a true
    else match s.dirEntry? (a / 256) with
      | none => s.countResolved s.net.pkg false
      | some e => (s.dirHomeWrite (a / 256)).countResolved s.net.pkg (e.state != .shared)
  s.writeBytes a bs

/-- Each FORWARDING frame of a path counts an access (R329). -/
def countHops (s : State) (hops : List Nat) : State :=
  hops.foldl (fun s fid => s.updFrame fid (fun f => { f with fwdcnt := min 0xFFFF (f.fwdcnt + 1) })) s

/-- Read bytes at a place for a tenant; true where they are uncorrectable. -/
def readAt (s : State) (t cls : Nat) (p : Place) (n : Nat) : State × List Byte × Bool :=
  match p with
  | .scratch loc => s.readBytes loc.phys n
  | .hbm a =>
    let (s, bs, bad) := (s.homeTouch t cls a false).readBytes a n
    (s, s.merged a bs, bad)
  | .frame fid off => (s.touchFrame fid t).frameRead t cls fid off n
  | .remote a => s.remoteRead t cls a n
  | .forwarded hops p => (s.countHops hops).readAt t cls p n

/-- Write bytes at a place for a tenant. -/
def writeAt (s : State) (t cls : Nat) (p : Place) (bs : List Byte) : State :=
  match p with
  | .scratch loc => s.writeBytes loc.phys bs
  | .hbm a => ((s.preserveShadow (a / 4096 * 4096) (a % 4096 / 64)).homeTouch t cls a true).writeBytes a bs
  | .frame fid off => (s.touchFrame fid t).frameWrite t cls fid off bs
  | .remote a => (s.preserveShadow (a / 4096 * 4096) (a % 4096 / 64)).remoteWrite t cls a bs
  | .forwarded hops p => (s.countHops hops).writeAt t cls p bs

/-- The physical number of a place's byte, for tickets and addends. -/
def placePhys (p : Place) : Nat :=
  match p with
  | .scratch loc => loc.phys
  | .hbm a => a
  | .frame fid off => (frameLoc fid off).phys
  | .remote a => a
  | .forwarded _ p => placePhys p

/-- The bytes of an allocation, a frame or a unit have new ticket counters (R200). -/
def clearTickets (s : State) (p n : Nat) : State :=
  { s with mem := { s.mem with tickets := s.mem.tickets.filter (fun e => e.1 * 256 < p || p + n ≤ e.1 * 256) } }

/-- A FREE frame is taken (R330): its ticket counters are 0 (R200). -/
def useFrame (s : State) (fid : Nat) (f : Frame) : State := (s.clearTickets (frameLoc fid 0).phys 4096).setFrame fid f

end State

end Sys2Proof.Machine
end

