-- ==== Sys2Proof/Machine/Traps.lean ====
section
/-! DEFINITION. Trap causes (R301), trap records (R309, R311) and the delivery of a trap to lanes (R302): taking an
exception is the one operation `deliver`. -/

namespace Sys2Proof.Machine

/-! ## Cause codes (R301) -/

namespace Cause

def illop : Nat := 0x01
def regbound : Nat := 0x02
def regalign : Nat := 0x03
def branchAlign : Nat := 0x04
def ifetchParity : Nat := 0x05
def memAlign : Nat := 0x06
def translation : Nat := 0x07
def permission : Nat := 0x08
def bound : Nat := 0x09
def matrixPartial : Nat := 0x0A
def feTimeout : Nat := 0x0B
def barrierBroken : Nat := 0x0C
def uncorrectable : Nat := 0x0D
def watchdog : Nat := 0x0E
def userTrap : Nat := 0x0F
def breakpoint : Nat := 0x10
def privilege : Nat := 0x11
def queueFault : Nat := 0x12
def accUnalloc : Nat := 0x13
def fpx : Nat := 0x14
def linefmt : Nat := 0x15

end Cause

/-! ## Trap records -/

/-- The fields of a trap record that its writer gives (R311). -/
structure RecordFields where
  pc : DWord := 0
  addr : DWord := 0
  lanes : LaneMask := 0
  cause : Nat := 0
  flags : Nat := 0
  code : Nat := 0
  word : BitVec 96 := 0
  deriving DecidableEq, Repr

/-- The 64 bytes of a record (R311). -/
def recordBytes (r : RecordFields) (gt grid gen warp lost block seq : Nat) : TrapRecord :=
  leBytes 8 r.pc.toNat ++ leBytes 8 r.addr.toNat ++ leBytes 4 r.lanes.toNat ++ leBytes 1 r.cause ++
  leBytes 1 r.flags ++ leBytes 2 r.code ++ leBytes 8 gt ++ leBytes 4 grid ++ leBytes 2 gen ++ leBytes 1 warp ++
  leBytes 1 lost ++ leBytes 4 block ++ leBytes 4 seq ++ leBytes 12 r.word.toNat ++ leBytes 4 0

namespace State

/-- Write a record into a warp's queue of 16; a full queue drops it and counts it in LOST (R309). -/
def pushRecord (s : State) (wid : Nat) (r : RecordFields) : State :=
  let w := s.warp wid
  if w.records.length ≥ 16 then
    s.setWarp wid { w with lost := min 255 (w.lost + 1), seq := w.seq + 1 }
  else
    let b := recordBytes r s.gt w.grid w.gen w.warpNo w.lost w.block w.seq
    s.setWarp wid { w with records := w.records ++ [b], lost := 0, seq := w.seq + 1, entered := w.entered + 1 }

/-- Append records to a tenant's fault log (R310). -/
def logFaults (s : State) (t : Nat) (rs : List TrapRecord) : State :=
  { s with loft := { s.loft with faultLogs := Sparse.set [] s.loft.faultLogs t (Sparse.get [] s.loft.faultLogs t ++ rs) } }

end State

/-! ## Delivery -/

/-- A lane that traps: its number, TRAP_ADDR and record CODE. -/
structure TrapLane where
  lane : Nat
  addr : DWord := 0
  code : Nat := 0
  deriving DecidableEq, Repr

/-- TVEC names a handler (R302). -/
def validTvec (tvec : DWord) : Bool := tvec != 0 && isPc tvec

namespace Warp

/-- Deliver a cause to one lane (R302): the trap-report registers, and the jump to TVEC or the lane's exit. -/
def deliverLane (w : Warp) (pc : DWord) (cause : Nat) (t : TrapLane) : Warp :=
  let x := w.lane t.lane
  let x := { x with trapPc := pc, trapCause := BitVec.ofNat 64 cause, trapAddr := t.addr }
  if x.tag.isSome || !validTvec w.tvec then w.setLane t.lane { x with status := .exited }
  else w.setLane t.lane { x with status := .running, tag := some { cause, pc }, pc := w.tvec }

/-- FLAGS of a record for lanes delivered together: NESTED or UNHANDLED (R302, R311). -/
def trapFlags (w : Warp) (ts : List TrapLane) : Nat :=
  (if ts.any (fun t => (w.lane t.lane).tag.isSome) then 2 else 0) +
  (if ts.any (fun t => (w.lane t.lane).tag.isNone) && !validTvec w.tvec then 1 else 0)

end Warp

/-- The mask of the lanes of a list. -/
def TrapLane.mask (ts : List TrapLane) : LaneMask := LaneMask.ofPred (fun l => ts.any (fun t => t.lane == l))

namespace State

/-- Deliver one cause of one entry: one record first, then each lane (R302). -/
def deliver (s : State) (wid : Nat) (pc : DWord) (word : BitVec 96) (cause : Nat) (ts : List TrapLane) : State :=
  match ts with
  | [] => s
  | t :: _ =>
    let w := s.warp wid
    let s := s.pushRecord wid
      { pc, addr := t.addr, lanes := TrapLane.mask ts, cause, flags := w.trapFlags ts,
        code := ts.foldl (fun c t => c ||| t.code) 0, word }
    s.updWarp wid (fun w => ts.foldl (fun w t => w.deliverLane pc cause t) w)

/-- Deliver every cause of an entry, in increasing code order (R302). -/
def deliverAll (s : State) (wid : Nat) (pc : DWord) (word : BitVec 96) (traps : List (Nat × TrapLane)) : State :=
  (List.range 0x16).foldl (fun s c =>
    s.deliver wid pc word c ((traps.filter (fun t => t.1 == c)).map (·.2))) s

end State

end Sys2Proof.Machine
end

