-- ==== Sys2Proof/Machine/Barriers.lean ====
section
/-! DEFINITION. Barriers (R15, R372 to R377): their members, arrivals, phases and breaking, and what a phase gives the
instructions that wait for it (R379). -/

namespace Sys2Proof.Machine

namespace Warp

/-- Give up the extended block: v64 to v127 are discarded (R81). -/
def dropExt (w : Warp) : Warp := { w with ext := false, v := w.v.filter (fun e => e.1 % 128 < 64) }

/-- Take an extended block: v64 to v127 read 0 (R81). -/
def takeExt (w : Warp) : Warp := { w.dropExt with ext := true }

/-- No lane is left and no entry is unretired (R138). -/
def isOver (w : Warp) : Bool := w.live == 0 && w.rob.isEmpty && w.pauses.isEmpty

/-- The warp stands on its core and has not retired. -/
def onCore (w : Warp) : Bool := w.residence == .resident

/-- The warp's membership goes on (R373). -/
def isMember (w : Warp) : Bool := w.residence != .retired

/-- What is kept of a retired warp: its records, its place and its write-completion time (R310, R373). -/
def retire (w : Warp) : Warp :=
  { records := w.records, lost := w.lost, seq := w.seq, grid := w.grid, block := w.block, warpNo := w.warpNo,
    tenant := w.tenant, gen := w.gen, gcore := w.gcore, slot := w.slot, residence := .retired, gwct := w.gwct }

end Warp

namespace State

/-- The gang of a block (R12). -/
def gangOf (s : State) (g b : Nat) : Nat := b / Rec.g (s.grid g).record

/-- Numbers of the warps that satisfy `p`, in order. -/
def warpsWhere (s : State) (p : Warp → Bool) : List Nat := (s.warps.filter (fun e => p e.2)).map (·.1)

/-- Warps of a gang. -/
def gangWarps (s : State) (g gang : Nat) : List Nat :=
  s.warpsWhere (fun w => w.grid == g && s.gangOf g w.block == gang && w.isMember)

/-- Extended blocks held on a core (R142). -/
def extHeld (s : State) (c : Nat) : Nat := (s.warpsWhere (fun w => w.ext && w.gcore == c && w.onCore)).length

/-! ## Barriers -/

/-- Barrier of a scope, owner and index (R372). -/
def findBarrier (s : State) (scope g owner index : Nat) : Option Barrier :=
  s.loft.barriers.find? (fun b => b.scope == scope && b.grid == g && b.owner == owner && b.index == index)

def barrier? (s : State) (id : Nat) : Option Barrier := s.loft.barriers.find? (fun b => b.id == id)

def updBarrier (s : State) (id : Nat) (f : Barrier → Barrier) : State :=
  { s with loft := { s.loft with barriers := s.loft.barriers.map (fun b => if b.id == id then f b else b) } }

/-- Free the barriers that satisfy `p` (R15). -/
def freeBarriers (s : State) (p : Barrier → Bool) : State :=
  { s with loft := { s.loft with barriers := s.loft.barriers.filter (fun b => !p b) } }

/-- Member warps of a barrier (R373). -/
def members (s : State) (b : Barrier) : List Nat :=
  s.warpsWhere (fun w => w.grid == b.grid &&
    (match b.scope with
     | 1 => w.block == b.owner
     | 2 => s.gangOf b.grid w.block == b.owner
     | 3 => dieOf w.gcore == b.owner
     | _ => true))

end State

/-- The gangs of a grid that wait to be placed. -/
def gangsToPlace (x : Grid) : List Nat :=
  x.relaunch ++ (List.range (Rec.gangs x.record - x.nextGang)).map (fun i => x.nextGang + i)

namespace State

/-- Member warps of a PKG or POD barrier that are not there yet: those of the grid's gangs that wait to be placed (R373). -/
def unplacedMembers (s : State) (b : Barrier) : Nat :=
  let x := s.grid b.grid
  if b.scope ≥ 4 then (gangsToPlace x).length * Rec.g x.record * Rec.warps x.record else 0

/-- The tag of the pod grid that a barrier spans: 0 for a barrier of this package alone (R22). -/
def podOf (s : State) (b : Barrier) : Nat := if b.scope == 5 then Rec.podtag (s.grid b.grid).record else 0

/-- The member warps on other packages that have not retired, and those of them that have arrived in the current phase (R373). -/
def podOthers (s : State) (b : Barrier) : Nat × Nat :=
  let tag := s.podOf b
  if tag == 0 then (0, 0)
  else
    let n := Config.podMembers tag s.gt
    (n, min n (Config.podArrivals tag b.index b.phase s.gt))

/-- A DIE, PKG or POD barrier is PLACING until every gang of its grid, and of the other member grids of a pod grid, has been
placed (R372, R374). -/
def barrierPlacing (s : State) (b : Barrier) : Bool :=
  let g := s.grid b.grid
  b.scope ≥ 3 && (g.nextGang < Rec.gangs g.record || !g.relaunch.isEmpty ||
    (s.podOf b != 0 && !Config.podPlaced (s.podOf b) s.gt))

/-- A block event that IDLE awaits (R321). -/
def blockEvent (s : State) (g b : Nat) : State := s.updBlock g b (fun x => { x with events := x.events + 1 })

/-- Does a byte lie in a block's allocation (R207)? -/
def Block.holds (b : Block) (p : Nat) : Bool :=
  let off := p - binBase
  let unit := off % 2 ^ 24 / 4096
  binBase ≤ p && off / 2 ^ 24 == b.gcore && b.unit ≤ unit && unit < b.unit + b.units

/-- Set a full bit, an event that IDLE awaits (R210, R321). -/
def raiseFull (s : State) (p : Nat) : State :=
  let s := s.setFull p true
  { s with loft := { s.loft with blocks := s.loft.blocks.map (fun (b : Block) =>
      if b.alive && Block.holds b p then { b with events := b.events + 1 } else b) } }

/-- Waiters of a barrier that breaks trap BARRIER_BROKEN in the lanes of Active (R376). -/
def breakBarrier (s : State) (b : Barrier) : State :=
  let s := s.updBarrier b.id (fun x => { x with broken := true })
  (s.members b).foldl (fun s wid =>
    s.updWarp wid (fun w => { w with rob := w.rob.map (fun e =>
      match e.wait with
      | .barrier id _ _ _ =>
        if id == b.id then
          { e with wait := .nothing
                   outs := e.active.lanes.map (fun l => (l, LaneOutcome.trap Cause.barrierBroken 0 b.scope)) }
        else e
      | _ => e) })) s

/-! ## Arrivals and phases (R374, R375, R379) -/

/-- A phase number has completed (R379). -/
def phasePassed (phase t : Nat) : Bool :=
  let d := (phase + 2 ^ 16 - t % 2 ^ 16) % 2 ^ 16
  1 ≤ d && d ≤ 2 ^ 15

/-- An arrival of a warp (R375), given whether it is already counted or held: the phase it is counted in, once it is, and
whether it is held in PEND. -/
def arrive (s : State) (id wid : Nat) (counted : Option Nat) (pend : Bool) : State × Option Nat × Bool :=
  match counted, s.barrier? id with
  | some n, _ => (s, some n, false)
  | none, none => (s, none, pend)
  | none, some b =>
    if pend then (s, none, true)
    else if !b.arr.contains wid then (s.updBarrier id (fun b => { b with arr := b.arr ++ [wid] }), some b.phase, false)
    else if !b.pend.contains wid then (s.updBarrier id (fun b => { b with pend := b.pend ++ [wid] }), none, true)
    else (s, none, false)

/-- What a barrier instruction has when its wait is over: the writes of its lanes, or none while it waits (R379). -/
def barrierDone (i : Instr) (counted target : Option Nat) (phase : Nat) : Option (List RegWrite) :=
  match i with
  | .bara f => counted.map (fun n => dst32 f.dst (BitVec.ofNat 32 n))
  | .bars _ => counted.bind (fun n => if phasePassed phase n then some [] else none)
  | _ => target.bind (fun t => if phasePassed phase t then some [] else none)

/-- Does the instruction arrive? -/
def arrives (i : Instr) : Bool :=
  match i with
  | .bara _ | .bars _ => true
  | _ => false

/-- One waiting entry after a phase: a held arrival is counted in the new phase, a delayed one is made, and a wait that
is over ends. -/
def renewEntry (s : State) (b : Barrier) (wid : Nat) (e : Entry) : State × Entry :=
  match e.wait with
  | .barrier id counted pend target =>
    if id ≠ b.id then (s, e)
    else
      let counted := if pend then some b.phase else counted
      let (s, counted, pend) := if arrives e.instr then s.arrive id wid counted false else (s, counted, false)
      match barrierDone e.instr counted target b.phase with
      | some ws => (s, { e with wait := .nothing, outs := e.active.lanes.map (fun l => (l, LaneOutcome.done ws none)) })
      | none => (s, { e with wait := .barrier id counted pend target })
  | _ => (s, e)

/-- Renew the entries of one reorder buffer. -/
def renewEntries (s : State) (b : Barrier) (wid : Nat) : List Entry → State × List Entry
  | [] => (s, [])
  | e :: es =>
    let (s, e) := s.renewEntry b wid e
    let (s, es) := s.renewEntries b wid es
    (s, e :: es)

/-- The records of saved waits after a phase (R381). -/
def renewNote (b : Barrier) (n : BarrierNote) : BarrierNote :=
  if n.bar == b.id && n.pend then { n with counted := some b.phase, pend := false } else n

/-- May the phase complete (R374)? -/
def phaseReady (s : State) (b : Barrier) : Bool :=
  let live := (s.members b).filter (fun wid => (s.warp wid).isMember)
  let others := s.podOthers b
  !b.broken && !s.barrierPlacing b && !(live.isEmpty && others.1 == 0) && live.all (fun wid => b.arr.contains wid) &&
    others.2 == others.1

/-- Complete the current phase of a barrier, if it may, and the next ones that held and delayed arrivals already complete. -/
def completePhases (s : State) (id : Nat) : Nat → State
  | 0 => s
  | fuel + 1 =>
    match s.barrier? id with
    | none => s
    | some b =>
      if !s.phaseReady b then s
      else
        let b' := { b with phase := (b.phase + 1) % 2 ^ 16, arr := b.pend, pend := [] }
        let s := s.updBarrier id (fun _ => b')
        let s := (s.members b').foldl (fun s wid =>
          let (s, rob) := s.renewEntries b' wid (s.warp wid).rob
          let s := s.updWarp wid (fun w => { w with rob, notes := w.notes.map (renewNote b') })
          s.blockEvent (s.warp wid).grid (s.warp wid).block) s
        s.completePhases id fuel

/-- Complete whatever phases of a barrier may complete: each takes an arrival of every member warp that has not retired, and no warp has more
arrivals than ARR, PEND and its unretired entries. -/
def completePhase (s : State) (id : Nat) : State :=
  let waiting := match s.barrier? id with
    | some b => (s.members b).foldl (fun n wid => max n (s.warp wid).rob.length) 0
    | none => 0
  s.completePhases id (waiting + 3)

/-- Complete whatever phase of a grid's barriers may complete. -/
def settlePhases (s : State) (g : Nat) : State :=
  (s.loft.barriers.filter (fun b => b.grid == g)).foldl (fun s b => s.completePhase b.id) s

end State

end Sys2Proof.Machine
end

