-- ==== Sys2Proof/Machine/Grids.lean ====
section
/-! DEFINITION. How work ends: warps, blocks, gangs, stages and grids retire (R138, R207, R270, R275), gangs are killed
and relaunched (R307, R308), barriers are freed (R15), extended blocks return (R142). -/

namespace Sys2Proof.Machine

namespace State

/-! ## Retirement of work -/

/-- Does an engine still hold work of a block? -/
def engineWork (s : State) (g b : Nat) : Bool :=
  let busy := fun (e : Engine) =>
    e.queue.any (fun k => k.grid == g && k.block == b) || e.progress.any (fun r => r.grid == g && r.block == b)
  s.cores.any (fun (e : Nat × Core) => busy e.2.wain) ||
    s.dies.any (fun (e : Nat × Die) => e.2.engines.any (fun (x : Nat × Engine) => busy x.2))

/-- Give one dead block's allocation to the background clearing. -/
def clearBlock (s : State) (x : Block) : State :=
  if s.loft.clearing.contains (x.gcore, x.unit, x.units) then s
  else if x.units == 0 then { s with loft := { s.loft with blocks := s.loft.blocks.filter (fun y => y != x) } }
  else { s with loft := { s.loft with clearing := s.loft.clearing ++ [(x.gcore, x.unit, x.units)] } }

/-- The turn of an .ORD addend comes: the groups between its line's counter and its ticket have all been sent (R200). -/
def turnComes (s : State) (a : Addend) (ticket : Nat) : Bool :=
  let line := a.loc.phys / 256
  let next := Sparse.get 0 s.mem.tickets line
  ticket < 2 ^ 16 && (List.range ((ticket + 2 ^ 16 - next) % 2 ^ 16)).all (fun i =>
    s.mem.addends.any (fun b => b.fid.isNone && b.loc.phys / 256 == line && b.ticket == some ((next + i) % 2 ^ 16)))

/-- Addends on their way to an allocation reach it before its clearing ends, and the zeros hide them (R199, R207). A group whose turn
has not come by then is never applied (R200): no counter reaches ticket 65536. -/
def settleAddends (s : State) (p n : Nat) : State :=
  let here := fun (a : Addend) => a.fid.isNone && p ≤ a.loc.phys && a.loc.phys < p + n
  let applied := fun (a : Addend) => here a && (match a.ticket with
    | none => true
    | some t => s.turnComes a t)
  let done := s.mem.addends.filter applied
  let s : State := { s with mem := { s.mem with
    addends := (s.mem.addends.filter (fun a => !applied a)).map (fun a => if here a then { a with ticket := some (2 ^ 16) } else a) } }
  done.foldl (fun s a => if Sparse.mem s.warps a.wid then s.noteStore a.wid s.gt else s) s

/-- The clearing of an allocation is finished: bytes zero, granules empty, and its units are free (R207). An LDFE request of another block
of the gang that waits on one of its granules stays in its queue (log entry 104, DESIGN CHOICE). -/
def finishClearing (s : State) (c : Nat × Nat × Nat) : State :=
  let s := (s.settleAddends (scratchLoc c.1 c.2.1 0).phys (4096 * c.2.2)).clearBytes (scratchLoc c.1 c.2.1 0).phys (4096 * c.2.2)
  { s with loft := { s.loft with
      clearing := s.loft.clearing.filter (fun x => x != c)
      blocks := s.loft.blocks.filter (fun b => !(b.gcore == c.1 && b.unit == c.2.1 && b.units == c.2.2 && !b.alive)) } }

/-- Give the allocations of dead blocks of one number to the clearing, once no engine works for them (R207, R300). -/
def startClearing (s : State) (g b : Nat) : State :=
  if s.engineWork g b then s
  else (s.loft.blocks.filter (fun x => x.grid == g && x.block == b && !x.alive)).foldl (fun s x => s.clearBlock x) s

/-- A block has ended: its barriers are freed and its allocation is cleared (R207). -/
def releaseBlock (s : State) (g b : Nat) : State :=
  match s.block? g b with
  | some x =>
    if !x.alive then s
    else
      let s := s.freeBarriers (fun y => y.scope == 1 && y.grid == g && y.owner == b)
      (s.updBlock g b (fun y => { y with alive := false })).startClearing g b
  | none => s

/-- Pass the records of a grid's warps to the tenant's fault log and forget the warps (R310); what numbers a warp's records is kept
while an engine works for its block (R311). -/
def drainRecords (s : State) (g : Nat) (p : Warp → Bool) : State :=
  (s.warpsWhere (fun w => w.grid == g && p w)).foldl (fun s wid =>
    let w := s.warp wid
    let s := s.logFaults w.tenant w.records
    if s.engineWork g w.block then s.setWarp wid { w.retire with records := [], lost := 0 } else s.dropWarp wid) s

/-- Stages of a pipeline end, one after another, while their queues are closed and empty and no gang of them is left
(R275); the pipeline retires with its last stage. -/
def endStages (s : State) (pid : Nat) : Nat → State
  | 0 => s
  | fuel + 1 =>
    let p := s.pipeline pid
    let busy := fun (i : Nat) => s.loft.grids.any (fun e => e.2.pipe == some pid && e.2.stage == i &&
      e.2.state != .retired)
    match (List.range p.stages.length).find? (fun i =>
        match p.stages[i]? with
        | some st => !st.ended && st.closed && st.items.isEmpty && !busy i
        | none => false) with
    | none => s
    | some i =>
      let stages := p.stages.mapIdx (fun j st =>
        if j == i then { st with ended := true } else if j == i + 1 then { st with closed := true } else st)
      if i + 1 == p.stages.length then
        let s := { s with loft := { s.loft with pipelines := Sparse.del s.loft.pipelines pid } }
        s.updGrid pid (fun g => { g with state := .retired })
      else (s.setPipeline pid { p with stages }).endStages pid fuel

/-- A stage gang is over: its unused reservation goes back and its unpopped items are dropped and counted (R273). -/
def endStageGrid (s : State) (g : Nat) : State :=
  let x := s.grid g
  match x.pipe with
  | none => s
  | some pid =>
    let p := s.pipeline pid
    let s := s.setGrid g { x with claimed := [], reserved := 0 }
    let s := if Sparse.mem s.loft.pipelines pid then
        s.setPipeline pid { p with dropped := p.dropped + x.claimed.length }
      else s
    s.endStages pid 9

/-- A grid retires (R270): barriers freed, records to the fault log, STATE RETIRED. -/
def retireGrid (s : State) (g : Nat) : State :=
  let s := s.freeBarriers (fun b => b.grid == g)
  let s := s.drainRecords g (fun _ => true)
  let s := s.updGrid g (fun x => { x with state := .retired, relaunch := [] })
  let s : State := { s with loft := { s.loft with
      queues := s.loft.queues.map (fun (e : Nat × List Nat) => (e.1, e.2.filter (· != g)))
      targets := s.loft.targets.filter (fun t => t.grid != g) } }
  s.endStageGrid g

/-- A gang is over (R270): gang barriers freed, and with the last gang the grid retires. -/
def finishGang (s : State) (g gang : Nat) : State :=
  let s := s.freeBarriers (fun b => b.scope == 2 && b.grid == g && b.owner == gang)
  let s := s.updGrid g (fun x => { x with finished := if x.finished.contains gang then x.finished else x.finished ++ [gang] })
  let x := s.grid g
  if x.finished.length ≥ Rec.gangs x.record && x.relaunch.isEmpty then s.retireGrid g else s

/-- A warp retires when no lane is left and its reorder buffer is empty; its block, gang and grid may end with it
(R138, R207, R270). -/
def endWarp (s : State) (wid : Nat) : State :=
  let w := s.warp wid
  if !w.isOver || w.residence == .retired then s
  else
    let s := s.setWarp wid w.retire
    let s := s.updCore w.gcore (fun c => { c with extQueue := c.extQueue.filter (· != wid) })
    if (s.warpsWhere (fun x => x.grid == w.grid && x.block == w.block && x.isMember)).isEmpty then
      let s := s.releaseBlock w.grid w.block
      let gang := s.gangOf w.grid w.block
      (if (s.gangWarps w.grid gang).isEmpty then s.finishGang w.grid gang else s).settlePhases w.grid
    else s.settlePhases w.grid

/-! ## Gang kill and relaunch -/

/-- Remove an engine's work for the blocks of a gang (R300, R307). -/
def purgeEngine (s : State) (g gang : Nat) (e : Engine) : Engine :=
  { queue := e.queue.filter (fun k => !(k.grid == g && s.gangOf g k.block == gang))
    progress := e.progress.filter (fun r => !(r.grid == g && s.gangOf g r.block == gang)) }

/-- Kill one gang (R307): every entry discarded, registers lost, scratch cleared, barriers freed, records to the fault
log with one UNCORRECTABLE record, whose PC is the lowest of the unretired entries; `pcs` are those of entries being performed. A gang for
which only an engine still works is killed too. The record has the lowest BLOCK that is left, the grid's GEN, WARP, SEQ
and LOST 0, and PC 0 where no entry is unretired (log entry 105, DESIGN CHOICE). -/
def killGang (s : State) (g gang code : Nat) (addr : DWord) (pcs : List Nat := []) : State :=
  let wids := s.gangWarps g gang
  let mine := (s.loft.blocks.filter (fun b => b.grid == g && b.gang == gang)).map (·.block)
  if wids.isEmpty && !mine.any (s.engineWork g) then s
  else
    let blk := (least (mine ++ wids.map (fun wid => (s.warp wid).block))).getD 0
    let pcs := pcs ++ wids.flatMap (fun wid => (s.warp wid).rob.map (fun e => e.pc.toNat))
    let rec_ := recordBytes { pc := BitVec.ofNat 64 ((least pcs).getD 0), addr, cause := Cause.uncorrectable, code }
      s.gt g (s.grid g).gen 0 0 blk 0
    -- queues, engines, waits
    let s : State := { s with
      mem := { s.mem with feQueue := s.mem.feQueue.filter (fun r => !wids.contains r.wid) }
      net := { s.net with pendings := s.net.pendings.filter (fun p => !wids.contains p.wid) }
      chosen := s.chosen.filter (fun p => !wids.contains p.wid)
      cores := s.cores.map (fun (e : Nat × Core) => (e.1, { e.2 with
        wain := s.purgeEngine g gang e.2.wain, extQueue := e.2.extQueue.filter (fun x => !wids.contains x) }))
      dies := s.dies.map (fun (e : Nat × Die) => (e.1, { e.2 with
        engines := e.2.engines.map (fun (x : Nat × Engine) => (x.1, s.purgeEngine g gang x.2)) })) }
    let s : State := { s with loft := { s.loft with saveAreas := s.loft.saveAreas.filter (fun e => !wids.contains e.1) } }
    let s := mine.foldl (fun s b => (s.releaseBlock g b).startClearing g b) s
    let s := s.freeBarriers (fun b => b.scope == 2 && b.grid == g && b.owner == gang)
    -- members that are gone no longer count for the wider barriers
    let s : State := { s with loft := { s.loft with barriers := s.loft.barriers.map (fun b =>
      { b with arr := b.arr.filter (fun x => !wids.contains x), pend := b.pend.filter (fun x => !wids.contains x) }) } }
    let s := s.drainRecords g (fun w => s.gangOf g w.block == gang)
    s.logFaults (s.grid g).tenant [rec_]

/-- Gangs of a grid with a warp resident or saved. -/
def liveGangs (s : State) (g : Nat) : List Nat :=
  ((s.warpsWhere (fun w => w.grid == g && w.isMember)).map (fun wid => s.gangOf g (s.warp wid).block)).eraseDups

/-- Gangs of a grid that a kill of the whole grid ends: those with a warp, and those for which only an engine still works. -/
def workingGangs (s : State) (g : Nat) : List Nat :=
  (s.liveGangs g ++ (s.loft.blocks.filter (fun b => b.grid == g && s.engineWork g b.block)).map (·.gang)).eraseDups

/-- The grid holds DIE, PKG or POD barriers (R308). -/
def wideBarriers (s : State) (g : Nat) : Bool :=
  let r := (s.grid g).record
  Rec.bardie r != 0 || Rec.barpkg r != 0 || Rec.barpod r != 0

/-- The grid ends (R308, last row; R320): its other gangs are killed, nothing of it is placed, STATE RETIRED. `own` is the gang and
the PC of a HALT that ends its own grid. -/
def endGrid (s : State) (g code : Nat) (own : Option (Nat × Nat) := none) : State :=
  let s := (s.workingGangs g).foldl (fun s gang =>
    s.killGang g gang code 0 ((own.toList.filter (fun x => x.1 == gang)).map (·.2))) s
  s.retireGrid g

/-- A stage gang that is relaunched is a new launch: its unpopped items return unclaimed to the head (R293). -/
def returnClaims (s : State) (g : Nat) : State :=
  let x := s.grid g
  match x.pipe with
  | none => s
  | some pid =>
    let p := s.pipeline pid
    let stages := p.stages.mapIdx (fun j st => if j == x.stage then { st with items := x.claimed ++ st.items } else st)
    (if Sparse.mem s.loft.pipelines pid then s.setPipeline pid { p with stages } else s).setGrid g
      { x with claimed := [], reserved := 0 }

/-- A gang killed alone waits for its relaunch (R308), also where all its warps had retired. -/
def relaunchGangs (s : State) (g : Nat) (gangs : List Nat) : State :=
  s.updGrid g (fun x => { x with
    used := x.used + 1, relaunch := x.relaunch ++ gangs.filter (fun n => !x.relaunch.contains n)
    finished := x.finished.filter (fun n => !gangs.contains n) })

/-- What follows the kill of some gangs of one grid (R308): relaunch alone, relaunch whole, or the end. Under POLICY TRAP the BROKEN barriers
stay, those of a die on which no gang is left among them (log entry 97, DESIGN CHOICE). -/
def afterKill (s : State) (g : Nat) (gangs : List Nat) : State :=
  let x := s.grid g
  if x.state == .retired then s
  else if x.used ≥ Rec.relaunch x.record then s.endGrid g 3
  else if !s.wideBarriers g then
    (s.returnClaims g).relaunchGangs g gangs
  else if Rec.policyTrap x.record then
    let s := s.returnClaims g
    let bars := s.loft.barriers.filter (fun b => b.grid == g && b.scope ≥ 3 && !b.broken)
    (bars.foldl (fun s b => s.breakBarrier b) s).relaunchGangs g gangs
  else
    let s := s.returnClaims g
    let s := (s.workingGangs g).foldl (fun s gang => s.killGang g gang 3 0) s
    let s := s.freeBarriers (fun b => b.grid == g)
    let s := s.drainRecords g (fun _ => true)
    s.updGrid g (fun x => { x with
      used := x.used + 1, finished := [], dies := []
      relaunch := List.range (Rec.gangs x.record), nextGang := Rec.gangs x.record, state := .placing })

/-- A lane or an engine consumed an uncorrectable error for a block: its gang is killed (R307, R431). -/
def consume (s : State) (g b : Nat) (addr : DWord) (pcs : List Nat := []) : State :=
  let gang := s.gangOf g b
  (s.killGang g gang 0 addr pcs).afterKill g [gang]

end State

end Sys2Proof.Machine
end

