-- ==== Sys2Proof/Machine/Budgets.lean ====
section
/-! DEFINITION. Budget accounts: repayment, holdback, the assignment of quads to stages and AGE at a period boundary (R274, R276,
R277, R279, R338). The charge for quads and the boundaries themselves stand in Clock. -/

namespace Sys2Proof.Machine

/-- Length of a budget period in ns (R276). -/
def periodNs : Nat := 10000

/-- Bytes that σ/256 of the outbound capacity allows in a period (R279). -/
def shareBytes (sigma : Nat) : Nat := sigma * 163840000 / 256

namespace State

/-- Quads that hold a resident warp of a tenant. -/
def heldQuads (s : State) (t : Nat) : List Nat :=
  ((s.warpsWhere (fun w => w.onCore && w.tenant == t)).map (fun wid => gquadOf (s.warp wid).gcore)).eraseDups

/-- A tenant holds budget while its tokens exceed 0 (R276). -/
def holdsBudget (s : State) (t : Nat) : Bool := (s.budget t).tokens > 0 && !(s.budget t).spent

/-! ## Periods -/

/-- The instalments of an amount borrowed (R277), cut so that the fourth is not negative: for 1, 2 or 5 quad-ns three times the ceiling of
b/4 exceeds b (log entry 100, DESIGN CHOICE). -/
def instalments (b : Nat) : List Nat :=
  let q := (b + 3) / 4
  let a := min q b
  let c := min q (b - a)
  let d := min q (b - a - c)
  [a, c, d, b - a - c - d]

/-- Add lists of instalments, next first. -/
def addDue : List Nat → List Nat → List Nat
  | [], y => y
  | x, [] => x
  | a :: x, b :: y => (a + b) :: addDue x y

/-- The account of a tenant at the start of a period. -/
def renewBudget (allot : Nat) (b : Budget) : Budget :=
  let due := if b.borrowed = 0 then b.due else addDue b.due (instalments b.borrowed)
  let d := due.headD 0
  { allot, tokens := (1000 * allot : Nat) - (d : Int), debt := b.debt - d, due := due.drop 1, borrowed := 0, spent := false }

/-- Tenants and classes that sent more than their share in the period that ends (R279). -/
def overShare (s : State) : List Nat :=
  (List.range 64).filter (fun i =>
    let sent := (Sparse.get 0 s.net.txb i - Sparse.get 0 s.loft.lastTxb i).toNat
    let sigma := ((s.tenant (i / 4)).sigma.extractLsb' (8 * (i % 4)) 8).toNat
    sigma != 255 && sent > shareBytes sigma)

/-- AGE rises in each frame that its owner did not access (R329, R338). -/
def ageFrames (s : State) : State :=
  s.tables.frames.foldl (fun s (e : Nat × Frame) => s.updFrame e.1 (fun f =>
    if f.state == .free then f
    else { f with age := if f.touched then f.age else min 255 (f.age + 1), touched := false })) s

/-- Items that a stage's queue holds: those unclaimed, and those claimed and not popped (R273, R293). -/
def queueItems (s : State) (p q : Nat) (st : Stage) : Nat :=
  st.items.length + (s.loft.grids.filter (fun (e : Nat × Grid) => e.2.pipe == some p && e.2.stage == q)).foldl
    (fun n e => n + e.2.claimed.length) 0

/-- May a stage take one more quad (R274)? -/
def stageWants (s : State) (p : Nat) (stages : List Stage) (counts : List Nat) (i : Nat) : Bool :=
  match stages[i]? with
  | none => false
  | some st =>
    !st.ended && counts.getD i 0 < st.qmax &&
      (match stages[i + 1]? with
       | some nx => 4 * s.queueItems p (i + 1) nx < 3 * nx.qcap
       | none => true)

/-- The stage of highest pressure that may take a quad, ties to the lower stage. -/
def neediest (s : State) (p : Nat) (stages : List Stage) (counts : List Nat) : Option Nat :=
  ((List.range stages.length).filter (s.stageWants p stages counts)).foldl (fun (b : Option Nat) i =>
    match b with
    | none => some i
    | some j =>
      match stages[i]?, stages[j]? with
      | some x, some y => if x.items.length * y.qcap > y.items.length * x.qcap then some i else some j
      | _, _ => some j) none

/-- How many quads each stage gets: QMIN each, then one at a time by pressure. -/
def stageCounts (s : State) (p : Nat) (stages : List Stage) : Nat → List Nat → List Nat
  | 0, counts => counts
  | n + 1, counts =>
    match s.neediest p stages counts with
    | none => counts
    | some i => s.stageCounts p stages n (counts.set i (counts.getD i 0 + 1))

/-- Fill stages up to their counts from quads that no stage keeps. -/
def fillQuads : List (Nat × Stage × Nat) → List Nat → List (Nat × Stage)
  | [], _ => []
  | (p, st, n) :: rest, free =>
    let more := free.take (n - st.quads.length)
    (p, { st with quads := st.quads ++ more }) :: fillQuads rest (free.drop more.length)

/-- Hand out quads: first every stage keeps those it has, up to its count, and then the others go to the stages that lack some. -/
def dealQuads (l : List (Nat × Stage × Nat)) (quads : List Nat) : List (Nat × Stage) :=
  let l := l.map (fun x => (x.1, { x.2.1 with quads := (x.2.1.quads.filter quads.contains).take x.2.2 }, x.2.2))
  let kept := l.flatMap (fun x => x.2.1.quads)
  fillQuads l (quads.filter (fun q => !kept.contains q))

/-- QMIN of each stage; one that has ended keeps none (log entry 113, DESIGN CHOICE). -/
def stageMins (x : Pipeline) : List Nat := x.stages.map (fun st => if st.ended then 0 else st.qmin)

/-- The stages of a tenant's pipelines with their counts, by the pipeline: each pipeline in turn takes from the quads that are more than
QMIN of all the stages (R274; log entry 101, DESIGN CHOICE, for more than one pipeline). -/
def pipeCounts (s : State) : List (Nat × Pipeline) → Nat → List (Nat × Stage × Nat)
  | [], _ => []
  | (p, x) :: rest, n =>
    let mins := stageMins x
    let counts := s.stageCounts p x.stages n mins
    (x.stages.zip counts).map (fun y => (p, y.1, y.2)) ++
      s.pipeCounts rest (n - (counts.foldl (· + ·) 0 - mins.foldl (· + ·) 0))

/-- Assign the quads of a tenant to the stages of its pipelines (R274). -/
def assignStages (s : State) (quads : List Nat) (t : Nat) : State :=
  let ps := s.loft.pipelines.filter (fun e => e.2.tenant == t)
  let mins := ps.foldl (fun n e => n + (stageMins e.2).foldl (· + ·) 0) 0
  let dealt := dealQuads (s.pipeCounts ps (quads.length - mins)) quads
  ps.foldl (fun s e => s.setPipeline e.1 { e.2 with stages := (dealt.filter (fun x => x.1 == e.1)).map (·.2) }) s

/-- A pipeline of the tenant holds the quad: it returns to the tenant only with the pipeline, a mode change or a reset (R275). -/
def pipeQuad (s : State) (t q : Nat) : Bool :=
  s.loft.pipelines.any (fun e => e.2.tenant == t && e.2.stages.any (fun st => st.quads.contains q))

end State

end Sys2Proof.Machine
end

