-- ==== Sys2Proof/Decode.lean ====
section
/-! DEFINITION. The decoder, total on any word, and after it the encoder (R39, R45, R50). -/

namespace Sys2Proof

/-- The operand that a code names (R45); none outside every class. -/
def Opnd.ofCode (c : BitVec 8) : Option Opnd :=
  let n := c.toNat
  if h : n < 128 then some (.v ⟨n, h⟩)
  else if n < 0xA0 then some (.k (Fin.ofNat 32 n))
  else if n < 0xB6 then some (.special (Fin.ofNat 22 (n - 0xA0)))
  else if n < 0xC0 then Option.none
  else if n < 0xC8 then some (.p (Fin.ofNat 8 n))
  else if n < 0xD0 then Option.none
  else if n < 0xE0 then some (.acc (Fin.ofNat 16 n))
  else if n < 0xE4 then some (.pf (Fin.ofNat 4 n))
  else if n < 0xEC then some (.cv (Fin.ofNat 8 (n - 0xE4)))
  else if n == 0xF0 then some .imm
  else if n == 0xFE then some .zero
  else if n == 0xFF then some .none
  else Option.none

/-- The two map sub-fields of SA in format X (R42). -/
def Opnd.ofMaps (c : BitVec 8) : Opnd := .maps (Fin.ofNat 16 c.toNat) (Fin.ofNat 16 (c.toNat / 16))

/-- The opcodes whose SA holds operand maps (R186). -/
def opcodeUsesMaps (opc : Nat) : Bool :=
  [0x100, 0x101, 0x102, 0x108, 0x109, 0x10A, 0x10B, 0x110, 0x113, 0x114, 0x118, 0x119].contains opc

/-- The constructor of an opcode (R50); where one opcode has two rows of the table, MOD tells them apart. -/
def Instr.ofOpcode (opc : Nat) (f : Fields) : Option Instr :=
  match opc with
  | 0x000 => some (.nop f)
  | 0x001 => some (.mov f)
  | 0x002 => some (.movi f)
  | 0x003 => some (.movk f)
  | 0x004 => some (.movs f)
  | 0x005 => some (.sel f)
  | 0x010 => some (.iadd f)
  | 0x011 => some (.isub f)
  | 0x012 => some (.iaddc f)
  | 0x013 => some (.imul f)
  | 0x014 => some (.imulh f)
  | 0x015 => some (.imad f)
  | 0x016 => some (.imal f)
  | 0x017 => some (.idiv f)
  | 0x018 => some (.irem f)
  | 0x019 => some (.imin f)
  | 0x01A => some (.imax f)
  | 0x01B => some (.iabs f)
  | 0x01C => some (.ineg f)
  | 0x01D => some (.iadd64 f)
  | 0x01E => some (.isub64 f)
  | 0x01F => some (.lea f)
  | 0x020 => some (.and f)
  | 0x021 => some (.or f)
  | 0x022 => some (.xor f)
  | 0x023 => some (.andn f)
  | 0x024 => some (.not f)
  | 0x025 => some (.shl f)
  | 0x026 => some (.shr f)
  | 0x027 => some (.sha f)
  | 0x028 => some (.rotl f)
  | 0x029 => some (.fshf f)
  | 0x02A => some (.bfe f)
  | 0x02B => some (.bfi f)
  | 0x02C => some (.popc f)
  | 0x02D => some (.clz f)
  | 0x02E => some (.ctz f)
  | 0x02F => some (.brev f)
  | 0x030 => some (.bmix f)
  | 0x031 => some (.icmp f)
  | 0x032 => some (.icmp64 f)
  | 0x033 => some (.ptab f)
  | 0x034 => some (if f.mod0 then .pmovSet f else .pmovGet f)
  | 0x038 => some (.lpoll f)
  | 0x039 => some (.lxch f)
  | 0x03A => some (.lfold f)
  | 0x03B => some (.lgrp f)
  | 0x080 => some (.fadd f)
  | 0x081 => some (.fsub f)
  | 0x082 => some (.fmul f)
  | 0x083 => some (.ffma f)
  | 0x084 => some (.fmin f)
  | 0x085 => some (.fmax f)
  | 0x086 => some (.fcmp f)
  | 0x087 => some (.fclass f)
  | 0x088 => some (.fdiv f)
  | 0x089 => some (.fsqrt f)
  | 0x08A => some (.frcp f)
  | 0x08B => some (.frsq f)
  | 0x08C => some (.fex2 f)
  | 0x08D => some (.flg2 f)
  | 0x08E => some (.fsin f)
  | 0x08F => some (.fcos f)
  | 0x090 => some (.ftanh f)
  | 0x091 => some (.fsgm f)
  | 0x0A0 => some (.hadd2 f)
  | 0x0A1 => some (.hmul2 f)
  | 0x0A2 => some (.hfma2 f)
  | 0x0A3 => some (.badd2 f)
  | 0x0A4 => some (.bmul2 f)
  | 0x0A5 => some (.bfma2 f)
  | 0x0B0 => some (.dadd f)
  | 0x0B1 => some (.dmul f)
  | 0x0B2 => some (.dfma f)
  | 0x0C0 => some (.cvt f)
  | 0x0C1 => some (.f2i f)
  | 0x0C2 => some (.i2f f)
  | 0x0C3 => some (.pack8 f)
  | 0x0C4 => some (.unpk8 f)
  | 0x0C5 => some (.tos24 f)
  | 0x0C6 => some (.froms24 f)
  | 0x0C7 => some (.pack16 f)
  | 0x0C8 => some (.packi8 f)
  | 0x100 => some (.omset f)
  | 0x101 => some (.omld f)
  | 0x102 => some (.gidx f)
  | 0x103 => some (.cvdecl f)
  | 0x104 => some (.cvsign f)
  | 0x108 => some (.mma8 f)
  | 0x109 => some (.mmah f)
  | 0x10A => some (.mmab f)
  | 0x10B => some (.mmai f)
  | 0x110 => some (.sacc f)
  | 0x111 => some (.iacc f)
  | 0x112 => some (.accz f)
  | 0x113 => some (.accld f)
  | 0x114 => some (.accst f)
  | 0x115 => some (.accmov f)
  | 0x118 => some (.drain f)
  | 0x119 => some (.draina f)
  | 0x180 => some (.ld f)
  | 0x181 => some (.st f)
  | 0x182 => some (.ldfe f)
  | 0x183 => some (.stfe f)
  | 0x184 => some (.feclr f)
  | 0x188 => some (.atom f)
  | 0x189 => some (.acas f)
  | 0x18A => some (.red f)
  | 0x190 => some (.fence f)
  | 0x191 => some (.pref f)
  | 0x200 => some (.bra f)
  | 0x201 => some (.brx f)
  | 0x202 => some (.call f)
  | 0x203 => some (.callx f)
  | 0x204 => some (.ret f)
  | 0x205 => some (.exit f)
  | 0x206 => some (.wsync f)
  | 0x207 => some (.yield f)
  | 0x208 => some (.sleep f)
  | 0x209 => some (.rgacq f)
  | 0x20A => some (.rgrel f)
  | 0x20B => some (.role f)
  | 0x20C => some (.brk f)
  | 0x20D => some (.trap f)
  | 0x280 => some (if f.mod5 then .kickDie f else .kick f)
  | 0x281 => some (.wainst f)
  | 0x288 => some (.qpush f)
  | 0x289 => some (.qpop f)
  | 0x28A => some (.qpeek f)
  | 0x28B => some (.qclose f)
  | 0x290 => some (.lnch f)
  | 0x298 => some (.shadow f)
  | 0x299 => some (.publish f)
  | 0x300 => some (.bara f)
  | 0x301 => some (.barw f)
  | 0x302 => some (.bars f)
  | 0x303 => some (.barq f)
  | 0x308 => some (.bcinit f)
  | 0x309 => some (.bcadd f)
  | 0x30A => some (.bcwait f)
  | 0x310 => some (.cntrd f)
  | 0x311 => some (.gtrd f)
  | 0x318 => some (.tcinv f)
  | 0x319 => some (.tcrcl f)
  | 0x31A => some (.place f)
  | 0x31B => some (.repl f)
  | 0x31C => some (if f.mod5 then .probeF f else .probe f)
  | 0x380 => some (.sysrd f)
  | 0x381 => some (.syswr f)
  | 0x382 => some (.eret f)
  | 0x383 => some (.trqpop f)
  | 0x384 => some (.bndset f)
  | 0x385 => some (.bndrd f)
  | 0x386 => some (.diagst f)
  | 0x387 => some (.diagld f)
  | 0x388 => some (.wdog f)
  | 0x389 => some (.halt f)
  | 0x38A => some (.idle f)
  | _ => none

/-- The fields of a word whose opcode takes maps in SA or not. -/
def fieldsOfWord (maps : Bool) (w : BitVec 96) : Option Fields := do
  let dst ← Opnd.ofCode (w.extractLsb' 14 8)
  let sa ← if maps then some (Opnd.ofMaps (w.extractLsb' 22 8)) else Opnd.ofCode (w.extractLsb' 22 8)
  let sb ← Opnd.ofCode (w.extractLsb' 30 8)
  let sc ← Opnd.ofCode (w.extractLsb' 38 8)
  some { neg := w.getLsbD 13, pred := Fin.ofNat 8 (w.extractLsb' 10 3).toNat, reuse := w.extractLsb' 46 3,
         dst, sa, sb, sc, mod := w.extractLsb' 49 7, aux := w.extractLsb' 56 8, imm := w.extractLsb' 64 32 }

/-- Decode one 96-bit word, refusing by name what is ILLOP (R53 order 3). -/
def decodeWord (w : BitVec 96) : Except Reject Instr :=
  let opc := (w.extractLsb' 0 10).toNat
  match fieldsOfWord (opcodeUsesMaps opc) w with
  | none => if (Instr.ofOpcode opc {}).isNone then .error .unassignedOpcode else .error .operandCode
  | some f =>
    match Instr.ofOpcode opc f with
    | none => .error .unassignedOpcode
    | some i =>
      match i.reject with
      | some r => .error r
      | none => .ok i

/-- Decode the instruction at the head of a list of bytes, with the bytes that follow it (R30, R31). -/
def decode (bs : List Byte) : Except Reject (Instr × List Byte) :=
  if bs.length < 12 then .error .truncated
  else
    match decodeWord (leWord 96 (bs.take 12)) with
    | .ok i => .ok (i, bs.drop 12)
    | .error r => .error r

/-- What the decoder reads from an instruction whose bits are `w`, numbered as spec/opcode_table.json numbers them. -/
def decodeTableWord (nbits w : Nat) : Option Instr :=
  if nbits ≤ 96 ∧ w < 2 ^ 96 then
    match decode (leBytes 12 w) with
    | .ok (i, _) => some i
    | .error _ => none
  else none

/-! ## The encoder -/

/-- The code of an operand (R45); for maps the sub-fields of R42. -/
def Opnd.code : Opnd → BitVec 8
  | .v n => BitVec.ofNat 8 n.val
  | .k n => BitVec.ofNat 8 (0x80 + n.val)
  | .special n => BitVec.ofNat 8 (0xA0 + n.val)
  | .p n => BitVec.ofNat 8 (0xC0 + n.val)
  | .acc n => BitVec.ofNat 8 (0xD0 + n.val)
  | .pf n => BitVec.ofNat 8 (0xE0 + n.val)
  | .cv n => BitVec.ofNat 8 (0xE4 + n.val)
  | .imm => 0xF0
  | .zero => 0xFE
  | .none => 0xFF
  | .maps a b => BitVec.ofNat 8 (a.val + 16 * b.val)

/-- GRD[13:10] (R40). -/
def Fields.guardBits (f : Fields) : BitVec 4 := BitVec.ofNat 4 (f.pred.val + if f.neg then 8 else 0)

/-- The word of an opcode and fields, by the bit places of R39. -/
def wordOf (opc : BitVec 10) (f : Fields) : BitVec 96 :=
  f.imm ++ (f.aux ++ (f.mod ++ (f.reuse ++ (f.sc.code ++ (f.sb.code ++ (f.sa.code ++ (f.dst.code ++
    (f.guardBits ++ opc))))))))

/-- The word of an instruction; none for an event. -/
def encode (i : Instr) : Option (BitVec 96) :=
  match i.row, i.fields with
  | some r, some f => some (wordOf r.opc f)
  | _, _ => none

/-- The twelve bytes of an instruction as memory holds them (R31). -/
def encodeBytes (i : Instr) : List Byte :=
  match encode i with
  | some w => leBytes 12 w.toNat
  | none => []

end Sys2Proof
end

