-- ==== Sys2Proof/Machine/Flags.lean ====
section
/-! DEFINITION. Flag computations: the floating-point flags of R93 and their trap enables (R158, R159), and the carry,
overflow and comparison results that integer instructions write (R123, R125, R129). -/

namespace Sys2Proof.Machine

/-! ## Floating-point flags (R93) -/

/-- A set of floating-point flags, by the map of R93. -/
abbrev FpFlags := BitVec 5

namespace FpFlags

def none : FpFlags := 0
/-- Invalid operation. -/
def nv : FpFlags := 1
/-- Division by zero. -/
def dz : FpFlags := 2
/-- Overflow. -/
def of_ : FpFlags := 4
/-- Underflow. -/
def uf : FpFlags := 8
/-- Inexact. -/
def nx : FpFlags := 16

/-- A flag raised where a condition holds. -/
def when (b : Bool) (f : FpFlags) : FpFlags := if b then f else 0

end FpFlags

namespace Warp

/-- The flags of FPTRAPEN that are set (R93). -/
def enabledFlags (w : Warp) : FpFlags := w.fptrapen.extractLsb' 0 5

/-- OR flags into FPFLAGS (R94). -/
def raise (w : Warp) (f : FpFlags) : Warp := { w with fpflags := w.fpflags ||| f.setWidth 64 }

end Warp

/-! ## Integer results -/

/-- Carry out of `a + b + c` (R125). -/
def carryOut (a b : Word) (c : Bool) : Bool := a.toNat + b.toNat + ofBool c ≥ 2 ^ 32

/-- An exact sum clamped to the signed range, or to the unsigned one (R123). -/
def saturate32 (unsigned : Bool) (x : Int) : Word :=
  if unsigned then
    if x < 0 then 0 else if x > 2 ^ 32 - 1 then BitVec.allOnes 32 else BitVec.ofInt 32 x
  else
    if x < -(2 ^ 31) then 0x80000000 else if x > 2 ^ 31 - 1 then 0x7FFFFFFF else BitVec.ofInt 32 x

/-- The value of a word as signed, or as unsigned (R119). -/
def intOf (unsigned : Bool) (x : BitVec n) : Int := if unsigned then (x.toNat : Int) else x.toInt

/-- The compare codes of R129. -/
def compareInt (code : Nat) (a b : Int) : Bool :=
  match code with
  | 0 => a == b
  | 1 => a != b
  | 2 => a < b
  | 3 => a ≤ b
  | 4 => a > b
  | _ => a ≥ b

/-- The combine codes of R129. -/
def combineBool (code : Nat) (t p : Bool) : Bool :=
  match code with
  | 0 => t
  | 1 => t && p
  | 2 => t || p
  | _ => t ^^ p

/-! ## Bound registers (R91, R92) -/

namespace Bound

def lo (b : BitVec 128) : Word := b.extractLsb' 0 32
def hi (b : BitVec 128) : Word := b.extractLsb' 32 32
def count (b : BitVec 128) : Nat := (b.extractLsb' 64 32).toNat
/-- 0 OFF, 1 FLAG, 2 CLAMP, 3 TRAP. -/
def mode (b : BitVec 128) : Nat := (b.extractLsb' 96 2).toNat
def sticky (b : BitVec 128) : Bool := b.getLsbD 98

/-- A bound register of the given fields, the reserved bits zero. -/
def mk (lo hi : Word) (count mode : Nat) (sticky : Bool) : BitVec 128 :=
  BitVec.ofNat 128 (lo.toNat + hi.toNat * 2 ^ 32 + count * 2 ^ 64 + mode * 2 ^ 96 + ofBool sticky * 2 ^ 98)

/-- The register after a checking instruction found `n` elements out of range (R92). -/
def after (b : BitVec 128) (n : Nat) : BitVec 128 :=
  match mode b with
  | 1 => mk (lo b) (hi b) (min 0xFFFFFFFF (count b + n)) 1 (sticky b || n > 0)
  | 2 => mk (lo b) (hi b) (min 0xFFFFFFFF (count b + n)) 2 (sticky b)
  | _ => b

end Bound

end Sys2Proof.Machine
end

