-- ==== Sys2Proof/Machine/Inflight.lean ====
section
/-! DEFINITION. Entries in flight (R100, R102, R106 to R110): which instructions are computed, performed and retired when older
entries of the warp are unretired, the registers that renaming needs, and the order that R244 and R245 keep between accesses. -/

namespace Sys2Proof

namespace Fields

/-- The codes of the four operand fields. -/
def operands (f : Fields) : List Opnd := [f.dst, f.sa, f.sb, f.sc]

end Fields

/-- Do the register groups that begin at two codes overlap, each taken at the widest, four registers? -/
def Opnd.near (a b : Opnd) : Bool :=
  match a, b with
  | .v x, .v y => x.val < y.val + 4 && y.val < x.val + 4
  | .k x, .k y => x.val < y.val + 4 && y.val < x.val + 4
  | .p x, .p y => x == y
  | _, _ => false

namespace Instr

/-- The opcode; events have none. -/
def opcode (i : Instr) : Nat :=
  match i.row with
  | some r => r.opc.toNat
  | none => 1024

/-- Opcodes come in classes of 128 (R50). -/
def opClass (i : Instr) : Nat := i.opcode / 128

/-- Its only effects are on registers of the lanes, on k registers, on FPFLAGS, on PCs and on the choice of splits: classes 0 and 1,
the transfers, SLEEP, BRK, TRAP and YIELD; with GTRD and CNTRD, which wait for no older entry (R388, R390). -/
def inCore (i : Instr) : Bool :=
  match i with
  | .bra _ | .brx _ | .call _ | .callx _ | .ret _ | .yield _ | .sleep _ | .brk _ | .trap _ | .gtrd _ | .cntrd _ => true
  | _ => i.opClass < 2

/-- Performed once every older entry has retired or is certain to retire without a trap (R109). The instructions beside these and
those of `inCore` are performed when they are the oldest entry of the warp: the barrier instructions among them (R379), and WSYNC, which
no older trap may undo once it has released other lanes (R111). -/
def outside (i : Instr) : Bool :=
  match i with
  | .st f => !f.mod6
  | .ld _ | .ldfe _ | .stfe _ | .feclr _ | .atom _ | .acas _ | .red _ | .fence _ | .pref _ | .kick _ | .kickDie _ | .wainst _
  | .qpush _ | .qpop _ | .qpeek _ | .qclose _ | .lnch _ | .shadow _ | .publish _
  | .bcinit _ | .bcadd _ | .bcwait _ | .place _ | .repl _ | .probe _ | .probeF _ => true
  | _ => false

/-- A plain load, which may be performed earlier (R109). -/
def plainRead (i : Instr) : Bool :=
  match i with
  | .ld f => f.ordering == 0
  | _ => false

/-- The split stands at the instruction until its lanes have their outcomes: transfers and traps, which give the next PC, FENCE (R236),
HALT, and the blocking waits (R23, R99). The splits of the other instructions go on. -/
def holdsSplit (i : Instr) : Bool :=
  match i with
  | .bra _ | .brx _ | .call _ | .callx _ | .ret _ | .exit _ | .eret _ | .brk _ | .trap _ | .fence _ | .halt _
  | .ldfe _ | .bcwait _ | .bara _ | .barw _ | .bars _ | .wsync _ | .rgacq _ | .rgrel _ | .role _ | .sleep _ | .idle _
  | .kick _ | .kickDie _ | .place _ | .repl _ | .syswr _ => true
  | _ => false

/-- An RGACQ, or a ROLE that acquires (R142, R143). -/
def asksBlock (i : Instr) : Bool :=
  match i with
  | .rgacq _ => true
  | .role f => f.imm.extractLsb' 3 2 == 1
  | _ => false

/-- The serialising instructions (R110). -/
def serialises (i : Instr) : Bool :=
  match i with
  | .rgacq _ | .rgrel _ | .role _ | .syswr _ => true
  | _ => false

/-- The memory operations of R102: classes 3 and 5, and the instructions of class 6 with a memory operand; PREF counts as none
(R237). -/
def memOp (i : Instr) : Bool :=
  match i with
  | .pref _ => false
  | _ => i.opClass == 3 || i.opClass == 5 || (i.opClass == 6 && (i.row.any (fun r => r.format == .m)))

/-- May the access be left in flight while its split goes on (log entry 5)? -/
def deferrable (i : Instr) : Bool :=
  match i with
  | .ld _ | .atom _ | .acas _ | .red _ | .stfe _ | .feclr _ | .bcinit _ | .bcadd _ => true
  | .st f => !f.mod6
  | _ => false

/-! ## Orderings and scopes (R239, R244) -/

/-- Accesses to memory lane by lane, which R244 orders by their bytes, orderings and scopes alone. -/
def access (i : Instr) : Bool :=
  match i with
  | .ld _ | .st _ | .atom _ | .acas _ | .red _ | .ldfe _ | .stfe _ | .feclr _ | .bcinit _ | .bcadd _ | .qpush _ | .qpop _ | .qpeek _
  | .lnch _ => true
  | _ => false

/-- Its events are those of R239, which no order but the rows of R244 holds: with the accesses of lanes those of class 2 and the swap of
PUBLISH, which are the warp's. -/
def hasEvents (i : Instr) : Bool :=
  match i with
  | .publish _ => true
  | _ => i.access || i.opClass == 2

/-- Its read gives a value to the warp, or to the loft. -/
def reads (i : Instr) : Bool :=
  match i with
  | .ld _ | .atom _ | .acas _ | .ldfe _ | .bcwait _ | .qpush _ | .lnch _ => true
  | _ => false

/-- ACQ or SC on the read side, a load that waits, a return from a barrier, an item that returns (row 4, R227, R230, R294, R377,
R385). An ATOM or ACAS with REL is relaxed in its read (R234, R235). -/
def acquires (i : Instr) : Bool :=
  match i with
  | .ld f => f.ordering != 0
  | .atom f | .acas f => f.ordering != 0 && !f.mod6
  | .red f => f.ordering == 2
  | .ldfe _ | .bcwait _ | .barw _ | .bars _ | .qpop _ | .qpeek _ => true
  | _ => false

/-- REL or SC on the write side, QPUSH and LNCH (row 5, R294, R296). -/
def releases (i : Instr) : Bool :=
  match i with
  | .st f | .red f => f.ordering != 0
  | .atom f | .acas f => f.ordering == 2 || f.mod6
  | .stfe _ | .bcadd _ | .publish _ | .qpush _ | .lnch _ => true
  | _ => false

/-- SC (row 7). -/
def isSc (i : Instr) : Bool :=
  match i with
  | .ld f | .st f | .atom f | .acas f | .red f => f.ordering == 2
  | _ => false

/-- The scope written on the access; STFE, LDFE and BCADD have QUAD (R230, R231, R385), the queue operations and LNCH PKG (R294, R296). -/
def scopeCode (i : Instr) : Nat :=
  match i with
  | .ld f | .st f | .atom f | .acas f | .red f | .fence f | .publish f => f.scope
  | .qpush _ | .qpop _ | .qpeek _ | .lnch _ => 4
  | _ => 2

/-- Bytes that an access covers from the address of a lane: LDFE, STFE and FECLR work on whole granules (R210), the queue operations on
items and LNCH on a record (R293, R296). -/
def accessBytes (i : Instr) (n : Nat) : Nat :=
  match i with
  | .ld f | .st f | .atom f | .acas f | .red f => Machine.sizeBytes f.size
  | .feclr _ => n
  | .qpush _ | .qpop _ | .qpeek _ => 64
  | .lnch _ => 256
  | _ => 16

/-- The predicate registers p0 to p6. -/
def predicates : List Opnd := (List.range 7).map (fun n => .p (Fin.ofNat 8 n))

/-- The registers that an instruction may write: its destinations, the carry of IADDC, the predicates of PMOV.SET and the link pair (R82,
R125, R131, R134). -/
def writesRegs (i : Instr) : List Opnd :=
  match i, i.fields with
  | .call _, _ | .callx _, _ => [.v 62]
  | .lxch _, some f => [f.dst, f.sc]
  | .iaddc _, some f => if f.aux.getLsbD 3 then [f.dst, .p (Fin.ofNat 8 f.scope)] else [f.dst]
  | .pmovSet _, some _ => predicates
  | _, some f => [f.dst]
  | _, none => []

/-- The registers that an instruction may read: its operands, its guard, the predicates of PMOV.GET and the link pair (R40, R82, R131). -/
def readsRegs (i : Instr) : List Opnd :=
  match i, i.fields with
  | .ret _, some f => [.v 62, .p f.pred]
  | .pmovGet _, some _ => predicates
  | _, some f => [f.sa, f.sb, f.sc, .p f.pred]
  | _, none => []

/-- v registers for which renaming draws physical registers: those of the destination group, and the link pair (R82, R107). -/
def renames (i : Instr) : Nat :=
  match i with
  | .call _ | .callx _ => 2
  | _ =>
    match i.row, i.fields with
    | some r, some f =>
      match f.dst with
      | .v _ => r.sig.dst.vGroup
      | _ => 0
    | _, _ => 0

/-- Does the instruction write a convergence register: CVDECL and CVSIGN, and a tile instruction, which clears SIGNED (R183, R185)? -/
def writesCv (i : Instr) (n : Nat) : Bool :=
  match i.fields with
  | some f => [f.dst, f.sc].any (fun o => match o with | .cv m => m.val == n | _ => false)
  | none => false

end Instr

namespace Machine

namespace Entry

/-- Every lane of Active has its outcome and nothing is waited for. -/
def decided (e : Entry) : Bool := e.wait == .nothing

/-- A lane of the entry traps. -/
def traps (e : Entry) : Bool := e.outs.any (fun o => match o.2 with | .trap _ _ _ => true | _ => false)

/-- The entry is certain to retire without a trap (R109): its lanes have completed, or have passed every check. -/
def certain (e : Entry) : Bool :=
  match e.wait with
  | .nothing => !e.traps
  | .fence _ | .loadData | .sent => true
  | _ => false

/-- An instruction of lanes `m` needs a register that the entry is still to write. -/
def feeds (e : Entry) (m : LaneMask) (i : Instr) : Bool :=
  !e.decided && e.instr.writesRegs.any (fun d =>
    (match d with | .k _ => true | _ => (e.lanes &&& m) != 0) && i.readsRegs.any (fun o => o.near d))

/-- The entry's accesses are not all performed, or its FENCE or barrier is not complete. -/
def unperformed (e : Entry) : Bool :=
  !e.decided && (e.instr.memOp || e.instr.opClass == 2 || e.instr.acquires)

end Entry

/-! ## Order between accesses (R244, R245) -/

/-- What the order lets a younger access do before an older one that is not performed. -/
inductive Overtake where
  | waits
  | free
  /-- Before it, where no agent within the extent of this scope can notice. -/
  | within (scope : Nat)
  deriving DecidableEq, Repr

/-- Where an address leads, as far as its bytes matter: another name for the same bytes gives the same spot (R208). -/
inductive Spot where
  /-- Scratch of the core numbered so in the quad. -/
  | scratch (core off : Nat)
  /-- A byte of a backing page. -/
  | page (addr : Nat)
  /-- A byte at this offset of a page that no cache names. -/
  | somewhere (off : Nat)
  deriving DecidableEq, Repr

/-- Do `n` bytes at one spot meet `m` bytes at another, for all that is known? -/
def Spot.meets (n m : Nat) (a b : Spot) : Bool :=
  let near := fun (x y : Nat) => x < y + m && y < x + n
  match a, b with
  | .scratch c x, .scratch d y => c == d && near x y
  | .page x, .page y => near x y
  | .page x, .somewhere y => near (x % 4096) y
  | .somewhere x, .page y => near x (y % 4096)
  | .somewhere x, .somewhere y => near x y
  | _, _ => false

/-- The spot of an address of a warp; none where no access goes. -/
def State.spotOf (s : State) (w : Warp) (va : DWord) : Option Spot :=
  match rangeOfVa va with
  | .scratch off => some (.scratch (coreOf w.gcore) off)
  | .window c off => some (.scratch c off)
  | .global a =>
    match (s.core w.gcore).tcache.find? (s.liveCopy w.tenant (a / 4096)) <|>
        (s.die (dieOf w.gcore)).ftcache.find? (s.liveCopy w.tenant (a / 4096)) with
    | some c => some (.page (c.word1.toNat / 4096 * 4096 + a % 4096))
    | none => some (.somewhere (a % 4096))
  | .nowhere => none

/-- Lanes of the split whose guard is true (R40). -/
def activeMask (w : Warp) (lanes : LaneMask) (f : Fields) : LaneMask :=
  LaneMask.ofPred (fun l => lanes.has l && (w.getP l f.pred != f.neg))

/-- An access or FENCE about to be performed: its lanes (those of Active once the guard is known), where each lane goes and how many bytes
it covers, whether its registers are known yet, and its scope (at least QUAD in another core's slot of the gang window, R226). -/
structure Mover where
  instr : Instr
  lanes : LaneMask
  known : Bool
  spot : Nat → Option Spot
  bytes : Nat → Nat
  afar : Bool
  scope : Nat

/-- The mover of an instruction of a warp, with the registers `w`. -/
def moverOf (s : State) (w : Warp) (i : Instr) (lanes : LaneMask) (known : Bool) : Mover :=
  let f := i.fields.getD {}
  let lanes := if known then activeMask w lanes f else lanes
  let afar := i.access && lanes.lanes.any (fun l => match rangeOfVa (w.addr l f) with
    | .window c _ => c != coreOf w.gcore
    | _ => false)
  -- LDFE, STFE and FECLR reach whole granules
  let at_ := fun (l : Nat) => match i with
    | .ldfe _ | .stfe _ | .feclr _ => w.addr l f &&& ~~~15#64
    | _ => w.addr l f
  { instr := i, lanes, known, spot := fun l => s.spotOf w (at_ l), bytes := fun l => i.accessBytes (w.src32 l f.sb 0).toNat
    afar, scope := if afar then max 2 i.scopeCode else i.scopeCode }

/-- Does a lane of one access meet a lane of another in some byte: the same lane, or any with `all`? -/
def Mover.meets (y o : Mover) (all : Bool) : Bool :=
  y.lanes.lanes.any (fun l => (if all then o.lanes.lanes else if o.lanes.has l then [l] else []).any (fun k =>
    !o.known || !y.known || (match y.spot l, o.spot k with
      | some a, some b => Spot.meets (y.bytes l) (o.bytes k) a b
      | _, _ => false)))

/-- An edge of a scope past a store that is not performed: DIE and narrower, within the extent alone; a wider one waits for the store,
as it does where the warp itself could notice. -/
def edge (scope : Nat) (met : Bool) : Overtake := if scope < 4 && !met then .within scope else .waits

/-- What R227, R228, R236 and the rows of R244 let an access `y` do before an older one `o` that is not performed. Rows 2 and 3 hold
because an instruction waits for the registers that it reads. A KICK orders nothing (R256), but for a FENCE before it (row 8), and an
instruction with no lane in Active does nothing (R236). -/
def overtake (y o : Mover) : Overtake :=
  if y.instr.inCore || !(y.instr.memOp || y.instr.opClass == 2) || y.lanes == 0 || o.lanes == 0 then .free
  else
    match y.instr, o.instr with
    | _, .fence _ => .waits
    | .kick _, _ | .kickDie _, _ | _, .kick _ | _, .kickDie _ => .free
    | _, _ =>
      if o.instr.acquires then .waits
      else if (match y.instr with | .fence _ => true | _ => y.instr.releases) && o.instr.reads then .waits
      else if y.instr.isSc && o.instr.isSc then .waits
      else
        match y.instr with
        | .fence _ => if o.instr.access then edge (if o.afar then max 2 y.scope else y.scope) false else .waits
        | _ =>
          let lanewise := y.instr.access && o.instr.access
          if !y.instr.hasEvents || !o.instr.hasEvents || (lanewise && y.meets o false) then .waits
          else if y.instr.releases then edge y.scope (!lanewise || y.meets o true)
          else .free

/-- The agents of two cores are within one extent of a scope (R13). -/
def sameExtent (scope a b : Nat) : Bool :=
  match scope with
  | 0 => false
  | 1 => a == b
  | 2 => gquadOf a == gquadOf b
  | 3 => dieOf a == dieOf b
  | _ => true

namespace Warp

/-- The register writes of the completed lanes, in lane order, and the k writes of the lowest of them (R79, R84). -/
def writeDone (w : Warp) (outs : List (Nat × LaneOutcome)) : Warp :=
  let w := outs.foldl (fun w o => match o.2 with
    | .done ws _ => w.writeLane o.1 ws
    | _ => w) w
  match outs.findSome? (fun o => match o.2 with | .done ws _ => some ws | _ => none) with
  | some ws => w.writeK ws
  | none => w

/-- The registers as the unretired entries leave them, which renaming gives the instructions after these (R107, R109). -/
def ahead (w : Warp) (es : List Entry) : Warp := es.foldl (fun w e => w.writeDone e.outs) w

/-- Reorder entries that the warp holds (R106). -/
def inFlight (w : Warp) : Nat := w.rob.length

/-- Physical registers of the headroom that the warp's entries hold (R107). -/
def renamed (w : Warp) : Nat := w.rob.foldl (fun n e => n + e.instr.renames) 0

/-- Younger entries are discarded: their lanes stand at the oldest of those instructions again (R111). -/
def discard (w : Warp) (es : List Entry) : Warp :=
  es.foldr (fun e w => e.lanes.lanes.foldl (fun w l =>
    w.updLane l (fun x => { x with pc := e.pc, status := .running })) w) w

end Warp

namespace State

/-- Physical registers that every warp of a core may share: the headroom of 256 less 4 for each resident warp (R80, R107). -/
def sharedNames (s : State) (core : Nat) : Nat :=
  256 - 4 * (s.warpsWhere (fun w => w.onCore && w.gcore == core)).length

/-- Has renaming `n` more registers for the warp (R107)? -/
def canRename (s : State) (wid n : Nat) : Bool :=
  let w := s.warp wid
  let used := ((s.warpsWhere (fun x => x.onCore && x.gcore == w.gcore)).map (fun x => (s.warp x).renamed - 4)).sum
  n == 0 || w.renamed + n ≤ 4 || used - (w.renamed - 4) + (w.renamed + n - 4) ≤ s.sharedNames w.gcore

/-- The registers of the instruction at place `n` are known: no older entry is still to write one of them. -/
def fed (s : State) (wid n : Nat) (i : Instr) (lanes : LaneMask) : Bool :=
  !((s.warp wid).rob.take n).any (fun e => e.feeds lanes i)

/-- What the entry at place `j` lets an instruction do. Where a release or a FENCE of narrow scope has gone before it, no other access to
its bytes does, in whichever lane: the warp's own lanes are within every extent (row 6, R241). -/
def passes (s : State) (wid : Nat) (y : Mover) (j : Nat) (e : Entry) : Overtake :=
  let w := s.warp wid
  if !e.unperformed then .free
  else
    let o := moverOf s (w.ahead (w.rob.take j)) e.instr e.lanes (s.fed wid j e.instr e.lanes)
    match overtake y o with
    | .waits => .waits
    | x => if y.instr.access && e.owed.isSome && y.meets o true then .waits else x

/-- What the unretired entries let an instruction at place `n` of the reorder buffer do. -/
def overtakes (s : State) (wid n : Nat) (i : Instr) (lanes : LaneMask) : List Overtake :=
  let w := s.warp wid
  let y := moverOf s (w.ahead (w.rob.take n)) i lanes (s.fed wid n i lanes)
  (w.rob.take n).mapIdx (fun j e => s.passes wid y j e)

/-- Two readings of a counter or of GT by one warp come in order, and GT is read after what an acquire or a FENCE before it waits for
(R388, R390). -/
def readsInOrder (s : State) (wid n : Nat) (i : Instr) : Bool :=
  let after := fun (p : Instr → Bool) => !((s.warp wid).rob.take n).any (fun e => !e.decided && p e.instr)
  match i with
  | .cntrd _ => after (fun j => match j with | .cntrd _ => true | _ => false)
  | .gtrd _ => after (fun j => match j with | .gtrd _ | .fence _ => true | _ => j.acquires)
  | _ => true

/-- May the instruction be performed at place `n` of the reorder buffer (R109, R244, R312, R379)? A FENCE with no lane in Active does
nothing and waits for nothing (R236). -/
def mayPerform (s : State) (wid n : Nat) (i : Instr) (lanes : LaneMask) : Bool :=
  let w := s.warp wid
  let empty := match i with
    | .fence f => activeMask (w.ahead (w.rob.take n)) lanes f == 0
    | _ => false
  s.fed wid n i lanes && s.readsInOrder wid n i &&
    (i.inCore || n == 0 || empty ||
      (i.outside && (w.rob.take n).all Entry.certain && !(s.overtakes wid n i lanes).contains .waits))

/-- May a plain load be performed early, though an older entry may still trap (R109)? -/
def mayRead (s : State) (wid n : Nat) (i : Instr) (lanes : LaneMask) : Bool :=
  i.plainRead && s.fed wid n i lanes && !(s.overtakes wid n i lanes).contains .waits

/-- A warp leaves the grant order of its core once no RGACQ and no ROLE that acquires is left in its reorder buffer (R142). -/
def leaveExtQueue (s : State) (wid : Nat) : State :=
  let w := s.warp wid
  if !(s.core w.gcore).extQueue.contains wid || w.rob.any (fun e => e.instr.asksBlock && e.wait != .nothing) then s
  else s.updCore w.gcore (fun c => { c with extQueue := c.extQueue.filter (· != wid) })

end State

end Machine

end Sys2Proof
end

