-- ==== Sys2Proof/Machine/Ops.lean ====
section
/-! DEFINITION. The shared operations of every instruction: the context of an issuing split, the decode-time traps of
R53, the retirement of an entry with its register writes and its traps (R79, R84, R94, R108 to R113, R302), parking,
waiting, and the return from a trap. -/

namespace Sys2Proof.Machine

/-! ## The context of an issuing split -/

/-- The split that issues: its warp as it stands, its PC, lanes and Active (R40). -/
structure Ctx where
  wid : Nat
  w : Warp
  pc : DWord
  lanes : LaneMask
  active : LaneMask
  word : BitVec 96
  /-- GT at the issue. -/
  since : Nat := 0

namespace State

/-- The context of the instruction being performed, for its fields and the registers `w`. -/
def ctxOf (s : State) (f : Fields) (w : Warp) : Ctx :=
  { wid := s.cur.wid, w, pc := s.cur.pc, lanes := s.cur.lanes, active := activeMask w s.cur.lanes f, word := s.cur.word
    since := s.gt }

/-- The context of an instruction that issues with no unretired entry before it. -/
def ctx (s : State) (f : Fields) : Ctx := s.ctxOf f (s.warp s.cur.wid)

/-- The record of a warp's grid. -/
def recordOf (s : State) (w : Warp) : BitVec 2048 := (s.grid w.grid).record

/-- The link traffic class of a warp's grid (R263). -/
def classOf (s : State) (w : Warp) : Nat := Rec.tclass (s.recordOf w)

end State

namespace Ctx

/-- The agent of the warp's accesses. -/
def agent (c : Ctx) : Agent :=
  { wid := c.wid, tenant := c.w.tenant, gcore := c.w.gcore, grid := c.w.grid, block := c.w.block }

/-- The lowest lane of Active. -/
def low (c : Ctx) : Nat := c.active.lowest

end Ctx

/-! ## Decode-time traps (R53) -/

/-- Causes that the word and the warp decide together: an acquiring RGACQ or ROLE without the record's flag (R142), an
ERET with an empty tag (R314). -/
def stateIllop (s : State) (c : Ctx) : Instr → Bool
  | .rgacq _ => !Rec.extFlag (s.recordOf c.w)
  | .role f => f.imm.extractLsb' 3 2 == 1 && !Rec.extFlag (s.recordOf c.w)
  | .eret _ => (c.w.lane c.lanes.lowest).tag.isNone
  | _ => false

/-- The level of R50 and R52 is not met. -/
def privilegeFails (s : State) (c : Ctx) (i : Instr) (r : Row) (f : Fields) : Bool :=
  !c.w.supervisor &&
    (match r.level with
     | .supervisor => true
     | .user =>
       match i with
       | .role _ => f.imm.getLsbD 2 && bitsOf f.imm.toNat 1 0 > Rec.prio (s.recordOf c.w)
       | _ => false
     | .byRegister =>
       match i with
       | .syswr _ => !sysRegUserWritable f.regNumber
       | _ => !sysRegUserReadable f.regNumber)

/-- The first decode-time cause of orders 3 to 7 of R53. -/
def decodeCause (s : State) (c : Ctx) (i : Instr) : Option Nat :=
  match i.row, i.fields with
  | some r, some f =>
    if i.reject.isSome || stateIllop s c i then some Cause.illop
    else if privilegeFails s c i r f then some Cause.privilege
    else if !alignedOk r.sig f then some Cause.regalign
    else if touchesExtended r.sig f && !c.w.ext then some Cause.regbound
    else if unallocated c.w f.dst || unallocated c.w f.sa || unallocated c.w f.sb then some Cause.accUnalloc
    else none
  | _, _ => some Cause.illop

/-! ## The result of an instruction's body -/

/-- What the body of an instruction did: the machine with its effects outside the warp's registers, the outcome of
every lane of Active that has one, and the effects on the warp at retirement. -/
structure Result where
  s : State
  outs : List (Nat × LaneOutcome)
  /-- What the lanes without an outcome wait for. -/
  wait : Wait := .nothing
  /-- The entry retires in its turn and its lanes go on waiting (SLEEP, IDLE, WSYNC; R145). -/
  pauses : Bool := false
  flags : FpFlags := 0
  /-- Effects on the warp's own registers beside lane writes, at retirement. -/
  onWarp : Warp → Warp := id
  /-- The instruction cannot be performed yet: its entry waits for its turn (R343). -/
  again : Bool := false
  /-- An uncorrectable word was consumed at this address: the gang is killed (R220). -/
  consumed : Option DWord := none
  /-- An access beyond HBM. -/
  hole : Option Nat := none

/-- Every lane of a mask with one outcome. -/
def allLanes (m : LaneMask) (o : LaneOutcome) : List (Nat × LaneOutcome) := m.lanes.map (fun l => (l, o))

/-- Every lane of Active completes with nothing written. -/
def doneAll (c : Ctx) : List (Nat × LaneOutcome) := allLanes c.active (.done [] none)

/-- Every lane of Active traps alike. -/
def trapAll (c : Ctx) (cause : Nat) (addr : DWord := 0) (code : Nat := 0) : List (Nat × LaneOutcome) :=
  allLanes c.active (.trap cause addr code)

/-! ## Retirement -/

/-- An instruction that acts once for the warp and may park: its parked lanes share one walk (R202). R315 makes TRQPOP act once too, and
does not say how its lanes come back: they resume together and pop one record (log entry 96, DESIGN CHOICE). -/
def actsOnce (word : BitVec 96) : Bool :=
  match decodeWord word with
  | .ok (.diagst _) | .ok (.trqpop _) => true
  | .ok i => i.opClass == 2
  | .error _ => false

/-- The lanes of an entry that parked on one address. -/
def parkedAt (outs : List (Nat × LaneOutcome)) (va : DWord) : LaneMask :=
  LaneMask.ofPred (fun l => outs.contains (l, .park va))

namespace Warp

/-- The lanes of an entry go on: completed lanes to where they go, lanes outside Active to the next slot, parked lanes
park (R97, R99, R111), together where the instruction acts `once` or a fetch parks them. Lanes that trap are delivered afterwards. -/
def advance (w : Warp) (pc : DWord) (lanes active : LaneMask) (outs : List (Nat × LaneOutcome)) (once : Bool := false) : Warp :=
  let w := (lanes &&& ~~~active).lanes.foldl (fun w l =>
    w.updLane l (fun x => { x with pc := nextPc pc, status := .running })) w
  outs.foldl (fun w o => match o.2 with
    | .done _ none => w.updLane o.1 (fun x => { x with pc := nextPc pc, status := .running })
    | .done _ (some t) => w.updLane o.1 (fun x => { x with pc := t, status := .running })
    | .park va => w.updLane o.1 (fun x =>
      { x with pc := pc, status := .parked, parkAddr := va, parkWith := if once || va == lineOf pc then parkedAt outs va else 0 })
    | .trap _ _ _ => w.updLane o.1 (fun x => { x with pc := pc, status := .running })) w

end Warp

/-- The traps among the outcomes of an entry. -/
def trapsOf (outs : List (Nat × LaneOutcome)) : List (Nat × TrapLane) :=
  outs.filterMap (fun o => match o.2 with
    | .trap cause addr code => some (cause, { lane := o.1, addr, code })
    | _ => none)

namespace State

/-- Keep account of the time during which every lane that has not exited is parked (R304, R306). -/
def settleParked (s : State) (wid : Nat) : State :=
  let w := s.warp wid
  let all := w.live != 0 && w.live.lanes.all (fun l => (w.lane l).status == .parked)
  match w.parkedSince, all with
  | none, true => s.setWarp wid { w with parkedSince := some (s.runsFrom w.gcore) }
  | some t, false => s.setWarp wid { w with parkedSince := none, hangBase := w.hangBase + (s.runsFrom w.gcore - t) }
  | _, _ => s

/-- Retire one entry whose lanes all have outcomes (R108 to R113): register writes, FPFLAGS, PCs, the warp's own
effects, the hang count, WRETIRED, then delivery of its traps, then the warp's end. -/
def retire (s : State) (wid : Nat) (pc : DWord) (word : BitVec 96) (lanes active : LaneMask)
    (outs : List (Nat × LaneOutcome)) (flags : FpFlags) (onWarp : Warp → Warp) : State :=
  let s := s.updWarp wid (fun w =>
    let w := onWarp (((w.writeDone outs).advance pc lanes active outs (actsOnce word)).raise flags)
    { w with wretired := w.wretired + 1, hangBase := s.runsFrom (s.warp wid).gcore })
  ((s.deliverAll wid pc word (trapsOf outs)).settleParked wid).endWarp wid

/-- The whole split traps at decode (R53): every lane of the split, whatever its guard. -/
def trapSplit (s : State) (wid : Nat) (pc : DWord) (word : BitVec 96) (lanes : LaneMask) (cause : Nat)
    (addr : DWord := 0) : State :=
  s.retire wid pc word lanes lanes (allLanes lanes (.trap cause addr 0)) 0 id

/-- One more entry issued (R389). -/
def countIssue (s : State) (wid : Nat) : State := s.updWarp wid (fun w => { w with wissued := w.wissued + 1 })

/-- A SLEEP, an IDLE or a WSYNC retires in its turn (R108): its lanes go on waiting, with what they keep of it (R145). -/
def pause (s : State) (wid : Nat) (e : Entry) : State :=
  s.updWarp wid (fun w => { w with pauses := w.pauses ++ [e], wretired := w.wretired + 1, hangBase := s.runsFrom (s.warp wid).gcore })

/-- Put an unretired entry into the reorder buffer, its lanes waiting (R99, R108), or let it retire where its lanes alone wait on. -/
def enter (s : State) (c : Ctx) (i : Instr) (r : Result) : State :=
  let e : Entry := { pc := c.pc, lanes := c.lanes, active := c.active, instr := i, word := c.word, outs := r.outs,
                     wait := r.wait, since := s.gt, op := s.cur.op }
  let t := s.updWarp c.wid (fun w => c.lanes.lanes.foldl (fun w l => w.updLane l (fun x => { x with status := .waiting })) w)
  if r.pauses then t.pause c.wid e else t.updWarp c.wid (fun w => { w with rob := w.rob ++ [e] })

end State

/-! ## Entries behind unretired ones (R100, R104, R108 to R111) -/

/-- Every lane with an outcome has completed. -/
def cleanOuts (outs : List (Nat × LaneOutcome)) : Bool :=
  outs.all (fun o => match o.2 with | .done _ _ => true | _ => false)

namespace State

/-- Set the entry at place `n` of a reorder buffer, or add it at the end. -/
def setEntry (s : State) (wid n : Nat) (e : Entry) : State :=
  s.updWarp wid (fun w => { w with rob := w.rob.take n ++ e :: w.rob.drop (n + 1) })

/-- Keep the outcomes of the entry at place `n`. Where every lane of Active has completed, the split goes on; otherwise its lanes
wait at the instruction, and if they had gone on already, the entries behind are discarded. -/
def keepEntry (s : State) (wid n : Nat) (e : Entry) : State :=
  let go := e.decided && cleanOuts e.outs
  (s.updWarp wid (fun w =>
    if go then
      let w := if e.moved then w else w.advance e.pc e.lanes e.active e.outs
      { w with rob := w.rob.take n ++ { e with moved := true } :: w.rob.drop (n + 1) }
    else
      let late := e.moved && e.decided
      let w := if late then { w.discard (w.rob.drop (n + 1)) with rob := w.rob.take (n + 1) } else w
      let w := if e.moved && !late then w
        else e.lanes.lanes.foldl (fun w l => w.updLane l (fun x => { x with pc := e.pc, status := .waiting })) w
      { w with rob := w.rob.take n ++ { e with moved := e.moved && !late } :: w.rob.drop (n + 1) })).leaveExtQueue wid

/-- The accesses that an instruction at place `n` overtakes through an edge of narrow scope are owed to the agents within it. -/
def owe (s : State) (wid n : Nat) (i : Instr) (lanes : LaneMask) : State :=
  let os := s.overtakes wid n i lanes
  s.updWarp wid (fun w =>
    { w with rob := w.rob.mapIdx (fun j e => match os[j]? with
        | some (.within x) => { e with owed := some (max x (e.owed.getD 0)) }
        | _ => e) })

/-- The oldest entry retires and its lanes go on waiting. -/
def pauseOldest (s : State) (wid : Nat) (e : Entry) : State := (s.updWarp wid (fun w => { w with rob := w.rob.drop 1 })).pause wid e

/-- The oldest entry retires: its traps discard the younger entries first (R111). Lanes that have gone on stay where they are. -/
def retireOldest (s : State) (wid : Nat) (e : Entry) (onWarp : Warp → Warp) : State :=
  if e.moved && cleanOuts e.outs then
    let s := s.updWarp wid (fun w =>
      { onWarp ({ w.writeDone e.outs with rob := w.rob.drop 1 }.raise e.flags) with
        wretired := w.wretired + 1, hangBase := s.runsFrom (s.warp wid).gcore })
    (s.settleParked wid).endWarp wid
  else
    ((s.updWarp wid (fun w =>
      if e.traps || e.moved then { w.discard (w.rob.drop 1) with rob := [] } else { w with rob := w.rob.drop 1 })).leaveExtQueue wid).retire
      wid e.pc e.word e.lanes e.active e.outs e.flags onWarp

end State

/-- The entry of an instruction that is performed behind others, or was entered before. -/
def entryAt (s : State) (c : Ctx) (i : Instr) (r : Result) (old : Option Entry) : Entry :=
  { pc := c.pc, lanes := c.lanes, active := c.active, instr := i, word := c.word, outs := r.outs, wait := r.wait
    flags := r.flags, since := (old.map (·.since)).getD s.gt, op := s.cur.op, moved := (old.map (·.moved)).getD false
    owed := old.bind (·.owed) }

/-- The access is certain to complete in every lane (R109). -/
def sureResult (r : Result) : Bool :=
  r.wait == .nothing && cleanOuts r.outs && !r.again && r.consumed.isNone && r.hole.isNone

/-- Add an entry that is still to be performed at place `n`, while its split goes on. -/
def goOn (s : State) (c : Ctx) (i : Instr) (n : Nat) (wait : Wait) : State :=
  let e := { entryAt s c i { s, outs := [], wait } none with moved := true }
  s.updWarp c.wid (fun w =>
    let w := w.advance c.pc c.lanes c.active (doneAll c)
    { w with rob := w.rob.take n ++ [e] })

/-- Leave an access in flight and let its split go on (log entry 5). -/
def leaveInFlight (s : State) (c : Ctx) (i : Instr) (n : Nat) : State :=
  goOn (s.countIssue c.wid) c i n (match i with
    | .ld _ => Wait.loadData
    | _ => .sent)

/-- Take a place in the grant order of the core (R142). -/
def joinExtQueue (s : State) (gcore wid : Nat) : State :=
  if (s.core gcore).extQueue.contains wid then s
  else s.updCore gcore (fun x => { x with extQueue := x.extQueue ++ [wid] })

/-- At the warp's next opportunity the split takes no slot while another is ready (R140). -/
def stepBack (s : State) (c : Ctx) : State :=
  s.updWarp c.wid (fun w => { w with yielded := w.yielded ||| c.lanes, yieldWarp := true })

/-- What an instruction that waits for its turn does at its issue already: a request for an extended block takes its place in the grant
order, unless the warp holds one (R142), and a YIELD steps back, also where its guard is still to be written (R140). -/
def atIssue (s : State) (c : Ctx) (i : Instr) : State :=
  match i with
  | .yield _ => stepBack s c
  | _ => if i.asksBlock && !c.w.ext then joinExtQueue s c.w.gcore c.wid else s

/-- An entry at place `n` that cannot be performed yet waits for its turn: its split waits at it where the instruction holds it, and goes on
otherwise (R99, R100). -/
def awaitTurn (s : State) (c : Ctx) (i : Instr) (n : Nat) : State :=
  let s := atIssue s c i
  if i.holdsSplit then s.keepEntry c.wid n (entryAt s c i { s, outs := [], wait := .turn } none)
  else goOn s c i n .turn

/-- Finish an instruction from the result of its body, with no unretired entry before it. One that cannot be performed yet enters the
reorder buffer all the same (R104), unless its warp is gone. -/
def finish (i : Instr) (c : Ctx) (r : Result) : Host.Outcome State Fault Refusal :=
  match r.hole, r.consumed with
  | some a, _ => .fault (.noSuchHbm a)
  | none, some va => .next (r.s.consume c.w.grid c.w.block va [c.pc.toNat])
  | none, none =>
    if r.again then
      .next (if (r.s.warp c.wid).live = 0 then r.s else awaitTurn (r.s.countIssue c.wid) c i 0)
    else
      let s := r.s.countIssue c.wid
      if r.wait = .nothing then
        .next (s.retire c.wid c.pc c.word c.lanes c.active r.outs r.flags r.onWarp)
      else .next (s.enter c i r)

/-- Perform one instruction behind unretired entries, or an entry in its turn, or leave an access in flight. -/
def performBehind (i : Instr) (f : Fields) (s : State) (body : Ctx → Result) : Host.Outcome State Fault Refusal :=
  let w := s.warp s.cur.wid
  let n := s.cur.place.getD w.rob.length
  let old := s.cur.place.bind (fun n => w.rob[n]?)
  let c := { s.ctxOf f (w.ahead (w.rob.take n)) with since := (old.map (·.since)).getD s.gt }
  let counted := fun (s : State) => if old.isNone then s.countIssue c.wid else s
  let later := fun (s : State) => if old.isSome then s else awaitTurn (s.countIssue c.wid) c i n
  match decodeCause s c i with
  | some cause =>
    let c := { c with active := c.lanes }
    let e := entryAt s c i { s, outs := trapAll c cause } old
    .next (if n = 0 then (counted s).retireOldest c.wid e id else (counted s).keepEntry c.wid n e)
  | none =>
    let r := body c
    if !(s.mayPerform c.wid n i c.lanes || (s.mayRead c.wid n i c.lanes && sureResult r)) then .next (later s)
    else if s.cur.late && old.isNone && sureResult r then .next (leaveInFlight s c i n)
    else if w.rob.isEmpty then finish i c r
    else
      match r.hole, r.consumed with
      | some a, _ => .fault (.noSuchHbm a)
      | none, some va => .next (r.s.consume c.w.grid c.w.block va [c.pc.toNat])
      | none, none =>
        if r.again then .next (later r.s)
        else
          let t := counted (r.s.owe c.wid n i c.lanes)
          let e := entryAt s c i r old
          .next (if n = 0 && e.decided then t.retireOldest c.wid e r.onWarp
            else if n = 0 && r.pauses then t.pauseOldest c.wid e
            else t.keepEntry c.wid n e)

/-- Does an instruction issue with nothing unretired before it, and is its access not to stay in flight? -/
def atOnce (s : State) : Bool := (s.warp s.cur.wid).rob.isEmpty && !s.cur.late

/-- Perform one instruction of the issuing split: the decode-time traps, then its body (R53, R109). -/
def perform (i : Instr) (f : Fields) (s : State) (body : Ctx → Result) : Host.Outcome State Fault Refusal :=
  if !atOnce s then performBehind i f s body
  else
    let c := s.ctx f
    match decodeCause s c i with
    | some cause => .next ((s.countIssue c.wid).trapSplit c.wid c.pc c.word c.lanes cause)
    | none => finish i c (body c)

/-- An instruction that only computes register writes, lane by lane, from the warp's registers (R117, R120). -/
def performLanes (i : Instr) (f : Fields) (s : State) (lane : Ctx → Nat → List RegWrite) :
    Host.Outcome State Fault Refusal :=
  perform i f s (fun c => { s := s, outs := c.active.lanes.map (fun l => (l, .done (lane c l) none)) })

/-! ## The return from a trap (R314) -/

/-- Clear the handler tags of the lanes that returned. -/
def Warp.clearTags (w : Warp) (outs : List (Nat × LaneOutcome)) : Warp :=
  outs.foldl (fun w o => match o.2 with
    | .done _ _ => w.updLane o.1 (fun x => { x with tag := none })
    | _ => w) w

/-! ## Addends in flight and write-completion times -/

namespace State

/-- Addends that a warp has sent and no home has applied (R198, R236). -/
def addendsOf (s : State) (wid : Nat) : Bool :=
  s.mem.addends.any (fun a => a.wid == wid)

/-- A store of the warp is complete only once a move or an eviction in progress is over (R333). -/
def writesHeld (s : State) (wid : Nat) : Bool := s.tables.moves.any (fun m => m.writers.any (fun x => x.1 == wid))

/-- GT has passed the write-completion time of every older store-like access of the warp (R236). -/
def storesComplete (s : State) (wid : Nat) : Bool :=
  (s.warp wid).gwct ≤ s.gt && !s.addendsOf wid && !s.writesHeld wid

end State

/-- A release: it is performed only once every older access of the warp is performed (row 5 of R244). -/
def releasing (rel : Bool) (c : Ctx) (s : State) (r : Result) : Result :=
  if rel && c.active != 0 && !s.storesComplete c.wid then { s, outs := [], again := true } else r

end Sys2Proof.Machine
end

