-- ==== Sys2Proof/Machine/Launch.lean ====
section
/-! DEFINITION. Acceptance of launch records and pipeline descriptors by the loft (R262 to R266, R270 to R272). -/

namespace Sys2Proof.Machine

/-! ## The loft's own reads (R272, R297, R353) -/

namespace State

/-- The place that a page's entry names now, for the loft's own accesses: in a column or on a channel that the tenant may reach (R350,
R351). -/
def loftPlace (s : State) (t va : Nat) : Option Place :=
  match s.walk t va with
  | .leaf _ w0 w1 =>
    let off := va % 4096
    let inFrame := fun (fid : Nat) => if s.ownsColumn t (colOfFid fid) then some (Place.frame fid off) else none
    match Leaf.kind w0 with
    | 1 => inFrame (Leaf.target w0)
    | 2 => inFrame (Sparse.get ({} : ReplicaSet) s.tables.replicas (Leaf.target w0 % 4096)).master
    | 0 =>
      let shared := if s.grantee t (va / 4096) w0 then (s.sharedPage t w1.toNat).map (·.frame) else none
      match shared with
      | some (some fid) => some (.frame fid off)
      | _ =>
        if inHbm w1.toNat && (shared.isSome || s.ownsChannel t w1.toNat) then some (.hbm (s.local_ (w1.toNat + off))) else none
    | _ => if inHbm w1.toNat then some (s.pathFrom (.remote (w1.toNat + off)) true).place else none
  | _ => none

/-- The place `n` bytes on, in the same page. -/
def Place.plus : Place → Nat → Place
  | .frame fid off, n => .frame fid (off + n)
  | .hbm a, n => .hbm (a + n)
  | .remote a, n => .remote (a + n)
  | .scratch l, n => .scratch (l.plus n)
  | .forwarded hops p, n => .forwarded hops (p.plus n)

/-- Read `n` 64-byte sectors that lie within one page. -/
def readSectors (s : State) (t cls : Nat) (p : Place) : Nat → State × List Byte × Bool
  | 0 => (s, [], false)
  | n + 1 =>
    let (s, bs, bad) := s.readAt t cls p 64
    let (s, bs', bad') := s.readSectors t cls (p.plus 64) n
    (s, bs ++ bs', bad || bad')

/-- The loft reads `n` sectors that lie within one page, as they stand for the tenant. -/
def loftRead (s : State) (t cls va n : Nat) : Option (State × List Byte) :=
  match s.loftPlace t va with
  | none => none
  | some p =>
    let (s, bs, _) := s.readSectors t cls p n
    some (s, bs)

/-- Quads of a tenant: those of its partition that are not withdrawn (R8, R21). -/
def quadsOf (s : State) (t : Nat) : List Nat :=
  (List.range 96).filter (fun q => (s.partOf t).quads.getLsbD q && !((s.die (q / 12)).withdrawn.contains (q % 12)))

end State

/-! ## Checks of a record (R266) -/

namespace Rec

/-- Bytes `[a, b)` of a record are zero. -/
def zeroBytes (r : BitVec 2048) (a b : Nat) : Bool := r.toNat / 2 ^ (8 * a) % 2 ^ (8 * (b - a)) == 0

/-- GENCHK or XGEN is set (R265). -/
def claimsGen (r : BitVec 2048) : Bool := genchk r || xgen r != 0

/-- W of the record (R263). -/
def windowSize (r : BitVec 2048) : Nat := 32 * 2 ^ wsel r

/-- The fields of a grid record are within the limits of R262 and R263. -/
def gridFields (r : BitVec 2048) : Bool :=
  kind r == 0 && zeroBytes r 64 128 && recBits r 16 63 43 == 0 && recBits r 24 61 61 == 0 && recBits r 24 4 3 == 0 &&
  1 ≤ nblkx r && 1 ≤ nblky r && 1 ≤ nblkz r && f r ≤ 4 && a r ≤ 16 && 1 ≤ g r && g r ≤ 4 &&
  1 ≤ warps r && warps r ≤ 16 && scratch r ≤ 0x800000 && barpod r ≤ 4 && barpkg r ≤ 16 && bardie r ≤ 8 &&
  barquad r ≤ 4 && barcore r ≤ 16 && blocks r % g r == 0 && isPc (entry r)

/-- A block fits an empty core (R16, R266). -/
def fitsEmpty (r : BitVec 2048) : Bool := warps r * windowSize r ≤ 512 && warps r * (a r + f r) ≤ 20

/-- How many blocks an empty core with 8 MiB of scratch takes (R16, R19). -/
def blocksPerCore (r : BitVec 2048) : Nat :=
  let tiles := warps r * (a r + f r)
  let n := min (16 / warps r) (512 / (warps r * windowSize r))
  let n := if tiles = 0 then n else min n (20 / tiles)
  let n := if units r = 0 then n else min n (2048 / units r)
  if barcore r = 0 then n else min n (16 / barcore r)

/-- How many gangs an empty quad takes (R17, R19). -/
def gangsPerQuad (r : BitVec 2048) : Nat :=
  let sets := match g r with
    | 1 => 4
    | 2 => 2
    | _ => 1
  let n := sets * blocksPerCore r
  if barquad r = 0 then n else min n (4 / barquad r)

/-- The record with its TENANT (R265). -/
def withTenant (r : BitVec 2048) (t : Nat) : BitVec 2048 :=
  (r &&& ~~~BitVec.ofNat 2048 (15 * 2 ^ (8 * 24 + 40))) ||| BitVec.ofNat 2048 (t % 16 * 2 ^ (8 * 24 + 40))

end Rec

/-- Who enqueues: a warp at USER of a tenant, or a supervisor or the host (R265). -/
inductive Enqueuer where
  | user (tenant : Nat)
  | supervisor
  deriving DecidableEq, Repr

/-- Status codes 2 to 5 of R266, which every record meets alike. An undefined tenant has no priority ceiling. -/
def tenantStatus (s : State) (r : BitVec 2048) : Nat :=
  let t := s.tenant (Rec.tenant r)
  if t.defined && Rec.prio r > t.priocap then 2
  else if !t.defined || (Rec.genchk r && Rec.xgen r != t.gen) then 3
  else 0

/-- The records that hold an entry of a launch queue: those accepted and not retired (R267, R270). A pipeline descriptor counts among them
until its pipeline retires; its stage gangs do not (log entry 98, DESIGN CHOICE). -/
def queueEntries (s : State) (t prio : Nat) : Nat :=
  (s.loft.grids.filter (fun (e : Nat × Grid) =>
    e.2.tenant == t && Rec.prio e.2.record == prio && e.2.pipe.isNone && e.2.state != .retired &&
      e.2.state != .refused)).length

/-- The status of a grid record (R266), before the queue is looked at. -/
def gridStatus (s : State) (who : Enqueuer) (r : BitVec 2048) : Nat :=
  let userBad := match who with
    | .user _ => Rec.claimsGen r
    | .supervisor => false
  if !Rec.gridFields r || userBad then 1
  else
    let c := tenantStatus s r
    if c ≠ 0 then c
    else if !Rec.fitsEmpty r then 4
    else if Rec.coresident r && Rec.gangsPerQuad r * (s.quadsOf (Rec.tenant r)).length < Rec.gangs r then 5
    else 0

/-! ## Pipeline descriptors (R271, R272) -/

/-- A stage entry of a descriptor. -/
structure StageEntry where
  recaddr : Nat
  qcap : Nat
  inmax : Nat
  outmax : Nat
  qmin : Nat
  qmax : Nat
  tail : Nat
  deriving DecidableEq, Repr

/-- The stage entries, up to the first with a zero record address. -/
def stageEntries (r : BitVec 2048) : List StageEntry :=
  ((List.range 8).map (fun i =>
    let b := 64 + 16 * i
    ({ recaddr := recBits r b 63 0, qcap := recBits r (b + 8) 15 0, inmax := recBits r (b + 8) 23 16,
       outmax := recBits r (b + 8) 31 24, qmin := recBits r (b + 8) 39 32, qmax := recBits r (b + 8) 47 40,
       tail := recBits r (b + 8) 63 48 } : StageEntry))).takeWhile (fun e => e.recaddr != 0)

/-- The fields of a descriptor are within the limits of R271. -/
def descriptorFields (r : BitVec 2048) : Bool :=
  let es := stageEntries r
  Rec.kind r == 1 && Rec.zeroBytes r 0 24 && Rec.zeroBytes r 192 256 &&
  recBits r 24 39 2 == 0 && recBits r 24 61 61 == 0 && !es.isEmpty &&
  es.zipIdx.all (fun x =>
    let e := x.1
    1 ≤ e.qcap && e.qcap ≤ 1024 && 1 ≤ e.inmax && e.inmax ≤ 64 && e.outmax ≤ 64 &&
    e.qmin ≤ e.qmax && 1 ≤ e.qmax && e.qmax ≤ 96 && e.tail == 0 && (x.2 + 1 != es.length || e.outmax == 0))

/-- Read and check one stage record (R272). A record that breaks R272's own conditions gets FIELD, and only where R266 finds nothing against
it: the spec gives such a record no status code (log entry 99, DESIGN CHOICE). -/
def readStage (s : State) (who : Enqueuer) (d : BitVec 2048) (i : Nat) (e : StageEntry) : State × Nat × Stage :=
  let t := Rec.tenant d
  let stage := fun (r : BitVec 2048) =>
    ({ record := r, qcap := e.qcap, inmax := e.inmax, outmax := e.outmax, qmin := e.qmin, qmax := e.qmax } : Stage)
  if e.recaddr % 256 ≠ 0 || e.recaddr ≥ 2 ^ 56 then (s, 1, stage 0)
  else
    match s.loftRead t 0 e.recaddr 4 with
    | none => (s, 1, stage 0)
    | some (s, bs) =>
      let r := leWord 2048 bs
      let r := match who with
        | .user _ => Rec.withTenant r t
        | .supervisor => r
      let ok := Rec.pipe r && Rec.stage r == i && !Rec.coresident r && Rec.nblkx r == Rec.g r &&
        Rec.nblky r == 1 && Rec.nblkz r == 1 && Rec.tenant r == t && Rec.prio r == Rec.prio d
      let c := gridStatus s who r
      (s, if c ≠ 0 then c else if ok then 0 else 1, stage r)

/-- Read every stage record in order. -/
def readStages (s : State) (who : Enqueuer) (d : BitVec 2048) : List (StageEntry × Nat) → State × Nat × List Stage
  | [] => (s, 0, [])
  | (e, i) :: rest =>
    let (s, c, st) := readStage s who d i e
    let (s, c', sts) := readStages s who d rest
    (s, if c ≠ 0 then c else c', st :: sts)

/-- The status of a descriptor and its stages (R266, R272). -/
def descriptorStatus (s : State) (who : Enqueuer) (d : BitVec 2048) : State × Nat × List Stage :=
  let userBad := match who with
    | .user _ => Rec.claimsGen d
    | .supervisor => false
  if !descriptorFields d || userBad then (s, 1, [])
  else
    let c := tenantStatus s d
    if c ≠ 0 then (s, c, [])
    else
      let (s, c, sts) := readStages s who d (stageEntries d).zipIdx
      if c ≠ 0 then (s, c, [])
      else if (sts.foldl (fun a st => a + st.qmin) 0) > (s.quadsOf (Rec.tenant d)).length then (s, 1, [])
      else (s, 0, sts)

/-! ## Acceptance (R264 to R267) -/

/-- The next number that no retained record holds (R264). -/
def freeGridNo (s : State) : Nat → Nat → Nat
  | 0, n => n
  | fuel + 1, n =>
    let n := if n > 0xFFFFFFFF then 1 else n
    if s.loft.grids.any (fun (e : Nat × Grid) => e.1 == n && e.2.state != .retired) then freeGridNo s fuel (n + 1) else n

/-- Take a number and retain a record under it. -/
def retain (s : State) (g : Grid) : State × Nat :=
  let n := freeGridNo s (s.loft.grids.length + 1) s.loft.nextGrid
  let s : State := { s with loft := { s.loft with
    grids := Sparse.set {} s.loft.grids n g, nextGrid := n + 1 } }
  (s, n)

/-- The record as the loft takes it from an enqueuer (R265). -/
def ownRecord (who : Enqueuer) (r : BitVec 2048) : BitVec 2048 :=
  match who with
  | .user t => Rec.withTenant r t
  | .supervisor => r

/-- A refused record has GRIDID 0, STATE REFUSED and its REASON (R264). -/
def refuse (s : State) (g : Grid) (code : Nat) : State × Nat × Nat :=
  (s.setGrid 0 { g with state := .refused, reason := code }, code, 0)

/-! ## Pod barriers (R14, R15, R22) -/

namespace State

/-- Barriers of a scope that are allocated where `p` says. -/
def barriersHeld (s : State) (p : Barrier → Bool) : Nat := (s.loft.barriers.filter p).length

/-- Allocate `n` barriers of a scope to an owner (R14, R372). -/
def addBarriers (s : State) (scope g owner n : Nat) : State :=
  (List.range n).foldl (fun s i => { s with loft := { s.loft with
    barriers := s.loft.barriers ++ [{ id := s.loft.nextBarrier, scope, grid := g, owner, index := i }]
    nextBarrier := s.loft.nextBarrier + 1 } }) s

/-- The pod barriers of a grid are allocated, if it asks for any (R14). -/
def podReady (s : State) (g : Nat) : Bool :=
  Rec.barpod (s.grid g).record == 0 || s.loft.barriers.any (fun b => b.scope == 5 && b.grid == g)

/-- Note the pod grids that have been accepted on every package by now (R22). -/
def notePods (s : State) : State :=
  { s with loft := { s.loft with grids := s.loft.grids.map (fun (e : Nat × Grid) =>
    let r := e.2.record
    let accepted := Rec.podtag r == 0 || Config.podAccepted (Rec.podtag r) s.gt
    let live := e.2.state != .retired && e.2.state != .refused
    if Rec.barpod r != 0 && live && e.2.podGt.isNone && accepted then (e.1, { e.2 with podGt := some s.gt }) else e) } }

/-- Grids that wait for pod barriers, the one accepted everywhere first in front; ties by their numbers. -/
def podQueue (s : State) : List Nat :=
  ((s.loft.grids.filter (fun (e : Nat × Grid) =>
    e.2.podGt.isSome && e.2.state != .retired && e.2.state != .refused && !s.podReady e.1)).foldl
    (fun (l : List (Nat × Nat)) e =>
      let at_ := e.2.podGt.getD 0
      let (a, b) := l.span (fun x => x.1 ≤ at_)
      a ++ (at_, e.1) :: b) []).map (·.2)

/-- Pod barriers are allocated once every package's grid of the pod grid has been accepted, in that order, as far as they are free (R14,
R15, R22). -/
def openPods (s : State) : State :=
  let s := s.notePods
  s.podQueue.foldl (fun s g =>
    let n := Rec.barpod (s.grid g).record
    if s.barriersHeld (fun b => b.scope == 5) + n ≤ 4 then s.addBarriers 5 g 0 n else s) s

end State

/-- Accept or refuse a record: its status and number (R266). A pipeline descriptor that is accepted reads RUNNING: the spec
names no step at which a pipeline is QUEUED or PLACING (log entry 50, DESIGN CHOICE). -/
def acceptRecord (s : State) (who : Enqueuer) (r : BitVec 2048) : State × Nat × Nat :=
  let r := ownRecord who r
  let t := Rec.tenant r
  let full := queueEntries s t (Rec.prio r) ≥ 64
  let grid : Grid := { record := r, enqgt := s.gt, gen := (s.tenant t).gen, tenant := t }
  if Rec.kind r = 1 then
    let (s, c, sts) := descriptorStatus s who r
    if c ≠ 0 then refuse s grid c
    else if full then refuse s grid 6
    else
      let (s, n) := retain s { grid with state := .running }
      (s.setPipeline n { tenant := t, prio := Rec.prio r, stages := sts }, 0, n)
  else
    let c := gridStatus s who r
    if c ≠ 0 then refuse s grid c
    else if full then refuse s grid 6
    else
      let (s, n) := retain s grid
      ((s.setQueue (4 * t + Rec.prio r) (s.queue (4 * t + Rec.prio r) ++ [n])).openPods, 0, n)

end Sys2Proof.Machine
end

