-- ==== Sys2Proof/Machine/SoftFloat.lean ====
section
/-! DEFINITION. Number formats and rounding (R146 to R159): a floating-point pattern is read into an exact value, results
are computed exactly, and one rounding narrows them, with the flags of R158. -/

namespace Sys2Proof.Machine

/-! ## Formats (R146) -/

/-- A format: exponent bits, fraction bits and bias; `ieee` has infinities. -/
structure Fmt where
  ebits : Nat
  mbits : Nat
  bias : Nat
  ieee : Bool := true
  deriving DecidableEq, Repr

namespace Fmt

def fp64 : Fmt := { ebits := 11, mbits := 52, bias := 1023 }
def fp32 : Fmt := { ebits := 8, mbits := 23, bias := 127 }
def fp16 : Fmt := { ebits := 5, mbits := 10, bias := 15 }
def bf16 : Fmt := { ebits := 8, mbits := 7, bias := 127 }
def s24 : Fmt := { ebits := 8, mbits := 15, bias := 127 }
def e4m3 : Fmt := { ebits := 4, mbits := 3, bias := 7, ieee := false }

/-- Exponent of the smallest normal. -/
def emin (f : Fmt) : Int := 1 - (f.bias : Int)
/-- Place of the sign bit. -/
def signBit (f : Fmt) : Nat := f.ebits + f.mbits
/-- Pattern of +∞, where the format has one. -/
def inf (f : Fmt) : Nat := (2 ^ f.ebits - 1) * 2 ^ f.mbits
/-- Pattern of the largest finite value. -/
def largest (f : Fmt) : Nat := if f.ieee then f.inf - 1 else 2 ^ f.signBit - 2
/-- The canonical NaN (R148). -/
def nan (f : Fmt) : Nat := if f.ieee then f.inf + 2 ^ (f.mbits - 1) else 2 ^ f.signBit - 1
/-- The sign as a pattern. -/
def sign (f : Fmt) (neg : Bool) : Nat := if neg then 2 ^ f.signBit else 0

end Fmt

/-! ## Values (R147) -/

/-- What a pattern denotes: a number is (−1)^neg · m · 2^e. -/
inductive FpVal where
  | nan (signalling : Bool)
  | inf (neg : Bool)
  | num (neg : Bool) (m : Nat) (e : Int)
  deriving DecidableEq, Repr

namespace FpVal

/-- Read a pattern (R147). -/
def ofBits (f : Fmt) (x : Nat) : FpVal :=
  let neg := x.testBit f.signBit
  let e := x / 2 ^ f.mbits % 2 ^ f.ebits
  let m := x % 2 ^ f.mbits
  let q := f.emin - (f.mbits : Int)
  if f.ieee && e == 2 ^ f.ebits - 1 then
    if m == 0 then .inf neg else .nan (!m.testBit (f.mbits - 1))
  else if !f.ieee && x % 2 ^ f.signBit == 2 ^ f.signBit - 1 then .nan false
  else if e == 0 then .num neg m q
  else .num neg (2 ^ f.mbits + m) (q + (e : Int) - 1)

def isNan : FpVal → Bool
  | .nan _ => true
  | _ => false

def isSignalling : FpVal → Bool
  | .nan b => b
  | _ => false

def isZero : FpVal → Bool
  | .num _ m _ => m == 0
  | _ => false

def neg : FpVal → Bool
  | .nan _ => false
  | .inf n => n
  | .num n _ _ => n

/-- The sign bit flipped (R161). -/
def negate : FpVal → FpVal
  | .nan b => .nan b
  | .inf n => .inf (!n)
  | .num n m e => .num (!n) m e

end FpVal

/-! ## Rounding (R152 to R156) -/

/-- Rounding directions (R152); `matrix` is the toward-zero rounding of the matrix path (R156). -/
inductive Rounding where
  | rne | tz | dn | up | matrix
  deriving DecidableEq, Repr

/-- The mode in MOD[1:0] (R152). -/
def Rounding.ofMod (m : BitVec 7) : Rounding :=
  match (m.extractLsb' 0 2).toNat with
  | 0 => .rne
  | 1 => .tz
  | 2 => .dn
  | _ => .up

/-- Does a magnitude round up from `n`, whose remainder is `rem` of `2^k`? -/
def Rounding.bumps (r : Rounding) (neg : Bool) (n rem k : Nat) : Bool :=
  match r with
  | .rne => 2 * rem > 2 ^ k || (2 * rem == 2 ^ k && n % 2 == 1)
  | .tz | .matrix => false
  | .dn => neg && rem > 0
  | .up => !neg && rem > 0

/-- `m · 2^e` rounded to a multiple of `2^q`, counted in multiples. -/
def roundTo (r : Rounding) (neg : Bool) (m : Nat) (e q : Int) : Nat :=
  if q ≤ e then m * 2 ^ (e - q).toNat
  else
    let k := (q - e).toNat
    let n := m / 2 ^ k
    if r.bumps neg n (m % 2 ^ k) k then n + 1 else n

/-- Is `m · 2^e` a multiple of `2^q`? -/
def exactAt (m : Nat) (e q : Int) : Bool := q ≤ e || m % 2 ^ (q - e).toNat == 0

/-- What an overflow yields (R154 to R156): `sat` gives the largest finite value of E4M3. -/
def overflowBits (f : Fmt) (r : Rounding) (sat neg : Bool) : Nat :=
  let toLargest := match r with
    | .rne => sat
    | .tz | .matrix => true
    | .dn => !neg
    | .up => neg
  if toLargest then f.sign neg + f.largest else if f.ieee then f.sign neg + f.inf else f.nan

/-- Round (−1)^neg · m · 2^e once: the pattern and its flags (R153 to R158). A rounding to E4M3 rounds below the
smallest normal as the other formats do (DEDUCED, log entry 21). -/
def roundNum (f : Fmt) (r : Rounding) (sat : Bool) (neg : Bool) (m : Nat) (e : Int) : Nat × FpFlags :=
  if m = 0 then (f.sign neg, 0)
  else
    let top : Int := e + (Nat.log2 m : Int)
    let q0 := f.emin - (f.mbits : Int)
    let q := max q0 (top - (f.mbits : Int))
    let n := roundTo r neg m e q
    let inexact := !exactAt m e q
    let code := (q - q0).toNat * 2 ^ f.mbits + n
    let beyond := code > f.largest || (r == .matrix && code == f.largest && inexact)
    if beyond then (overflowBits f r sat neg, FpFlags.of_ ||| FpFlags.nx)
    else
      let free := top - (f.mbits : Int)
      let tiny := top < f.emin && !(top + 1 == f.emin && roundTo r neg m e free == 2 ^ (f.mbits + 1))
      (f.sign neg + code, FpFlags.when inexact .nx ||| FpFlags.when (tiny && inexact) .uf)

/-- Round a value: a NaN is canonical, an infinity stays, and in a format without infinities it overflows in the vector
path and is invalid in the matrix path (R148, R155, R156). -/
def roundVal (f : Fmt) (r : Rounding) (sat : Bool) : FpVal → Nat × FpFlags
  | .nan _ => (f.nan, 0)
  | .inf n =>
    if f.ieee then (f.sign n + f.inf, 0)
    else if r == .matrix then (f.nan, FpFlags.nv)
    else (overflowBits f r sat n, FpFlags.of_ ||| FpFlags.nx)
  | .num n m e => roundNum f r sat n m e

/-! ## Exact arithmetic -/

/-- NV of signalling operands (R158). -/
def signalling (xs : List FpVal) : FpFlags := FpFlags.when (xs.any FpVal.isSignalling) .nv

/-- Sign of an exact zero sum (R153, R156). -/
def zeroSign (r : Rounding) (a b : Bool) : Bool := if a == b then a else r == .dn

/-- The exact integer (−1)^neg · m. -/
def signedNat (neg : Bool) (m : Nat) : Int := if neg then -(m : Int) else m

/-- The exact sum, with the NV of ∞ − ∞. -/
def addVal (r : Rounding) (a b : FpVal) : FpVal × FpFlags :=
  match a, b with
  | .nan _, _ | _, .nan _ => (.nan false, 0)
  | .inf x, .inf y => if x == y then (.inf x, 0) else (.nan false, FpFlags.nv)
  | .inf x, _ => (.inf x, 0)
  | _, .inf y => (.inf y, 0)
  | .num na ma ea, .num nb mb eb =>
    let e := min ea eb
    let sum := signedNat na (ma * 2 ^ (ea - e).toNat) + signedNat nb (mb * 2 ^ (eb - e).toNat)
    if sum = 0 then (.num (zeroSign r na nb) 0 0, 0) else (.num (sum < 0) sum.natAbs e, 0)

/-- The exact product, with the NV of 0 × ∞. -/
def mulVal (a b : FpVal) : FpVal × FpFlags :=
  match a, b with
  | .nan _, _ | _, .nan _ => (.nan false, 0)
  | .inf x, .inf y => (.inf (x != y), 0)
  | .inf x, .num y m _ => if m = 0 then (.nan false, FpFlags.nv) else (.inf (x != y), 0)
  | .num x m _, .inf y => if m = 0 then (.nan false, FpFlags.nv) else (.inf (x != y), 0)
  | .num x m e, .num y m' e' => (.num (x != y) (m * m') (e + e'), 0)

/-- A rounded result with the flags gathered before the rounding. -/
def rounded (f : Fmt) (r : Rounding) (v : FpVal × FpFlags) (xs : List FpVal) : Nat × FpFlags :=
  let (bits, fl) := roundVal f r false v.1
  (bits, fl ||| v.2 ||| signalling xs)

/-- a + b (R163). -/
def fpAdd (f : Fmt) (r : Rounding) (a b : FpVal) : Nat × FpFlags := rounded f r (addVal r a b) [a, b]

/-- a × b (R163). -/
def fpMul (f : Fmt) (r : Rounding) (a b : FpVal) : Nat × FpFlags := rounded f r (mulVal a b) [a, b]

/-- a × b + c with one rounding (R163). 0 × ∞ raises NV whatever c is (R158). -/
def fpFma (f : Fmt) (r : Rounding) (a b c : FpVal) : Nat × FpFlags :=
  let (p, fl) := mulVal a b
  let (x, fl') := addVal r p c
  rounded f r (x, fl ||| fl') [a, b, c]

/-- A quotient of numbers as an exact value whose last bit is odd where a remainder is left: enough bits that any
rounding of it is the rounding of the quotient. -/
def quotient (f : Fmt) (m : Nat) (e : Int) (m' : Nat) (e' : Int) : Nat × Int :=
  let k := f.mbits + 4 + Nat.log2 m' - Nat.log2 m + 1
  let n := m * 2 ^ k / m'
  (2 * n + (if m * 2 ^ k % m' = 0 then 0 else 1), (e - e') - (k : Int) - (1 : Int))

/-- a / b (R167). -/
def fpDiv (f : Fmt) (r : Rounding) (a b : FpVal) : Nat × FpFlags :=
  let v : FpVal × FpFlags := match a, b with
    | .nan _, _ | _, .nan _ => (.nan false, 0)
    | .inf _, .inf _ => (.nan false, FpFlags.nv)
    | .inf x, .num y _ _ => (.inf (x != y), 0)
    | .num x _ _, .inf y => (.num (x != y) 0 0, 0)
    | .num x m e, .num y m' e' =>
      if m' = 0 then (if m = 0 then (.nan false, FpFlags.nv) else (.inf (x != y), FpFlags.dz))
      else if m = 0 then (.num (x != y) 0 0, 0)
      else
        let (n, q) := quotient f m e m' e'
        (.num (x != y) n q, 0)
  rounded f r v [a, b]

/-- The integer square root, by bits from the highest down; `fuel` bits. -/
def isqrt (n : Nat) : Nat → Nat → Nat
  | 0, acc => acc
  | fuel + 1, acc =>
    let t := acc + 2 ^ fuel
    isqrt n fuel (if t * t ≤ n then t else acc)

/-- √a (R167). -/
def fpSqrt (f : Fmt) (r : Rounding) (a : FpVal) : Nat × FpFlags :=
  let v : FpVal × FpFlags := match a with
    | .nan _ => (.nan false, 0)
    | .inf false => (.inf false, 0)
    | .inf true => (.nan false, FpFlags.nv)
    | .num neg m e =>
      if m = 0 then (.num neg 0 0, 0)
      else if neg then (.nan false, FpFlags.nv)
      else
        let k := 2 * (f.mbits + 4) + (if (e - 2 * (f.mbits + 4 : Int)) % 2 = 0 then 0 else 1)
        let n := m * 2 ^ k
        let s := isqrt n (Nat.log2 n / 2 + 1) 0
        (.num false (2 * s + (if s * s = n then 0 else 1)) ((e - (k : Int)) / 2 - 1), 0)
  rounded f r v [a]

/-! ## Order and classes (R164 to R166) -/

/-- Compare two numbers or infinities exactly: the sign of a − b. -/
def cmpVal (a b : FpVal) : Int :=
  let key := fun (v : FpVal) => match v with
    | .nan _ => (0 : Int)
    | .inf n => if n then -2 else 2
    | .num _ _ _ => 0
  match a, b with
  | .num na ma ea, .num nb mb eb =>
    let e := min ea eb
    (signedNat na (ma * 2 ^ (ea - e).toNat) - signedNat nb (mb * 2 ^ (eb - e).toNat)).sign
  | _, _ => (key a - key b).sign

/-- The compare codes of R165. -/
def fpCompare (code : Nat) (a b : FpVal) : Bool :=
  let nan := a.isNan || b.isNan
  match code with
  | 0 => !nan && cmpVal a b == 0
  | 1 => nan || cmpVal a b != 0
  | 2 => !nan && cmpVal a b < 0
  | 3 => !nan && cmpVal a b ≤ 0
  | 4 => !nan && cmpVal a b > 0
  | 5 => !nan && cmpVal a b ≥ 0
  | 6 => !nan
  | _ => nan

/-- FMIN and FMAX of two FP32 patterns (R164). -/
def fpMinMax (max : Bool) (x y : Nat) : Nat × FpFlags :=
  let a := FpVal.ofBits .fp32 x
  let b := FpVal.ofBits .fp32 y
  let less := if cmpVal a b == 0 then a.neg && !b.neg else cmpVal a b < 0
  let bits :=
    if a.isNan && b.isNan then Fmt.fp32.nan
    else if a.isNan then y
    else if b.isNan then x
    else if less != max then x else y
  (bits, signalling [a, b])

/-- The class of a value in its format (R166). -/
def fpClass (f : Fmt) (v : FpVal) : Nat :=
  match v with
  | .nan true => 0
  | .nan false => 1
  | .inf true => 2
  | .inf false => 9
  | .num neg m _ =>
    if m = 0 then (if neg then 5 else 6)
    else if m < 2 ^ f.mbits then (if neg then 4 else 7)
    else if neg then 3 else 8

/-! ## Conversions (R170 to R175) -/

/-- Convert to a format by one rounding. -/
def fpConvert (f : Fmt) (r : Rounding) (sat : Bool) (v : FpVal) : Nat × FpFlags :=
  let (bits, fl) := roundVal f r sat v
  (bits, fl ||| signalling [v])

/-- The exact integer nearest in a direction, with whether it differs (R171). -/
def roundToInt (r : Rounding) (neg : Bool) (m : Nat) (e : Int) : Int × Bool :=
  (signedNat neg (roundTo r neg m e 0), !exactAt m e 0)

/-- Convert to an integer type `[lo, hi]` (R171). To an unsigned type .RNE takes what lies between −1 and 0 to 0, as R171 says of −0.7;
R152 by itself would take −0.7 to −1 (log entry 91, DEDUCED). -/
def fpToInt (r : Rounding) (lo hi : Int) (v : FpVal) : Int × FpFlags :=
  match v with
  | .nan _ => (0, FpFlags.nv)
  | .inf n => (if n then lo else hi, FpFlags.nv)
  | .num neg m e =>
    let toward := if r = .rne && lo = 0 && neg && roundTo .tz neg m e 0 = 0 then .tz else r
    let (y, inexact) := roundToInt toward neg m e
    if y < lo then (lo, FpFlags.nv)
    else if y > hi then (hi, FpFlags.nv)
    else (y, FpFlags.when inexact .nx)

/-- Round to an integer and clamp (R173, PACKI8). -/
def fpToByte (lo hi : Int) (v : FpVal) : Int × FpFlags :=
  match v with
  | .nan _ => (0, FpFlags.nv)
  | .inf n => (if n then lo else hi, FpFlags.nx)
  | .num neg m e =>
    let (y, inexact) := roundToInt .rne neg m e
    let z := if y < lo then lo else if y > hi then hi else y
    (z, FpFlags.when (inexact || z != y) .nx)

/-- An exact integer as a value. -/
def FpVal.ofInt (x : Int) : FpVal := .num (x < 0) x.natAbs 0

end Sys2Proof.Machine
end

