-- ==== Sys2Proof/Machine/Spans.lean ====
section
/-! DEFINITION. Accesses of many bytes by one instruction or request: each span of consecutive bytes is cut at sectors,
every piece is resolved and checked first, and the bytes are read or written afterwards (R179, R180, R202). -/

namespace Sys2Proof.Machine

/-- Consecutive bytes of virtual addresses. -/
structure Span where
  va : DWord
  len : Nat
  deriving DecidableEq, Repr

/-- Cut a span at multiples of 64 bytes; `fuel` bounds the pieces. -/
def cutSpan (va : DWord) (n : Nat) : Nat → List Span
  | 0 => []
  | fuel + 1 =>
    if n = 0 then []
    else
      let k := min n (64 - (va.extractLsb' 0 6).toNat)
      { va, len := k } :: cutSpan (va + BitVec.ofNat 64 k) (n - k) fuel

/-- The pieces of a span. -/
def Span.pieces (x : Span) : List Span := cutSpan x.va x.len (x.len / 64 + 2)

/-- What the checks of all pieces found, the most urgent cause first (R112, R202). -/
structure Checked where
  s : State
  places : List (Span × State.Place) := []
  perm : Option DWord := none
  park : Option DWord := none
  wait : Bool := false
  hole : Option Nat := none

/-- Check one more piece. -/
def Checked.add (ag : Agent) (lane : Nat) (k : AccKind) (c : Checked) (x : Span) : Checked :=
  match c.s.resolve ag lane x.va k with
  | .at s p => { c with s, places := (x, p) :: c.places }
  | .trap s _ => { c with s, perm := c.perm <|> some x.va }
  | .park s => { c with s, park := c.park <|> some x.va }
  | .wait s => { c with s, wait := true }
  | .hole a => { c with hole := c.hole <|> some a }

/-- Check every span of an access. -/
def checkSpans (s : State) (ag : Agent) (lane : Nat) (k : AccKind) (xs : List Span) : Checked :=
  let c := (xs.flatMap Span.pieces).foldl (Checked.add ag lane k) { s }
  { c with places := c.places.reverse }

/-- Read the checked pieces in order: the bytes, and the address of an uncorrectable error. -/
def readPlaces (s : State) (t cls : Nat) : List (Span × State.Place) → State × List Byte × Option DWord
  | [] => (s, [], none)
  | (x, p) :: rest =>
    let (s, bs, bad) := s.readAt t cls p x.len
    let (s, bs', bad') := readPlaces s t cls rest
    (s, bs ++ bs', if bad then some x.va else bad')

/-- Write bytes to the checked pieces in order. -/
def writePlaces (s : State) (t cls : Nat) : List (Span × State.Place) → List Byte → State
  | [], _ => s
  | (x, p) :: rest, bs => writePlaces (s.writeAt t cls p (bs.take x.len)) t cls rest (bs.drop x.len)

end Sys2Proof.Machine
end

