-- ==== Sys2Proof/Machine/Tiles.lean ====
section
/-! DEFINITION. Shared operations of class 2: operand maps (R177 to R180), tiles (R87), convergence sets (R182 to R185),
gathers (R192), bound checks (R92, R196, R197) and the frame of an instruction that acts once for the warp (R202). -/

namespace Sys2Proof.Machine

/-! ## Operand maps (R177, R178) -/

namespace Map

def base (m : BitVec 256) : DWord := m.extractLsb' 0 64
def stride (m : BitVec 256) : Nat := (m.extractLsb' 64 32).toNat
def rows (m : BitVec 256) : Nat := (m.extractLsb' 96 16).toNat
def rowb (m : BitVec 256) : Nat := (m.extractLsb' 112 16).toNat
def fmt (m : BitVec 256) : Nat := (m.extractLsb' 128 4).toNat
def bd (m : BitVec 256) : Nat := (m.extractLsb' 132 4).toNat
def bden (m : BitVec 256) : Bool := m.getLsbD 136
def gen (m : BitVec 256) : Bool := m.getLsbD 137
def greg (m : BitVec 256) : Nat := (m.extractLsb' 138 7).toNat

/-- The mask of the bits below 145, without FMT. -/
def keepMask : BitVec 256 := BitVec.ofNat 256 (2 ^ 145 - 1 - 15 * 2 ^ 128)

/-- What OMSET and OMLD store: reserved bits zero, an FMT of 5 to 15 as 0 (R178). -/
def store (x : BitVec 256) : BitVec 256 :=
  let f := fmt x
  (x &&& keepMask) ||| BitVec.ofNat 256 ((if f ≤ 4 then f else 0) * 2 ^ 128)

/-- The map with its gather fields (R187, GIDX). -/
def setGather (m : BitVec 256) (gen : Bool) (greg : Nat) : BitVec 256 :=
  (m &&& ~~~BitVec.ofNat 256 (0xFF * 2 ^ 137)) ||| BitVec.ofNat 256 (ofBool gen * 2 ^ 137 + greg * 2 ^ 138)

/-- Rows in use, at most 64 (R179). -/
def usedRows (m : BitVec 256) : Nat := min 64 (rows m)

/-- Elements of `e` bytes in use of `n` in a row (R179). -/
def usedCols (m : BitVec 256) (e n : Nat) : Nat := min n (rowb m / e)

/-- Address of element 0 of a row, modulo 2^64 (R179). -/
def rowAddr (m : BitVec 256) (i : Nat) : DWord := base m + BitVec.ofNat 64 (i * stride m)

end Map

/-- The map that SA names in its low and in its high half (R42). -/
def mapA (w : Warp) (f : Fields) : BitVec 256 :=
  match f.sa with
  | .maps a _ => w.getOm a.val
  | _ => 0

def mapB (w : Warp) (f : Fields) : BitVec 256 :=
  match f.sa with
  | .maps _ b => w.getOm b.val
  | _ => 0

/-- Number of the map in SA's low half. -/
def mapNo (f : Fields) : Nat :=
  match f.sa with
  | .maps a _ => a.val
  | _ => 0

/-! ## Tiles (R87) -/

/-- Element (i, j) of a tile; a missing element is 0. -/
def tileElem (t : List Word) (i j : Nat) : Word := t.getD (64 * i + j) 0

/-- A tile from a function of its elements; the zero tile is the empty list. -/
def tileOf (g : Nat → Nat → Word) : List Word :=
  let t := (List.range 64).flatMap (fun i => (List.range 64).map (g i))
  if t.all (· == 0) then [] else t

/-- A tile from its rows. -/
def tileOfRows (rows : List (List Word)) : List Word := tileOf (fun i j => (rows.getD i []).getD j 0)

namespace Warp

/-- The tile that a field names. -/
def tile (w : Warp) : Opnd → List Word
  | .acc n => w.getAcc n.val
  | .pf n => w.getPf n.val
  | _ => []

/-- Write the tile that a field names. -/
def setTile (w : Warp) (o : Opnd) (t : List Word) : Warp :=
  match o with
  | .acc n => w.setAcc n.val t
  | .pf n => w.setPf n.val t
  | _ => w

end Warp

/-! ## Convergence registers (R89, R182 to R185) -/

/-- The convergence register that SC names. -/
def cvNo (o : Opnd) : Nat :=
  match o with
  | .cv n => n.val
  | _ => 0

def cvMembers (x : DWord) : LaneMask := x.setWidth 32
def cvSigned (x : DWord) : LaneMask := x.extractLsb' 32 32

/-- A convergence register of the given fields. -/
def cvOf (members signed : LaneMask) : DWord := signed ++ members

/-- May a tile instruction of the split issue (R183)? -/
def tileReady (w : Warp) (pc : DWord) (lanes : LaneMask) (n : Nat) : Bool :=
  let x := w.getCv n
  let tag := (w.lane lanes.lowest).tag
  (LaneMask.lanes (cvMembers x)).all (fun l =>
    let y := w.lane l
    y.status == .exited ||
      ((cvSigned x).has l && y.status == .running && y.pc == pc && y.tag == tag))

/-- Every member of the convergence set has signed or has exited. -/
def tileSigned (w : Warp) (n : Nat) : Bool :=
  (LaneMask.lanes (cvMembers (w.getCv n))).all (fun l => (w.lane l).status == .exited || (cvSigned (w.getCv n)).has l)

/-- SIGNED of a register cleared (R185). -/
def Warp.clearSigned (w : Warp) (n : Nat) : Warp := w.setCv n (cvOf (cvMembers (w.getCv n)) 0)

/-! ## An instruction that acts once for the warp -/

/-- Cycles that a step occupies the anvil (R176, R389). -/
def useAnvil (s : State) (gcore cycles : Nat) (memory : Bool) : State :=
  let extra := if memory then Config.memoryTime s.freshCount else 0
  let s := if memory then s.fresh else s
  s.updCore gcore (fun c => { c with anvil := c.anvil + BitVec.ofNat 64 (cycles + extra) })

/-- Perform an instruction that acts once for the warp and does nothing where Active is empty (R182). -/
def performWarp (i : Instr) (f : Fields) (s : State) (body : Ctx → Result) : Host.Outcome State Fault Refusal :=
  perform i f s (fun c => if c.active = 0 then { s, outs := [] } else body c)

/-- Perform a tile instruction: the wait, the convergence set, the body (R183 to R185). Once it has issued, its lanes go on (R100) and only
the signatures are looked at. -/
def performTile (i : Instr) (f : Fields) (s : State) (body : Ctx → Result) : Host.Outcome State Fault Refusal :=
  perform i f s (fun c =>
    let n := cvNo f.sc
    if !(if s.cur.place.isSome then tileSigned c.w n else tileReady c.w c.pc c.lanes n) then { s, outs := [], again := true }
    else if c.active = 0 then { s, outs := [] }
    else if c.active ≠ cvMembers (c.w.getCv n) then { s, outs := trapAll c Cause.matrixPartial }
    else body c)

/-- A tile instruction completes with these flags and effects, or traps FPX whole (R159, R185). -/
def tileDone (c : Ctx) (f : Fields) (s : State) (flags : FpFlags) (onWarp : Warp → Warp) : Result :=
  let t := flags &&& c.w.enabledFlags
  if t ≠ 0 then { s, outs := trapAll c Cause.fpx 0 t.toNat }
  else { s, outs := doneAll c, flags, onWarp := fun w => (onWarp w).clearSigned (cvNo f.sc) }

/-- The first cause of an instruction's accesses, in the order of R112, or its checked places (R202). Where several of its accesses meet
the cause, the address is that of the first: rows in order, those of omA before those of omB (log entry 92, DESIGN CHOICE). -/
def settle (c : Ctx) (mis outside : Option DWord) (k : Checked) : Except Result (State × List (Span × State.Place)) :=
  match mis, outside <|> k.perm, k.hole, k.park with
  | some va, _, _, _ => .error { s := k.s, outs := trapAll c Cause.memAlign va }
  | none, some va, _, _ => .error { s := k.s, outs := trapAll c Cause.permission va }
  | none, none, some a, _ => .error { s := k.s, outs := [], hole := some a }
  | none, none, none, some va => .error { s := k.s, outs := allLanes c.active (.park va) }
  | none, none, none, none =>
    if k.wait then .error { s := k.s, outs := [], again := true } else .ok (k.s, k.places)

/-! ## Rows of a map -/

/-- A row in use: its number in the tile and its span. -/
structure RowSpan where
  row : Nat
  span : Span

/-- The rows of a map in use, for elements of `e` bytes, `n` in a row (R179). -/
def mapSpans (m : BitVec 256) (e n : Nat) : List RowSpan :=
  (List.range (Map.usedRows m)).map (fun i => { row := i, span := { va := Map.rowAddr m i, len := Map.usedCols m e n * e } })

/-- The index of row `i` of a gather (R192). -/
def gatherIndex (w : Warp) (members : LaneMask) (greg i : Nat) : Nat :=
  let l := i / 2
  if members.has l && (w.lane l).status != .exited && (greg < 64 || w.ext) then
    let x := w.getV l greg
    if i % 2 = 0 then bitsOf x.toNat 15 0 else bitsOf x.toNat 31 16
  else 0xFFFF

/-- The rows of a gather in use (R192). -/
def gatherSpans (w : Warp) (members : LaneMask) (m : BitVec 256) (e n : Nat) : List RowSpan :=
  (List.range 64).filterMap (fun i =>
    let x := gatherIndex w members (Map.greg m) i
    if x = 0xFFFF || x ≥ Map.rows m then none
    else some { row := i, span := { va := Map.rowAddr m x, len := Map.usedCols m e n * e } })

/-- The first element of the rows that is not at a multiple of `e` (R180); elements of 3 bytes or 1 are never misaligned. -/
def misaligned (e : Nat) (rows : List RowSpan) : Option DWord :=
  if e = 2 || e = 4 then
    (rows.find? (fun r => r.span.len > 0 && r.span.va.toNat % e != 0)).map (fun r => r.span.va)
  else none

/-- The first row of a gather outside the scratchpad and the gang window (R180). -/
def outsideScratch (rows : List RowSpan) : Option DWord :=
  let local' := fun (va : DWord) => match rangeOfVa va with
    | .scratch _ => true
    | .window _ _ => true
    | _ => false
  (rows.find? (fun r => r.span.len > 0 && !(local' r.span.va && local' (r.span.va + BitVec.ofNat 64 (r.span.len - 1))))).map
    (fun r => r.span.va)

/-- Cut the bytes of rows into elements of `e` bytes, `n` in a row; rows not in use read zero. -/
def rowsOfBytes (e n : Nat) : List RowSpan → List Byte → Nat → List (List Nat)
  | _, _, 0 => []
  | [], _, k + 1 => List.replicate n 0 :: rowsOfBytes e n [] [] k
  | r :: rs, bs, k + 1 =>
    if r.row = 63 - k then
      ((chunksOf e n (bs.take r.span.len)).map leNat) :: rowsOfBytes e n rs (bs.drop r.span.len) k
    else List.replicate n 0 :: rowsOfBytes e n (r :: rs) bs k

/-- Read the elements of rows: 64 rows of `n` elements, or what the instruction takes instead. -/
def readRows (c : Ctx) (s : State) (cls e n : Nat) (outside : Option DWord) (rows : List RowSpan) :
    Except Result (State × List (List Nat)) :=
  match settle c (misaligned e rows) outside (checkSpans s c.agent c.low .read (rows.map (·.span))) with
  | .error r => .error r
  | .ok (s, places) =>
    let (s, bs, bad) := readPlaces s c.w.tenant cls places
    match bad with
    | some va => .error { s, outs := [], consumed := some va }
    | none => .ok (s, rowsOfBytes e n rows bs 64)

/-- Write the elements of a tile through a map (R179, R202): `bytes i j` are those of element (i, j). -/
def writeRows (c : Ctx) (s : State) (cls e : Nat) (m : BitVec 256) (places : List (Span × State.Place))
    (bytes : Nat → Nat → List Byte) : State :=
  let all := (List.range (Map.usedRows m)).flatMap (fun i =>
    (List.range (Map.usedCols m e 64)).flatMap (fun j => bytes i j))
  places.foldl (fun s x => s.noteWrite c.wid x.2) (writePlaces s c.w.tenant cls places all)

/-! ## Bound checks (R92, R196, R197) -/

/-- The bound register of a drain, if it checks (R197). -/
def drainBound (f : Fields) (m : BitVec 256) : Option Nat :=
  if f.imm.getLsbD 4 then some (f.imm.extractLsb' 0 4).toNat
  else if Map.bden m then some (Map.bd m)
  else none

/-- Is a value within [LO, HI] (R91)? -/
def inBounds (b : BitVec 128) (x : FpVal) : Bool :=
  !x.isNan && cmpVal (.ofBits .fp32 (Bound.lo b).toNat) x ≤ 0 && cmpVal x (.ofBits .fp32 (Bound.hi b).toNat) ≤ 0

/-- The bound that replaces a value out of range in CLAMP mode (R92). -/
def clampTo (b : BitVec 128) (x : FpVal) : Word :=
  if x.isNan || cmpVal x (.ofBits .fp32 (Bound.lo b).toNat) < 0 then Bound.lo b else Bound.hi b

/-- A tile element as a value: FP32, or the integer it denotes (R196). -/
def elemVal (int : Bool) (x : Word) : FpVal := if int then .ofInt x.toInt else .ofBits .fp32 x.toNat

/-- A bound as an element: itself, or converted to an integer toward zero (R196). -/
def boundElem (int : Bool) (x : Word) : Word :=
  if int then BitVec.ofInt 32 (fpToInt .tz (-(2 ^ 31)) (2 ^ 31 - 1) (.ofBits .fp32 x.toNat)).1 else x

/-- The element that a checking instruction writes, and whether it was out of range. -/
def boundElement (int : Bool) (b : BitVec 128) (x : Word) : Word × Bool :=
  if Bound.mode b = 0 || inBounds b (elemVal int x) then (x, false)
  else if Bound.mode b = 2 then (boundElem int (clampTo b (elemVal int x)), true)
  else (x, true)

/-- The bound register after a checking instruction (R92). -/
def Warp.countBound (w : Warp) (b : Option Nat) (n : Nat) : Warp :=
  match b with
  | none => w
  | some k => if n = 0 then w else w.setBd k (Bound.after (w.getBd k) n)

/-- Does a checking instruction trap BOUND (R92)? -/
def boundTraps (w : Warp) (b : Option Nat) (n : Nat) : Bool :=
  match b with
  | none => false
  | some k => Bound.mode (w.getBd k) = 3 && n > 0

end Sys2Proof.Machine
end

