-- ==== Sys2Proof/Machine/LoadStore.lean ====
section
/-! DEFINITION. Class 3: loads, stores, full/empty operations, atomic operations, FENCE and PREF (R222 to R237). -/

namespace Sys2Proof.Machine

/-! ## The checks of a lane (R224) -/

/-- What the checks of one lane found. -/
inductive LaneAccess where
  | at (p : State.Place)
  | trap (cause : Nat)
  | park
  | wait
  | hole (a : Nat)
  deriving DecidableEq, Repr

/-- Check the access of one lane: alignment, range, translation and permission (R224). -/
def checkLane (s : State) (c : Ctx) (k : AccKind) (align : Nat) (va : DWord) (l : Nat) : State × LaneAccess :=
  if va.toNat % align ≠ 0 then (s, .trap Cause.memAlign)
  else
    match s.resolve c.agent l va k with
    | .at s p => (s, .at p)
    | .trap s cause => (s, .trap cause)
    | .park s => (s, .park)
    | .wait s => (s, .wait)
    | .hole a => (s, .hole a)

/-- Check the lanes of an instruction in order. -/
def checkLanes (s : State) (c : Ctx) (k : AccKind) (align : Nat) (f : Fields) : List Nat → State × List (Nat × LaneAccess)
  | [] => (s, [])
  | l :: ls =>
    let (s, x) := checkLane s c k align (c.w.addr l f) l
    let (s, xs) := checkLanes s c k align f ls
    (s, (l, x) :: xs)

/-- Does some lane wait for its page? -/
def anyWaits (xs : List (Nat × LaneAccess)) : Bool := xs.any (fun x => x.2 == .wait)

/-- An access beyond HBM. -/
def anyHole (xs : List (Nat × LaneAccess)) : Option Nat :=
  xs.findSome? (fun x => match x.2 with | .hole a => some a | _ => none)

/-! ## SC order (R251) -/

/-- The home of a place: column, or channel from 384, of this package or of another. A read that a replica or a remote-line frame
serves meets the counter of that frame's column, and a remote access one for the channel of its backing: the spec does not say which
home keeps their stamp (log entry 89, DESIGN CHOICE). -/
def homeOf (s : State) (p : State.Place) : Nat :=
  match p.bare with
  | .scratch (.bin c _) => c
  | .scratch (.hbm a) | .hbm a | .remote a =>
    if pkgOf a = s.net.pkg then 384 + channelOf a else 1024 * (pkgOf a + 1) + channelOf a
  | .frame fid _ => colOfFid fid
  | .forwarded _ _ => 0

/-- Stamp one SC access (R251). -/
def stampSc (s : State) (wid : Nat) (p : State.Place) : State :=
  let h := homeOf s p
  let t := max (s.warp wid).scStamp (Sparse.get 0 s.mem.scStamps h) + 1
  let s : State := { s with mem := { s.mem with scStamps := Sparse.set 0 s.mem.scStamps h t } }
  s.updWarp wid (fun w => { w with scStamp := max w.scStamp t })

/-- Stamp where the instruction carries SC. -/
def stampIf (sc : Bool) (s : State) (wid : Nat) (p : State.Place) : State := if sc then stampSc s wid p else s

/-! ## Performing the lanes in order (R225) -/

/-- What the lanes performed so far did. -/
structure Performed where
  s : State
  outs : List (Nat × LaneOutcome) := []
  consumed : Option DWord := none

/-- Perform the lanes that passed their checks, in increasing order; `act` performs one lane at its place. -/
def performPlaces (c : Ctx) (f : Fields) (act : State → Nat → State.Place → State × List RegWrite × Bool) (p : Performed) :
    List (Nat × LaneAccess) → Performed
  | [] => { p with outs := p.outs.reverse }
  | (l, x) :: xs =>
    let va := c.w.addr l f
    let p := match x with
      | .at place =>
        let (s, ws, bad) := act p.s l place
        { s, outs := (l, .done ws none) :: p.outs, consumed := if bad then p.consumed <|> some va else p.consumed }
      | .trap cause => { p with outs := (l, .trap cause va 0) :: p.outs }
      | .park => { p with outs := (l, .park va) :: p.outs }
      | .wait | .hole _ => p
    performPlaces c f act p xs

/-- Perform an access of every lane of Active: checks, then the lanes in order. -/
def accessLanes (c : Ctx) (s : State) (f : Fields) (k : AccKind) (align : Nat)
    (act : State → Nat → State.Place → State × List RegWrite × Bool) : Result :=
  let (s, xs) := checkLanes s c k align f c.active.lanes
  if anyWaits xs then { s, outs := [], again := true }
  else
    let p := performPlaces c f act { s } xs
    { s := p.s, outs := p.outs, consumed := p.consumed, hole := anyHole xs }

/-! ## LD and ST (R227, R228) -/

/-- The accesses of LD. -/
def loadLanes (c : Ctx) (s : State) (f : Fields) : Result :=
  accessLanes c s f .read (sizeBytes f.size) (fun s _ p =>
    let (s, bs, bad) := s.readAt c.w.tenant (s.classOf c.w) p (sizeBytes f.size)
    (stampIf (f.ordering == 2) s c.wid p, dstLoad f.dst f.size f.mod5 (leNat bs), bad))

/-- LD (R227): performed at once, or left in flight until its data returns (`leaveInFlight`). -/
def execLd (f : Fields) (s : State) := perform (.ld f) f s (fun c => loadLanes c s f)

/-- Write one lane's bytes, a store-like access (R236, R241). -/
def storePlace (c : Ctx) (s : State) (sc : Bool) (p : State.Place) (n : Nat) (x : Nat) : State :=
  let s := s.writeAt c.w.tenant (s.classOf c.w) p (leBytes n x)
  (stampIf sc s c.wid p).noteWrite c.wid p

/-- The bound register of ST.BND. -/
def storeBound (f : Fields) : Option Nat := if f.mod6 then some f.auxHigh else none

/-- The value that ST writes in a lane, and whether it was out of range (R92, R228). -/
def storeValue (c : Ctx) (f : Fields) (l : Nat) : Nat × Bool :=
  let x := srcValue c.w l f.sb f.size
  match storeBound f with
  | none => (x, false)
  | some b =>
    let (y, out) := boundElement false (c.w.getBd b) (BitVec.ofNat 32 x)
    (y.toNat, out)

/-- The lanes of ST that no earlier cause holds (R112, R228). -/
def storeLanes (xs : List (Nat × LaneAccess)) : List Nat :=
  (xs.filter (fun x => match x.2 with | .at _ => true | _ => false)).map (·.1)

/-- The accesses of ST, or its traps. -/
def storeBody (c : Ctx) (s : State) (f : Fields) : Result :=
  let (s, xs) := checkLanes s c .write (sizeBytes f.size) f c.active.lanes
  if anyWaits xs then { s, outs := [], again := true }
  else
    let b := storeBound f
    let n := ((storeLanes xs).filter (fun l => (storeValue c f l).2)).length
    if boundTraps c.w b n then
      let xs := xs.map (fun x => match x.2 with
        | .at _ => (x.1, LaneOutcome.trap Cause.bound (c.w.addr x.1 f) (b.getD 0))
        | .trap cause => (x.1, .trap cause (c.w.addr x.1 f) 0)
        | _ => (x.1, .park (c.w.addr x.1 f)))
      { s, outs := xs }
    else
      let p := performPlaces c f (fun s l p =>
        (storePlace c s (f.ordering == 2) p (sizeBytes f.size) (storeValue c f l).1, [], false)) { s } xs
      { s := p.s, outs := p.outs, hole := anyHole xs, onWarp := fun w => w.countBound b n }

/-- The accesses of ST, once those before a release are complete (R228). -/
def stLanes (c : Ctx) (s : State) (f : Fields) : Result := releasing (f.ordering != 0) c s (storeBody c s f)

/-- ST (R228). -/
def execSt (f : Fields) (s : State) := perform (.st f) f s (fun c => stLanes c s f)

/-! ## Full/empty operations (R210 to R212, R230 to R232) -/

/-- The check of a lane that accepts only scratch and the gang window (R212). -/
def checkScratch (s : State) (c : Ctx) (align : Nat) (va : DWord) : LaneAccess :=
  if va.toNat % align ≠ 0 then .trap Cause.memAlign
  else
    match rangeOfVa va with
    | .global _ | .nowhere => .trap Cause.permission
    | r =>
      match s.scratchPlace c.agent r with
      | some loc => .at (.scratch loc)
      | none => .trap Cause.permission

/-- Serve an LDFE of one lane at a full granule (R210, R230). -/
def serveFull (s : State) (wid : Nat) (f : Fields) (p : Nat) : State × List RegWrite × Bool :=
  let (s, bs, bad) := s.readBytes p (sizeBytes f.size)
  let s := if f.mod5 then s else (s.setFull p false).noteStore wid s.gt
  (s, dstLoad f.dst f.size false (leNat bs), bad)

/-- LDFE of the lanes in order: a full granule with no request before this one serves it; otherwise the lane waits. -/
def ldfeLanes (c : Ctx) (f : Fields) (p : Performed) : List Nat → Performed
  | [] => { p with outs := p.outs.reverse }
  | l :: ls =>
    let va := c.w.addr l f
    let p := match checkScratch p.s c (sizeBytes f.size) va with
      | .at place =>
        let b := State.placePhys place
        if p.s.isFull b && !p.s.mem.feQueue.any (fun r => r.granule == b / 16) then
          let (s, ws, bad) := serveFull p.s c.wid f b
          { s, outs := (l, .done ws none) :: p.outs, consumed := if bad then p.consumed <|> some va else p.consumed }
        else
          let s := p.s
          { p with s := { s with mem := { s.mem with
              feQueue := s.mem.feQueue ++ [{ wid := c.wid, lane := l, granule := b / 16, since := s.gt }] } } }
      | .trap cause => { p with outs := (l, .trap cause va 0) :: p.outs }
      | _ => p
    ldfeLanes c f p ls

/-- LDFE (R230). -/
def execLdfe (f : Fields) (s : State) := perform (.ldfe f) f s (fun c =>
  let p := ldfeLanes c f { s } c.active.lanes
  { s := p.s, outs := p.outs, consumed := p.consumed
    wait := if p.outs.length = c.active.lanes.length then .nothing else .full })

/-- The accesses of STFE. -/
def stfeLanes (c : Ctx) (s : State) (f : Fields) : Result :=
  let xs := c.active.lanes.map (fun l => (l, checkScratch s c (sizeBytes f.size) (c.w.addr l f)))
  let p := performPlaces c f (fun s l p =>
    let s := storePlace c s false p (sizeBytes f.size) (srcValue c.w l f.sb f.size)
    (s.raiseFull (State.placePhys p), [], false)) { s } xs
  releasing true c s { s := p.s, outs := p.outs }

/-- STFE (R231). -/
def execStfe (f : Fields) (s : State) := perform (.stfe f) f s (fun c => stfeLanes c s f)

/-- The scratch granules of a range from an address, or none where the range leaves its allocation (R232). -/
def granulesOf (s : State) (ag : Agent) (va : DWord) (n : Nat) : Option (List Nat) :=
  let at_ := fun (i : Nat) => match rangeOfVa va with
    | .scratch off => s.scratchPlace ag (.scratch (off + i))
    | .window c off => s.scratchPlace ag (.window c (off + i))
    | _ => none
  if (at_ (n - 1)).isNone then none
  else (List.range (n / 16)).mapM (fun i => (at_ (16 * i)).map Loc.phys)

/-- The lanes of FECLR. -/
def feclrLanes (c : Ctx) (s : State) (f : Fields) : Result :=
  let step := fun (p : Performed) (l : Nat) =>
    let va := c.w.addr l f
    let n := (c.w.src32 l f.sb 0).toNat
    if n = 0 then { p with outs := p.outs ++ [(l, .done [] none)] }
    else if va.toNat % 16 ≠ 0 || n % 16 ≠ 0 then { p with outs := p.outs ++ [(l, .trap Cause.memAlign va 0)] }
    else
      match granulesOf p.s c.agent va n with
      | none => { p with outs := p.outs ++ [(l, .trap Cause.permission va 0)] }
      | some gs =>
        let s := (gs.foldl (fun s g => s.setFull g false) p.s).noteStore c.wid p.s.gt
        { p with s, outs := p.outs ++ [(l, .done [] none)] }
  let p := c.active.lanes.foldl step { s }
  { s := p.s, outs := p.outs }

/-- FECLR (R232). -/
def execFeclr (f : Fields) (s : State) := perform (.feclr f) f s (fun c => feclrLanes c s f)

/-! ## Atomic operations (R233 to R235) -/

/-- FADD of the near adders (R199, R233): no flag leaves the home. -/
def nearAdd (x y : Word) : Word :=
  BitVec.ofNat 32 (fpAdd .fp32 .matrix (.ofBits .fp32 x.toNat) (.ofBits .fp32 y.toNat)).1

/-- The operations of R233 on `n`-bit values. -/
def atomicOp (op : Nat) (unsigned : Bool) (n old b : Nat) : Nat :=
  match op with
  | 0 => (old + b) % 2 ^ n
  | 1 => old &&& b
  | 2 => old ||| b
  | 3 => old ^^^ b
  | 4 => if (if unsigned then old < b else signedOf n old < signedOf n b) then old else b
  | 5 => if (if unsigned then old < b else signedOf n old < signedOf n b) then b else old
  | 6 => b
  | _ => (nearAdd (BitVec.ofNat 32 old) (BitVec.ofNat 32 b)).toNat

/-- One read-modify-write at its place: the old value, and whether it was uncorrectable. -/
def rmwPlace (c : Ctx) (s : State) (sc : Bool) (p : State.Place) (n : Nat) (g : Nat → Option Nat) : State × Nat × Bool :=
  let (s, bs, bad) := s.readAt c.w.tenant (s.classOf c.w) p n
  let old := leNat bs
  match g old with
  | some x => (storePlace c s sc p.bare n x, old, bad)
  | none => (stampIf sc s c.wid p, old, bad)

/-- ATOM of the lanes. -/
def atomLanes (c : Ctx) (s : State) (f : Fields) : Result :=
  releasing (f.ordering == 2 || f.mod6) c s <| accessLanes c s f .rmw (sizeBytes f.size) (fun s l p =>
    let n := sizeBytes f.size
    let (s, old, bad) := rmwPlace c s (f.ordering == 2) p n
      (fun old => some (atomicOp f.auxHigh f.mod5 (8 * n) old (srcValue c.w l f.sb f.size)))
    (s, dstLoad f.dst f.size true old, bad))

/-- ATOM (R233). -/
def execAtom (f : Fields) (s : State) := perform (.atom f) f s (fun c => atomLanes c s f)

/-- RED of the lanes (R224: write permission only). -/
def redLanes (c : Ctx) (s : State) (f : Fields) : Result :=
  releasing (f.ordering != 0) c s <| accessLanes c s f .write (sizeBytes f.size) (fun s l p =>
    let n := sizeBytes f.size
    let (s, _, bad) := rmwPlace c s (f.ordering == 2) p n
      (fun old => some (atomicOp f.auxHigh f.mod5 (8 * n) old (srcValue c.w l f.sb f.size)))
    (s, [], bad))

/-- RED (R233). -/
def execRed (f : Fields) (s : State) := perform (.red f) f s (fun c => redLanes c s f)

/-- ACAS of the lanes. -/
def acasLanes (c : Ctx) (s : State) (f : Fields) : Result :=
  releasing (f.ordering == 2 || f.mod6) c s <| accessLanes c s f .rmw (sizeBytes f.size) (fun s l p =>
    let n := sizeBytes f.size
    let (s, old, bad) := rmwPlace c s (f.ordering == 2) p n
      (fun old => if old = srcValue c.w l f.sc f.size then some (srcValue c.w l f.sb f.size) else none)
    (s, dstLoad f.dst f.size true old, bad))

/-- ACAS (R234). -/
def execAcas (f : Fields) (s : State) := perform (.acas f) f s (fun c => acasLanes c s f)

/-! ## FENCE and PREF (R236, R237) -/

/-- FENCE (R236): it completes at once where every older store-like access is complete. -/
def execFence (f : Fields) (s : State) := perform (.fence f) f s (fun c =>
  if c.active = 0 then { s, outs := [] }
  else if s.storesComplete c.wid then { s, outs := doneAll c }
  else { s, outs := doneAll c, wait := .fence c.w.gwct })

/-- PREF (R237): a hint, which this model takes as none. -/
def execPref (f : Fields) (s : State) := performLanes (.pref f) f s (fun _ _ => [])

end Sys2Proof.Machine
end

