-- ==== Sys2Proof/Machine/Remap.lean ====
section
/-! DEFINITION. Moves, evictions, replicas, shadows and publication of pages (R214, R217, R297, R299, R330 to R338), as the
gleaner and the loft perform them. -/

namespace Sys2Proof.Machine

namespace State

/-! ## Free frames (R214, R338, R341, R345) -/

/-- MiB of a column that scratch takes or may take while a resize runs (R214). -/
def scratchMiB (s : State) (col : Nat) : Nat :=
  let c := s.column col
  if c.busy then max c.scrmib c.oldmib else c.scrmib

/-- Frames of a column that may be taken (R214): frames 0 to 4095 − 256·S. -/
def usableFrames (s : State) (col : Nat) : Nat := 4096 - 256 * s.scratchMiB col

/-- Does an id name a frame (R215)? -/
def namesFrame (s : State) (fid : Nat) : Bool :=
  bitsOf fid 17 12 < 48 && frameOfFid fid < 4096 - 256 * (s.column (colOfFid fid)).scrmib

/-- FREE frames of a column. -/
def freeCount (s : State) (col : Nat) : Nat :=
  s.usableFrames col - (s.tables.frames.filter (fun (e : Nat × Frame) =>
    colOfFid e.1 == col && e.2.state != .free && frameOfFid e.1 < s.usableFrames col)).length

/-- The lowest-numbered FREE frame of a column. -/
def lowestFree (s : State) (col : Nat) : Option Nat :=
  (List.range (s.usableFrames col)).findSome? (fun n =>
    let fid := fidOf col n
    if (s.frame fid).state == .free then some fid else none)

/-- The column with the most FREE frames, ties to the lower one. -/
def roomiest (s : State) (cols : List Nat) : Option Nat :=
  cols.foldl (fun b c =>
    match b with
    | none => if s.freeCount c > 0 then some c else none
    | some x => if s.freeCount c > s.freeCount x then some c else some x) none

/-- The FREE frame that is taken from a set of columns. -/
def takeFrom (s : State) (cols : List Nat) : Option Nat := (s.roomiest cols).bind s.lowestFree

/-- Columns of a silo that a tenant's partition owns. -/
def ownedCols (s : State) (t silo : Nat) : List Nat :=
  ((List.range 48).map (fun i => silo * 48 + i)).filter (s.ownsColumn t)

/-- Frames that count against a tenant's quota (R329, R338). -/
def framesOf (s : State) (t : Nat) : Nat :=
  (s.tables.frames.filter (fun (e : Nat × Frame) => e.2.state != .free && e.2.owner == t)).length

/-- A frame becomes FREE: entry at its reset, bytes and granules zero (R329, R330). -/
def freeFrame (s : State) (fid : Nat) : State := (s.clearBytes (frameLoc fid 0).phys 4096).setFrame fid {}

/-! ## Entries -/

/-- The leaf of a page, checked against no frame: address and words. -/
def leafOf (s : State) (t vpn : Nat) : Option (Nat × DWord × DWord) :=
  match s.rawWalk t (vpn * 4096) with
  | .leaf a w0 w1 => some (a, w0, w1)
  | _ => none

/-- The words of a page's leaf, valid or not, where the walk reaches it: address and words. -/
def leafWords (s : State) (t vpn : Nat) : Option (Nat × DWord × DWord) :=
  match (s.walkReads t (vpn * 4096) [47, 38, 29, 20] (s.tenant t).ptroot).getLast? with
  | some (a, 16) => some (a, s.raw64 a, s.raw64 (a + 8))
  | _ => none

/-- A move in progress on a page. -/
def moveOf (s : State) (t vpn : Nat) : Option Move := s.tables.moves.find? (fun m => m.tenant == t && m.vpn == vpn)

def dropMove (s : State) (t vpn : Nat) : State :=
  { s with tables := { s.tables with moves := s.tables.moves.filter (fun m => !(m.tenant == t && m.vpn == vpn)) } }

/-- The ACAS.Q of the gleaner (R332): does the entry still hold the words that the operation wrote? -/
def entryKept (s : State) (m : Move) : Option Nat :=
  match s.leafOf m.tenant m.vpn with
  | some (a, w0, w1) => if w0 == m.word0 && w1 == m.word1 then some a else none
  | none => none

/-- Forward entries of the channel of a backing page that are taken: live ones, and those that moves in progress will need
(R331). -/
def forwardsOn (s : State) (backing : Nat) : Nat :=
  (s.tables.forwards.filter (fun x => s.gt < x.horizon && pkgOf (x.page * 4096) == s.net.pkg &&
    channelOf (x.page * 4096) == channelOf backing)).length +
  (s.tables.moves.filter (fun m => m.kind == .place && m.src.isNone && Leaf.kind m.word0 == 0 &&
    channelOf m.word1.toNat == channelOf backing)).length

/-- Keep a forward entry for the backing of a page until its horizon. -/
def addForward (s : State) (t vpn backing fid horizon : Nat) (published : Bool) : State :=
  { s with tables := { s.tables with
      forwards := s.tables.forwards.filter (fun x => s.gt < x.horizon && x.page != backing / 4096) ++
        [{ page := backing / 4096, fid, horizon, published, tenant := t, vpn }] } }

/-- The forward entry of a backing page ends: the page is at its backing again (R332). -/
def dropForward (s : State) (backing : Nat) : State :=
  { s with tables := { s.tables with forwards := s.tables.forwards.filter (fun x => x.page != backing / 4096) } }

/-- A frame leaves service and forwards until the horizon (R331, R335). -/
def beginForwarding (s : State) (fid fwd horizon : Nat) (published : Bool) : State :=
  s.updFrame fid (fun f => { f with state := .forwarding, fwd, horizon, published })

/-! ## Write-back (R217, R219) -/

/-- Leave every line of a remote-line frame: masked bytes go home, and the directory forgets this holder (R219, R403). -/
def leaveRemote (s : State) (fid : Nat) : State :=
  let fr := s.frame fid
  (List.range 16).foldl (fun s n =>
    let line := fr.backing / 256 + n
    match s.dirEntry? line with
    | some e =>
      let clean := fr.dirty &&& BitVec.ofNat 64 (0xF * 2 ^ (4 * n)) == 0
      let s := s.writeBackLine fid n
      if e.owner == s.net.pkg && (e.state == .owned || e.state == .modified) then
        (if clean then s.sendMessage fr.owner 0 2 (256 * line) else s).dirWriteBack line s.net.pkg false
      else if e.holders.contains s.net.pkg then (s.sendMessage fr.owner 0 2 (256 * line)).dirDrop line s.net.pkg
      else s
    | none => s.writeBackLine fid n) s

/-- Write the dirty sectors of a frame to its backing. -/
def writeBackFrame (s : State) (fid : Nat) : State :=
  let fr := s.frame fid
  if fr.role == .remoteLine then s.leaveRemote fid
  else
    (List.range 64).foldl (fun s n =>
      if fr.dirty.getLsbD n then
        let a := fr.backing + 64 * n
        let s := if s.isExported (a / 256) || pkgOf a != s.net.pkg then (s.sendMessage fr.owner 0 0 a).dirHomeWrite (a / 256) else s
        s.carrySector (frameLoc fid (64 * n)).phys a
      else s) s

/-! ## Moves and evictions (R331, R332) -/

/-- Step 1 of a move of a page into one of the columns; none where no frame or forward entry is free. A page on a channel that the
tenant does not own (R350), and a grantee's page, are not moved. -/
def beginMove (s : State) (t vpn : Nat) (cols : List Nat) : Option State :=
  match s.leafOf t vpn, s.takeFrom cols with
  | some (a, w0, w1), some fid =>
    let kind := Leaf.kind w0
    let barred := kind == 0 && (s.grantee t vpn w0 || !s.ownsChannel t w1.toNat)
    let src := if kind == 1 then some (Leaf.target w0) else none
    let role := match src with
      | some f => (s.frame f).role
      | none => if kind == 3 then .remoteLine else .page
    if barred || (kind == 0 && s.forwardsOn w1.toNat ≥ 64) then none
    else
      let w0' := Leaf.withBit w0 8 true
      let s := ((s.checkWalk t (vpn * 4096)).setRaw64 a w0').useFrame fid { state := .filling, owner := t, vpn, backing := w1.toNat, role }
      some { s with tables := { s.tables with
        moves := s.tables.moves ++ [{ kind := .place, tenant := t, vpn, word0 := w0', word1 := w1, src, dst := [fid] }] } }
  | _, _ => none

/-- Step 1 of an eviction. -/
def beginEvict (s : State) (t vpn : Nat) : State :=
  match s.leafOf t vpn with
  | some (a, w0, w1) =>
    if Leaf.kind w0 != 1 then s
    else
      let w0' := Leaf.withBit w0 8 true
      let s := ((s.checkWalk t (vpn * 4096)).setRaw64 a w0').updFrame (Leaf.target w0) (fun f => { f with state := .draining })
      { s with tables := { s.tables with
        moves := s.tables.moves ++ [{ kind := .evict, tenant := t, vpn, word0 := w0', word1 := w1,
                                      src := some (Leaf.target w0), dst := [] }] } }
  | none => s

/-- Stores that met a move are complete at its switch (R333). -/
def settleWriters (s : State) (m : Move) : State :=
  m.writers.foldl (fun s x => if Sparse.mem s.warps x.1 then s.noteStore x.1 s.gt else s) s

/-- A FORWARDING frame is FREE once GT has passed the horizon that the floor keeps for it (R324, R330). -/
def freePassed (s : State) (fid : Nat) : State :=
  let f := s.frame fid
  if f.state == .forwarding && f.horizon ≤ s.gt then s.freeFrame fid else s

/-- Free every frame whose horizon GT has passed. -/
def freeAllPassed (s : State) : State := s.tables.frames.foldl (fun s e => s.freePassed e.1) s

/-- A frame gives its page back to the backing: its dirty sectors go there, and it forwards there until the page's horizon, for no access
through a live copy may meet a FREE frame (R332, R343). -/
def giveBack (s : State) (fid horizon : Nat) : State :=
  let s := ((s.writeBackFrame fid).dropForward (s.frame fid).backing).beginForwarding fid 0x1FFFFF horizon false
  s.updFrame fid (fun f => { f with dirty := 0 })

/-- Must a frame keep its lines for now: remote lines whose directory cannot acknowledge that they leave (R404), or dirty lines that are
exported or another package's, whose write-back is a request that waits at the switch (R402, R407, R409)? -/
def linesHeld (s : State) (fid : Nat) : Bool :=
  let fr := s.frame fid
  (List.range 16).any (fun n =>
    let a := fr.backing + 256 * n
    let dirty := fr.dirty &&& BitVec.ofNat 64 (0xF * 2 ^ (4 * n)) != 0
    s.remoteWaits a &&
      (if fr.role == .remoteLine then dirty || (s.dirEntry? (a / 256)).any (fun e => e.holders.contains s.net.pkg)
       else dirty && (s.isExported (a / 256) || pkgOf a != s.net.pkg)))

/-- The gleaner abandons an operation whose ACAS failed (R332, R343): the source's dirty sectors go to the old backing and its frames are
freed, the source, or the master of replicas, once its live copies have ended (R337; log entry 40, DEDUCED). -/
def abandon (s : State) (m : Move) : State :=
  if m.src.any s.linesHeld then s
  else
    let s := s.settleWriters m
    let s := match m.src with
      | some f => (s.giveBack f (s.horizon m.tenant m.vpn)).freePassed f
      | none => s
    (m.dst.foldl (fun s f => s.freeFrame f) s).dropMove m.tenant m.vpn

/-- A remote-line frame moves (R404): its lines leave by WB or EV, and the new frame takes those again of which it has sectors, by a read of
its own; while their range is rebuilt none is granted (R407). -/
def moveLines (s : State) (src dst : Nat) : State :=
  let s := s.leaveRemote src
  let fr := s.frame dst
  let s := s.updFrame dst (fun f => { f with dirty := 0 })
  if s.rangeClosed fr.backing then s.updFrame dst (fun f => { f with valid := 0 })
  else (List.range 16).foldl (fun s n =>
    if fr.valid &&& BitVec.ofNat 64 (0xF * 2 ^ (4 * n)) == 0 then s
    else (s.sendMessage fr.owner 0 0 (fr.backing + 256 * n)).dirRead ((fr.backing + 256 * n) / 256) s.net.pkg) s

/-- Copy the valid sectors of a frame into another, with VALID and DIRTY. -/
def copyFrame (s : State) (src dst : Nat) : State :=
  let fr := s.frame src
  let a := (frameLoc src 0).phys
  let b := (frameLoc dst 0).phys
  let s := (List.range 64).foldl (fun s n =>
    if fr.valid.getLsbD n then s.carrySector (a + 64 * n) (b + 64 * n) else s) s
  s.updFrame dst (fun f => { f with valid := fr.valid, dirty := fr.dirty, age := fr.age, touched := fr.touched })

/-- Step 3 of a move (R331). One of remote lines waits until the directory can acknowledge them (R404). -/
def switchMove (s : State) (m : Move) : State :=
  if m.src.any (fun f => (s.frame f).role == .remoteLine && s.linesHeld f) then s
  else match s.entryKept m, m.dst with
  | some a, fid :: _ =>
    let h := s.horizon m.tenant m.vpn
    let s := s.settleWriters m
    let s := match m.src with
      | some f =>
        let s := s.copyFrame f fid
        let s := if (s.frame f).role == FrameRole.remoteLine then s.moveLines f fid else s
        s.beginForwarding f fid h false
      | none => if Leaf.kind m.word0 == 0 then s.addForward m.tenant m.vpn m.word1.toNat fid h false else s
    let s := s.updFrame fid (fun f => { f with state := .mapped })
    (s.setRaw64 a (Leaf.withBit (Leaf.withTarget m.word0 1 fid) 8 false)).dropMove m.tenant m.vpn
  | _, _ => s.abandon m

/-- Does a read through a stale translation still depend on the backing's content (R335)? -/
def backingHeld (s : State) (backing : Nat) : Bool :=
  s.tables.forwards.any (fun x => x.published && s.gt < x.horizon && x.page == backing / 4096)

/-- Step 3 of an eviction (R332). The frame leaves DRAINING only when the directory has acknowledged its lines (R404). -/
def switchEvict (s : State) (m : Move) : State :=
  if m.src.any s.linesHeld then s
  else match s.entryKept m, m.src with
  | some a, some fid =>
    let s := (s.settleWriters m).giveBack fid (s.horizon m.tenant m.vpn)
    let kind := Leaf.backingKind s.net.pkg m.word1.toNat
    (s.setRaw64 a (Leaf.withBit (Leaf.withTarget m.word0 kind 0) 8 false)).dropMove m.tenant m.vpn
  | _, _ => s.abandon m

/-- A frame that no entry names any more, since software has changed the entry (R332): its dirty sectors go home, and it forwards there
until the page's horizon. -/
def releaseFrame (s : State) (fid : Nat) : State :=
  let fr := s.frame fid
  if fr.state != .mapped || (s.moveOf fr.owner fr.vpn).isSome || s.linesHeld fid then s
  else (s.giveBack fid (s.horizon fr.owner fr.vpn)).freePassed fid

/-! ## Replicas (R334) -/

/-- Replica sets of a tenant. -/
def replicasOf (s : State) (t : Nat) : Nat :=
  (s.tables.replicas.filter (fun (e : Nat × ReplicaSet) => e.2.tenant == t)).length

/-- The lowest replica set that is free. -/
def freeSet (s : State) : Option Nat := (List.range 4096).find? (fun n => !Sparse.mem s.tables.replicas n)

/-- The replica frames of a page: one in each silo but the master's. -/
def replicaFrames (s : State) (t master : Nat) : Option (List Nat) :=
  ((List.range 8).filter (· != colOfFid master / 48)).mapM (fun d => s.takeFrom (s.ownedCols t d))

/-- Step 1 of REPL; none where a frame or a set is not free. -/
def beginReplicate (s : State) (t vpn : Nat) : Option State :=
  match s.leafOf t vpn, s.freeSet with
  | some (a, w0, w1), some n =>
    let master := Leaf.target w0
    match s.replicaFrames t master with
    | none => none
    | some fs =>
      let w0' := Leaf.withBit w0 8 true
      let s := (s.checkWalk t (vpn * 4096)).setRaw64 a w0'
      let s := fs.foldl (fun s f => s.useFrame f { state := .filling, role := .replica, owner := t, vpn,
                                                   backing := w1.toNat }) s
      some { s with tables := { s.tables with
        replicas := Sparse.set {} s.tables.replicas n { tenant := t, vpn, master, frames := fs }
        moves := s.tables.moves ++ [{ kind := .replicate, tenant := t, vpn, word0 := w0', word1 := w1,
                                      src := some master, dst := fs }] } }
  | _, _ => none

/-- The replica set of a page. -/
def setOf (s : State) (t vpn : Nat) : Option (Nat × ReplicaSet) :=
  s.tables.replicas.find? (fun (e : Nat × ReplicaSet) => e.2.tenant == t && e.2.vpn == vpn)

def dropSet (s : State) (t vpn : Nat) : State :=
  { s with tables := { s.tables with
      replicas := s.tables.replicas.filter (fun (e : Nat × ReplicaSet) => !(e.2.tenant == t && e.2.vpn == vpn)) } }

/-- The gleaner abandons an operation on a replica set: the set is gone with it. -/
def abandonSet (s : State) (m : Move) : State :=
  let t := s.abandon m
  if (t.moveOf m.tenant m.vpn).isSome then t else t.dropSet m.tenant m.vpn

/-- The switch of REPL. -/
def switchReplicate (s : State) (m : Move) : State :=
  match s.entryKept m, s.setOf m.tenant m.vpn with
  | some a, some (n, _) =>
    let s := m.dst.foldl (fun s f => s.updFrame f (fun x => { x with state := .mapped })) s
    (s.setRaw64 a (Leaf.withBit (Leaf.withTarget m.word0 2 n) 8 false)).dropMove m.tenant m.vpn
  | _, _ => s.abandonSet m

/-- The end of a collapse: the entry names the master again and the replicas are FREE; the held writes are performed next, in order of
arrival (`behindHeld`). -/
def finishCollapse (s : State) (m : Move) : State :=
  match s.entryKept m, m.src with
  | some a, some master =>
    let s := s.setRaw64 a (Leaf.withBit (Leaf.withTarget m.word0 1 master) 8 false)
    let s := m.dst.foldl (fun s f => s.freeFrame f) s
    (s.dropSet m.tenant m.vpn).dropMove m.tenant m.vpn
  | _, _ => s.abandonSet m

/-- Does the entry of the page in a frame name the frame, itself or by its replica set? -/
def entryNames (s : State) (fid : Nat) : Bool :=
  let fr := s.frame fid
  match s.leafOf fr.owner fr.vpn with
  | some (_, w0, _) =>
    match Leaf.kind w0 with
    | 1 => Leaf.target w0 == fid
    | 2 =>
      let set := Sparse.get {} s.tables.replicas (Leaf.target w0 % 4096)
      set.tenant == fr.owner && set.vpn == fr.vpn && (set.master == fid || set.frames.contains fid)
    | _ => false
  | none => false

/-! ## Making room (R338) -/

/-- The frame that a column gives up first: the highest AGE, ties to the lower frame number, no PIN, no SHD, no move. A replica and its
master are among them, and a frame whose entry software has changed so that it names it no more (log entry 109, DESIGN CHOICE). -/
def victim (s : State) (cols : List Nat) : Option (Nat × Frame) :=
  let ok := fun (e : Nat × Frame) =>
    cols.contains (colOfFid e.1) && e.2.state == .mapped && e.2.role != .shadow &&
    (s.moveOf e.2.owner e.2.vpn).isNone && !s.backingHeld e.2.backing && !s.linesHeld e.1 &&
    (!s.entryNames e.1 || (match s.leafOf e.2.owner e.2.vpn with
     | some (_, w0, _) => !Leaf.pin w0 && !Leaf.shd w0
     | none => true))
  (s.tables.frames.filter ok).foldl (fun b e =>
    match b with
    | none => some e
    | some x => if e.2.age > x.2.age then some e else some x) none

/-- Is a frame on its way out: it drains, it forwards, or its set collapses? -/
def leaving (s : State) (fid : Nat) : Bool :=
  let fr := s.frame fid
  fr.state == .draining || fr.state == .forwarding ||
    s.tables.moves.any (fun m => m.kind == .collapse && (m.dst.contains fid || m.src == some fid))

/-- Give up the page of a frame: it is evicted, or its replica set collapses first (R334). -/
def giveUp (s : State) (t vpn : Nat) : State :=
  match s.leafOf t vpn with
  | some (_, w0, _) => if Leaf.kind w0 == 2 then s.beginCollapse t vpn else s.beginEvict t vpn
  | none => s

/-- Give up a frame: the page that it holds; where no entry names it any more, the frame itself or the set that it is of. -/
def giveUpFrame (s : State) (fid : Nat) : State :=
  let fr := s.frame fid
  if s.entryNames fid then s.giveUp fr.owner fr.vpn
  else if fr.role == .replica || s.tables.replicas.any (fun (e : Nat × ReplicaSet) => e.2.master == fid) then s.beginCollapse fr.owner fr.vpn
  else s.releaseFrame fid

/-- Begin to give up a frame of the columns unless one is already on its way out. -/
def makeRoom (s : State) (cols : List Nat) : State :=
  if s.tables.frames.any (fun (e : Nat × Frame) => cols.contains (colOfFid e.1) && s.leaving e.1) then s
  else
    match s.victim cols with
    | some (fid, _) => s.giveUpFrame fid
    | none => s

/-! ## Shadows (R297, R298, R335) -/

/-- The silo from which a page's shadow is taken. -/
def shadowSilo (w0 : DWord) (gcore : Nat) : Nat :=
  if Leaf.kind w0 == 1 then colOfFid (Leaf.target w0) / 48 else dieOf gcore

/-- The shadow of a page. -/
def shadowOf (s : State) (t vpn : Nat) : Option Shadow := s.tables.shadows.find? (fun x => x.tenant == t && x.vpn == vpn)

/-- Give one page its shadow frame; none where no frame is free. -/
def giveShadow (s : State) (t vpn gcore : Nat) (copy : Bool) : Option State :=
  match s.leafOf t vpn with
  | some (a, w0, w1) =>
    match s.takeFrom (s.ownedCols t (shadowSilo w0 gcore)) with
    | some fid =>
      let s := ((s.checkWalk t (vpn * 4096)).setRaw64 a (Leaf.withBit w0 7 true)).useFrame fid
        { state := .filling, role := .shadow, owner := t, vpn, backing := w1.toNat,
          valid := if copy then 0 else BitVec.allOnes 64 }
      let s : State := { s with tables := { s.tables with
        shadows := s.tables.shadows ++ [{ tenant := t, vpn, fid, copy, filled := 0 }] } }
      -- a line that another package may write without a request is copied at once (R335)
      some (if copy then (List.range 16).foldl (fun s n =>
        if (s.dirEntry? (w1.toNat / 256 + n)).any (fun e => e.state != .shared && e.owner != s.net.pkg) then
          s.preserveLine (w1.toNat / 256 + n) else s) s else s)
    | none => none
  | none => none

/-- Publish one page at the switch time (R335): the horizon that its old mapping keeps. -/
def publishPage (s : State) (t vpn : Nat) : State × Nat :=
  match s.leafOf t vpn, s.shadowOf t vpn with
  | some (a, w0, w1), some sh =>
    let h := s.horizon t vpn
    let s := (List.range 64).foldl (fun s n => s.fillSector sh.fid n) (s.checkWalk t (vpn * 4096))
    let s := if Leaf.kind w0 == 1 then
        let old := Leaf.target w0
        let s := (List.range 64).foldl (fun s n => s.fillSector old n) s
        let s := s.updFrame old (fun f => { f with dirty := 0 })
        -- what was written to a remote line is discarded with the rest, and the directory forgets this holder (R404)
        let s := if (s.frame old).role == FrameRole.remoteLine then (s.setMasks (frameLoc old 0).phys 4096 false).leaveRemote old else s
        s.beginForwarding old sh.fid h true
      else s.addForward t vpn w1.toNat sh.fid h true
    let s := s.updFrame sh.fid (fun f =>
      { f with state := .mapped, role := .page, valid := BitVec.allOnes 64, dirty := BitVec.allOnes 64 })
    let s := s.setRaw64 a (Leaf.withBit (Leaf.withTarget w0 1 sh.fid) 7 false)
    ({ s with tables := { s.tables with shadows := s.tables.shadows.filter (fun x => !(x.tenant == t && x.vpn == vpn)) } }, h)
  | _, _ => (s, s.gt)

/-- Publish pages at one switch time; the latest horizon. -/
def publishPages (s : State) (t : Nat) : List Nat → State × Nat
  | [] => (s, s.gt)
  | v :: vs =>
    let (s, h) := s.publishPage t v
    let (s, h') := s.publishPages t vs
    (s, max h h')

/-- May the pages be published now: no move on them (R343), a free forward entry for each DRAM page (R331), and remote lines within
reach (R404, R407)? -/
def publishable (s : State) (t : Nat) (vs : List Nat) : Bool :=
  vs.all (fun v => match s.leafOf t v with
    | some (_, w0, w1) => !Leaf.mig w0 && (Leaf.kind w0 != 0 || s.forwardsOn w1.toNat < 64) &&
        (pkgOf w1.toNat == s.net.pkg || !s.remoteWaits w1.toNat)
    | none => true)

end State

end Sys2Proof.Machine
end

