-- ==== Sys2Proof/Machine/Engines.lean ====
section
/-! DEFINITION. The copy engines: the wain of each core and the eight bulk engines of each die (R238, R286 to R291, R300,
R383, R431). Engine numbers: 0 to 383 for the wains, 384 + 8·die + e for the bulk engines. -/

namespace Sys2Proof.Machine

namespace State

def engine (s : State) (id : Nat) : Engine :=
  if id < 384 then (s.core id).wain else Sparse.get {} (s.die ((id - 384) / 8)).engines (id % 8)

def updEngine (s : State) (id : Nat) (f : Engine → Engine) : State :=
  if id < 384 then s.updCore id (fun c => { c with wain := f c.wain })
  else s.updDie ((id - 384) / 8) (fun d => { d with engines := Sparse.modify {} d.engines (id % 8) f })

end State

/-- Requests that an engine keeps in progress (R287, R291). -/
def progressLimit (id : Nat) : Nat := if id < 384 then 4 else 8

/-! ## Requests -/

namespace Request

/-- The fields of a request (R238); the last component says that its reserved bits are zero. -/
def parse (k : Kick) (serial : Nat) (bs : List Byte) : Request × Bool :=
  let at_ := fun (i n : Nat) => leNat ((bs.drop i).take n)
  ({ wid := k.wid, grid := k.grid, block := k.block, pc := k.pc, offset := k.offset, kick := k.serial, serial, lane := k.lane, op := k.op
     src := BitVec.ofNat 64 (at_ 0 8), dst := BitVec.ofNat 64 (at_ 8 8)
     sstride := signedOf 32 (at_ 16 4), dstride := signedOf 32 (at_ 20 4)
     rowb := at_ 24 2, rows := at_ 26 2, mode := at_ 28 4, bcaddr := BitVec.ofNat 64 (at_ 32 8) },
   at_ 40 24 == 0 && at_ 28 4 < 4)

def total (r : Request) : Nat := r.rowb * r.rows
/-- MODE.FE. -/
def fe (r : Request) : Bool := bitOf r.mode 0
/-- MODE.PUB. -/
def pub (r : Request) : Bool := bitOf r.mode 1
def srcRow (r : Request) (i : Nat) : DWord := r.src + BitVec.ofInt 64 (r.sstride * i)
def dstRow (r : Request) (i : Nat) : DWord := r.dst + BitVec.ofInt 64 (r.dstride * i)

/-- The bytes copied together from position `pos`: source, destination and length, within one row, one ECC
word of the source and one of the destination. -/
def piece (r : Request) (pos : Nat) : DWord × DWord × Nat :=
  let row := pos / r.rowb
  let col := pos % r.rowb
  let a := r.srcRow row + BitVec.ofNat 64 col
  let b := r.dstRow row + BitVec.ofNat 64 col
  (a, b, min (r.rowb - col) (min (32 - a.toNat % 32) (32 - b.toNat % 32)))

/-- The pieces of one row from column `col`. -/
def rowPieces (r : Request) (row col : Nat) : Nat → List (DWord × DWord × Nat)
  | 0 => []
  | fuel + 1 =>
    if col ≥ r.rowb then []
    else
      let p := r.piece (row * r.rowb + col)
      p :: r.rowPieces row (col + p.2.2) fuel

/-- Every piece of a request, in order. -/
def pieces (r : Request) : List (DWord × DWord × Nat) :=
  (List.range r.rows).flatMap (fun i => r.rowPieces i 0 (r.rowb / 16 + 4))

/-- The pages that the destination touches. -/
def dstPages (r : Request) : List Nat := (r.pieces.map (fun p => p.2.1.toNat / 4096)).eraseDups

end Request

/-- Is an address in the own-scratchpad or gang-window range (R205)? -/
def scratchRange (va : DWord) : Bool :=
  match rangeOfVa va with
  | .scratch _ => true
  | .window _ _ => true
  | _ => false

namespace State

/-- The agent of an engine's accesses: it works for the block's tenant, with the block's scratch (R287, R291). -/
def engineAgent (s : State) (r : Request) : Agent :=
  { wid := r.wid, req := r.serial, tenant := (s.grid r.grid).tenant, grid := r.grid, block := r.block
    gcore := match s.block? r.grid r.block with
      | some b => b.gcore
      | none => 0 }

/-! ## Kicks (R286, R291) -/

/-- Does `[off, off + n)` lie in the allocation of a block? -/
def inAllocation (s : State) (g b off n : Nat) : Bool :=
  match s.block? g b with
  | some x => off + n ≤ x.units * 4096
  | none => false

/-- The trap of a lane's kick, if one of the checks of R286 fails. -/
def kickTrap (s : State) (w : Warp) (va : DWord) (n : Nat) : Option Nat :=
  if va.toNat % 64 ≠ 0 then some Cause.memAlign
  else
    match rangeOfVa va with
    | .scratch off =>
      if !s.inAllocation w.grid w.block off (64 * n) then some Cause.permission
      else if n > 1024 then some Cause.queueFault
      else none
    | _ => some Cause.permission

/-- Put a kick of `n` requests into an engine's queue and count them in PEND (R286, R290). -/
def acceptKick (s : State) (id wid : Nat) (pc va : DWord) (n : Nat) (lane : Nat := 0) : State :=
  let w := s.warp wid
  let k : Kick := { wid, grid := w.grid, block := w.block, pc, offset := va.toNat - scratchBase, left := n,
                    serial := s.loft.nextSerial + 1, lane, op := s.cur.op }
  let s : State := { s with loft := { s.loft with nextSerial := s.loft.nextSerial + 1 } }
  (s.updEngine id (fun e => { e with queue := e.queue ++ [k] })).updBlock w.grid w.block
    (fun b => { b with pend := b.pend + n })

/-- The kick of one lane: its outcome, or none where the queue is full. -/
def kickLane (s : State) (id wid : Nat) (pc va : DWord) (n : Nat) (lane : Nat := 0) : State × Option LaneOutcome :=
  match s.kickTrap (s.warp wid) va n with
  | some cause => (s, some (.trap cause (if cause = Cause.queueFault then 0 else va) 0))
  | none =>
    if n = 0 then (s, some (.done [] none))
    else if (s.engine id).queue.length ≥ 16 then (s, none)
    else (s.acceptKick id wid pc va n lane, some (.done [] none))

/-- The lanes of a KICK in order, until one waits. -/
def kickLanes (s : State) (id wid : Nat) (pc : DWord) (va : Nat → DWord) (n : Nat → Nat) :
    List Nat → State × List (Nat × LaneOutcome)
  | [] => (s, [])
  | l :: ls =>
    match s.kickLane id wid pc (va l) (n l) l with
    | (s, some o) =>
      let (s, os) := kickLanes s id wid pc va n ls
      (s, (l, o) :: os)
    | (s, none) => (s, [])

/-! ## The end of a request -/

/-- A request leaves progress: PEND falls, IDLE's block has an event, and a dead block may be cleared (R207, R290, R321). -/
def leaveRequest (s : State) (id : Nat) (r : Request) (gone : Nat) : State :=
  let s := s.updEngine id (fun e => { e with progress := e.progress.filter (fun x => x.serial != r.serial) })
  let s := s.updBlock r.grid r.block (fun b => { b with pend := b.pend - gone })
  let s := (s.blockEvent r.grid r.block).startClearing r.grid r.block
  if (s.grid r.grid).state == .retired && !s.engineWork r.grid r.block then
    (s.warpsWhere (fun w => w.grid == r.grid && w.block == r.block)).foldl (fun s wid => s.dropWarp wid) s
  else s

/-- The record that the engine writes for a fault (R289, R311). -/
def engineRecord (s : State) (r : Request) (cause : Nat) : State :=
  let addr := BitVec.ofNat 64 (scratchBase + r.offset)
  let w := s.warp r.wid
  let g := s.grid r.grid
  if g.state != .retired then s.pushRecord r.wid { pc := r.pc, addr, cause, flags := 4 }
  else
    (s.logFaults g.tenant
      [recordBytes { pc := r.pc, addr, cause, flags := 4 } s.gt r.grid w.gen w.warpNo w.lost r.block w.seq]).setWarp r.wid
        { w with lost := 0, seq := w.seq + 1 }

/-- A request of the same kick that comes later and has written nothing: the engine has not begun it (R289). The spec does not say when a
request is begun; it is with its first byte, which is copied only once the earlier requests of the kick are checked (log entry 114, DESIGN
CHOICE). -/
def notBegun (r x : Request) : Bool := x.kick == r.kick && x.offset > r.offset && x.pos == 0

/-- A request faults (R289): its record, its status, and the rest of its kick skipped. -/
def faultRequest (s : State) (id : Nat) (r : Request) (cause : Nat) : State :=
  let e := s.engine id
  let rest := (e.queue.filter (fun k => k.serial == r.kick)).foldl (fun n k => n + k.left) 0 +
    (e.progress.filter (notBegun r)).length
  let s := s.updEngine id (fun e => { queue := e.queue.filter (fun k => k.serial != r.kick)
                                      progress := e.progress.filter (fun x => !notBegun r x) })
  let s := s.engineRecord r cause
  let s := s.updBlock r.grid r.block (fun b =>
    { b with errcnt := min 255 (b.errcnt + 1)
             cause := if b.errcnt == 0 then cause else b.cause
             errreq := if b.errcnt == 0 then r.offset / 64 else b.errreq })
  s.leaveRequest id r (rest + 1)

/-! ## Fetch and checks (R287) -/

/-- Fetch the next request of the head of the queue. -/
def fetchRequest (s : State) (id : Nat) : State :=
  let e := s.engine id
  match e.queue with
  | [] => s
  | k :: rest =>
    if e.progress.length ≥ progressLimit id then s
    else
      let serial := s.loft.nextSerial + 1
      let s : State := { s with loft := { s.loft with nextSerial := serial } }
      let ag := s.engineAgent (Request.parse k serial []).1
      match s.scratchPlace ag (.scratch k.offset) true with
      | none => s
      | some loc =>
        let (s, bs, bad) := s.readBytes loc.phys 64
        if bad then s.consume k.grid k.block (BitVec.ofNat 64 (scratchBase + k.offset))
        else
          let (r, ok) := Request.parse k serial bs
          let k' := { k with offset := k.offset + 64, left := k.left - 1 }
          let s := s.updEngine id (fun e => { queue := if k'.left == 0 then rest else k' :: rest
                                              progress := e.progress ++ [r] })
          if ok then s else s.faultRequest id r Cause.queueFault

/-- What a check of a request finds. -/
inductive EngineCheck where
  | passed (s : State)
  /-- A translation is held by the loft (R287, R328), or an access waits. -/
  | held (s : State)
  | faulted (s : State) (cause : Nat)
  | hole (addr : Nat)

/-- Resolve one address for an engine, completing a walk where a translation is missing. -/
def engineAccess (s : State) (ag : Agent) (va : DWord) (k : AccKind) : EngineCheck ⊕ State × Place :=
  let settled := fun (a : Access) => match a with
    | .at s p => .inr (s, p)
    | .trap s _ => .inl (.faulted s Cause.permission)
    | .park s => .inl (.held s)
    | .wait s => .inl (.held s)
    | .hole a => .inl (.hole a)
  match s.resolve ag 0 va k with
  | .park s =>
    match s.completeWalk ag.gcore ag.tenant (va.toNat % 2 ^ 56) with
    | .handed s => settled (s.resolve ag 0 va k)
    | .waits => .inl (.held s)
    | .noMapping => .inl (.faulted s Cause.translation)
    | .permission => .inl (.faulted s Cause.permission)
    | .hole a => .inl (.hole a)
  | a => settled a

/-- The last row of R287: every source byte readable, every destination byte writable. -/
def checkPieces (s : State) (ag : Agent) : List (DWord × DWord × Nat) → EngineCheck
  | [] => .passed s
  | (a, b, _) :: rest =>
    match s.engineAccess ag a .engineRead with
    | .inl r => r
    | .inr (s, _) =>
      match s.engineAccess ag b .engineWrite with
      | .inl r => r
      | .inr (s, _) => checkPieces s ag rest

/-- The shadow pages of a request that publishes (R287, R300). -/
def allShadowed (s : State) (t : Nat) (vs : List Nat) : Bool := vs.all (fun v => (s.shadowOf t v).isSome)

/-- The checks of R287 in the order of the table, the first of which was made at the fetch. -/
def checkRequest (s : State) (r : Request) : EngineCheck :=
  let ag := s.engineAgent r
  if r.fe && !r.pieces.all (fun p => scratchRange p.2.1 && scratchRange (p.2.1 + BitVec.ofNat 64 (p.2.2 - 1))) then
    .faulted s Cause.queueFault
  else if r.bcaddr != 0 && (r.bcaddr.toNat % 16 != 0 || !scratchRange r.bcaddr) then .faulted s Cause.queueFault
  else if r.pub && !s.allShadowed ag.tenant r.dstPages then .faulted s Cause.queueFault
  else if r.bcaddr != 0 && (s.scratchPlace ag (rangeOfVa r.bcaddr) true).isNone then .faulted s Cause.permission
  else s.checkPieces ag r.pieces

/-- Replace a request in progress. -/
def setRequest (s : State) (id : Nat) (r : Request) : State :=
  s.updEngine id (fun e => { e with progress := e.progress.map (fun x => if x.serial == r.serial then r else x) })

/-! ## Copying -/

/-- Subtract `n` from REMAIN and add it to COUNTED (R382 to R384), or report an uncorrectable word. -/
def countBytes (s : State) (p : Nat) (n : Int) : State × Bool :=
  let (s, bs, bad) := s.readBytes p 16
  if bad then (s, true)
  else
    let remain : DWord := BitVec.ofNat 64 (leNat (bs.take 8)) - BitVec.ofInt 64 n
    let counted : DWord := BitVec.ofNat 64 (leNat (bs.drop 8)) + BitVec.ofInt 64 n
    (s.writeBytes p (leBytes 8 remain.toNat ++ leBytes 8 counted.toNat), false)

/-- A number for a scratch byte that is the same through the scratchpad and the gang window (R208). -/
def slotKey (ag : Agent) (va : DWord) : Nat :=
  match rangeOfVa va with
  | .scratch off => coreOf ag.gcore * 2 ^ 23 + off
  | .window c off => c * 2 ^ 23 + off
  | _ => 0

/-- Does a byte of the pieces still to be written fall in granule `g` (R210)? -/
def unwrittenIn (ag : Agent) (pieces : List (DWord × DWord × Nat)) (g : Nat) : Bool :=
  pieces.any (fun p => slotKey ag p.2.1 < 16 * g + 16 && 16 * g < slotKey ag p.2.1 + p.2.2)

/-- Set the full bits of the granules of a piece that the request has completed (R210). -/
def fillGranules (s : State) (ag : Agent) (left : List (DWord × DWord × Nat)) (loc : Loc) (va : DWord) (n : Nat) : State :=
  let first := slotKey ag va / 16
  (List.range ((slotKey ag va + n - 1) / 16 + 1 - first)).foldl (fun s i =>
    if unwrittenIn ag left (first + i) then s else s.raiseFull (loc.phys / 16 * 16 + 16 * i)) s

/-- The piece that the engine copies next, as its place in `todo`: which it is, while several are left, is a free value (R256, log
entry 29). -/
def chooseNext (s : State) (r : Request) : State × Nat :=
  if r.todo.length ≤ 1 then (s, 0) else (s.fresh, Config.nextPiece s.freshCount % r.todo.length)

/-- Does a piece write a byte of the ECC word that an address lies in? -/
def inWord (b : DWord) (p : DWord × DWord × Nat) : Bool := p.2.1.toNat / 32 == b.toNat / 32

/-- Do the pieces of a request write every byte of the ECC word that an address lies in? A piece lies in one word. -/
def writesWhole (pieces : List (DWord × DWord × Nat)) (b : DWord) : Bool :=
  let here := pieces.filter (inWord b)
  (List.range 32).all (fun i => here.any (fun p => p.2.1.toNat % 32 ≤ i && i < p.2.1.toNat % 32 + p.2.2))

/-- Write a piece. A word that the request writes whole, in several pieces, is no partial write (R431): it gets new check bits with its last
byte, unless one of its bytes came from an uncorrectable word. `left`: pieces still to be written; `spoiled`: pieces of such words. -/
def writePiece (s : State) (t cls : Nat) (dst : Place) (bs : List Byte) (b : DWord) (pieces left spoiled : List (DWord × DWord × Nat)) : State :=
  let p := placePhys dst
  let held := s.syndrome p
  let whole := bs.length < 32 && (held != 0 || spoiled.any (inWord b)) && writesWhole pieces b
  let s := if whole && eccClass held == .uncorrectable then s.setSyndrome p 0 else s
  let s := s.writeAt t cls dst bs
  if spoiled.any (inWord b) then s.poison p bs.length
  else if !whole then s
  else if left.any (inWord b) then (if eccClass held == .uncorrectable then s.setSyndrome p held else s)
  else s.setSyndrome p 0

/-- Copy one piece: read, write, count, full bits (R287, R244 rows 9 and 10, R431). -/
def copyPiece (s : State) (id : Nat) (r : Request) : EngineCheck :=
  let ag := s.engineAgent r
  let cls := Rec.tclass (s.grid r.grid).record
  let (s, i) := s.chooseNext r
  let pieces := r.pieces
  let (a, b, n) := pieces.getD (r.todo.getD i 0) (0, 0, 0)
  match s.engineAccess ag a .engineRead with
  | .inl x => x
  | .inr (s, src) =>
    match s.engineAccess ag b .engineWrite with
    | .inl x => x
    | .inr (s, dst) =>
      let (s, bs, bad) := s.readAt ag.tenant cls src n
      let r := { r with pos := r.pos + n, todo := r.todo.eraseIdx i, bad := if bad then r.todo.getD i 0 :: r.bad else r.bad }
      let s := s.writePiece ag.tenant cls dst bs b pieces (r.todo.filterMap (pieces[·]?)) (r.bad.filterMap (pieces[·]?))
      let s := if id < 384 then s.updCore id (fun c => { c with wainb := c.wainb + BitVec.ofNat 64 n }) else s
      let s := s.setRequest id r
      let s := match dst with
        | .scratch loc => if r.fe then s.fillGranules ag (r.todo.filterMap (pieces[·]?)) loc b n else s
        | _ => s
      match if r.bcaddr = 0 then none else s.scratchPlace ag (rangeOfVa r.bcaddr) true with
      | none => .passed s
      | some o =>
        match s.countBytes o.phys n with
        | (s, false) => .passed s
        | (s, true) => .passed (s.consume r.grid r.block r.bcaddr)

/-! ## The events WAIN_REQUEST, WAIN_REQUEST_COMPLETE and DIE_ENGINE_REQUEST -/

/-- A request that has been found and has more to do: checks, then pieces once the earlier requests of its kick are checked. -/
def advanceRequest (s : State) (id : Nat) (r : Request) : Host.Outcome State Fault Refusal :=
  let x := if !r.checked then
      match s.checkRequest r with
      | .passed s => .passed (s.setRequest id { r with checked := true, todo := List.range r.pieces.length })
      | x => x
    else if r.pos ≥ r.total ||
        (s.engine id).progress.any (fun x => x.kick == r.kick && x.offset < r.offset && !x.checked) then .held s
    else s.copyPiece id r
  match x with
  | .passed s => .next s
  | .held s => .next s
  | .faulted s cause => .next (s.faultRequest id r cause)
  | .hole a => .fault (.noSuchHbm a)

/-- A request whose bytes are written completes, after its PUBLISH (R287, R288, R300). -/
def completeRequest (s : State) (id : Nat) (r : Request) : State :=
  if !r.checked || r.pos < r.total then s
  else if !r.pub then s.leaveRequest id r 1
  else
    let t := (s.engineAgent r).tenant
    if !s.allShadowed t r.dstPages then s.faultRequest id r Cause.queueFault
    else if !s.publishable t r.dstPages then s
    else (s.publishPages t r.dstPages).1.leaveRequest id r 1

/-- One step of an engine: serial 0 fetches, another serial advances that request. No instruction of a warp runs. -/
def engineStep (s : State) (id serial : Nat) : Host.Outcome State Fault Refusal :=
  let s : State := { s with cur := {} }
  if serial = 0 then .next (s.fetchRequest id)
  else
    match (s.engine id).progress.find? (fun r => r.serial == serial) with
    | some r => s.advanceRequest id r
    | none => .next s

/-- Complete the request of a serial number, where it is done. -/
def engineComplete (s : State) (id serial : Nat) : State :=
  match (s.engine id).progress.find? (fun r => r.serial == serial) with
  | some r => s.completeRequest id r
  | none => s

end State

end Sys2Proof.Machine
end

