-- ==== Sys2Proof/Machine/Sync.lean ====
section
/-! DEFINITION. Class 6, first part: barrier instructions, byte-count objects and GTRD (R378 to R388). -/

namespace Sys2Proof.Machine

/-! ## Barrier instructions (R378 to R381) -/

/-- The count of barriers of a scope that the launch record asks for (R263, R379). -/
def barrierCount (r : BitVec 2048) (scope : Nat) : Nat :=
  match scope with
  | 1 => Rec.barcore r
  | 2 => Rec.barquad r
  | 3 => Rec.bardie r
  | 4 => Rec.barpkg r
  | _ => Rec.barpod r

/-- The group of a scope that a warp belongs to (R13, R373). -/
def barrierOwner (s : State) (w : Warp) (scope : Nat) : Nat :=
  match scope with
  | 1 => w.block
  | 2 => s.gangOf w.grid w.block
  | 3 => dieOf w.gcore
  | _ => 0

/-- The barrier index b (R378). -/
def barrierIndex (c : Ctx) (f : Fields) : Nat := (c.w.src32 0 f.sb f.imm).toNat

/-- The barrier that an instruction names, if the record asked for it (R379). -/
def namedBarrier (s : State) (c : Ctx) (f : Fields) : Option Barrier :=
  if barrierIndex c f < barrierCount (s.recordOf c.w) f.scope then
    s.findBarrier f.scope c.w.grid (barrierOwner s c.w f.scope) (barrierIndex c f)
  else none

/-- A record of a wait that a save interrupted concerns this instruction: of its split, or of one that has merged into it (R381). -/
def noteHere (c : Ctx) (b : Barrier) (n : BarrierNote) : Bool := n.pc == c.pc && n.lanes &&& c.lanes != 0 && n.bar == b.id

/-- The record of a wait that a save interrupted (R381); of several splits that have merged, the latest. -/
def noteOf (c : Ctx) (b : Barrier) : Option BarrierNote := (c.w.notes.filter (noteHere c b)).getLast?

/-- The record is used up when the instruction issues again. -/
def dropNote (s : State) (c : Ctx) (b : Barrier) : State :=
  s.updWarp c.wid (fun w => { w with notes := w.notes.filter (fun n => !noteHere c b n) })

/-- BARA, BARW and BARS: the checks, the arrival, the wait (R379). -/
def barrierInstr (i : Instr) (f : Fields) (s : State) (target : Ctx → Option Nat) : Host.Outcome State Fault Refusal :=
  performWarp i f s (fun c =>
    match namedBarrier s c f with
    | none => { s, outs := trapAll c Cause.permission }
    | some b =>
      if b.broken then { s, outs := trapAll c Cause.barrierBroken 0 b.scope }
      else
        -- a phase that is already complete has ended before the arrival
        let s := s.completePhase b.id
        let c := { c with w := s.warp c.wid }
        let (counted, pend) := match noteOf c b with
          | some n => (n.counted, n.pend)
          | none => (none, false)
        releasing (State.arrives i && counted.isNone && !pend) c s <|
          let s := dropNote s c b
          let (s, counted, pend) := if State.arrives i then s.arrive b.id c.wid counted pend else (s, counted, pend)
          let s := s.completePhase b.id
          let phase := match s.barrier? b.id with
            | some b => b.phase
            | none => b.phase
          let target := ((noteOf c b).bind (·.target)) <|> target c
          match State.barrierDone i counted target phase with
          | some ws => { s, outs := allLanes c.active (.done ws none) }
          | none => { s, outs := [], wait := .barrier b.id counted pend target })

/-- BARA (R379). -/
def execBara (f : Fields) (s : State) := barrierInstr (.bara f) f s (fun _ => none)
/-- BARW (R379): t from the lowest lane of Active. -/
def execBarw (f : Fields) (s : State) := barrierInstr (.barw f) f s (fun c => some (c.w.src32 c.low f.sa 0).toNat)
/-- BARS (R379). -/
def execBars (f : Fields) (s : State) := barrierInstr (.bars f) f s (fun _ => none)

/-- STATE of a barrier (R372). -/
def barrierState (s : State) (b : Barrier) : Nat := if b.broken then 2 else ofBool (s.barrierPlacing b)

/-- The word that BARQ reads (R380). -/
def barrierWord (s : State) (b : Barrier) : BitVec 128 :=
  let live := (s.members b).filter (fun wid => (s.warp wid).isMember)
  let arrived := live.filter (fun wid => b.arr.contains wid)
  let others := s.podOthers b
  BitVec.ofNat 128 ((live.length + s.unplacedMembers b + others.1) * 2 ^ 96 + (arrived.length + others.2) * 2 ^ 64 + barrierState s b * 2 ^ 48 + b.phase)

/-- BARQ (R380). -/
def execBarq (f : Fields) (s : State) := performWarp (.barq f) f s (fun c =>
  match namedBarrier s c f with
  | none => { s, outs := trapAll c Cause.permission }
  | some b => { s, outs := allLanes c.active (.done (dst128 f.dst (barrierWord s b)) none) })

/-! ## Byte-count objects (R382 to R385) -/

/-- Perform the lanes of BCINIT and BCADD at their objects: the new state, and whether an uncorrectable word was met. -/
def countLanes (c : Ctx) (f : Fields) (s : State) (act : State → Nat → Nat → State × Bool) : Result :=
  let xs := c.active.lanes.map (fun l => (l, checkScratch s c 16 (c.w.addr l f)))
  let p := performPlaces c f (fun s l p =>
    let (s, bad) := act s l (State.placePhys p)
    (s.noteStore c.wid s.gt, [], bad)) { s } xs
  { s := p.s, outs := p.outs, consumed := p.consumed }

/-- The lanes of BCINIT. -/
def bcinitLanes (c : Ctx) (s : State) (f : Fields) : Result :=
  countLanes c f s (fun s l p => (s.writeBytes p (leBytes 8 (c.w.src32 l f.sb 0).toNat ++ leBytes 8 0), false))

/-- BCINIT (R384). -/
def execBcinit (f : Fields) (s : State) := perform (.bcinit f) f s (fun c => bcinitLanes c s f)

/-- The lanes of BCADD. -/
def bcaddLanes (c : Ctx) (s : State) (f : Fields) : Result :=
  releasing true c s (countLanes c f s (fun s l p => s.countBytes p (c.w.src32 l f.sb 0).toInt))

/-- BCADD (R384, R385): a release. -/
def execBcadd (f : Fields) (s : State) := perform (.bcadd f) f s (fun c => bcaddLanes c s f)

/-- BCWAIT of the lanes that have no outcome yet: complete objects let their lanes go (R384). -/
def bcwaitLanes (c : Ctx) (f : Fields) (p : Performed) : List Nat → Performed
  | [] => p
  | l :: ls =>
    let va := c.w.addr l f
    let p := match checkScratch p.s c 16 va with
      | .at place =>
        let (s, bs, bad) := p.s.readBytes (State.placePhys place) 16
        if bad then { p with s, consumed := p.consumed <|> some va }
        else if signedOf 64 (leNat (bs.take 8)) ≤ 0 then { p with s, outs := p.outs ++ [(l, .done [] none)] }
        else { p with s }
      | .trap cause => { p with outs := p.outs ++ [(l, .trap cause va 0)] }
      | _ => p
    bcwaitLanes c f p ls

/-- BCWAIT (R384). -/
def execBcwait (f : Fields) (s : State) := perform (.bcwait f) f s (fun c =>
  let p := bcwaitLanes c f { s } c.active.lanes
  { s := p.s, outs := p.outs, consumed := p.consumed
    wait := if p.outs.length = c.active.lanes.length then .nothing else .byteCount })

/-! ## Global time (R388) -/

/-- GTRD (R388): GT at the issue. -/
def execGtrd (f : Fields) (s : State) := performLanes (.gtrd f) f s (fun c _ => dst64 f.dst (BitVec.ofNat 64 c.since))

end Sys2Proof.Machine
end

