-- ==== Sys2Proof/Machine/Left.lean ====
section
/-! DEFINITION. Accesses left in flight (log entry 5): how they are performed (R109, R227, R242, R340). -/

namespace Sys2Proof.Machine

/-- The accesses of an entry left in flight. -/
def leftBody (c : Ctx) (s : State) (i : Instr) : Result :=
  match i with
  | .ld f => loadLanes c s f
  | .st f => stLanes c s f
  | .atom f => atomLanes c s f
  | .acas f => acasLanes c s f
  | .red f => redLanes c s f
  | .stfe f => stfeLanes c s f
  | .feclr f => feclrLanes c s f
  | .bcinit f => bcinitLanes c s f
  | .bcadd f => bcaddLanes c s f
  | _ => { s, outs := [], again := true }

/-- An access whose lease ended on its way is looked up anew (R242): the loft walks for the lanes that find no copy. -/
def lookUpAgain (s : State) (w : Warp) (outs : List (Nat × LaneOutcome)) : State :=
  outs.foldl (fun s o => match o.2 with
    | .park va =>
      match s.completeWalk w.gcore w.tenant (va.toNat % 2 ^ 56) with
      | .handed s => s
      | _ => s
    | _ => s) s

namespace State

/-- The context of an unretired entry. -/
def entryCtx (s : State) (wid : Nat) (e : Entry) : Ctx :=
  { wid, w := s.warp wid, pc := e.pc, lanes := e.lanes, active := e.active, word := e.word, since := e.since }

/-- The entry at place `n` is at work: what its accesses leave behind names it (`Current`). -/
def atEntry (s : State) (wid n : Nat) (e : Entry) : State :=
  { s with cur := { wid, pc := e.pc, lanes := e.lanes, word := e.word, place := some n, op := e.op } }

/-- Perform the accesses of an entry that was left in flight. Its lanes have passed their checks: a new lookup raises no trap (R242), and
where it hands out nothing yet, or the page waits, the access stays in flight. An uncorrectable word kills the gang. -/
def performLeft (s : State) (wid : Nat) (n : Nat) : State :=
  let w := s.warp wid
  match w.rob[n]? with
  | some e =>
    if !e.moved || e.decided || e.wait == .turn then s
    else
      let c : Ctx := { s.entryCtx wid e with w := w.ahead (w.rob.take n) }
      let t := s.atEntry wid n e
      let r := leftBody c t e.instr
      let r := if sureResult r || r.again || r.consumed.isSome then r else leftBody c (lookUpAgain t w r.outs) e.instr
      let t : State :=
        match r.consumed with
        | some va => r.s.consume w.grid w.block va
        | none =>
          if sureResult r then
            (r.s.owe wid n e.instr e.lanes).keepEntry wid n { e with outs := r.outs, flags := r.flags, wait := .nothing }
          else if r.again then r.s else s
      { t with cur := s.cur }
  | none => s

/-- Accesses that a tenant's warps have left in flight to pages of global memory that `p` holds: warp and place. -/
def leftThrough (s : State) (t : Nat) (p : Nat → Bool) : List (Nat × Nat) :=
  s.warps.flatMap (fun (x : Nat × Warp) => if x.2.tenant != t then [] else
    (x.2.rob.zipIdx.filter (fun e => e.1.moved && (e.1.wait == .sent || e.1.wait == .loadData) &&
      e.1.active.lanes.any (fun l => match rangeOfVa (((x.2.ahead (x.2.rob.take e.2)).addr l (e.1.instr.fields.getD {}))) with
        | .global a => p (a / 4096)
        | _ => false))).map (fun e => (x.1, e.2)))

/-- Before translations are removed, the accesses made through them are performed where they can be (R340). -/
def performThrough (s : State) (t : Nat) (p : Nat → Bool) : State :=
  (s.leftThrough t p).foldl (fun s x => s.performLeft x.1 x.2) s

end State

end Sys2Proof.Machine
end

