-- ==== Sys2Proof/Machine/Queues.lean ====
section
/-! DEFINITION. Class 5, first part: KICK, WAINST, stage queues, LNCH, SHADOW and PUBLISH (R284 to R299). -/

namespace Sys2Proof.Machine

/-! ## KICK and WAINST (R286, R290, R291) -/

/-- The engine that a kick names. -/
def kickEngine (i : Instr) (w : Warp) : Nat :=
  match i with
  | .kickDie f => 384 + 8 * dieOf w.gcore + (f.aux.extractLsb' 3 3).toNat
  | _ => w.gcore

/-- The lanes of a kick. -/
def kickAll (c : Ctx) (s : State) (f : Fields) (id : Nat) : Result :=
  let (s, os) := s.kickLanes id c.wid c.pc (fun l => c.w.addr l f) (fun l => (c.w.src32 l f.sb 0).toNat) c.active.lanes
  { s, outs := os, wait := if os.length = c.active.lanes.length then .nothing else .kickQueue }

/-- KICK (R286). -/
def execKick (f : Fields) (s : State) := perform (.kick f) f s (fun c => kickAll c s f (kickEngine (.kick f) c.w))

/-- KICK.DIE (R291): the tenant's partition owns the engine, or every lane traps. -/
def execKickDie (f : Fields) (s : State) := perform (.kickDie f) f s (fun c =>
  let id := kickEngine (.kickDie f) c.w
  if (s.partOf c.w.tenant).engs.getLsbD (id - 384) then kickAll c s f id
  else { s, outs := c.active.lanes.map (fun l => (l, .trap Cause.permission (c.w.addr l f) 0)) })

/-- The wain status of a block (R290). -/
def wainStatus (s : State) (gcore : Nat) (b : Block) : DWord :=
  BitVec.ofNat 64 (b.errreq % 2 ^ 17 * 2 ^ 40 + b.cause * 2 ^ 32 + b.errcnt * 2 ^ 24 +
    (16 - (s.engine gcore).queue.length) * 2 ^ 16 + min b.pend 0xFFFF)

/-- WAINST (R290). -/
def execWainst (f : Fields) (s : State) := performWarp (.wainst f) f s (fun c =>
  let b := (s.block? c.w.grid c.w.block).getD { grid := 0, block := 0, gang := 0, gangid := 0, gcore := 0, unit := 0, units := 0 }
  let s := if f.mod0 then s.updBlock c.w.grid c.w.block (fun b => { b with errcnt := 0, cause := 0, errreq := 0 }) else s
  { s, outs := allLanes c.active (.done (dst64 f.dst (wainStatus s c.w.gcore b)) none) })

/-! ## Stage queues (R292 to R295) -/

/-- The pipeline that an explicit handle names for a tenant (R292). -/
def explicitPipe (s : State) (t : Nat) (h : DWord) : Option Nat :=
  let n := h.toNat
  if n < 2 ^ 32 && Sparse.mem s.loft.pipelines n && (s.pipeline n).tenant == t then some n else none

/-- The queue that QPUSH names: pipeline, queue, and whether the handle is implicit (R292). -/
def pushQueue (s : State) (w : Warp) (o : Opnd) : Option (Nat × Nat × Bool) :=
  match o with
  | .zero => ((s.grid w.grid).pipe).map (fun p => (p, (s.grid w.grid).stage + 1, true))
  | o => (explicitPipe s w.tenant (w.src64 0 o 0)).map (fun p => (p, 0, false))

/-- Append an item to a queue. -/
def pushItem (s : State) (p q : Nat) (item : List Byte) : State :=
  let x := s.pipeline p
  s.setPipeline p { x with stages := x.stages.mapIdx (fun j st => if j == q then { st with items := st.items ++ [item] } else st) }

/-- QPUSH of one lane: its outcome. -/
def pushLane (s : State) (w : Warp) (f : Fields) (item : List Byte) : State × LaneOutcome :=
  match pushQueue s w f.sb with
  | none => (s, .trap Cause.queueFault 0 0)
  | some (p, q, implicit) =>
    match (s.pipeline p).stages[q]? with
    | none => (s, .trap Cause.queueFault 0 0)
    | some st =>
      if st.closed then (s, .trap Cause.queueFault 0 0)
      else if implicit then
        if (s.grid w.grid).reserved = 0 then (s, .trap Cause.queueFault 0 0)
        else
          ((pushItem s p q item).updGrid w.grid (fun g => { g with reserved := g.reserved - 1 }), .done (dstP f.dst true) none)
      else if s.queueItems p q st ≥ st.qcap then (s, .done (dstP f.dst false) none)
      else (pushItem s p q item, .done (dstP f.dst true) none)

/-- Perform the lanes of a queue instruction; `act` gives each lane its outcome and an uncorrectable word read. -/
def queueLanes (c : Ctx) (f : Fields) (act : State → Nat → State.Place → State × LaneOutcome × Bool) (p : Performed) :
    List (Nat × LaneAccess) → Performed
  | [] => { p with outs := p.outs.reverse }
  | (l, x) :: xs =>
    let va := c.w.addr l f
    let p := match x with
      | .at place =>
        let (s, o, bad) := act p.s l place
        { s, outs := (l, o) :: p.outs, consumed := if bad then p.consumed <|> some va else p.consumed }
      | .trap cause => { p with outs := (l, .trap cause va 0) :: p.outs }
      | .park => { p with outs := (l, .park va) :: p.outs }
      | .wait | .hole _ => p
    queueLanes c f act p xs

/-- Checks of every lane for an access of `align` bytes at a multiple of it, then the lanes in order. -/
def queueAccess (c : Ctx) (s : State) (f : Fields) (k : AccKind) (align : Nat)
    (act : State → Nat → State.Place → State × LaneOutcome × Bool) : Result :=
  let (s, xs) := checkLanes s c k align f c.active.lanes
  if anyWaits xs then { s, outs := [], again := true }
  else
    let p := queueLanes c f act { s } xs
    { s := p.s, outs := p.outs, consumed := p.consumed, hole := anyHole xs }

/-- QPUSH (R293, R294). -/
def execQpush (f : Fields) (s : State) := perform (.qpush f) f s (fun c => releasing true c s <|
  queueAccess c s f .read 64 (fun s _ p =>
    let (s, bs, bad) := s.readAt c.w.tenant (s.classOf c.w) p 64
    if bad then (s, .done [] none, true)
    else
      let (s, o) := pushLane s c.w f bs
      (s, o, false)))

/-- QPOP and QPEEK of one lane (R293). -/
def popLane (c : Ctx) (f : Fields) (remove : Bool) (s : State) (p : State.Place) : State × LaneOutcome × Bool :=
  let g := s.grid c.w.grid
  if f.sb ≠ .zero || g.pipe.isNone then (s, .trap Cause.queueFault 0 0, false)
  else
    match g.claimed with
    | [] => (s, .done (dstP f.dst false) none, false)
    | item :: rest =>
      let s := (s.writeAt c.w.tenant (s.classOf c.w) p item).noteWrite c.wid p
      let s := if remove then s.updGrid c.w.grid (fun g => { g with claimed := rest }) else s
      (s, .done (dstP f.dst true) none, false)

/-- QPOP (R293). -/
def execQpop (f : Fields) (s : State) := perform (.qpop f) f s (fun c =>
  queueAccess c s f .write 64 (fun s _ p => popLane c f true s p))
/-- QPEEK (R293). -/
def execQpeek (f : Fields) (s : State) := perform (.qpeek f) f s (fun c =>
  queueAccess c s f .write 64 (fun s _ p => popLane c f false s p))

/-- QCLOSE (R295): an implicit handle names no queue to close. -/
def execQclose (f : Fields) (s : State) := performWarp (.qclose f) f s (fun c =>
  match if f.sb = .zero then none else explicitPipe s c.w.tenant (c.w.src64 0 f.sb 0) with
  | none => { s, outs := trapAll c Cause.queueFault }
  | some p =>
    let x := s.pipeline p
    let stages := x.stages.mapIdx (fun j st => if j == 0 then { st with closed := true } else st)
    { s := (s.setPipeline p { x with stages }).endStages p 9, outs := doneAll c })

/-! ## LNCH (R296) -/

/-- Who enqueues for a warp (R265). -/
def Warp.enqueuer (w : Warp) : Enqueuer := if w.supervisor then .supervisor else .user w.tenant

/-- LNCH (R296). -/
def execLnch (f : Fields) (s : State) := perform (.lnch f) f s (fun c => releasing true c s <|
  queueAccess c s f .read 256 (fun s _ p =>
    let (s, bs, bad) := s.readSectors c.w.tenant (s.classOf c.w) p 4
    if bad then (s, .done [] none, true)
    else
      let (s, status, id) := acceptRecord s c.w.enqueuer (leWord 2048 bs)
      (s, .done (dst64 f.dst (BitVec.ofNat 64 (status * 2 ^ 32 + id))) none, false)))

/-! ## SHADOW and PUBLISH (R297 to R299) -/

/-- The start of the range of an instruction that acts on pages. -/
def rangeStart (c : Ctx) (f : Fields) : DWord := c.w.addr 0 f

/-- The length of the range: K(SB). -/
def rangeLen (c : Ctx) (f : Fields) : Nat := (c.w.src64 0 f.sb 0).toNat

/-- The page numbers of a range. -/
def rangePages (start : DWord) (n : Nat) : List Nat := (List.range (n / 4096)).map (fun i => start.toNat / 4096 + i)

/-- Rows 1 and 2 of R297. -/
def rangeTrap (start : DWord) (n : Nat) : Option Nat :=
  if start.toNat % 4096 ≠ 0 || n % 4096 ≠ 0 then some Cause.memAlign
  else if n > 0x10000000 then some Cause.queueFault
  else none

/-- Is a page of FRAME or DRAM kind that the tenant may write (R297 row 4, R326, R350, R351, R358)? -/
def pageWritable (s : State) (t vpn : Nat) (w0 w1 : DWord) : Bool :=
  let own := match Leaf.kind w0 with
    | 0 =>
      if s.grantee t vpn w0 then
        match s.sharedPage t w1.toNat with
        | some x => bitOf x.acc 1
        | none => false
      else s.ownsChannel t w1.toNat
    | 1 => s.ownsColumn t (colOfFid (Leaf.target w0))
    | _ => false
  own && Leaf.w w0 && (!Leaf.sup w0 || t == 0)

/-- The trap of one page by rows 3 to 5 of R297; `i` pages of the range come before it. -/
def shadowTrap (s : State) (t gcore row vpn i : Nat) : Option Nat :=
  if vpn ≥ 2 ^ 44 then (if row = 3 then some Cause.translation else none)
  else
    match s.walk t (vpn * 4096) with
    | .noMapping | .hole _ => if row = 3 then some Cause.translation else none
    | .forbidden => if row = 4 then some Cause.permission else none
    | .leaf _ w0 w1 =>
      if row = 4 && !pageWritable s t vpn w0 w1 then some Cause.permission
      else if row = 5 && ((s.shadowOf t vpn).isSome || s.framesOf t + i + 1 > (s.tenant t).frameq ||
          (s.ownedCols t (State.shadowSilo w0 gcore)).isEmpty) then some Cause.queueFault
      else none

/-- The first trap of a range by rows 3 to 5 of R297, with the page's address. -/
def shadowRangeTrap (s : State) (t gcore : Nat) (vs : List Nat) : Option (Nat × Nat) :=
  [3, 4, 5].findSome? (fun row => vs.zipIdx.findSome? (fun x =>
    (shadowTrap s t gcore row x.1 x.2).map (fun cause => (cause, x.1 * 4096))))

/-- A page of the range has MIG set (R343). -/
def anyMig (s : State) (t : Nat) (vs : List Nat) : Bool :=
  vs.any (fun v => match s.leafOf t v with
    | some (_, w0, _) => Leaf.mig w0
    | none => false)

/-- Give every page its shadow, or name the columns where a frame is wanting (R297). -/
def giveShadows (s : State) (t gcore : Nat) (copy : Bool) : List Nat → Except (List Nat) State
  | [] => .ok s
  | v :: vs =>
    match s.giveShadow t v gcore copy with
    | some s => giveShadows s t gcore copy vs
    | none =>
      match s.leafOf t v with
      | some (_, w0, _) => .error (s.ownedCols t (State.shadowSilo w0 gcore))
      | none => .error []

/-- SHADOW (R297). -/
def execShadow (f : Fields) (s : State) := performWarp (.shadow f) f s (fun c =>
  let start := rangeStart c f
  let n := rangeLen c f
  match rangeTrap start n with
  | some cause => { s, outs := trapAll c cause start }
  | none =>
    let vs := rangePages start n
    match shadowRangeTrap s c.w.tenant c.w.gcore vs with
    | some (cause, va) => { s, outs := trapAll c cause (BitVec.ofNat 64 va) }
    | none =>
      if anyMig s c.w.tenant vs then { s, outs := [], again := true }
      else
        match giveShadows s c.w.tenant c.w.gcore f.mod5 vs with
        | .ok s => { s := s.noteStore c.wid s.gt, outs := doneAll c }
        | .error cols => { s := s.makeRoom cols, outs := [], again := true })

/-- The first page of a range without a shadow. -/
def firstUnshadowed (s : State) (t : Nat) (vs : List Nat) : Option Nat := vs.find? (fun v => (s.shadowOf t v).isNone)

/-- PUBLISH (R299): a release, and a store whose completion is the horizon of the old mappings. The core's and floor's translations of the
pages go, so that a younger read of the warp sees what was published (R240, R246, R252). TRAP_ADDR of a page without
a shadow is 0 (R302). -/
def execPublish (f : Fields) (s : State) := performWarp (.publish f) f s (fun c =>
  let start := rangeStart c f
  let n := rangeLen c f
  let vs := rangePages start n
  match rangeTrap start n, firstUnshadowed s c.w.tenant vs with
  | some cause, _ => { s, outs := trapAll c cause start }
  | none, some _ => { s, outs := trapAll c Cause.queueFault }
  | none, none =>
    releasing true c s <|
      if s.publishable c.w.tenant vs then
        let (s, h) := s.publishPages c.w.tenant vs
        let s := vs.foldl (fun s v => s.dropStale c.w.gcore c.w.tenant v) s
        { s := s.noteStore c.wid h, outs := doneAll c }
      else { s, outs := [], again := true })

end Sys2Proof.Machine
end

