-- ==== Sys2Proof/Machine/Pages.lean ====
section
/-! DEFINITION. Class 6, second part: TCINV, TCRCL, PLACE, REPL and PROBE (R339 to R342), and the gleaner's queue. -/

namespace Sys2Proof.Machine

/-! ## TCINV and TCRCL (R340) -/

/-- The trap of a range. -/
def recallTrap (start : DWord) (n : Nat) : Option Nat :=
  if start.toNat % 4096 ≠ 0 || n % 4096 ≠ 0 then some Cause.memAlign
  else if start.toNat + n > 2 ^ 56 then some Cause.permission
  else if n > 0x10000000 then some Cause.queueFault
  else none

/-- TRAP_ADDR of that trap: the start, but 0 for QUEUE_FAULT. -/
def recallAddr (start : DWord) (cause : Nat) : DWord := if cause = Cause.queueFault then 0 else start

/-- Does a copy translate a page of a tenant's range? -/
def Cached.inRange (t first pages : Nat) (c : Cached) : Bool := c.tenant == t && first ≤ c.vpn && c.vpn < first + pages

/-- The pages of a range. -/
def inPages (first pages v : Nat) : Bool := first ≤ v && v < first + pages

/-- The warp issues anew what is younger than an instruction that retires (R340): none of it has had an effect. -/
def Warp.refetch (w : Warp) : Warp := { w.discard w.rob with rob := [] }

/-- TCINV (R340). What the warp has issued since has used older translations and lines, and issues again. -/
def execTcinv (f : Fields) (s : State) := performWarp (.tcinv f) f s (fun c =>
  let start := rangeStart c f
  let n := rangeLen c f
  match recallTrap start n with
  | some cause => { s, outs := trapAll c cause (recallAddr start cause) }
  | none =>
    let out := fun (x : Cached) => !x.inRange c.w.tenant (start.toNat / 4096) (n / 4096)
    let s := s.performThrough c.w.tenant (inPages (start.toNat / 4096) (n / 4096))
    let s := s.updCore c.w.gcore (fun x => { x with tcache := x.tcache.filter out })
    let s := s.updDie (dieOf c.w.gcore) (fun d => { d with ftcache := d.ftcache.filter out })
    { s, outs := doneAll c
      onWarp := fun w => { w.refetch with lines := w.lines.filter (fun x =>
        !(start.toNat ≤ x.1.toNat && x.1.toNat < start.toNat + n)) } })

/-- Remove a tenant's translations of some pages from every core and floor. -/
def recallWhere (s : State) (t : Nat) (p : Nat → Bool) : State :=
  let out := fun (x : Cached) => !(x.tenant == t && p x.vpn)
  { s with
    cores := s.cores.map (fun (e : Nat × Core) => (e.1, { e.2 with tcache := e.2.tcache.filter out }))
    dies := s.dies.map (fun (e : Nat × Die) => (e.1, { e.2 with ftcache := e.2.ftcache.filter out })) }

/-- Remove a tenant's translations of a range. -/
def recallRange (s : State) (t first pages : Nat) : State := recallWhere s t (inPages first pages)

/-- Every translation that a core or a floor holds. -/
def copiesHeld (s : State) : List Cached :=
  s.cores.flatMap (fun (e : Nat × Core) => e.2.tcache) ++ s.dies.flatMap (fun (e : Nat × Die) => e.2.ftcache)

/-- The latest lease that another tenant's copy, or an addend sent through one, holds on a page of a tenant (R358): its frame, or the backing
itself. A page that is a grantee's own leaf is held by no other. -/
def granteeLease (s : State) (t vpn : Nat) : Nat :=
  let mine := s.tables.frames.filter (fun (e : Nat × Frame) => e.2.owner == t && e.2.vpn == vpn && e.2.state != .free)
  let own := (s.leafWords t vpn).toList.filter (fun x => !s.grantee t vpn x.2.1)
  let backings := (mine.map (fun e => e.2.backing)) ++ (own.map (fun x => x.2.2.toNat))
  let sent := (s.mem.addends.filter (fun a => a.tenant != t && s.gt < a.lease && a.fid.any (fun f => mine.any (fun e => e.1 == f)))).map (·.lease)
  let copies := ((copiesHeld s).filter (fun c => c.tenant != t && s.liveCopy c.tenant c.vpn c && s.grantee c.tenant c.vpn c.word0 &&
    (mine.any (fun e => c.sharedFrame == some e.1) || backings.contains c.word1.toNat))).map (·.leaseEnd)
  (sent ++ copies).foldl max s.gt

/-- HZN of a page becomes the present time, whether its entry is valid or not, and what forwards for the page ends (R340, R343); while a
grantee still holds a copy of the page, which a recall of its owner's leaves, the horizon is the end of that lease (R337, R358; log entry
108, DEDUCED). -/
def endHorizon (s : State) (t vpn : Nat) : State :=
  let h := granteeLease s t vpn
  let s := match s.leafWords t vpn with
    | some (a, w0, _) => s.setRaw64 a (Leaf.withHzn w0 h)
    | none => s
  let s : State := { s with tables := { s.tables with
    horizons := Sparse.set 0 s.tables.horizons (2 ^ 44 * t + vpn) h
    forwards := (s.tables.forwards.map (fun x => if x.tenant == t && x.vpn == vpn then { x with horizon := min x.horizon h } else x)).filter
      (fun x => !(x.tenant == t && x.vpn == vpn) || s.gt < x.horizon) } }
  (s.tables.frames.filter (fun (e : Nat × Frame) => e.2.state == .forwarding && e.2.owner == t && e.2.vpn == vpn)).foldl
    (fun s e => (s.updFrame e.1 (fun f => { f with horizon := min f.horizon h })).freePassed e.1) s

/-- Addends are on their way through copies of a tenant's range (R340). -/
def addendsThrough (s : State) (t first pages : Nat) : Bool :=
  s.mem.addends.any (fun a => a.tenant == t && a.fid.isSome && s.gt < a.lease && first ≤ a.va.toNat / 4096 &&
    a.va.toNat / 4096 < first + pages)

/-- TCRCL (R340). -/
def execTcrcl (f : Fields) (s : State) := performWarp (.tcrcl f) f s (fun c =>
  let start := rangeStart c f
  let n := rangeLen c f
  let t := f.auxHigh
  match recallTrap start n with
  | some cause => { s, outs := trapAll c cause (recallAddr start cause) }
  | none =>
    if n = 0 then { s, outs := doneAll c }
    else releasing true c s <|
      let vs := rangePages start n
      -- the recall of a page with MIG set waits until the switch
      let p := inPages (start.toNat / 4096) (n / 4096)
      let s := s.performThrough t p
      let s := recallWhere s t (fun v => p v && !anyMig s t [v])
      if anyMig s t vs || addendsThrough s t (start.toNat / 4096) (n / 4096) || !(s.leftThrough t p).isEmpty then { s, outs := [], again := true }
      else { s := vs.foldl (fun s v => endHorizon s t v) s, outs := doneAll c })

/-! ## PLACE and REPL (R341) -/

/-- The target set of PLACE. -/
def placeCols (s : State) (c : Ctx) (f : Fields) (l : Nat) : List Nat :=
  match (f.mod.extractLsb' 5 2).toNat with
  | 0 => [c.w.gcore].filter (s.ownsColumn c.w.tenant)
  | 1 => s.ownedCols c.w.tenant (dieOf c.w.gcore)
  | 2 => s.ownedCols c.w.tenant ((c.w.src32 l f.sb 0).toNat % 8)
  | _ => []

/-- The silo whose gleaner serves a page: that of its frame, or of its master; for a page that no frame holds, the silo of the core that asks
(log entry 106, DESIGN CHOICE). -/
def pageSilo (s : State) (w0 : DWord) (gcore : Nat) : Nat :=
  match Leaf.kind w0 with
  | 1 => colOfFid (Leaf.target w0) / 48
  | 2 => colOfFid (Sparse.get ({} : ReplicaSet) s.tables.replicas (Leaf.target w0 % 4096)).master / 48
  | _ => dieOf gcore

/-- The answer to a request: accepted with work for the gleaner, accepted without, refused, or not yet. -/
inductive PlaceAnswer where
  | work | nothing | refused | waits
  deriving DecidableEq, Repr

/-- The table of R341 for PLACE. A grantee's page is not placed: its frame would be none of the owner's (R358, log entry 41, DESIGN
CHOICE). -/
def placeAnswer (s : State) (r : GleanerReq) (w0 : DWord) : PlaceAnswer :=
  let full := s.framesOf r.tenant ≥ (s.tenant r.tenant).frameq
  if !r.dram && r.cols.isEmpty || s.grantee r.tenant r.vpn w0 then .refused
  else if Leaf.mig w0 then .work
  else if Leaf.shd w0 then .waits
  else if Leaf.pin w0 then .refused
  else
    match Leaf.kind w0 with
    | 2 => .refused
    | 1 =>
      if r.dram then .work
      else if r.cols.contains (colOfFid (Leaf.target w0)) then .nothing
      else if full then .refused
      else .work
    | _ =>
      if r.dram then .nothing
      else if full then .refused
      else .work

/-- The table of R341 for REPL. -/
def replAnswer (s : State) (r : GleanerReq) (w0 : DWord) : PlaceAnswer :=
  -- whichever silo the master is in after the move, one of the other seven has no column
  if ((List.range 8).filter (fun d => (s.ownedCols r.tenant d).isEmpty)).length ≥ 2 then .refused
  else if Leaf.mig w0 then .work
  else if Leaf.shd w0 || Leaf.pin w0 then .refused
  else
    match Leaf.kind w0 with
    | 2 => .nothing
    | 1 =>
      let master := Leaf.target w0
      if (s.frame master).role != .page || s.framesOf r.tenant + 7 > (s.tenant r.tenant).frameq ||
          s.replicasOf r.tenant ≥ (s.tenant r.tenant).replq || s.freeSet.isNone ||
          ((List.range 8).filter (· != colOfFid master / 48)).any (fun d => (s.ownedCols r.tenant d).isEmpty) then .refused
      else .work
    | _ => .refused

def requestAnswer (s : State) (r : GleanerReq) (w0 : DWord) : PlaceAnswer :=
  if r.repl then replAnswer s r w0 else placeAnswer s r w0

/-- The request of one lane. -/
def gleanerReq (s : State) (c : Ctx) (i : Instr) (f : Fields) (l : Nat) : GleanerReq :=
  let vpn := (c.w.addr l f).toNat / 4096
  match i with
  | .repl _ => { tenant := c.w.tenant, gen := c.w.gen, vpn, cols := [], repl := true, dram := false }
  | _ => { tenant := c.w.tenant, gen := c.w.gen, vpn, cols := placeCols s c f l, repl := false,
           dram := (f.mod.extractLsb' 5 2).toNat == 3 }

/-- One lane of PLACE or REPL after its checks: its outcome, or none while it waits. An address in scratch names no page
and is refused. -/
def placeLane (s : State) (c : Ctx) (i : Instr) (f : Fields) (l : Nat) : State × Option LaneOutcome :=
  let va := c.w.addr l f
  let r := gleanerReq s c i f l
  let answer := fun (b : Bool) => some (LaneOutcome.done (dstP f.dst b) none)
  if va.toNat ≥ 2 ^ 56 then (s, answer false)
  else
    let s := s.checkWalk r.tenant (4096 * r.vpn)
    match s.leafOf r.tenant r.vpn with
    | none => (s, some (.park va))
    | some (_, w0, _) =>
      let silo := pageSilo s w0 c.w.gcore
      if (s.die silo).gleaner.length ≥ 64 then (s, none)
      else
        match requestAnswer s r w0 with
        | .work => (s.updDie silo (fun d => { d with gleaner := d.gleaner ++ [r] }), answer true)
        | .nothing => (s, answer true)
        | .refused => (s, answer false)
        | .waits => (s, none)

/-- The lanes of PLACE and REPL in order, until one waits. -/
def placeLanes (c : Ctx) (i : Instr) (f : Fields) (p : Performed) : List Nat → Performed
  | [] => p
  | l :: ls =>
    let va := c.w.addr l f
    match checkLane p.s c .read 1 va l with
    | (s, .trap cause) => placeLanes c i f { p with s, outs := p.outs ++ [(l, .trap cause va 0)] } ls
    | (s, .park) => placeLanes c i f { p with s, outs := p.outs ++ [(l, .park va)] } ls
    | (s, .wait) => { p with s }
    | (s, .hole _) => placeLanes c i f { p with s, outs := p.outs ++ [(l, .done (dstP f.dst false) none)] } ls
    | (s, .at _) =>
      match placeLane s c i f l with
      | (s, some o) => placeLanes c i f { p with s, outs := p.outs ++ [(l, o)] } ls
      | (s, none) => { p with s }

/-- PLACE and REPL. -/
def placeAll (c : Ctx) (s : State) (i : Instr) (f : Fields) : Result :=
  let p := placeLanes c i f { s } c.active.lanes
  { s := p.s, outs := p.outs, wait := if p.outs.length = c.active.lanes.length then .nothing else .gleaner }

/-- PLACE (R341). -/
def execPlace (f : Fields) (s : State) := perform (.place f) f s (fun c => placeAll c s (.place f) f)
/-- REPL (R341). -/
def execRepl (f : Fields) (s : State) := perform (.repl f) f s (fun c => placeAll c s (.repl f) f)

/-! ## The gleaner's queue (R341, R338) -/

/-- What the gleaner does with a request at its turn: it starts, it is dropped, or it stays. One of an older generation is not performed
(R359). Its target set holds only columns that the
tenant's partition owns then (R341, R363). -/
def startRequest (s : State) (asked : GleanerReq) : State × Bool :=
  let r := { asked with cols := asked.cols.filter (s.ownsColumn asked.tenant) }
  match s.leafOf r.tenant r.vpn with
  | none => (s, true)
  | some (_, w0, _) =>
    if r.gen != (s.tenant r.tenant).gen then (s, true)
    else if Leaf.mig w0 then (s, false)
    else
      match requestAnswer s r w0 with
      | .waits => (s, false)
      | .nothing | .refused => (s, true)
      | .work =>
        if r.repl then
          match s.beginReplicate r.tenant r.vpn with
          | some s => (s, true)
          | none =>
            let silos := (List.range 8).filter (· != colOfFid (Leaf.target w0) / 48)
            (silos.foldl (fun s d =>
              let cols := s.ownedCols r.tenant d
              if (s.takeFrom cols).isNone then s.makeRoom cols else s) s, false)
        else if r.dram then
          if s.backingHeld (s.frame (Leaf.target w0)).backing then (s, false) else (s.beginEvict r.tenant r.vpn, true)
        else
          match s.beginMove r.tenant r.vpn r.cols with
          | some s => (s, true)
          | none => (if (s.takeFrom r.cols).isNone then s.makeRoom r.cols else s, false)

/-- Take the first request of a queue that starts or falls away. -/
def startFirst (s : State) : List GleanerReq → State × List GleanerReq
  | [] => (s, [])
  | r :: rs =>
    match startRequest s r with
    | (s, true) => (s, rs)
    | (s, false) =>
      let (s, rs) := startFirst s rs
      (s, r :: rs)

/-- The gleaner of a silo works on its queue. -/
def serveGleaner (s : State) (silo : Nat) : State :=
  let (s, q) := startFirst s (s.die silo).gleaner
  s.updDie silo (fun d => { d with gleaner := q })

/-! ## PROBE (R342) -/

def frameStateCode : FrameState → Nat
  | .free => 0
  | .filling => 1
  | .mapped => 2
  | .forwarding => 3
  | .draining => 4

def frameRoleCode : FrameRole → Nat
  | .page => 0
  | .replica => 1
  | .shadow => 2
  | .remoteLine => 3

/-- The frame's part of the result. -/
def probeFrame (fr : Frame) : Nat :=
  fr.owner * 2 ^ 120 + fr.fwd * 2 ^ 96 + fr.fwdcnt * 2 ^ 80 + fr.age * 2 ^ 72 + frameRoleCode fr.role * 2 ^ 70 +
    frameStateCode fr.state * 2 ^ 67

/-- PROBE of a page: the entry at the loft as it stands, valid or not. A page whose walk does not reach a leaf reads 0 (log entry 42). -/
def probePage (s : State) (t gcore va : Nat) : BitVec 128 :=
  match s.leafWords t (va / 4096) with
  | some (_, e0, _) =>
    let w0 := Leaf.withBit e0 0 (match s.walk t va with | .leaf .. => true | _ => false)
    let left := min 0xFFFFFFFF (s.horizon t (va / 4096) - s.gt)
    let fr := match Leaf.kind w0 with
      | 1 => if Leaf.valid w0 then probeFrame (s.frame (Leaf.target w0)) else 0
      | 2 => if !Leaf.valid w0 then 0 else
        let set := Sparse.get {} s.tables.replicas (Leaf.target w0 % 4096)
        probeFrame (s.frame ((set.frames.find? (fun f => colOfFid f / 48 == dieOf gcore)).getD set.master))
      | _ => 0
    BitVec.ofNat 128 (fr + left * 2 ^ 32 + bitsOf w0.toNat 31 0)
  | none => 0

/-- PROBE, the address form (R342). -/
def execProbe (f : Fields) (s : State) := perform (.probe f) f s (fun c =>
  { s := c.active.lanes.foldl (fun s l => s.checkWalk c.w.tenant (c.w.addr l f).toNat) s
    outs := c.active.lanes.map (fun l =>
      let va := c.w.addr l f
      (l, if va.toNat ≥ 2 ^ 56 then .trap Cause.permission va 0
          else .done (dst128 f.dst (probePage s c.w.tenant c.w.gcore va.toNat)) none)) })

/-- PROBE.F (R342). -/
def execProbeF (f : Fields) (s : State) := perform (.probeF f) f s (fun c =>
  { s, outs := c.active.lanes.map (fun l =>
      let fid := (c.w.src32 l f.sb 0).toNat
      let named := fid < 2 ^ 21 && s.namesFrame fid
      (l, if !c.w.supervisor && (!named || (s.frame fid).owner != c.w.tenant) then .trap Cause.permission 0 0
          else .done (dst128 f.dst (if named then BitVec.ofNat 128 (probeFrame (s.frame fid)) else 0)) none)) })

end Sys2Proof.Machine
end

