-- ==== Sys2Proof/Machine/Fetch.lean ====
section
/-! DEFINITION. Instruction fetch (R30 to R38): fetch lines, their checks, and the checks of a control transfer on its
target line. -/

namespace Sys2Proof.Machine

/-! ## Lines (R30 to R34) -/

namespace Line

/-- The instruction in a slot (R31). -/
def slot (x : BitVec 512) (i : Nat) : BitVec 96 := x.extractLsb' (96 * i) 96

/-- The line word (R32). -/
def word (x : BitVec 512) : BitVec 32 := x.extractLsb' 480 32

/-- TGT bit of a slot. -/
def target (x : BitVec 512) (i : Nat) : Bool := (word x).getLsbD i

/-- The PARITY field that the instruction bits ask for (R32). -/
def parityOf (x : BitVec 512) : Nat :=
  (List.range 16).foldl (fun a j =>
    a + (if oddOnes ((List.range 30).map (fun b => x.getLsbD (30 * j + b))) then 2 ^ j else 0)) 0

/-- PARITY matches (R34). -/
def parityOk (x : BitVec 512) : Bool := (x.extractLsb' 496 16).toNat == parityOf x

/-- Bits [15:9] of the line word are zero (R32). -/
def formatOk (x : BitVec 512) : Bool := x.extractLsb' 489 7 == 0

/-- The line of five instruction words with a TGT field, PAIR zero (R32); missing words are 0. -/
def make (slots : List (BitVec 96)) (tgt : BitVec 5) : BitVec 512 :=
  let w := fun (i : Nat) => slots.getD i 0
  let body : BitVec 480 := w 4 ++ (w 3 ++ (w 2 ++ (w 1 ++ w 0)))
  BitVec.ofNat 16 (parityOf (body.setWidth 512)) ++ (0#11 ++ (tgt ++ body))

end Line

/-- What fetching a line meets. -/
inductive Fetched where
  | line (s : State) (bits : BitVec 512)
  /-- IFETCH_PARITY, LINEFMT or PERMISSION, with the line where it was read. -/
  | trap (s : State) (cause : Nat) (bits : BitVec 512)
  | park (s : State)
  | wait (s : State)
  | consumed (s : State)
  | hole (a : Nat)

/-- Read the 64 bytes of a line: its bits, and whether a word is uncorrectable. -/
def readLine (s : State) (w : Warp) (p : State.Place) : State × BitVec 512 × Bool :=
  let (s, bs, bad) := s.readAt w.tenant (s.classOf w) p 64
  (s, leWord 512 bs, bad)

/-- Read a line, and once more where its parity fails (R34). -/
def readChecked (s : State) (w : Warp) (p : State.Place) : State × BitVec 512 × Bool :=
  let (s, x, bad) := readLine s w p
  if bad || Line.parityOk x then (s, x, bad) else readLine s w p

/-- Fetch a line for a warp (R34, R38): a line that the warp fetched before is used again until a TCINV; a failed check is
not remembered. -/
def fetchLine (s : State) (wid lane : Nat) (line : DWord) : Fetched :=
  let w := s.warp wid
  match w.lines.find? (fun x => x.1 == line) with
  | some x => .line s x.2
  | none =>
    let ag : Agent := { wid, tenant := w.tenant, gcore := w.gcore, grid := w.grid, block := w.block }
    match s.resolve ag lane line .fetch with
    | .trap s cause => .trap s cause 0
    | .park s => .park s
    | .wait s => .wait s
    | .hole a => .hole a
    | .at s p =>
      let (s, x, bad) := readChecked s w p
      if bad then .consumed s
      else if !Line.parityOk x then .trap s Cause.ifetchParity x
      else if !Line.formatOk x then .trap s Cause.linefmt x
      else .line (s.updWarp wid (fun w => { w with lines := (line, x) :: w.lines })) x

/-! ## Transfers (R37) -/

/-- What a transfer of one lane meets at its target. -/
inductive Transfer where
  | ok
  | trap (cause : Nat) (addr : DWord)
  | park (addr : DWord)
  | wait
  | consumed (addr : DWord)
  | hole (a : Nat)
  deriving DecidableEq, Repr

/-- Check the target of one lane: a PC, its line's checks, and with `tgt` its TGT bit (R37, R314). -/
def checkTarget (s : State) (wid lane : Nat) (tgt : Bool) (pc : DWord) : State × Transfer :=
  if !isPc pc then (s, .trap Cause.branchAlign 0)
  else
    match fetchLine s wid lane (lineOf pc) with
    | .line s x => if tgt && !Line.target x (slotOf pc) then (s, .trap Cause.branchAlign 0) else (s, .ok)
    | .trap s cause _ => (s, .trap cause (lineOf pc))
    | .park s => (s, .park (lineOf pc))
    | .wait s => (s, .wait)
    | .consumed s => (s, .consumed (lineOf pc))
    | .hole a => (s, .hole a)

/-- Check the targets of lanes in order. -/
def checkTargets (s : State) (wid : Nat) (tgt : Bool) : List (Nat × DWord) → State × List (Nat × DWord × Transfer)
  | [] => (s, [])
  | (l, pc) :: rest =>
    let (s, x) := checkTarget s wid l tgt pc
    let (s, xs) := checkTargets s wid tgt rest
    (s, (l, pc, x) :: xs)

/-- The lanes of a transfer, with the writes of those that go (R137). -/
def transferLanes (s : State) (c : Ctx) (tgt : Bool) (goals : List (Nat × DWord)) (ws : List RegWrite) : Result :=
  let (s, xs) := checkTargets s c.wid tgt goals
  if xs.any (fun x => x.2.2 == .wait) then { s, outs := [], again := true }
  else
    { s
      outs := xs.filterMap (fun x => match x.2.2 with
        | .ok => some (x.1, LaneOutcome.done ws (some x.2.1))
        | .trap cause addr => some (x.1, .trap cause addr 0)
        | .park addr => some (x.1, .park addr)
        | _ => none)
      consumed := xs.findSome? (fun x => match x.2.2 with | .consumed a => some a | _ => none)
      hole := xs.findSome? (fun x => match x.2.2 with | .hole a => some a | _ => none) }

end Sys2Proof.Machine
end

