-- ==== Sys2Proof/Machine/Control.lean ====
section
/-! DEFINITION. Class 4: control transfer, waits, extended blocks and traps (R137 to R145), and the return from a trap
(R314). -/

namespace Sys2Proof.Machine

/-! ## Transfers (R137) -/

/-- The target of BRA and CALL (R42). -/
def branchTarget (pc : DWord) (f : Fields) : DWord :=
  lineOf pc + ((f.imm.extractLsb' 3 29).signExtend 64 <<< 6) + BitVec.ofNat 64 f.targetSlot

/-- The link that CALL and CALLX write. -/
def linkWrites (pc : DWord) : List RegWrite :=
  [.v 62 ((nextPc pc).setWidth 32), .v 63 ((nextPc pc).extractLsb' 32 32)]

/-- Goals of every lane of Active. -/
def goals (c : Ctx) (g : Nat → DWord) : List (Nat × DWord) := c.active.lanes.map (fun l => (l, g l))

/-- BRA. -/
def execBra (f : Fields) (s : State) := perform (.bra f) f s (fun c =>
  transferLanes s c true (goals c (fun _ => branchTarget c.pc f)) [])
/-- BRX. -/
def execBrx (f : Fields) (s : State) := perform (.brx f) f s (fun c =>
  transferLanes s c true (goals c (fun l => c.w.src64 l f.sa f.imm)) [])
/-- CALL. -/
def execCall (f : Fields) (s : State) := perform (.call f) f s (fun c =>
  transferLanes s c true (goals c (fun _ => branchTarget c.pc f)) (linkWrites c.pc))
/-- CALLX. -/
def execCallx (f : Fields) (s : State) := perform (.callx f) f s (fun c =>
  transferLanes s c true (goals c (fun l => c.w.src64 l f.sa f.imm)) (linkWrites c.pc))
/-- RET. -/
def execRet (f : Fields) (s : State) := perform (.ret f) f s (fun c =>
  transferLanes s c true (goals c (fun l => c.w.pairV l 62)) [])

/-- EXIT (R138). -/
def execExit (f : Fields) (s : State) := perform (.exit f) f s (fun c =>
  { s, outs := doneAll c
    onWarp := fun w => c.active.lanes.foldl (fun w l => w.updLane l (fun x => { x with status := .exited })) w })

/-! ## Waits (R139 to R141) -/

/-- The 32-bit value of SB: a k register or IMM32. -/
def lowSb (c : Ctx) (f : Fields) : Word := c.w.src32 0 f.sb f.imm

/-- The mask of a waiting WSYNC. -/
def wsyncMask (e : Entry) : Option LaneMask :=
  match e.wait with
  | .wsync m => some m
  | _ => none

/-- The wait of a SLEEP, an IDLE or a WSYNC that has retired is over: its lanes go on. -/
def endPause (s : State) (wid : Nat) (e : Entry) : State :=
  (s.updWarp wid (fun w => { (w.advance e.pc e.lanes e.active e.outs) with
    pauses := w.pauses.filter (fun x => !(x.pc == e.pc && x.lanes == e.lanes)) })).settleParked wid

/-- Release every lane of a warp that waits in a WSYNC with mask `m`: the splits go on at the next slot, all in one cycle. -/
def releaseWsync (s : State) (wid : Nat) (m : LaneMask) : State :=
  ((s.warp wid).pauses.filter (fun e => wsyncMask e == some m)).foldl (fun s e => endPause s wid e) s

/-- The lanes that wait in a WSYNC with mask `m`. -/
def wsyncLanes (w : Warp) (m : LaneMask) : LaneMask :=
  w.pauses.foldl (fun a e => if wsyncMask e == some m then a ||| e.active else a) 0

/-- WSYNC (R139): the lanes wait, or the wait ends at once, for these lanes and for those that wait with the same mask. -/
def execWsync (f : Fields) (s : State) := perform (.wsync f) f s (fun c =>
  let m := lowSb c f
  if c.active = 0 then { s, outs := doneAll c }
  else if m &&& c.w.live = 0 || m &&& c.w.live &&& ~~~(c.active ||| wsyncLanes c.w m) = 0 then
    { s := releaseWsync s c.wid m, outs := doneAll c }
  else { s, outs := doneAll c, wait := .wsync m, pauses := true })

/-- YIELD (R140). R140 speaks of the issuing split and not of an empty Active, for which this model gives YIELD no effect
(log entry 85, DESIGN CHOICE). One that has waited for its guard has stepped back at its issue. -/
def execYield (f : Fields) (s : State) := perform (.yield f) f s (fun c =>
  let issued := s.cur.place.isSome && !(s.warp c.wid).rob.isEmpty
  { s := if c.active = 0 || issued then s else stepBack s c, outs := doneAll c })

/-- The deadline of SLEEP, from the GT of its issue (R141), and of IDLE. -/
def sleepDeadline (since : Nat) (w : Warp) (d : Nat) : Nat :=
  let t := since + d
  if w.gtwake = 0 then t else min t w.gtwake.toNat

/-- SLEEP (R141). -/
def execSleep (f : Fields) (s : State) := perform (.sleep f) f s (fun c =>
  let t := sleepDeadline c.since c.w (lowSb c f).toNat
  if c.active = 0 || t ≤ s.gt then { s, outs := doneAll c }
  else { s, outs := doneAll c, wait := .sleep t, pauses := true })

/-! ## Extended blocks (R142, R143) -/

/-- Warps that asked before a warp and have no block yet. -/
def askedBefore (q : List Nat) (wid : Nat) : Nat := (q.takeWhile (· != wid)).length

/-- May a warp that asks be granted a block now: is one free beside those for the warps that asked before? -/
def extFree (s : State) (gcore wid : Nat) : Bool := s.extHeld gcore + askedBefore (s.core gcore).extQueue wid < 8

/-- RGACQ (R142). -/
def execRgacq (f : Fields) (s : State) := perform (.rgacq f) f s (fun c =>
  if c.active = 0 || c.w.ext then { s, outs := doneAll c }
  else if extFree s c.w.gcore c.wid then { s, outs := doneAll c, onWarp := Warp.takeExt }
  else { s := joinExtQueue s c.w.gcore c.wid, outs := doneAll c, wait := .extBlock })

/-- RGREL (R142). -/
def execRgrel (f : Fields) (s : State) := perform (.rgrel f) f s (fun c =>
  { s, outs := doneAll c, onWarp := fun w => if c.active = 0 then w else w.dropExt })

/-- The priority class that ROLE sets (R143). -/
def rolePrio (f : Fields) (w : Warp) : Warp :=
  if f.imm.getLsbD 2 then { w with prio := (f.imm.extractLsb' 0 2).toNat } else w

/-- The EXT field of ROLE's control word. -/
def roleExt (f : Fields) : Nat := (f.imm.extractLsb' 3 2).toNat

/-- ROLE (R143). -/
def execRole (f : Fields) (s : State) := perform (.role f) f s (fun c =>
  let jump := f.imm.getLsbD 5
  let tgt := c.w.base 0 f.sa
  if c.active = 0 then { s, outs := [] }
  else if jump && !isPc tgt then { s, outs := trapAll c Cause.branchAlign }
  else
    let outs := allLanes c.active (.done [] (if jump then some tgt else none))
    match roleExt f with
    | 1 =>
      if c.w.ext then { s, outs, onWarp := rolePrio f }
      else if extFree s c.w.gcore c.wid then { s, outs, onWarp := fun w => (rolePrio f w).takeExt }
      else { s := joinExtQueue s c.w.gcore c.wid, outs, wait := .extBlock }
    | 2 => { s, outs, onWarp := fun w => (rolePrio f w).dropExt }
    | _ => { s, outs, onWarp := rolePrio f })

/-- What the grant of an extended block does to the warp of a waiting RGACQ or ROLE (R142, R143). -/
def grantExt (i : Instr) (w : Warp) : Warp :=
  match i with
  | .role f => (rolePrio f w).takeExt
  | _ => w.takeExt

/-! ## Traps and their return (R144, R314) -/

/-- BRK (R144). -/
def execBrk (f : Fields) (s : State) := perform (.brk f) f s (fun c => { s, outs := trapAll c Cause.breakpoint })

/-- TRAP (R144). -/
def execTrap (f : Fields) (s : State) := perform (.trap f) f s (fun c =>
  { s, outs := trapAll c Cause.userTrap 0 (f.imm.extractLsb' 0 16).toNat })

/-- Where ERET takes a lane (R314); a value that is not a PC fails the check. -/
def returnPc (w : Warp) (next : Bool) (l : Nat) : DWord :=
  let pc := (w.lane l).trapPc
  if next && isPc pc then nextPc pc else pc

/-- ERET (R314): back to the program, the handler tag cleared. -/
def execEret (f : Fields) (s : State) := perform (.eret f) f s (fun c =>
  let r := transferLanes s c false (goals c (returnPc c.w f.mod0)) []
  { r with onWarp := fun w => w.clearTags r.outs })

end Sys2Proof.Machine
end

