-- ==== Sys2Proof/Machine/Split.lean ====
section
/-! DEFINITION. The SPLIT register and the resize of a bin column (R213, R214, R343). -/

namespace Sys2Proof.Machine

/-- SPLIT as it reads (R213). -/
def Column.read (c : Column) : DWord :=
  BitVec.ofNat 64 (ofBool c.busy * 2 ^ 31 + ofBool c.done * 2 ^ 30 + ofBool c.refused * 2 ^ 29 + c.evicted * 2 ^ 16 + c.scrmib)

namespace State

/-- The new size would cut the allocation of a resident or saved block, or of one for which an engine still works (R214,
R300). -/
def cutsBlock (s : State) (col mib : Nat) : Bool :=
  s.loft.blocks.any (fun b => (b.alive || s.engineWork b.grid b.block) && b.gcore == col && b.units != 0 &&
    b.unit < 4096 - 256 * mib)

/-- Frames that a growth takes into scratch. -/
def grownFrames (col old new : Nat) : List Nat :=
  (List.range (256 * (new - old))).map (fun i => fidOf col (4096 - 256 * new + i))

/-- A frame of the range holds a page whose entry has PIN set, as its copy, in its replica set or as its shadow (R214). -/
def pinnedIn (s : State) (fids : List Nat) : Bool :=
  fids.any (fun fid =>
    let fr := s.frame fid
    fr.state != .free && fr.state != .forwarding && (fr.role == .shadow || s.entryNames fid) &&
      (match s.leafOf fr.owner fr.vpn with
       | some (_, w0, _) => Leaf.pin w0
       | none => false))

/-- A write of SPLIT (R214): a shrink is complete at once, a growth is not. -/
def splitWrite (s : State) (col : Nat) (val : DWord) : State :=
  let c := s.column col
  let c := if val.getLsbD 30 then { c with done := false } else c
  let new := (val.extractLsb' 0 4).toNat
  if new = c.scrmib then s.setColumn col { c with refused := false, evicted := 0 }
  else if new > 8 || c.busy || s.cutsBlock col new || s.pinnedIn (grownFrames col c.scrmib new) then
    s.setColumn col { c with refused := true }
  else
    let c' := { c with scrmib := new, oldmib := c.scrmib, refused := false }
    if new < c.scrmib then
      let s := (s.loft.clearing.filter (fun x => x.1 == col && x.2.1 < 4096 - 256 * new)).foldl (fun s x => s.finishClearing x) s
      let s := (grownFrames col new c.scrmib).foldl (fun s fid => s.freeFrame fid) s
      s.setColumn col { c' with evicted := 256 * (c.scrmib - new), done := true }
    else s.setColumn col { c' with evicted := 256 * (new - c.scrmib), busy := true }

/-- Begin to empty one frame of a growth (R214, R343): a mapped page is evicted, a page with replicas collapses first,
and a frame that its entry no longer names goes through FORWARDING too. -/
def vacate (s : State) (fid : Nat) : State :=
  let fr := s.frame fid
  if fr.state != .mapped then s
  else
    match s.leafOf fr.owner fr.vpn with
    | some (_, w0, _) =>
      if Leaf.mig w0 || Leaf.shd w0 || s.backingHeld fr.backing then s
      else if !s.entryNames fid then s.giveUpFrame fid
      else if Leaf.pin w0 then s
      else s.giveUp fr.owner fr.vpn
    | none => s.giveUpFrame fid

/-- One step of a growth, and its completion once every frame of the range is FREE. -/
def resizeStep (s : State) (col : Nat) : State :=
  let c := s.column col
  if !c.busy then s
  else
    let fids := grownFrames col c.oldmib c.scrmib
    if fids.all (fun fid => (s.frame fid).state == .free) then
      let s := fids.foldl (fun s fid => s.freeFrame fid) s
      s.setColumn col { c with busy := false, done := true }
    else fids.foldl (fun s fid => s.vacate fid) s

end State

end Sys2Proof.Machine
end

