-- ==== Sys2Proof/Machine/System.lean ====
section
/-! DEFINITION. Class 7 and CNTRD: system registers, trap records, bound registers, diagnostics, watchdog limits, HALT and
IDLE (R52, R93, R312 to R321, R352, R389, R390, R400, R401). -/

namespace Sys2Proof.Machine

/-! ## Reading system registers -/

/-- State of a wavelength as LSTAT codes it (R400). -/
def waveCode : WaveState → Nat
  | .active => 0
  | .withdrawing => 1
  | .training => 2
  | .ready => 3
  | .restoring => 4
  | .failed => 5

/-- Wavelength `w` of a direction. -/
def State.wave (s : State) (d w : Nat) : Wave := Sparse.get {} (s.linkDir d).waves w

/-- Free spares of the fibre direction of a link direction (R392, R400). -/
def State.freeSpares (s : State) (d : Nat) : Nat := 2 - Sparse.get 0 s.net.sparesUsed (2 * (d / 4) + d % 2)

/-- WSTATE of a wavelength (R400): a position whose spare has not been handed back yet reads SPARED (log entry 69, DEDUCED). -/
def waveState (x : Wave) : Nat := if x.spare && x.state != .failed then 6 else waveCode x.state

/-- LSTAT of a direction (R400); LSTATE is DOWN, DEGRADED below 8 wavelengths, or UP (R399). -/
def linkStatus (s : State) (d : Nat) : DWord :=
  let down := (s.linkDir d).down
  let carries := fun (w : Nat) => !down && (s.wave d w).state.carries
  let width := ((List.range 8).filter carries).length
  BitVec.ofNat 64 (
    (List.range 8).foldl (fun a w => a + waveState (s.wave d w) * 2 ^ (32 + 3 * w)) 0 +
    (List.range 8).foldl (fun a w => a + ofBool (carries w) * 2 ^ (24 + w)) 0 +
    width * 2 ^ 20 + (if down then 2 else if width < 8 then 1 else 0) * 2 ^ 18 + s.freeSpares d * 2 ^ 8 + d / 4)

/-- The link direction that LSEL selects (R400). -/
def selectedDir (c : Core) : Nat := 2 * (c.lsel.extractLsb' 0 8).toNat + (c.lsel.extractLsb' 8 1).toNat

/-- HOSTST (R400). -/
def hostStatus (n : Net) : DWord :=
  BitVec.ofNat 64 (n.lanes * 2 ^ 8 + (if n.hostUp then n.hostGen else 0) * 2 ^ 4 + ofBool n.hostCache * 8 + ofBool n.hostMem * 4 +
    ofBool n.hostFlit * 2 + ofBool n.hostUp)

/-- LCFG of a direction (R400). -/
def linkConfig (x : LinkDir) : DWord := BitVec.ofNat 64 (x.trainmax * 2 ^ 32 + x.errth)

/-- Errors that an injection of a rate has placed from its start `a` up to `t`, `b` being its end or 0 for none (R413): one every
⌊2³² / RATE⌋ bits, 64 bits in 1 ns. -/
def placedErrors (rate a b t : Nat) : Nat :=
  if rate = 0 then 0 else ((if b = 0 then t else min t b) - a) * 64 / max 1 (2 ^ 32 / rate)

/-- Errors that injection has placed on a wavelength from GT `a` up to GT `b`, by every DIAGST that may still count (R413). -/
def State.injectedErrors (x : Wave) (a b : Nat) : Nat :=
  let during := fun (rate start stop : Nat) => placedErrors rate start stop b - placedErrors rate start stop a
  x.past.foldl (fun n p => n + during p.1 p.2.1 p.2.2) (during x.rate x.from_ x.until_)

/-- Errors injected on a wavelength that FECCOR has not counted yet: those in flits that it has carried (R401, R416). -/
def State.correctedOn (s : State) (d w : Nat) : Nat :=
  let x := s.wave d w
  if x.state.carries && !(s.linkDir d).down then State.injectedErrors x x.checked s.gt else 0

/-- The link counters 0x0310 to 0x0319 (R401). A flit that was sent again, or not delivered, is not counted. -/
def linkCounter (s : State) (d n : Nat) : DWord :=
  let x := s.linkDir d
  match n with
  | 0x310 => BitVec.ofNat 64 ((s.flitSlots d).1 / 32) - x.lost
  | 0x311 => BitVec.ofNat 64 ((s.flitSlots d).2 / 32) - x.redLost
  | 0x312 => x.feccor + BitVec.ofNat 64 (((List.range 8).map (s.correctedOn d)).sum)
  | 0x313 => x.crcerr
  | 0x314 => x.replays
  | 0x315 => x.berevt
  | 0x316 => x.withdraw
  | 0x317 => x.restored
  | 0x318 => x.spareuse
  | _ => x.downevt

/-- The package counters 0x0380 to 0x0387 (R401). -/
def packageCounter (x : Net) (n : Nat) : DWord :=
  match n with
  | 0x380 => x.dirfwd
  | 0x381 => x.dirhome
  | 0x382 => x.backinv
  | 0x383 => x.biwb
  | 0x384 => x.swfail
  | 0x385 => x.rebuilt
  | 0x386 => x.uncached
  | _ => x.portdn

/-- The die that ESEL selects (R318). -/
def selectedDie (c : Core) : Nat := c.esel.toNat % 8

/-- The monitor of an island; bits [63:56] are reserved and 0 (R389). -/
def islandMonitor (s : State) (n : Nat) : DWord :=
  (Sparse.get none s.fw.islands n).getD (Config.islandReset n) &&& (2 ^ 56 - 1)

/-- The monitors of R389. WISSUED counts the entry that reads it, which counts as issued only once it ends where it is
performed at its issue. -/
def readMonitor (s : State) (w : Warp) (n : Nat) : DWord :=
  let c := s.core w.gcore
  let d := s.die (dieOf w.gcore)
  match n with
  | 0x500 => BitVec.ofNat 64 c.cycles
  | 0x501 => w.wretired
  | 0x502 => w.wissued + (if s.cur.place.isNone then 1 else 0)
  | 0x503 => w.wstall
  | 0x504 => w.barwait
  | 0x505 => c.anvil
  | 0x506 => c.tcmiss
  | 0x507 => c.wainb
  | 0x520 => d.eccCor
  | 0x521 => d.eccUnc
  | 0x522 => d.vwRemap
  | 0x523 => Config.vwSpares (dieOf w.gcore) - BitVec.ofNat 64 d.vwUsed
  | _ => islandMonitor s (n - 0x540)

/-- The registers that are not of the warp context (R213, R318, R352, R389, R400, R401). -/
def readWide (s : State) (w : Warp) (n : Nat) : DWord :=
  let c := s.core w.gcore
  let d := selectedDir c
  if n = 0x120 then (s.column w.gcore).read
  else if n = 0x200 then 0
  else if n = 0x201 then
    BitVec.ofNat 64 ((16 - s.loft.pcmd.length) * 2 ^ 24 + s.loft.pstatLast * 2 ^ 16 + s.loft.pstatSeq)
  else if n = 0x202 then BitVec.ofNat 64 ((s.tenant w.tenant).part * 2 ^ 16 + (s.tenant w.tenant).gen)
  else if n = 0x300 then c.lsel
  else if n = 0x301 then linkStatus s d
  else if n = 0x302 then linkConfig (s.linkDir d)
  else if n = 0x303 then BitVec.ofNat 64 s.net.portto
  else if n < 0x340 then linkCounter s d n
  else if n < 0x380 then Sparse.get 0 s.net.txb (n - 0x340)
  else if n < 0x3C0 then packageCounter s.net n
  else if n = 0x3C0 then hostStatus s.net
  else if n = 0x400 then c.esel
  else if n = 0x401 then (s.die (selectedDie c)).elast
  else readMonitor s w n

/-- One system register as a lane reads it (R93, R313). -/
def readSys (s : State) (w : Warp) (l n : Nat) : DWord :=
  match n with
  | 0 => w.tvec
  | 1 => (w.lane l).trapPc
  | 2 => (w.lane l).trapCause
  | 3 => (w.lane l).trapAddr
  | 4 => w.fpflags
  | 5 => w.fptrapen
  | 6 => w.feLimit
  | 7 => w.winfo
  | 8 => w.gtwake
  | _ => readWide s w n

/-- SYSRD (R313). -/
def execSysrd (f : Fields) (s : State) := performLanes (.sysrd f) f s (fun c l => dst64 f.dst (readSys s c.w l f.regNumber))

/-- CNTRD (R390). -/
def execCntrd (f : Fields) (s : State) := performLanes (.cntrd f) f s (fun c l => dst64 f.dst (readSys s c.w l f.regNumber))

/-! ## Writing system registers (R313) -/

/-- A write of a register of the warp context; `val` gives the value of a lane. -/
def writeContext (c : Ctx) (n : Nat) (val : Nat → DWord) (w : Warp) : Warp :=
  let x := val c.low
  match n with
  | 0 => { w with tvec := x }
  | 1 => c.active.lanes.foldl (fun w l => w.updLane l (fun y => { y with trapPc := val l })) w
  | 4 => { w with fpflags := x &&& 0x1F }
  | 5 => { w with fptrapen := x &&& 0x1F }
  | 6 => { w with feLimit := x }
  | 8 => { w with gtwake := x }
  | _ => w

/-- A FAILED wavelength of the direction trains again after a write of LCFG (R398). -/
def retrainFailed (x : LinkDir) : LinkDir :=
  { x with waves := x.waves.map (fun (e : Nat × Wave) =>
      if e.2.state == .failed then (e.1, { e.2 with state := .training, attempts := 0 }) else e) }

/-- A write of a register outside the warp context. -/
def writeWide (s : State) (w : Warp) (n : Nat) (x : DWord) : State :=
  let g := w.gcore
  match n with
  | 0x120 => s.splitWrite g x
  | 0x300 => s.updCore g (fun c => { c with lsel := x &&& 0x1FF })
  | 0x302 =>
    let d := selectedDir (s.core g)
    s.setLinkDir d (retrainFailed { s.linkDir d with trainmax := (x.extractLsb' 32 4).toNat, errth := (x.extractLsb' 0 32).toNat })
  | 0x303 => { s with net := { s.net with portto := (x.extractLsb' 0 32).toNat } }
  | 0x400 => s.updCore g (fun c => { c with esel := x &&& 7 })
  | 0x401 =>
    if x.getLsbD 63 then
      s.updDie (selectedDie (s.core g)) (fun d => { d with elast := d.elast &&& ~~~(1#64 <<< 63) })
    else s
  | 0x505 => s.updCore g (fun c => { c with anvil := x })
  | 0x506 => s.updCore g (fun c => { c with tcmiss := x })
  | 0x507 => s.updCore g (fun c => { c with wainb := x })
  | 0x520 => s.updDie (dieOf g) (fun d => { d with eccCor := x })
  | 0x521 => s.updDie (dieOf g) (fun d => { d with eccUnc := x })
  | 0x522 => s.updDie (dieOf g) (fun d => { d with vwRemap := x })
  | _ => s

/-- Submit a partition command (R353). -/
def submitCommand (s : State) (addr : DWord) : State :=
  { s with loft := { s.loft with pcmd := s.loft.pcmd ++ [{ addr }] } }

/-- SYSWR (R313, R353). -/
def execSyswr (f : Fields) (s : State) := performWarp (.syswr f) f s (fun c =>
  let n := f.regNumber
  let val := fun (l : Nat) => c.w.src64 l f.sa f.imm
  if n ≤ 8 then { s, outs := doneAll c, onWarp := writeContext c n val }
  else if n = 0x200 then
    let addr := val c.low &&& ~~~63#64
    releasing true c s <|
      if s.loft.pcmd.length ≥ 16 then { s, outs := doneAll c, wait := .pcmd addr }
      else { s := submitCommand s addr, outs := doneAll c }
  else { s := writeWide s c.w n (val c.low), outs := doneAll c })

/-! ## Records and bounds (R315, R316) -/

/-- The oldest record leaves the queue. -/
def popRecord (w : Warp) : Warp := { w with records := w.records.drop 1 }

/-- TRQPOP (R315). -/
def execTrqpop (f : Fields) (s : State) := performWarp (.trqpop f) f s (fun c =>
  let va := c.w.src64 c.low f.sa f.imm
  let done := fun (b : Bool) => allLanes c.active (.done (dstP f.dst b) none)
  match checkLane s c .write 64 va c.low with
  | (s, .trap cause) => { s, outs := trapAll c cause va }
  | (s, .park) => { s, outs := allLanes c.active (.park va) }
  | (s, .wait) => { s, outs := [], again := true }
  | (s, .hole a) => { s, outs := [], hole := some a }
  | (s, .at p) =>
    match c.w.records with
    | [] => { s, outs := done false }
    | r :: _ =>
      { s := (s.writeAt c.w.tenant (s.classOf c.w) p r).noteWrite c.wid p, outs := done true, onWarp := popRecord })

/-- Bounds that BNDSET refuses: a NaN, or LO above HI. -/
def badBounds (b : BitVec 128) : Bool :=
  let lo := FpVal.ofBits .fp32 (Bound.lo b).toNat
  let hi := FpVal.ofBits .fp32 (Bound.hi b).toNat
  lo.isNan || hi.isNan || cmpVal lo hi > 0

/-- The bound register number of BNDSET and BNDRD. -/
def boundNo (f : Fields) : Nat := (f.aux.extractLsb' 0 4).toNat

/-- BNDSET (R316). -/
def execBndset (f : Fields) (s : State) := performWarp (.bndset f) f s (fun c =>
  let b := c.w.src128 c.low f.sa &&& BitVec.ofNat 128 (2 ^ 99 - 1)
  if badBounds b then { s, outs := trapAll c Cause.bound 0 (2 ^ 15 + boundNo f) }
  else { s, outs := doneAll c, onWarp := fun w => w.setBd (boundNo f) b })

/-- BNDRD (R316). -/
def execBndrd (f : Fields) (s : State) := performLanes (.bndrd f) f s (fun c _ => dst128 f.dst (c.w.getBd (boundNo f)))

/-! ## Diagnostics (R317) -/

/-- The kind of a DIAGST or DIAGLD: 0 BIN, 1 HBM, 2 LINK. -/
def diagKind (f : Fields) : Nat := (f.aux.extractLsb' 0 2).toNat

/-- The byte whose word a diagnostic access reaches at a place, if the kind names it. -/
def diagPhys (s : State) (kind : Nat) (p : State.Place) : Option Nat :=
  match kind, p.bare with
  | 0, .scratch loc => some loc.phys
  | 0, .frame fid off => some (frameLoc fid off).phys
  | 1, .hbm a => some a
  | 1, .frame fid off => some ((s.frame fid).backing + off)
  | _, _ => none

/-- The kind of page that the translation of an address names, none for scratch. -/
def diagPage (s : State) (c : Ctx) (va : DWord) : Option Nat :=
  match rangeOfVa va with
  | .global a => (s.lookup c.w.gcore c.w.tenant (a / 4096)).2.map (fun x => Leaf.kind x.word0)
  | _ => none

/-- Find the word of a diagnostic access: BIN reaches no DRAM page, though its content stands in a frame by now. -/
def diagLane (s : State) (c : Ctx) (kind l : Nat) (va : DWord) : State × LaneAccess × Option Nat :=
  match checkLane s c .diag 1 va l with
  | (s, .at p) =>
    match if kind == 0 && diagPage s c va == some 0 then none else diagPhys s kind p with
    | some x => (s, .at p, some x)
    | none => (s, .trap Cause.permission, none)
  | (s, a) => (s, a, none)

/-- Length of a check interval in ns (R397). -/
def State.checkNs : Nat := 16384

/-- FECCOR counts the errors that injection has placed on a wavelength up to now, where it carries flits (R401). -/
def State.settleErrors (s : State) (d w : Nat) : State :=
  let x := s.linkDir d
  s.setLinkDir d { x with feccor := x.feccor + BitVec.ofNat 64 (s.correctedOn d w),
                          waves := Sparse.set {} x.waves w { s.wave d w with checked := s.gt } }

/-- The injection of a wavelength is over at `stop`: what it has placed still counts in the check interval that runs (R397, R413). -/
def Wave.ended (x : Wave) (stop gt : Nat) : Wave :=
  let past := if x.rate = 0 then x.past else x.past ++ [(x.rate, x.from_, stop)]
  { x with past := past.filter (fun p => gt < p.2.2 + State.checkNs), rate := 0, from_ := 0, until_ := 0 }

/-- Injection on a wavelength (R317, R398): on the inbound direction of the link. It replaces one that has not ended. -/
def inject (s : State) (sel : DWord) (rate dur : Nat) : State :=
  let d := 2 * (sel.extractLsb' 0 8).toNat + 1
  let w := (sel.extractLsb' 8 3).toNat
  let s := s.settleErrors d w
  let x := s.linkDir d
  let y := s.wave d w
  let y := y.ended (if y.until_ = 0 then s.gt else min s.gt y.until_) s.gt
  let wave := { y with rate, from_ := s.gt, until_ := if rate = 0 || dur = 0 then 0 else s.gt + dur }
  s.setLinkDir d { x with waves := Sparse.set {} x.waves w wave }

/-- DIAGST (R317): performed like a store, once for the warp. -/
def execDiagst (f : Fields) (s : State) := performWarp (.diagst f) f s (fun c =>
  let va := c.w.src64 c.low f.sa f.imm
  let b := c.w.src64 c.low f.sb f.imm
  if diagKind f = 2 then
    if va.toNat ≥ 2 ^ 11 then { s, outs := trapAll c Cause.permission }
    else { s := inject s va (b.extractLsb' 0 32).toNat (b.extractLsb' 32 32).toNat, outs := doneAll c }
  else if b.extractLsb' 32 32 ≠ 0 then { s, outs := trapAll c Cause.permission va }
  else
    match diagLane s c (diagKind f) c.low va with
    | (s, .at _, some p) => { s := s.setSyndrome p (s.syndrome p ^^^ b.setWidth 32), outs := doneAll c }
    | (s, .park, _) => { s, outs := allLanes c.active (.park va) }
    | (s, .wait, _) => { s, outs := [], again := true }
    | (s, .hole a, _) => { s, outs := [], hole := some a }
    | (s, _, _) => { s, outs := trapAll c Cause.permission va })

/-- The value that DIAGLD returns for the word at a byte. -/
def diagWord (s : State) (p : Nat) : DWord :=
  let check := checkBits (leWord 256 (s.rawBytes (p / 32 * 32) 32)) ^^^ s.syndrome p
  let cls := match eccClass (s.syndrome p) with
    | .clean => 0
    | .correctable _ => 1
    | .uncorrectable => 2
  BitVec.ofNat 64 (check.toNat + cls * 2 ^ 32)

/-- DIAGLD of the lanes in order; a lane whose page waits, or that reaches beyond HBM, has no outcome. -/
def diagLoads (c : Ctx) (f : Fields) (p : Performed) : List Nat → Performed
  | [] => p
  | l :: ls =>
    let va := c.w.src64 l f.sa f.imm
    let p := match diagLane p.s c (diagKind f) l va with
      | (s, .at _, some x) => { p with s, outs := p.outs ++ [(l, .done (dst64 f.dst (diagWord s x)) none)] }
      | (s, .park, _) => { p with s, outs := p.outs ++ [(l, .park va)] }
      | (s, .wait, _) => { p with s }
      | (_, .hole _, _) => p
      | (s, _, _) => { p with s, outs := p.outs ++ [(l, .trap Cause.permission va 0)] }
    diagLoads c f p ls

/-- DIAGLD (R317). -/
def execDiagld (f : Fields) (s : State) := perform (.diagld f) f s (fun c =>
  let p := diagLoads c f { s } c.active.lanes
  if p.outs.length = c.active.lanes.length then { s := p.s, outs := p.outs }
  else { s := p.s, outs := [], again := true
         hole := c.active.lanes.findSome? (fun l =>
           match (diagLane s c (diagKind f) l (c.w.src64 l f.sa f.imm)).2.1 with | .hole a => some a | _ => none) })

/-! ## WDOG, HALT, IDLE (R319 to R321) -/

/-- WDOG (R319). -/
def execWdog (f : Fields) (s : State) := performWarp (.wdog f) f s (fun c =>
  let t := (c.w.src32 c.low f.sa f.imm).toNat
  let x := (c.w.src32 c.low f.sb f.imm).toNat
  let e := s.tenant t
  if t > 15 || !e.defined then { s, outs := trapAll c Cause.permission }
  else
    let old := if f.mod0 then e.savebnd else e.wdoglim
    let e := if f.mod0 then { e with savebnd := max 1000 x }
      else { e with wdoglim := x, limitFrom := s.gt + 1, limitBefore := if e.limitFrom ≤ s.gt then e.wdoglim else e.limitBefore }
    { s := s.setTenant t e, outs := allLanes c.active (.done (dst64 f.dst (BitVec.ofNat 64 old)) none) })

/-- Does the loft hold a grid of that number (R264)? -/
def heldGrid (s : State) (g : Nat) : Bool :=
  Sparse.mem s.loft.grids g && (s.grid g).state != .retired && !Sparse.mem s.loft.pipelines g

/-- HALT (R320): the grid ends; of the warp's own grid nothing retires. -/
def execHalt (f : Fields) (s : State) := performWarp (.halt f) f s (fun c =>
  let a := (c.w.src32 c.low f.sa f.imm).toNat
  let g := if a = 0 then c.w.grid else a
  if !heldGrid s g then { s, outs := doneAll c }
  else { s := (s.endGrid g 4 (if g = c.w.grid then some (s.gangOf g c.w.block, c.pc.toNat) else none)).notify 0x10 g, outs := doneAll c, again := g == c.w.grid })

/-- Events of a warp's block that IDLE awaits, counted (R321). -/
def idleEvents (s : State) (w : Warp) : Nat :=
  w.entered + (match s.block? w.grid w.block with
    | some b => b.events
    | none => 0)

/-- IDLE (R321). Its wait counts toward the hang count as that of SLEEP does. -/
def execIdle (f : Fields) (s : State) := performWarp (.idle f) f s (fun c =>
  let t := sleepDeadline c.since c.w 1000
  if t ≤ s.gt then { s, outs := doneAll c } else { s, outs := doneAll c, wait := .idle t (idleEvents s c.w), pauses := true })

end Sys2Proof.Machine
end

