-- ==== Sys2Proof/Machine/Waits.lean ====
section
/-! DEFINITION. The ends of waits: the events that fix the outcomes of unretired entries and retire them (R108, R141,
R142, R206, R211, R227, R304, R306, R321, R341, R353, R374, R384). An event whose condition does not hold leaves the
machine as it is. -/

namespace Sys2Proof.Machine

namespace Entry

/-- Lanes of Active without an outcome. -/
def undecided (e : Entry) : List Nat := e.active.lanes.filter (fun l => !Sparse.mem e.outs l)

/-- Add outcomes, kept in lane order; with the last of them the wait is over. -/
def decide (e : Entry) (os : List (Nat × LaneOutcome)) : Entry :=
  let e := { e with outs := os.foldl (fun (x : Sparse LaneOutcome) (o : Nat × LaneOutcome) => Sparse.insert o.1 o.2 x) e.outs }
  if e.undecided.isEmpty then { e with wait := .nothing } else e

end Entry

/-- Continue with a state, or stop where an access reached beyond HBM. -/
def nextOr (hole : Option Nat) (s : State) : Host.Outcome State Fault Refusal :=
  match hole with
  | some a => .fault (.noSuchHbm a)
  | none => .next s

namespace State

/-- The oldest unretired entry of a warp on its core. -/
def head? (s : State) (wid : Nat) : Option Entry :=
  let w := s.warp wid
  if w.onCore then w.rob.head? else none

/-- The oldest unretired entry of a warp on its core that is as `p` says, with its place in the reorder buffer. -/
def entryWhere (s : State) (wid : Nat) (p : Entry → Bool) : Option (Nat × Entry) :=
  let w := s.warp wid
  if w.onCore then (w.rob.zipIdx.find? (fun x => p x.1)).map (fun x => (x.2, x.1)) else none

/-- Replace the oldest entry. -/
def setHead (s : State) (wid : Nat) (e : Entry) : State := s.updWarp wid (fun w => { w with rob := e :: w.rob.drop 1 })

/-- Give outcomes to lanes of the entry at place `n`, unless an uncorrectable word was consumed for one of them. A split whose
entry is the oldest goes on when it retires, another as soon as its lanes have completed (R99). -/
def decideAt (s : State) (wid n : Nat) (e : Entry) (os : List (Nat × LaneOutcome)) (consumed : Option DWord) : State :=
  match consumed with
  | some va => s.consume (s.warp wid).grid (s.warp wid).block va
  | none => if n = 0 && !e.moved then s.setHead wid (e.decide os) else s.keepEntry wid n (e.decide os)

/-- Is the wait of a FENCE over (R236)? -/
def fenceOver (s : State) (wid : Nat) (e : Entry) : Bool :=
  match e.wait with
  | .fence t => t ≤ s.gt && !s.addendsOf wid && !s.writesHeld wid
  | _ => false

/-- May the oldest entry retire (R108, R236)? -/
def headReady (s : State) (wid : Nat) (e : Entry) : Bool := e.wait == .nothing || s.fenceOver wid e

/-- Warps with an entry that waits as `p` says, those that have waited longest first. -/
def waiters (s : State) (p : Entry → Warp → Bool) : List Nat :=
  let ws := s.warpsWhere (fun w => w.onCore && w.rob.any (fun e => p e w))
  let since := fun (wid : Nat) => match (s.warp wid).rob.find? (fun e => p e (s.warp wid)) with
    | some e => e.since
    | none => 0
  ws.foldl (fun (l : List Nat) wid =>
    let (a, b) := l.span (fun x => since x ≤ since wid)
    a ++ wid :: b) []

end State

/-! ## Loads and retirement -/

/-- The first of some places of a reorder buffer, or a later one where the state's list `late` lets it go first (log entry 5). -/
def chooseEntry (s : State) : List Nat → Option (State × Nat)
  | [] => none
  | [n] => some (s, n)
  | n :: ns =>
    match s.late with
    | true :: rest => chooseEntry { s with late := rest } ns
    | false :: rest => some ({ s with late := rest }, n)
    | [] => some (s, n)

/-- Places of the entries as `p` says that may be performed. -/
def performable (s : State) (wid : Nat) (p : Entry → Bool) : List Nat :=
  ((s.warp wid).rob.zipIdx.filter (fun x => p x.1 &&
    (s.mayPerform wid x.2 x.1.instr x.1.lanes || s.mayRead wid x.2 x.1.instr x.1.lanes))).map (·.2)

/-! ### What is owed to the agents within a scope (R245) -/

/-- Entries that younger ones have overtaken through an edge of narrow scope, and that are not performed yet: warp and place. Those of a
saved context count too. -/
def owedWhere (s : State) (p : Nat → Warp → Nat → Bool) : List (Nat × Nat) :=
  s.warps.flatMap (fun (e : Nat × Warp) =>
    (e.2.rob.zipIdx.filter (fun x => !x.1.decided && x.1.owed.any (p e.1 e.2))).map (fun x => (e.1, x.2)))

/-- Perform owed accesses, and what they overtake in their turn, so that no agent within the scope can notice. -/
def payOwed (s : State) (p : State → Nat → Warp → Nat → Bool) : Nat → State
  | 0 => s
  | fuel + 1 =>
    match owedWhere s (p s) with
    | [] => s
    | xs =>
      let t := xs.foldl (fun s x => s.performLeft x.1 x.2) s
      if owedWhere t (p t) == xs then t else payOwed t p fuel

/-- Rounds of payment: an access that is performed may owe those before it in its reorder buffer. -/
def payRounds : Nat := 256

/-- Is an access owed to a warp of this number by another? -/
def owesTo (wid : Nat) (s : State) (x : Nat) (w : Warp) (sc : Nat) : Bool :=
  x != wid && sameExtent sc (s.warp wid).gcore w.gcore

/-- Before a warp acts, what is owed to its core by other warps is performed. -/
def payBefore (s : State) (wid : Nat) : State := payOwed s (owesTo wid) payRounds

/-- Something owed to the warp could not be performed yet: the warp does not act now. -/
def owing (s : State) (wid : Nat) : Bool := !(owedWhere s (owesTo wid s)).isEmpty

/-- LOAD_DATA_RETURN (R227): the data of a load in flight returns. -/
def execLoadDataReturn (wid : Nat) (s : State) : Host.Outcome State Fault Refusal :=
  let s := payBefore s wid
  if !(s.warp wid).onCore || owing s wid then .next s
  else
    match chooseEntry s (performable s wid (fun e => e.wait == .loadData)) with
    | some (s, n) => .next (s.performLeft wid n)
    | none => .next s

/-- An entry is in order to go on or to be performed: one behind others whose lanes have all completed. -/
def completedBehind (s : State) (wid : Nat) (e : Entry) : Bool := !e.moved && s.headReady wid e && cleanOuts e.outs

/-- Do the lanes of an entry go on waiting once it has retired in its turn: SLEEP, IDLE and WSYNC (R139, R141, R145, R321)? -/
def isPause (e : Entry) : Bool :=
  match e.wait with
  | .sleep _ | .idle _ _ | .wsync _ => true
  | _ => false

/-- A turn comes: an access in flight is performed, and another entry is served by the next step. -/
def takeTurn (s : State) (wid : Nat) : State :=
  match chooseEntry s (performable s wid (fun e => e.wait == .turn || e.wait == .sent)) with
  | some (s, n) =>
    match (s.warp wid).rob[n]? with
    | some e =>
      if e.wait == .turn then { s with chosen := { wid, pc := e.pc, lanes := e.lanes, place := some n } :: s.chosen }
      else
        let s := payBefore s wid
        if owing s wid then s else s.performLeft wid n
    | none => s
  | none => s

/-- ENTRY_RETIRE (R108, R109): the oldest entry retires, a SLEEP, an IDLE or a WSYNC with its lanes waiting on; otherwise an entry behind
it lets its split go on, or its turn comes. -/
def execEntryRetire (wid : Nat) (s : State) : Host.Outcome State Fault Refusal :=
  match s.head? wid with
  | none => .next s
  | some e =>
    if s.headReady wid e then .next (s.retireOldest wid e id)
    else if isPause e then .next (s.pauseOldest wid e)
    else
      match s.entryWhere wid (completedBehind s wid) with
      | some (n, e) => .next (s.keepEntry wid n { e with wait := .nothing })
      | none => .next (takeTurn s wid)

/-! ## Translation (R306, R326) -/

/-- The instruction word at a PC: from the warp's fetched line, else as a fetch for the lane would read it now (R311). -/
def wordAt (s : State) (wid lane : Nat) (pc : DWord) : BitVec 96 :=
  match fetchLine s wid lane (lineOf pc) with
  | .line _ bits => Line.slot bits (slotOf pc)
  | _ => 0

/-- Lanes that share the walk of a parked lane: those that parked with it, and are parked still (R202). -/
def parkedWith (s : State) (wid lane : Nat) : List Nat :=
  let w := s.warp wid
  let x := w.lane lane
  if x.parkWith.has lane then (List.range 32).filter (fun l =>
    x.parkWith.has l && (w.lane l).status == .parked && (w.lane l).pc == x.pc && (w.lane l).parkAddr == x.parkAddr)
  else [lane]

/-- Parked lanes whose walk failed take their trap (R306). -/
def unparkTrap (s : State) (wid : Nat) (lanes : List Nat) (cause : Nat) : State :=
  let x := (s.warp wid).lane (lanes.headD 0)
  let word := wordAt s wid (lanes.headD 0) x.pc
  let s := s.updWarp wid (fun w => lanes.foldl (fun w l => w.updLane l (fun x => { x with status := .running })) w)
  ((s.deliver wid x.pc word cause (lanes.map (fun l => { lane := l, addr := x.parkAddr }))).settleParked wid).endWarp wid

/-- TRANSLATION_WALK (R306): the lane resumes with an empty tag, goes on waiting for a MIG entry, or takes its trap, with the lanes that
share its walk. -/
def execTranslationWalk (wid lane : Nat) (s : State) : Host.Outcome State Fault Refusal :=
  let w := s.warp wid
  let x := w.lane lane
  if x.status != .parked || !w.onCore then .next s
  else
    let lanes := parkedWith s wid lane
    match s.completeWalk w.gcore w.tenant (x.parkAddr.toNat % 2 ^ 56) with
    | .handed s =>
      .next ((s.updWarp wid (fun w => lanes.foldl (fun w l =>
        w.updLane l (fun x => { x with status := .running, tag := none, starve := 0 })) w)).settleParked wid)
    | .waits => .next s
    | .noMapping => .next (unparkTrap s wid lanes Cause.translation)
    | .permission => .next (unparkTrap s wid lanes Cause.permission)
    | .hole a => .fault (.noSuchHbm a)

/-! ## The watchdog (R304) -/

/-- Lanes that a watchdog strikes: neither exited nor parked. -/
def struckLanes (w : Warp) : List Nat :=
  (List.range 32).filter (fun l => (w.lane l).status == .running || (w.lane l).status == .waiting)

/-! ### Emptying the reorder buffer -/

namespace Entry

/-- Lanes of an unretired KICK, PLACE or REPL that have been served: what they handed on stands (log entry 34). -/
def performed (e : Entry) : LaneMask :=
  match e.wait with
  | .kickQueue | .gleaner => LaneMask.ofPred (fun l => Sparse.mem e.outs l)
  | _ => 0

/-- The entry has been performed, wholly or for some lanes, with an effect outside the core. -/
def reached (e : Entry) : Bool := (e.decided && !e.instr.inCore && !e.instr.plainRead && !e.traps) || e.performed != 0

end Entry

namespace State

/-- Withdraw what a warp waits for outside its core. -/
def withdrawWaits (s : State) (wid : Nat) : State :=
  let s : State := { s with
    mem := { s.mem with feQueue := s.mem.feQueue.filter (fun r => r.wid != wid) }
    net := { s.net with pendings := s.net.pendings.filter (fun p => p.wid != wid) }
    chosen := s.chosen.filter (fun p => p.wid != wid) }
  s.updCore (s.warp wid).gcore (fun c => { c with extQueue := c.extQueue.filter (· != wid) })

/-- Retire what can retire: the oldest entries that have completed, or whose access in flight can be performed now. -/
def settleBuffer (s : State) (wid : Nat) : Nat → State
  | 0 => s
  | fuel + 1 =>
    match s.head? wid with
    | none => s
    | some e =>
      if s.headReady wid e then (s.retireOldest wid e id).settleBuffer wid fuel
      else
        let t := s.performLeft wid 0
        match t.head? wid with
        | some e => if t.headReady wid e then (t.retireOldest wid e id).settleBuffer wid fuel else s
        | none => t

/-- The entries up to the youngest that has been performed outside the core: those before it are certain to retire (R109), and none of
them may be issued again. -/
def certainPart (w : Warp) : Nat :=
  (w.rob.zipIdx.filter (fun x => x.1.reached)).foldl (fun m x => max m (x.2 + 1)) 0

/-- An LDFE.CLR that is abandoned consumes nothing (R304): the granules that it emptied are full again. -/
def refill (s : State) (wid n : Nat) (e : Entry) : State :=
  match e.wait, e.instr with
  | .full, .ldfe f =>
    if f.mod5 then s
    else
      let w := (s.warp wid).ahead ((s.warp wid).rob.take n)
      let c : Ctx := { s.entryCtx wid e with w }
      e.outs.foldl (fun s o => match o.2, checkScratch s c 1 (w.addr o.1 f) with
        | .done _ _, .at p => s.setFull (placePhys p) true
        | _, _ => s) s
  | _, _ => s

/-- Discard the unretired entries of a warp (R111, R304): their lanes stand at their instructions again. -/
def discardAll (s : State) (wid : Nat) : State :=
  let rob := (s.warp wid).rob
  let s := rob.zipIdx.foldl (fun s x => s.refill wid x.2 x.1) s
  s.updWarp wid (fun w => { w.discard rob with rob := [] })

/-- Discard the unretired entries of a context that is saved (R204): the lanes of a KICK, PLACE or REPL that have been served go on. -/
def discardServed (s : State) (wid : Nat) : State :=
  let rob := (s.warp wid).rob
  let s := s.discardAll wid
  match rob with
  | e :: _ => if e.performed = 0 then s else s.retire wid e.pc e.word e.performed e.performed e.outs 0 id
  | [] => s

end State

/-- Discard every unretired entry of a warp and abandon its waits. -/
def abandonWaits (s : State) (wid : Nat) : State :=
  let s := (s.discardAll wid).withdrawWaits wid
  s.updWarp wid (fun w =>
    let w := { w with pauses := [], notes := [] }
    (struckLanes w).foldl (fun w l => w.updLane l (fun x => { x with status := .running })) w)

/-- Deliver WATCHDOG to the struck lanes, one record for each PC, the lowest first. -/
def strike (s : State) (wid code : Nat) : State :=
  let s := abandonWaits s wid
  let w := s.warp wid
  let lanes := struckLanes w
  let pcs := (lanes.map (fun l => (w.lane l).pc.toNat)).eraseDups
  let sorted := pcs.foldl (fun (l : List Nat) p =>
    let (a, b) := l.span (fun x => x ≤ p)
    a ++ p :: b) []
  let s := sorted.foldl (fun s p =>
    let here := lanes.filter (fun l => (w.lane l).pc.toNat == p)
    let pc : DWord := BitVec.ofNat 64 p
    s.deliver wid pc (wordAt s wid (here.headD 0) pc) Cause.watchdog (here.map (fun l => { lane := l, code }))) s
  ((s.updWarp wid (fun w => { w with hangBase := s.runsFrom w.gcore })).settleParked wid).endWarp wid

/-- The hang limit of a tenant at a GT: one that WDOG has written applies from the next ns (R319). -/
def hangLimit (t : Tenant) (gt : Nat) : Nat := if t.limitFrom ≤ gt then t.wdoglim else t.limitBefore

/-- Has the hang count that a warp keeps reached its tenant's limit? -/
def overLimit (s : State) (w : Warp) : Bool :=
  let limit := hangLimit (s.tenant w.tenant) s.gt
  limit != 0 && w.parkedSince.isNone && !(struckLanes w).isEmpty && s.gt ≥ w.hangBase + limit

/-- Has a resident warp's hang count reached its tenant's limit? -/
def hung (s : State) (w : Warp) : Bool := w.onCore && overLimit s w

/-- WATCHDOG (R304). What can retire at that moment retires, and then none is taken (R322); else every unretired entry is discarded, also one
that has been served in part or performed at its home. -/
def execWatchdog (wid : Nat) (s : State) : Host.Outcome State Fault Refusal :=
  if !hung s (s.warp wid) then .next s
  else
    let t := s.settleBuffer wid ((s.warp wid).rob.length + 1)
    .next (if hung t (t.warp wid) then strike t wid 0 else t)

/-! ## Full/empty waits (R211) -/

/-- Does an LDFE entry wait in a lane? -/
def waitsFull (lane : Nat) (e : Entry) : Bool := e.wait == .full && e.active.has lane && !Sparse.mem e.outs lane

/-- FE_TIMEOUT. TRAP_ADDR is 0 (R302). -/
def execFeTimeout (wid lane : Nat) (s : State) : Host.Outcome State Fault Refusal :=
  let w := s.warp wid
  match s.entryWhere wid (waitsFull lane), s.mem.feQueue.find? (fun r => r.wid == wid && r.lane == lane) with
  | some (n, e), some r =>
    if w.feLimit = 0 || s.gt < r.since + w.feLimit.toNat then .next s
    else
      let s : State := { s with mem := { s.mem with
        feQueue := s.mem.feQueue.filter (fun x => !(x.wid == wid && x.lane == lane)) } }
      .next (s.decideAt wid n e [(lane, .trap Cause.feTimeout 0 0)] none)
  | _, _ => .next s

/-- LDFE_SERVE: a full granule serves the oldest request that waits on it. -/
def execLdfeServe (granule : Nat) (s : State) : Host.Outcome State Fault Refusal :=
  match s.mem.feQueue.find? (fun r => r.granule == granule) with
  | some r =>
    match s.entryWhere r.wid (waitsFull r.lane) with
    | some (n, e) =>
      match e.instr with
      | .ldfe f =>
        if !s.isFull (16 * granule) then .next s
        else
          let va := ((s.warp r.wid).ahead ((s.warp r.wid).rob.take n)).addr r.lane f
          let at_ := 16 * granule + va.toNat % 16
          let s : State := { s with mem := { s.mem with
            feQueue := s.mem.feQueue.filter (fun x => !(x.wid == r.wid && x.lane == r.lane)) } }
          let (s, ws, bad) := serveFull s r.wid f at_
          .next (s.decideAt r.wid n e [(r.lane, .done ws none)] (if bad then some va else none))
      | _ => .next s
    | none => .next s
  | none => .next s

/-! ## Byte counts, barriers, sleep, idle, extended blocks -/

/-- BCWAIT_RETURN (R384). -/
def execBcwaitReturn (wid : Nat) (s : State) : Host.Outcome State Fault Refusal :=
  match s.entryWhere wid (fun e => e.wait == .byteCount) with
  | some (n, e) =>
    match e.instr with
    | .bcwait f =>
      let c : Ctx := { s.entryCtx wid e with w := (s.warp wid).ahead ((s.warp wid).rob.take n) }
      let p := bcwaitLanes c f { s } e.undecided
      .next (p.s.decideAt wid n e p.outs p.consumed)
    | _ => .next s
  | none => .next s

/-- A POD barrier breaks here once a member grid of another package has ended (R376). -/
def podBroken (s : State) (b : Barrier) : Bool := s.podOf b != 0 && !b.broken && Config.podEnded (s.podOf b) s.gt

/-- BARRIER_PHASE_COMPLETE (R374, R376). -/
def execBarrierPhaseComplete (bar : Nat) (s : State) : Host.Outcome State Fault Refusal :=
  match s.barrier? bar with
  | some b => .next (if podBroken s b then s.breakBarrier b else s.completePhase bar)
  | none => .next s

/-- Is a SLEEP over? -/
def sleepOver (gt : Nat) (e : Entry) : Bool :=
  match e.wait with
  | .sleep t => t ≤ gt
  | _ => false

/-- SLEEP_WAKE (R141). The split of a SLEEP behind other entries goes on, and the SLEEP retires in its order. -/
def execSleepWake (wid : Nat) (s : State) : Host.Outcome State Fault Refusal :=
  let w := s.warp wid
  if !w.onCore then .next s
  else
    let s := (w.pauses.filter (sleepOver s.gt)).foldl (fun s e => endPause s wid e) s
    .next (match s.entryWhere wid (sleepOver s.gt) with
      | some (n, e) => s.keepEntry wid n { e with wait := .nothing }
      | none => s)

/-- Is an IDLE over (R321)? -/
def idleOver (s : State) (w : Warp) (e : Entry) : Bool :=
  match e.wait with
  | .idle t seen => t ≤ s.gt || idleEvents s w != seen
  | _ => false

/-- IDLE_WAKE (R321). -/
def execIdleWake (wid : Nat) (s : State) : Host.Outcome State Fault Refusal :=
  let w := s.warp wid
  .next (if w.onCore then (w.pauses.filter (idleOver s w)).foldl (fun s e => endPause s wid e) s else s)

/-- The first warp of a grant order whose RGACQ or ROLE is the oldest entry and for which a block is free (R142). -/
def nextGrant (s : State) (core : Nat) : Option Nat :=
  (s.core core).extQueue.find? (fun wid => extFree s core wid && (s.head? wid).any (fun e => e.wait == .extBlock))

/-- RGACQ_GRANT (R142): the warp that has waited longest on the core. -/
def execRgacqGrant (core : Nat) (s : State) : Host.Outcome State Fault Refusal :=
  match nextGrant s core with
  | some wid =>
    match s.head? wid with
    | some e => .next ((s.updCore core (fun c => { c with extQueue := c.extQueue.filter (· != wid) })).retireOldest wid e
        (grantExt e.instr))
    | none => .next s
  | none => .next s

/-! ## Queue entries that free -/

/-- KICK_QUEUE_FREE (R286): the lanes of the kick that has waited longest are served. -/
def execKickQueueFree (engine : Nat) (s : State) : Host.Outcome State Fault Refusal :=
  match s.waiters (fun e w => e.wait == .kickQueue && kickEngine e.instr w == engine) with
  | wid :: _ =>
    match s.entryWhere wid (fun e => e.wait == .kickQueue && kickEngine e.instr (s.warp wid) == engine) with
    | some (n, e) =>
      match e.instr.fields with
      | some f =>
        let w := (s.warp wid).ahead ((s.warp wid).rob.take n)
        let (t, os) := (s.atEntry wid n e).kickLanes engine wid e.pc (fun l => w.addr l f) (fun l => (w.src32 l f.sb 0).toNat) e.undecided
        .next ({ t with cur := s.cur }.decideAt wid n e os none)
      | none => .next s
    | none => .next s
  | [] => .next s

/-- The silo whose gleaner the first undecided lane of a PLACE or REPL waits for. -/
def waitsForSilo (s : State) (silo : Nat) (e : Entry) (w : Warp) : Bool :=
  e.wait == .gleaner &&
    (match e.undecided, e.instr.fields with
     | l :: _, some f =>
       match s.leafOf w.tenant ((w.addr l f).toNat / 4096) with
       | some (_, w0, _) => pageSilo s w0 w.gcore == silo
       | none => true
     | _, _ => true)

/-- Serve the lanes of one warp that wait for the gleaner of a silo. -/
def servePlacing (silo : Nat) (s : State) (wid : Nat) : State :=
  match s.entryWhere wid (fun e => waitsForSilo s silo e (s.warp wid)) with
  | some (n, e) =>
    match e.instr.fields with
    | some f =>
      let c : Ctx := { s.entryCtx wid e with w := (s.warp wid).ahead ((s.warp wid).rob.take n) }
      let p := placeLanes c e.instr f { s } e.undecided
      p.s.decideAt wid n e p.outs none
    | none => s
  | none => s

/-- GLEANER_QUEUE_FREE (R341): the gleaner works on its queue, and waiting lanes are served, those that have waited longest first. -/
def execGleanerQueueFree (silo : Nat) (s : State) : Host.Outcome State Fault Refusal :=
  let s := serveGleaner s silo
  .next ((s.waiters (waitsForSilo s silo)).foldl (servePlacing silo) s)

/-- Does the entry wait to submit a command? -/
def waitsForPcmd (e : Entry) (_ : Warp) : Bool :=
  match e.wait with
  | .pcmd _ => true
  | _ => false

/-- PCMD_QUEUE_FREE (R353). -/
def execPcmdQueueFree (s : State) : Host.Outcome State Fault Refusal :=
  if s.loft.pcmd.length ≥ 16 then .next s
  else
    match s.waiters waitsForPcmd with
    | wid :: _ =>
      match s.head? wid with
      | some e =>
        match e.wait with
        | .pcmd addr => .next ((submitCommand s addr).setHead wid { e with wait := .nothing })
        | _ => .next s
      | none => .next s
    | [] => .next s

end Sys2Proof.Machine
end

