-- ==== Sys2Proof/Machine/Placement.lean ====
section
/-! DEFINITION. Placement: the resources of a core, a quad and a die (R14, R16 to R18), the creation of a gang (R18, R20,
R83, R97, R361), coresident placement (R19), the launch of stage gangs (R273) and the clearing of allocations (R207). -/

namespace Sys2Proof.Machine

/-! ## What work needs and what is held (R14, R16) -/

/-- Resources of a core. -/
structure Needs where
  slots : Nat := 0
  entries : Nat := 0
  tiles : Nat := 0
  units : Nat := 0
  bars : Nat := 0
  deriving DecidableEq, Repr

namespace Needs

def plus (a b : Needs) : Needs :=
  { slots := a.slots + b.slots, entries := a.entries + b.entries, tiles := a.tiles + b.tiles, units := a.units + b.units,
    bars := a.bars + b.bars }

/-- What a block of a record needs. -/
def ofRecord (r : BitVec 2048) : Needs :=
  { slots := Rec.warps r, entries := Rec.warps r * Rec.windowSize r, tiles := Rec.warps r * (Rec.a r + Rec.f r),
    units := Rec.units r, bars := Rec.barcore r }

/-- What one warp holds. -/
def ofWarp (w : Warp) : Needs := { slots := 1, entries := w.window, tiles := w.na + w.nf }

/-- The limits of a core, scratch apart. -/
def withinCore (n : Needs) : Bool := n.slots ≤ 16 && n.entries ≤ 512 && n.tiles ≤ 20 && n.bars ≤ 16

end Needs

/-- The cores of a gang (R17). -/
def gangCores (quad base n : Nat) : List Nat := (List.range n).map (fun i => 4 * quad + base + i)

/-- The bases that R17 allows. -/
def baseAllowed (g base : Nat) : Bool :=
  match g with
  | 1 => base < 4
  | 2 => base == 0 || base == 2
  | _ => base == 0

namespace State

/-- Warps resident on a core. -/
def residents (s : State) (c : Nat) : List Nat := s.warpsWhere (fun w => w.onCore && w.gcore == c)

/-- The core of a live block. -/
def coreOfBlock (s : State) (g b : Nat) : Option Nat :=
  (s.loft.blocks.find? (fun x => x.grid == g && x.block == b && x.alive)).map (·.gcore)

/-- A live block of a gang stands on the quad. -/
def gangOnQuad (s : State) (g gang quad : Nat) : Bool :=
  s.loft.blocks.any (fun x => x.grid == g && x.gang == gang && x.alive && gquadOf x.gcore == quad)

/-- What the warps and blocks of a core hold, scratch apart. -/
def heldOn (s : State) (c : Nat) : Needs :=
  let ws := (s.residents c).foldl (fun (n : Needs) wid => n.plus (Needs.ofWarp (s.warp wid))) {}
  { ws with bars := s.barriersHeld (fun b => b.scope == 1 && s.coreOfBlock b.grid b.owner == some c) }

/-- The targets that bar a grid from resources (R19): those of the CORESIDENT grids that have waited longer, or all of them. -/
def targetsAgainst (s : State) (g : Nat) : List Target := s.loft.targets.takeWhile (fun t => t.grid != g)

/-- The records of the target blocks that other grids are to have on a core. -/
def targetBlocks (s : State) (g c : Nat) : List (BitVec 2048) :=
  (s.targetsAgainst g).flatMap (fun t =>
    let r := (s.grid t.grid).record
    (t.places.filter (fun p => (gangCores p.2.1 p.2.2 (Rec.g r)).contains c)).map (fun _ => r))

/-- What targets reserve on a core, scratch apart. -/
def reservedOn (s : State) (g c : Nat) : Needs :=
  (s.targetBlocks g c).foldl (fun (n : Needs) r => n.plus (Needs.ofRecord r)) {}

/-- What targets reserve of a barrier network. -/
def reservedBarriers (s : State) (g : Nat) (f : Target → BitVec 2048 → Nat) : Nat :=
  (s.targetsAgainst g).foldl (fun n t => n + f t (s.grid t.grid).record) 0

/-- Scratch units of a column that placement may use: the smaller size while a resize runs (R214). -/
def placeUnits (s : State) (c : Nat) : Nat :=
  let x := s.column c
  256 * (if x.busy then min x.scrmib x.oldmib else x.scrmib)

/-- The lowest free run of `n` units in the scratchpad of a column, beside runs that are kept (R207): first unit and length of
each. Allocations being cleared are not free. -/
def runBeside (s : State) (c n : Nat) (kept : List (Nat × Nat)) : Option Nat :=
  let base := 4096 - s.placeUnits c
  let held := (s.loft.blocks.filter (fun b => b.gcore == c && b.units != 0)).map (fun b => (b.unit, b.units)) ++ kept
  let free := fun (u : Nat) => base ≤ u && u + n ≤ 4096 && held.all (fun b => u + n ≤ b.1 || b.1 + b.2 ≤ u)
  (base :: held.map (fun b => b.1 + b.2)).foldl (fun (m : Option Nat) u =>
    if !free u then m
    else
      match m with
      | none => some u
      | some v => some (min u v)) none

/-- The lowest free run of a column. -/
def lowestRun (s : State) (c n : Nat) : Option Nat := s.runBeside c n []

/-- The run of `n` units of a column, beside runs that are kept, of which the fewest units are held; the lowest of those. -/
def leastHeldRun (s : State) (c n : Nat) (kept : List (Nat × Nat)) : Option Nat :=
  let base := 4096 - s.placeUnits c
  let held := (s.loft.blocks.filter (fun b => b.gcore == c && b.units != 0)).map (fun b => (b.unit, b.units))
  let edges := base :: (4096 - n) :: (held ++ kept).flatMap (fun b => [b.1, b.1 + b.2, b.1 - n, b.1 + b.2 - n])
  let runs := edges.filter (fun u => base ≤ u && u + n ≤ 4096 && kept.all (fun b => u + n ≤ b.1 || b.1 + b.2 ≤ u))
  let inUse := fun (u : Nat) => held.foldl (fun m b => m + (min (u + n) (b.1 + b.2) - max u b.1)) 0
  runs.foldl (fun (m : Option Nat) u =>
    match m with
    | none => some u
    | some v => if inUse u < inUse v || (inUse u == inUse v && u < v) then some u else some v) none

/-- The runs that targets of other grids keep in a column (R19): their free units, and those that become free, are reserved. -/
def reservedRuns (s : State) (g c : Nat) : List (Nat × Nat) :=
  (s.loft.targets.filter (fun t => t.grid != g)).flatMap (fun t => (t.runs.filter (fun r => r.1 == c)).map (·.2))

/-- The runs that a target keeps (R19), as core, first unit and length: each of its blocks has the lowest run that is free beside the runs of
other targets, or else the one that lacks the fewest units; where the column has no scratch of that size now, the run in which it would
stand. -/
def targetRuns (s : State) (g : Nat) (places : List (Nat × Nat)) : List (Nat × Nat × Nat) :=
  let n := Rec.units (s.grid g).record
  if n = 0 then []
  else (places.flatMap (fun p => gangCores p.1 p.2 (Rec.g (s.grid g).record))).foldl (fun (runs : List (Nat × Nat × Nat)) c =>
    let kept := s.reservedRuns g c ++ (runs.filter (fun r => r.1 == c)).map (·.2)
    runs ++ [(c, ((s.runBeside c n kept <|> s.leastHeldRun c n kept).getD (4096 - n), n))]) []

/-- The run that a block of a grid takes on a core. -/
def runFor (s : State) (g c n : Nat) : Option Nat := s.runBeside c n (s.reservedRuns g c)

/-- Does a block of a record fit a core that holds `held` (R16)? What targets of other grids reserve is not free (R19), and scratch
lies in a column of the tenant (R348). -/
def fitsCore (s : State) (held : Needs) (g c : Nat) (r : BitVec 2048) : Bool :=
  let need := Needs.ofRecord r
  ((held.plus (s.reservedOn g c)).plus need).withinCore &&
    (need.units == 0 || (s.ownsColumn (s.grid g).tenant c && (s.runFor g c need.units).isSome))

/-- Is a gang the first of its grid on a die (R14, R18)? -/
def firstOnDie (s : State) (g die : Nat) : Bool := !(s.grid g).dies.contains die

/-- Is a gang the first of its grid to be placed at all? -/
def firstOfGrid (s : State) (g : Nat) : Bool := (s.grid g).dies.isEmpty

/-- A resident gang of another stage of the tenant's pipelines stands on the quad (R274). -/
def otherStageOn (s : State) (p i quad : Nat) : Bool :=
  s.loft.blocks.any (fun b => b.alive && gquadOf b.gcore == quad &&
    (s.grid b.grid).tenant == (s.pipeline p).tenant && (s.grid b.grid).pipe.isSome &&
    ((s.grid b.grid).pipe != some p || (s.grid b.grid).stage != i))

/-- Quads that take a new gang of a stage (R274). -/
def stageQuads (s : State) (p i : Nat) : List Nat :=
  match (s.pipeline p).stages[i]? with
  | some st => st.quads.filter (fun q => !s.otherStageOn p i q)
  | none => []

/-- Quads on which new gangs of a grid may stand (R21, R274): a quad that a pipeline holds is not the tenant's for other work (R275). -/
def workQuads (s : State) (g : Nat) : List Nat :=
  match (s.grid g).pipe with
  | some p => s.stageQuads p (s.grid g).stage
  | none => (s.quadsOf (s.grid g).tenant).filter (fun q => !s.pipeQuad (s.grid g).tenant q)

/-- Does a gang fit the quad at a base (R17, R18, R21)? None does on a die that is being re-admitted (R423). -/
def gangFits (s : State) (g quad base : Nat) : Bool :=
  let x := s.grid g
  let r := x.record
  let die := quad / 12
  let quadBars := s.barriersHeld (fun b => b.scope == 2 && s.gangOnQuad b.grid b.owner quad) +
    s.reservedBarriers g (fun t r => (t.places.filter (fun p => p.2.1 == quad)).length * Rec.barquad r)
  let dieBars := s.barriersHeld (fun b => b.scope == 3 && b.owner == die) +
    s.reservedBarriers g (fun t r => if t.places.any (fun p => p.2.1 / 12 == die) then Rec.bardie r else 0)
  let pkgBars := s.barriersHeld (fun b => b.scope == 4) + s.reservedBarriers g (fun _ r => Rec.barpkg r)
  s.fw.readmitting.all (fun x => x.1 != die) && baseAllowed (Rec.g r) base && (s.workQuads g).contains quad &&
    (gangCores quad base (Rec.g r)).all (fun c => s.fitsCore (s.heldOn c) g c r) &&
    quadBars + Rec.barquad r ≤ 4 &&
    (!s.firstOnDie g die || dieBars + Rec.bardie r ≤ 8) &&
    (!s.firstOfGrid g || (pkgBars + Rec.barpkg r ≤ 16 && s.podReady g))

/-- May the work evict a warp, or end its slice (R278, R280)? -/
def evictable (s : State) (g : Nat) (w : Warp) : Bool :=
  let t := (s.grid g).tenant
  (w.tenant == t && Rec.prio (s.recordOf w) < Rec.prio (s.grid g).record) ||
    (w.tenant != t && s.holdsBudget t && !s.holdsBudget w.tenant)

/-- The machine as it would stand with some warps saved: scratch and barriers are not freed so. -/
def withSaved (s : State) (p : Warp → Bool) : State :=
  { s with warps := s.warps.map (fun e => if e.2.onCore && p e.2 then (e.1, { e.2 with residence := .saved }) else e) }

/-- The machine with every warp saved that may give way to the work. -/
def madeFree (s : State) (g : Nat) : State := s.withSaved (s.evictable g)

/-- The machine with the slices of all other tenants without budget ended (R278). -/
def sliceFree (s : State) (g : Nat) : State := s.withSaved (fun w => w.tenant != (s.grid g).tenant && s.evictable g w)

/-! ## Making a gang resident -/

/-- The clearing sequencer at a change of tenant on a core (R361). -/
def switchTenant (s : State) (c t : Nat) : State :=
  s.updCore c (fun x =>
    match x.lastTenant with
    | some u => if u == t then x else { x with tcache := [], lastTenant := some t }
    | none => { x with lastTenant := some t })

/-- The lowest warp slot that is free on a core. -/
def freeSlot (s : State) (c : Nat) : Nat :=
  let used := (s.residents c).map (fun wid => (s.warp wid).slot)
  ((List.range 16).find? (fun i => !used.contains i)).getD 16

/-- A warp at its launch (R77, R83, R93, R97): every lane runs at ENTRY, k0 to k15 hold the parameters. -/
def launchWarp (s : State) (g block n c : Nat) (claim : Option Nat) : Warp :=
  let x := s.grid g
  let r := x.record
  let w : Warp :=
    { lanes := (List.range 32).map (fun l => (l, { pc := Rec.entry r, status := .running }))
      k := (List.range 16).foldl (fun (k : Sparse DWord) i =>
        Sparse.set 0 k i (BitVec.ofNat 64 (recBits r (128 + 8 * i) 63 0))) []
      prio := Rec.prio r, wsel := Rec.wsel r, nf := Rec.f r, na := Rec.a r
      grid := g, block, warpNo := n, tenant := x.tenant, gen := x.gen, gcore := c, slot := s.freeSlot c
      spTenant := x.tenant, spPkg := s.net.pkg
      hangBase := s.runsFrom c, lastIssue := s.cyclesNow c, starting := true }
  match claim with
  | some n => w.setK 15 (w.getK 15 >>> 32 <<< 32 ||| BitVec.ofNat 64 n)
  | none => w

/-- Give a warp its number and its place. -/
def addWarp (s : State) (g block n c : Nat) (claim : Option Nat) : State :=
  let wid := s.loft.nextWid
  let s := s.setWarp wid (s.launchWarp g block n c claim)
  { s with loft := { s.loft with nextWid := wid + 1 } }

/-- Make one block resident (R16, R18, R207). -/
def addBlock (s : State) (g gang gangid c : Nat) (claim : Option Nat) : State :=
  let r := (s.grid g).record
  let block := gang * Rec.g r + gangid
  let unit := if Rec.units r == 0 then 0 else (s.runFor g c (Rec.units r)).getD 0
  let s := s.clearTickets (scratchLoc c unit 0).phys (4096 * Rec.units r)
  let s : State := { s with loft := { s.loft with
    blocks := s.loft.blocks ++ [{ grid := g, block, gang, gangid, gcore := c, unit, units := Rec.units r }] } }
  let s := (s.addBarriers 1 g block (Rec.barcore r)).switchTenant c (s.grid g).tenant
  (List.range (Rec.warps r)).foldl (fun s n => s.addWarp g block n c claim) s

/-- Barriers of the gang, and of the die and the grid where the gang is the first there (R14). -/
def addGangBarriers (s : State) (g gang die : Nat) : State :=
  let r := (s.grid g).record
  let s := s.addBarriers 2 g gang (Rec.barquad r)
  let s := if s.firstOfGrid g then s.addBarriers 4 g 0 (Rec.barpkg r) else s
  if s.firstOnDie g die then
    (s.addBarriers 3 g die (Rec.bardie r)).updGrid g (fun x => { x with dies := x.dies ++ [die] })
  else s

/-- Make a gang resident, all of its blocks together (R18). -/
def addGang (s : State) (g gang quad base : Nat) (claim : Option Nat) : State :=
  let r := (s.grid g).record
  (gangCores quad base (Rec.g r)).zipIdx.foldl (fun s x => s.addBlock g gang x.2 x.1 claim)
    (s.addGangBarriers g gang (quad / 12))

/-- Every gang of the grid has been placed. -/
def allPlaced (x : Grid) : Bool := x.nextGang ≥ Rec.gangs x.record && x.relaunch.isEmpty

/-- After a placement: STATE, the queue and the barriers that leave PLACING (R264, R267, R374). STATE becomes RUNNING with the
first instruction that issues (log entry 50). -/
def settlePlacement (s : State) (g : Nat) : State :=
  let s := s.updGrid g (fun x => { x with state := if x.state == .running then .running else .placing })
  let s := if allPlaced (s.grid g) then
      { s with loft := { s.loft with
          queues := s.loft.queues.map (fun (e : Nat × List Nat) => (e.1, e.2.filter (· != g)))
          targets := s.loft.targets.filter (fun t => t.grid != g) } }
    else s
  s.settlePhases g

/-- The next gang of a grid to place: a relaunch before the gangs not yet placed (R20, R268). -/
def takeGang (s : State) (g : Nat) : Option (Nat × State) :=
  let x := s.grid g
  match x.relaunch with
  | gang :: rest => some (gang, s.setGrid g { x with relaunch := rest })
  | [] => if x.nextGang < Rec.gangs x.record then some (x.nextGang, s.setGrid g { x with nextGang := x.nextGang + 1 }) else none

/-- The grid whose gangs a queue places now: a relaunch of its tenant and class first, else its head (R267, R268). -/
def placingGrid (s : State) (queue : Nat) : Option Nat :=
  match s.loft.grids.find? (fun (e : Nat × Grid) => 4 * e.2.tenant + Rec.prio e.2.record == queue && e.2.pipe.isNone &&
      !e.2.relaunch.isEmpty && e.2.state != .retired) with
  | some e => some e.1
  | none => (s.queue queue).head?

/-- Placement goes on for a grid: its tenant and class are not held back (R279), and no MODE has stopped its tenant (R363). -/
def mayPlace (s : State) (g : Nat) : Bool :=
  let x := s.grid g
  !s.loft.heldBack.contains (4 * x.tenant + Rec.tclass x.record) && !s.loft.mode.any (fun m => m.tenants.contains x.tenant) &&
    s.loft.resetting != some x.tenant

/-- The grid is placed whole (R19): CORESIDENT, and none of its gangs stands. -/
def placedWhole (s : State) (g : Nat) : Bool := Rec.coresident (s.grid g).record && (s.liveGangs g).isEmpty

end State

/-- Bases that a gang of a record may take (R17). -/
def basesOf (r : BitVec 2048) : List Nat := (List.range 4).filter (baseAllowed (Rec.g r))

/-! ## Stages of pipelines (R273) -/

/-- Slots of a stage's output queue that no launch has reserved (R273). -/
def outputRoom (s : State) (p q : Nat) (st : Stage) : Nat :=
  let reserved := (s.loft.grids.filter (fun (e : Nat × Grid) => e.2.pipe == some p && e.2.stage + 1 == q)).foldl
    (fun n e => n + e.2.reserved) 0
  st.qcap - s.queueItems p q st - reserved

/-- A stage has items to launch a gang for, and room for what it puts out (R273). -/
def stageReady (s : State) (p i : Nat) : Bool :=
  let x := s.pipeline p
  match x.stages[i]? with
  | none => false
  | some st =>
    !st.ended && !st.items.isEmpty &&
      (match x.stages[i + 1]? with
       | some nx => outputRoom s p (i + 1) nx ≥ st.outmax
       | none => true)

/-- The grid of a stage's next gang, retained: that of a gang which waits for its relaunch before a new one (R273, R308). Its ENQGT is the
GT of the launch, not of the descriptor's acceptance (log entry 24, DESIGN CHOICE). -/
def stageGrid (s : State) (p i : Nat) : Option (State × Nat) :=
  (s.pipeline p).stages[i]?.map (fun st =>
    match s.loft.grids.find? (fun (e : Nat × Grid) =>
        e.2.pipe == some p && e.2.stage == i && !e.2.relaunch.isEmpty && e.2.state != .retired) with
    | some e => (s, e.1)
    | none =>
      let t := (s.pipeline p).tenant
      retain s { record := st.record, enqgt := s.gt, gen := (s.tenant t).gen, tenant := t, pipe := some p, stage := i })

/-! ## The work that waits for places (R268, R278) -/

namespace State

/-- Quads and bases on which a gang of a grid may stand, in order (R17). -/
def gangPlaces (s : State) (g : Nat) : List (Nat × Nat) :=
  (s.workQuads g).flatMap (fun q => (basesOf (s.grid g).record).map (fun b => (q, b)))

/-- Places for as many as `n` gangs of a grid on some quads as the machine stands, each at the first place where it fits. -/
def fitting (s : State) (g : Nat) (on : Nat → Bool) : Nat → List (Nat × Nat)
  | 0 => []
  | n + 1 =>
    match (s.gangPlaces g).find? (fun p => on p.1 && s.gangFits g p.1 p.2), s.takeGang g with
    | some p, some (gang, s') => p :: (s'.addGang g gang p.1 p.2 none).fitting g on n
    | _, _ => []

/-- Places for all of `n` gangs of a grid as the machine stands. -/
def freePlaces (s : State) (g n : Nat) : Option (List (Nat × Nat)) :=
  let ps := s.fitting g (fun _ => true) n
  if ps.length = n then some ps else none

/-- How many gangs of a grid must find places together: all of them where it is placed whole (R19). -/
def gangsNeeded (s : State) (g : Nat) : Nat := if s.placedWhole g then (gangsToPlace (s.grid g)).length else 1

/-- The work finds no room: a gang of it, or all its gangs where it is placed whole. -/
def noRoom (s : State) (g : Nat) : Bool :=
  if s.placedWhole g then (s.freePlaces g (s.gangsNeeded g)).isNone
  else (s.gangPlaces g).all (fun p => !s.gangFits g p.1 p.2)

/-- Places where a gang of the work could stand once the warps that may give way to it were saved. -/
def couldPlaces (s : State) (g : Nat) : List (Nat × Nat) :=
  let m := s.madeFree g
  (m.gangPlaces g).filter (fun p => m.gangFits g p.1 p.2)

/-- Quads where the work could stand, if need be once warps are saved for it: those of all its gangs where it is placed whole; none where
it cannot be placed (R19, R277, R278). -/
def wantedQuads (s : State) (g : Nat) : List Nat :=
  if s.placedWhole g then
    ((((s.madeFree g).freePlaces g (s.gangsNeeded g)).getD []).map (·.1)).eraseDups
  else ((s.couldPlaces g).map (·.1)).eraseDups

/-- The quads on which the end of slices makes room for more of the work, where ending slices lets all of it be placed (R278). -/
def sliceQuads (s : State) (g : Nat) : List Nat :=
  let n := s.gangsNeeded g
  let m := s.sliceFree g
  if (m.freePlaces g n).isNone then []
  else (s.workQuads g).filter (fun q => (s.fitting g (· == q) n).length < (m.fitting g (· == q) n).length)

/-- The work can be placed, if need be where warps are saved for it (R277, R278). -/
def placeable (s : State) (g : Nat) : Bool := s.mayPlace g && !(s.wantedQuads g).isEmpty

/-- The work of a tenant and class that waits to be placed: the grid that its queue places, and the next gangs of its stages, each
with the machine that retains the grid. -/
def waitingWork (s : State) (queue : Nat) : List (State × Nat) :=
  (s.placingGrid queue).toList.map (fun g => (s, g)) ++
    (s.loft.pipelines.filter (fun (e : Nat × Pipeline) => 4 * e.2.tenant + e.2.prio == queue)).flatMap (fun e =>
      ((List.range e.2.stages.length).filter (stageReady s e.1)).filterMap (stageGrid s e.1))

/-- Is the first of two queues served before the second (R268)? -/
def queueBefore (s : State) (a b : Nat) : Bool :=
  let key := fun (q : Nat) =>
    let relaunch := match s.placingGrid q with
      | some g => !(s.grid g).relaunch.isEmpty
      | none => false
    (relaunch, s.holdsBudget (q / 4), q % 4, (s.budget (q / 4)).tokens)
  let (ra, ba, pa, ta) := key a
  let (rb, bb, pb, tb) := key b
  if ra != rb then ra
  else if ba != bb then ba
  else if pa ≠ pb then pa > pb
  else if ta ≠ tb then ta > tb
  else a < b

/-- The grid that a queue places could be placed now. -/
def headFits (s : State) (queue : Nat) : Bool :=
  match s.placingGrid queue with
  | some g => s.mayPlace g && !s.noRoom g
  | none => false

/-- No queue that is served earlier has a grid that could be placed now (R268). -/
def servedNow (s : State) (queue : Nat) : Bool :=
  (List.range 64).all (fun p => (s.placingGrid p).isNone || !s.queueBefore p queue || !s.headFits p)

end State

/-! ## The events -/

/-- GANG_PLACEMENT (R18, R20), in the order of service (R268). -/
def execGangPlacement (queue quad base : Nat) (s : State) : Host.Outcome State Fault Refusal :=
  let s' := s.openPods
  match s'.placingGrid queue with
  | none => .next s
  | some g =>
    if s'.placedWhole g || !s'.mayPlace g || !s'.gangFits g quad base || !s'.servedNow queue then .next s
    else
      match s'.takeGang g with
      | none => .next s
      | some (gang, s') => .next ((s'.addGang g gang quad base none).settlePlacement g)

/-- Place every gang of an assignment in turn, if each fits. -/
def placeWhole (s : State) (g : Nat) : List (Nat × Nat) → Option State
  | [] => some s
  | (quad, base) :: rest =>
    if !s.gangFits g quad base then none
    else
      match s.takeGang g with
      | none => none
      | some (gang, s) => placeWhole (s.addGang g gang quad base none) g rest

/-- Keep a target: a new or changed one joins behind those kept already, whose resources stay reserved against it. -/
def keepTarget (ts : List Target) (t : Target) : List Target :=
  if ts.contains t then ts else ts.filter (fun x => x.grid != t.grid) ++ [t]

/-- The target of a grid for an assignment of places to its gangs: the one that is kept, or one with runs of its own (R19). -/
def State.targetOf (s : State) (g : Nat) (places : List (Nat × Nat)) : Target :=
  let gangs := (gangsToPlace (s.grid g)).zip places
  match s.loft.targets.find? (fun t => t.grid == g && t.places == gangs) with
  | some t => t
  | none => { grid := g, places := gangs, runs := s.targetRuns g places }

/-- CORESIDENT_PLACEMENT (R19): the grid is placed whole at the places given, quad and base for each gang, where all of it fits and
it is served now; else the places become the target of which everything free is reserved. -/
def execCoresidentPlacement (queue : Nat) (places : List (Nat × Nat)) (s : State) : Host.Outcome State Fault Refusal :=
  let s' := s.openPods
  match s'.placingGrid queue with
  | none => .next s
  | some g =>
    let x := s'.grid g
    let gangs := gangsToPlace x
    let onQuads := places.all (fun p => baseAllowed (Rec.g x.record) p.2 && (s'.workQuads g).contains p.1)
    if !s'.placedWhole g || places.length ≠ gangs.length || !onQuads then .next s
    else
      let wait : State := { s' with loft := { s'.loft with
        targets := keepTarget s'.loft.targets (s'.targetOf g places) } }
      let wait := wait.updGrid g (fun x => { x with state := .placing })
      if !s'.mayPlace g || !s'.servedNow queue then .next wait
      else
        match placeWhole wait g places with
        | some s => .next (s.settlePlacement g)
        | none => .next wait

/-- Claim items and reserve slots for a stage gang, and place it (R273). -/
def launchStage (s : State) (p i g quad base : Nat) (st : Stage) : State :=
  let c := min st.inmax st.items.length
  let x := s.pipeline p
  let stages := x.stages.mapIdx (fun j y => if j == i then { y with items := y.items.drop c } else y)
  let s := s.setPipeline p { x with stages }
  let s := s.updGrid g (fun y => { y with
    claimed := st.items.take c, reserved := if i + 1 < x.stages.length then st.outmax else 0 })
  match s.takeGang g with
  | none => s
  | some (gang, s) => (s.addGang g gang quad base (some c)).settlePlacement g

/-- Launch a gang of a stage at a place, if the conditions of R273 hold there. -/
def stageAt (s : State) (pipe stage quad base : Nat) : State :=
  match (s.pipeline pipe).stages[stage]?, stageGrid s pipe stage with
  | some st, some (s', g) =>
    if !stageReady s pipe stage || !s'.mayPlace g || !s'.gangFits g quad base then s
    else launchStage s' pipe stage g quad base st
  | _, _ => s

/-- STAGE_LAUNCH (R273): a gang of the stage that waits for its relaunch is launched anew before a new one. -/
def execStageLaunch (pipe stage quad base : Nat) (s : State) : Host.Outcome State Fault Refusal :=
  .next (stageAt s pipe stage quad base)

/-- ALLOCATION_CLEAR_DONE (R207): the oldest clearing of a column that starts at the unit is finished. -/
def execAllocationClearDone (col unit : Nat) (s : State) : Host.Outcome State Fault Refusal :=
  match s.loft.clearing.find? (fun c => c.1 == col && c.2.1 == unit) with
  | none => .next s
  | some c => .next (s.finishClearing c)

/-! ## The host's enqueues (R265, R266, R412) -/

/-- LAUNCH_RECORD_ENQUEUE: a grid record through the host queue. -/
def execLaunchRecordEnqueue (record : BitVec 2048) (s : State) : Host.Outcome State Fault Refusal :=
  let (s, status, n) := acceptRecord s .supervisor record
  .next (s.answer (.launch status n))

/-- PIPELINE_DESCRIPTOR: a descriptor through the host queue. -/
def execPipelineDescriptor (record : BitVec 2048) (s : State) : Host.Outcome State Fault Refusal :=
  let (s, status, n) := acceptRecord s .supervisor record
  .next (s.answer (.launch status n))

end Sys2Proof.Machine
end

