-- ==== Sys2Proof/Machine/Saves.lean ====
section
/-! DEFINITION. Saves and restores of contexts (R27, R145, R204, R278, R280 to R282, R305, R381) and fatal die errors (R308). -/

namespace Sys2Proof.Machine

/-! ## Saving (R204, R281, R381) -/

/-- The record of a barrier wait that a save keeps (R381). -/
def Entry.note (e : Entry) : List BarrierNote :=
  match e.wait with
  | .barrier bar counted pend target => [{ pc := e.pc, lanes := e.lanes, bar, counted, pend, target }]
  | _ => []

namespace State

/-- Does an unretired entry go on waiting in a saved context (R145)? A WSYNC that waits has retired, as a SLEEP may have. -/
def staysSaved (e : Entry) : Bool :=
  match e.wait with
  | .sleep _ | .extBlock => true
  | _ => false

/-- Entries of a buffer that go on waiting in a saved context: those of lanes that no discarded entry before them sends back. -/
def waitersOf (rob : List Entry) : List Entry :=
  (rob.foldl (fun (x : List Entry × LaneMask) e =>
    if staysSaved e && e.lanes &&& x.2 = 0 then (x.1 ++ [e], x.2) else (x.1, x.2 ||| e.lanes)) ([], 0)).1

/-- Discard the entries of a buffer but for those that go on waiting: the lanes of the others stand at their instructions again. -/
def emptyBuffer (s : State) (wid : Nat) (rob : List Entry) : State :=
  let stay := waitersOf rob
  s.updWarp wid (fun w => { w.discard (rob.filter (fun e => !stay.contains e)) with rob := stay })

/-- Keep of an unretired buffer what a save keeps (R145, R204, R281): what can retire at that moment retires, and the other entries are
discarded, but for the waits that go on. Where an access performed outside the core stands behind one in flight that cannot be performed
yet, the entries up to it stay as they are: none of them may be issued again (log entry 34). -/
def closeBuffer (s : State) (wid : Nat) : State :=
  let s := s.settleBuffer wid ((s.warp wid).rob.length + 1)
  let rob := (s.warp wid).rob
  let served := (rob.head?.map Entry.performed).getD 0
  let keep := if served != 0 then 0 else certainPart (s.warp wid)
  let s := rob.zipIdx.foldl (fun s x => if x.2 < keep then s else s.refill wid x.2 x.1) s
  if served != 0 then s.discardServed wid
  else
    let s := s.emptyBuffer wid (rob.drop keep)
    s.updWarp wid (fun w => { w with rob := rob.take keep ++ w.rob })

/-- The save area of a context (R281): the bytes of its base and extended registers, tiles and warp state, and what they hold. -/
def saveArea (w : Warp) : SaveArea :=
  { bytes := 8192 + (if w.ext then 8192 else 0) + 16384 * (w.na + w.nf) + 4096
    v := w.v, k := w.k, p := w.p, acc := w.acc, pf := w.pf, cv := w.cv, om := w.om, bd := w.bd
    tvec := w.tvec, fpflags := w.fpflags, fptrapen := w.fptrapen, feLimit := w.feLimit, gtwake := w.gtwake, winfo := w.winfo
    lanes := w.lanes }

/-- A saved context holds no registers on the core. -/
def dropRegs (w : Warp) : Warp := { w with v := [], k := [], p := [], acc := [], pf := [], cv := [], om := [], bd := [] }

/-- Reload a context's registers from its save area (R281). Where a lane stands and its state are the warp's own: waits that a save keeps go
on in the meantime (R145). -/
def reload (w : Warp) (x : SaveArea) : Warp :=
  { w with
    v := x.v, k := x.k, p := x.p, acc := x.acc, pf := x.pf, cv := x.cv, om := x.om, bd := x.bd
    tvec := x.tvec, fpflags := x.fpflags, fptrapen := x.fptrapen, feLimit := x.feLimit, gtwake := x.gtwake
    lanes := w.lanes.map (fun e =>
      let y := Sparse.get e.2 x.lanes e.1
      (e.1, { e.2 with tag := y.tag, trapPc := y.trapPc, trapCause := y.trapCause, trapAddr := y.trapAddr })) }

/-- Save one warp (R281): its state as of the last retired entry. Waits in WSYNC, SLEEP, RGACQ and ROLE go on (R145), barrier waits
leave their record (R381). -/
def saveWarp (s : State) (wid : Nat) : State :=
  if !(s.warp wid).onCore then s
  else
    let notes := (s.warp wid).rob.flatMap Entry.note
    let s := (s.closeBuffer wid).withdrawWaits wid
    if !(s.warp wid).onCore then s
    else
      let late := hung s (s.warp wid)
      let s := (s.warp wid).pauses.foldl (fun s e =>
        match e.wait with
        | .idle _ _ => s.updWarp wid (fun w =>
          let w := { w with pauses := w.pauses.filter (fun x => !(x.pc == e.pc && x.lanes == e.lanes)) }
          e.lanes.lanes.foldl (fun w l => w.updLane l (fun x => { x with status := .running })) w)
        | _ => s) s
      let s : State := { s with loft := { s.loft with
        saveAreas := Sparse.insert wid (saveArea (s.warp wid)) s.loft.saveAreas } }
      s.updWarp wid (fun w => { (if w.rob.all staysSaved then dropRegs w else w) with
        lines := [], secondary := none, yielded := 0, yieldWarp := false, notes := w.notes ++ notes
        residence := if late then .savedHung else .saved })

/-! ## Restoring (R27, R281, R305) -/

/-- Would the warps fit their cores again, with their extended blocks (R16, R96)? Not on a die that is being re-admitted (R423). -/
def restorable (s : State) (wids : List Nat) : Bool :=
  wids.all (fun wid =>
    let c := (s.warp wid).gcore
    s.fw.readmitting.all (fun x => x.1 != dieOf c) &&
    let here := wids.filter (fun x => (s.warp x).gcore == c)
    let n := here.foldl (fun (n : Needs) x => n.plus (Needs.ofWarp (s.warp x))) (s.heldOn c)
    n.withinCore && s.extHeld c + (here.filter (fun x => (s.warp x).ext)).length ≤ 8)

/-- Reload one warp to its core; a latched WATCHDOG is delivered first (R305). A waiting RGACQ takes its place in the grant order anew
(R145). -/
def restoreWarp (s : State) (wid : Nat) : State :=
  let w := reload (s.warp wid) (Sparse.get {} s.loft.saveAreas wid)
  let late := w.residence == .savedHung
  let s := s.switchTenant w.gcore w.tenant
  let s := s.setWarp wid { w with residence := .resident, slot := s.freeSlot w.gcore, hangBase := s.runsFrom w.gcore, waitCount := 0,
                                  parkedSince := none, lastIssue := s.cyclesNow w.gcore }
  let s : State := { s with loft := { s.loft with saveAreas := Sparse.del s.loft.saveAreas wid } }
  let s := if w.rob.any (fun e => e.wait == .extBlock) then joinExtQueue s w.gcore wid else s
  let s := s.settleParked wid
  if late then strike s wid 1 else s

/-- The warps that are restored with a warp: its whole gang where none of it is on its core (R27). -/
def restoreSet (s : State) (wid : Nat) : List Nat :=
  let w := s.warp wid
  let gang := s.gangWarps w.grid (s.gangOf w.grid w.block)
  if gang.any (fun x => (s.warp x).onCore) then [wid] else gang

end State

/-- Is the context saved? -/
def isSaved (w : Warp) : Bool := w.residence == .saved || w.residence == .savedHung

/-- CONTEXT_RESTORE (R281); not while a MODE holds the tenant's contexts (R363). -/
def execContextRestore (wid : Nat) (s : State) : Host.Outcome State Fault Refusal :=
  let wids := s.restoreSet wid
  if !isSaved (s.warp wid) || !s.restorable wids || s.loft.mode.any (fun m => m.tenants.contains (s.warp wid).tenant) then .next s
  else .next (wids.foldl (fun s x => s.restoreWarp x) s)

/-! ## Pre-emption (R278, R280) -/

/-- The work of a queue's tenant and class that could be placed and finds no room, with the machine that retains its grid. -/
def wanting (s : State) (queue : Nat) : Option (State × Nat) :=
  (s.openPods.waitingWork queue).find? (fun x => x.1.placeable x.2 && x.1.noRoom x.2)

/-- A budgetless tenant that holds quads which the waiting work may use; the one of largest debt (R278). -/
def sliceTenant (s : State) (g : Nat) : Option Nat :=
  let ts := (List.range 16).filter (fun t => t != (s.grid g).tenant && !s.holdsBudget t &&
    (s.heldQuads t).any (fun q => (s.sliceQuads g).contains q))
  ts.foldl (fun (b : Option Nat) t =>
    match b with
    | none => some t
    | some x => if (s.budget t).debt > (s.budget x).debt then some t else some x) none

/-- Warps of a tenant resident on a quad. -/
def warpsOnQuad (s : State) (t q : Nat) : List Nat :=
  s.warpsWhere (fun w => w.onCore && w.tenant == t && gquadOf w.gcore == q)

/-- The latest ENQGT among a tenant's warps on a quad. -/
def latestOn (s : State) (t q : Nat) : Nat :=
  (warpsOnQuad s t q).foldl (fun m wid => max m (s.grid (s.warp wid).grid).enqgt) 0

/-- The quad on which the slice ends first: the gangs with the latest ENQGT (R278). -/
def sliceQuad (s : State) (g t : Nat) : Option Nat :=
  ((s.heldQuads t).filter (fun q => (s.sliceQuads g).contains q)).foldl (fun (b : Option Nat) q =>
    match b with
    | none => some q
    | some x => if latestOn s t q > latestOn s t x then some q else some x) none

/-- Tenant and quad of the slice that ends for the work of a queue. -/
def sliceFor (s : State) (queue : Nat) : Option (Nat × Nat) :=
  if !s.holdsBudget (queue / 4) then none
  else (wanting s queue).bind (fun x => (sliceTenant x.1 x.2).bind (fun t => (sliceQuad x.1 x.2 t).map (fun q => (t, q))))

/-- SLICE_END (R278): for the waiting work of a tenant with budget, one more quad of a tenant without. -/
def execSliceEnd (queue : Nat) (s : State) : Host.Outcome State Fault Refusal :=
  match sliceFor s queue with
  | none => .next s
  | some (t, q) => .next ((warpsOnQuad s t q).foldl (fun s wid => s.saveWarp wid) s)

/-- The first of two warps in the order of victims (R280). -/
def evictedBefore (s : State) (a b : Warp) : Bool :=
  let key := fun (w : Warp) =>
    (Rec.prio (s.recordOf w), (if s.holdsBudget w.tenant then 1 else 0), (s.grid w.grid).enqgt, w.warpNo)
  let (pa, ba, ea, na) := key a
  let (pb, bb, eb, nb) := key b
  pa < pb || (pa == pb && (ba < bb || (ba == bb && (ea > eb || (ea == eb && na ≥ nb)))))

/-- Contexts in the order in which they are evicted. -/
def inVictimOrder (s : State) (wids : List Nat) : List Nat :=
  wids.foldl (fun (l : List Nat) wid =>
    let (a, b) := l.span (fun x => evictedBefore s (s.warp x) (s.warp wid))
    a ++ wid :: b) []

/-- The victims of a core in order. -/
def victimOrder (s : State) (g c : Nat) : List Nat :=
  inVictimOrder s ((s.residents c).filter (fun wid => s.evictable g (s.warp wid)))

/-- As few victims, in order, as make room for a block's slots, entries and tiles. -/
def takeVictims (need : Needs) (s : State) (held : Needs) : List Nat → Option (List Nat)
  | [] => if (held.plus need).withinCore then some [] else none
  | wid :: rest =>
    if (held.plus need).withinCore then some []
    else
      let n := Needs.ofWarp (s.warp wid)
      let held := { held with slots := held.slots - n.slots, entries := held.entries - n.entries, tiles := held.tiles - n.tiles }
      (takeVictims need s held rest).map (wid :: ·)

/-- The victims by which a core makes room for a block of the work; none where scratch or barriers are wanting. -/
def victimsOn (s : State) (g c : Nat) : Option (List Nat) :=
  let r := (s.grid g).record
  let need := Needs.ofRecord r
  if (s.heldOn c).bars + need.bars > 16 || (need.units != 0 && (s.runFor g c need.units).isNone) then none
  else takeVictims need s ((s.heldOn c).plus (s.reservedOn g c)) (victimOrder s g c)

/-- Cores on which partial eviction makes room for the work: they lack it, and with it every core of a place serves. -/
def evictionCores (s : State) (g : Nat) : List Nat :=
  let sets := ((s.couldPlaces g).map (fun p => gangCores p.1 p.2 (Rec.g (s.grid g).record))).filter (fun cs =>
    cs.all (fun c => (victimsOn s g c).isSome))
  (sets.flatten.eraseDups).filter (fun c => victimsOn s g c != some [])

/-- The cores of the set that a gang of the work uses with a core (R17): the sets of one size do not overlap. -/
def coreSet (s : State) (g core : Nat) : List Nat :=
  ((basesOf (s.grid g).record).map (fun b => gangCores (gquadOf core) b (Rec.g (s.grid g).record))).find? (·.contains core) |>.getD []

/-- The victims by which every core of a set makes room, with their core. -/
def setVictims (s : State) (g : Nat) (cores : List Nat) : List (Nat × List Nat) :=
  cores.map (fun c => (c, (victimsOn s g c).getD []))

/-- Save the rest of a gang of which a block has been evicted whole (R27). -/
def saveWholeGang (s : State) (w : Warp) : State :=
  let inBlock := s.warpsWhere (fun x => x.grid == w.grid && x.block == w.block && x.isMember)
  if inBlock.any (fun x => (s.warp x).onCore) then s
  else (s.gangWarps w.grid (s.gangOf w.grid w.block)).foldl (fun s x => s.saveWarp x) s

/-- Evict the victims of a set of cores, each counted on its core; gangs of which a block is gone whole follow (R27, R280). -/
def evictSet (s : State) (vs : List (Nat × List Nat)) : State :=
  let wids := vs.flatMap (·.2)
  let old := wids.map s.warp
  let s := old.foldl saveWholeGang (wids.foldl (fun s wid => s.saveWarp wid) s)
  vs.foldl (fun s v => s.updCore v.1 (fun c => { c with evictions := c.evictions + v.2.length })) s

/-- PARTIAL_EVICTION (R280): room for a queue's waiting work on a core whose eviction count is smallest, and on the other cores of the set
that a gang of several blocks uses with it. The count is that of the
warps taken on the core by partial eviction since reset, the rest of a gang not among them (log entry 103, DESIGN CHOICE). -/
def execPartialEviction (core queue : Nat) (s : State) : Host.Outcome State Fault Refusal :=
  match wanting s queue with
  | none => .next s
  | some (x, g) =>
    let cores := evictionCores x g
    let least := cores.all (fun c => (s.core core).evictions ≤ (s.core c).evictions)
    if !cores.contains core || !least then .next s
    else
      .next (evictSet s (setVictims x g (coreSet x g core)))

/-! ## Contexts lost (R305, R308) -/

/-- SAVE_BOUND_EXPIRY (R305): the context is killed as by an uncorrectable error in its gang. -/
def execSaveBoundExpiry (wid : Nat) (s : State) : Host.Outcome State Fault Refusal :=
  let w := s.warp wid
  if !isSaved w then .next s
  else
    let gang := s.gangOf w.grid w.block
    .next ((s.killGang w.grid gang 2 0).afterKill w.grid [gang])

/-- Gangs with a block on a die: grid and gang. -/
def gangsOnDie (s : State) (die : Nat) : List (Nat × Nat) :=
  ((s.loft.blocks.filter (fun b => b.alive && dieOf b.gcore == die)).map (fun b => (b.grid, b.gang))).eraseDups

/-- Kill every gang with a block on a die; each grid follows the table of R308 once. -/
def killDie (s : State) (die : Nat) : State :=
  let gs := gangsOnDie s die
  let s := gs.foldl (fun s x => s.killGang x.1 x.2 1 0) s
  ((gs.map (·.1)).eraseDups).foldl (fun s g => s.afterKill g ((gs.filter (fun x => x.1 == g)).map (·.2))) s

/-- FATAL_DIE_ERROR (R308). -/
def execFatalDieError (die : Nat) (s : State) : Host.Outcome State Fault Refusal := .next (killDie s die)

end Sys2Proof.Machine
end

