-- ==== Sys2Proof/Machine/Clock.lean ====
section
/-! DEFINITION. GT and the budget periods (R27, R28, R274, R276, R277, R279, R338): the charge for quads as GT advances, what idle tenants
lend, and what comes about at the boundary of a period. -/

namespace Sys2Proof.Machine

namespace State

/-! ## Charges (R276, R277) -/

/-- Does a tenant have placeable work (R277)? -/
def hasWork (s : State) (t : Nat) : Bool :=
  (List.range 4).any (fun p => (s.waitingWork (4 * t + p)).any (fun x => x.1.placeable x.2))

/-- Idle tenants that share quads with a borrower and have unspent tokens (R277). -/
def lenders (s : State) (t : Nat) : List Nat :=
  (List.range 16).filter (fun l => l != t && (s.tenant l).defined && (s.heldQuads l).isEmpty && (s.budget l).tokens > 0 &&
    (s.heldQuads t).any (fun q => (s.partOf l).quads.getLsbD q) && !s.hasWork l)

/-- Borrow up to `n` quad-ns from one lender. -/
def borrowFrom (s : State) (t l n : Nat) : State × Nat :=
  let room := 2 * 1000 * (s.budget t).allot - (s.budget t).debt
  let x := min n (min (s.budget l).tokens.toNat room)
  let s := s.setBudget l { s.budget l with tokens := (s.budget l).tokens - x }
  (s.setBudget t { s.budget t with debt := (s.budget t).debt + x, borrowed := (s.budget t).borrowed + x }, n - x)

/-- Charge `n` quad-ns to a tenant: its own tokens first, then what idle tenants lend; the rest is uncharged. Of several lenders, and of
several borrowers, the one of lowest number comes first (log entry 102, DESIGN CHOICE). -/
def chargeTenant (s : State) (t n : Nat) : State :=
  let own := min n (s.budget t).tokens.toNat
  let s := s.setBudget t { s.budget t with tokens := (s.budget t).tokens - own }
  if n ≤ own then s else ((s.lenders t).foldl (fun (x : State × Nat) l => x.1.borrowFrom t l x.2) (s, n - own)).1

/-- GT goes on to `g` within a period: every tenant is charged for the quads it holds, and frames whose horizon has passed are FREE
(R330, R347). -/
def charge (s : State) (g : Nat) : State :=
  if g ≤ s.gt then s
  else
    let s := (List.range 16).foldl (fun s t =>
      let q := (s.heldQuads t).length
      if q = 0 then s else s.chargeTenant t (q * (g - s.gt))) s
    ({ s with gt := g } : State).freeAllPassed.openPods

/-! ## Promises kept at a boundary (R27, R28) -/

/-- Room for saved contexts that must be resumed: the warps on their cores that are evicted first give way, one after another; none of
those in `kept` does. -/
def makeWay (s : State) (wids kept : List Nat) : Nat → State
  | 0 => s
  | n + 1 =>
    if s.restorable wids then s
    else
      let cores := wids.map (fun x => (s.warp x).gcore)
      match inVictimOrder s (s.warpsWhere (fun w => w.onCore && cores.contains w.gcore) |>.filter (fun x => !kept.contains x)) with
      | [] => s
      | x :: _ => (saveWholeGang (s.saveWarp x) (s.warp x)).makeWay wids kept n

/-- Resume the contexts that are overdue (R27); `done` are those resumed at this boundary, which give way only where another does not fit
beside them: it is resumed too, and they are the first at the next boundary. -/
def resumeOverdue (s : State) (done : List Nat) : List Nat → State
  | [] => s
  | wid :: rest =>
    if !isSaved (s.warp wid) || s.loft.mode.any (fun m => m.tenants.contains (s.warp wid).tenant) then s.resumeOverdue done rest
    else
      let wids := s.restoreSet wid
      let s := s.makeWay wids (done ++ wids) 64
      let s := if s.restorable wids then s else s.makeWay wids wids 64
      if s.restorable wids then
        (wids.foldl (fun s x => s.restoreWarp x) s).resumeOverdue (done ++ wids) rest
      else s.resumeOverdue done rest

/-- Launch one gang of every stage that has items, output room and a place (R28). -/
def launchStages (s : State) : State :=
  (s.loft.pipelines.flatMap (fun (e : Nat × Pipeline) => (List.range e.2.stages.length).map (fun i => (e.1, i)))).foldl (fun s x =>
    match stageGrid s x.1 x.2 with
    | some (s', g) =>
      if !s.holdsBudget (s'.grid g).tenant then s
      else
        match (s'.gangPlaces g).find? (fun p => s'.gangFits g p.1 p.2) with
        | some p => stageAt s x.1 x.2 p.1 p.2
        | none => s
    | none => s) s

/-- Period `k` begins (R276): contexts overdue since the period before are resumed, and those for which no room could be made come first at
the next boundary; tokens are renewed, held-back classes, AGE and the quads of stages follow, and stages launch. -/
def boundary (s : State) : State :=
  let k := s.loft.period + 1
  let s := s.resumeOverdue [] s.loft.overdue
  let s := (List.range 16).foldl (fun s t =>
    s.setBudget t (renewBudget (s.tenant t).budget (s.budget t))) s
  let saved := (s.warpsWhere isSaved).filter (fun wid => s.holdsBudget (s.warp wid).tenant)
  let overdue := s.loft.overdue.filter saved.contains ++ saved.filter (fun wid => !s.loft.overdue.contains wid)
  let held := s.overShare
  let s : State := { s with loft := { s.loft with period := k, heldBack := held, lastTxb := s.net.txb, overdue } }
  let s := s.ageFrames
  let s := ((s.loft.pipelines.map (fun e => e.2.tenant)).eraseDups).foldl (fun s t => s.assignStages (s.quadsOf t) t) s
  s.launchStages

/-- GT goes on to `g`, through as many boundaries as lie before it. -/
def passTo (s : State) (g : Nat) : Nat → State
  | 0 => s.charge g
  | n + 1 =>
    let b := periodNs * (s.loft.period + 1)
    if g < b then s.charge g else ((s.charge b).boundary).passTo g n

/-- GT goes on to `g`. -/
def advanceTo (s : State) (g : Nat) : State :=
  { s.passTo g (g / periodNs - s.loft.period) with gt := max g s.gt }.freeAllPassed

end State

/-! ## The events -/

/-- PERIOD_BOUNDARY (R276): GT reaches the next multiple of 10 µs, and a period begins. -/
def execPeriodBoundary (s : State) : Host.Outcome State Fault Refusal :=
  .next ((s.charge (periodNs * (s.loft.period + 1))).boundary)

/-- TOKENS_REACH_ZERO (R277): the tenant no longer holds budget in this period. -/
def execTokensReachZero (tenant : Nat) (s : State) : Host.Outcome State Fault Refusal :=
  if (s.budget tenant).tokens > 0 then .next s
  else .next (s.setBudget tenant { s.budget tenant with spent := true })

end Sys2Proof.Machine
end

