-- ==== Sys2Proof/Machine/Links.lean ====
section
/-! DEFINITION. The links (R392 to R400, R413): received flits, check intervals, withdrawal, training and hand-back of
wavelengths, loss of lock. Direction number 2·link + direction, direction 1 inbound. -/

namespace Sys2Proof.Machine

namespace State

/-- FECCOR counts the errors injected up to now on every wavelength of a direction. -/
def settleAllErrors (s : State) (d : Nat) : State := (List.range 8).foldl (fun s w => s.settleErrors d w) s

/-- Replace a wavelength of a direction; where the active set changes, the flits carried at the old width are settled first (R395). -/
def setWave (s : State) (d w : Nat) (x : Wave) : State :=
  let s := s.settleErrors d w
  let since := if x.state.carries && !(s.wave d w).state.carries then s.gt else x.since
  let waves := Sparse.set {} (s.linkDir d).waves w { x with checked := s.gt, since }
  let s := if carrying { s.linkDir d with waves } == carrying (s.linkDir d) then s else s.settleFlits d
  s.setLinkDir d { s.linkDir d with waves }

/-- Wavelengths of a direction that are ACTIVE. -/
def activeCount (s : State) (d : Nat) : Nat := ((List.range 8).filter (fun w => (s.wave d w).state == .active)).length

/-- Bit errors of the check interval that ends now: those that the fibre made and those that injection placed. The wavelength carries
flits, or its test pattern, from `from_` on. -/
def intervalErrors (s : State) (d w errors from_ : Nat) : Nat :=
  errors + injectedErrors (s.wave d w) (max from_ (s.gt - checkNs)) s.gt

/-! ## DOWN and UP (R399, R409) -/

/-- The switch of a link. -/
def switchOf (link : Nat) : Nat := link / 2

/-- The other link of a fibre pair. -/
def siblingOf (link : Nat) : Nat := if link % 2 = 0 then link + 1 else link - 1

/-- Flits of a direction that were sent again or discarded: FLITS, and REDFLITS at fewer than 8 wavelengths, do not count them (R401). -/
def noteLost (s : State) (d n : Nat) : State :=
  let x := s.linkDir d
  s.setLinkDir d { x with
    lost := x.lost + BitVec.ofNat 64 n
    redLost := x.redLost + (if s.activeWaves d < 8 then BitVec.ofNat 64 n else 0) }

/-- Send flits again on an outbound direction, after those that it has accepted (R399). -/
def sendHeld (s : State) (d : Nat) (flits : List Flit) : State :=
  let x := s.linkDir d
  let sent := x.replay ++ (flits.zipIdx.map (fun (f : Flit × Nat) => { f.1 with seq := (x.seq + f.2) % 4096 }))
  (s.setLinkDir d { x with seq := (x.seq + flits.length) % 4096, replay := sent.drop (sent.length - 256)
                           replays := x.replays + BitVec.ofNat 64 flits.length }).noteLost d flits.length

/-- Send held flits on the other link of the fibre pair, or keep them while that is DOWN too (R399). -/
def passHeld (s : State) (link : Nat) (flits : List Flit) : State :=
  if s.linkDown (siblingOf link) then
    s.setLinkDir (2 * link) { s.linkDir (2 * link) with heldFlits := (s.linkDir (2 * link)).heldFlits ++ flits }
  else s.sendHeld (2 * siblingOf link) flits

/-- The flits of an outbound direction that its receiver still awaits, as the sender holds them for replay (R396). -/
def undelivered (x : LinkDir) : List Flit := x.replay.drop (x.replay.length - (x.seq + 4096 - x.expected) % 4096)

/-- Port-down begins where both links to a switch are DOWN (R409). -/
def beginPortDown (s : State) (link : Nat) : State :=
  let k := switchOf link
  if s.linkDown (2 * k) && s.linkDown (2 * k + 1) && !Sparse.mem s.net.portdown k then
    { s with net := { s.net with portdown := Sparse.insert k s.gt s.net.portdown, portdn := s.net.portdn + 1 } }
  else s

/-- A direction goes DOWN (R399): every wavelength retrains. Where its link was UP, it is out of use from now on, and the flits that its
outbound direction holds for replay go to the other link. -/
def goDown (s : State) (d : Nat) : State :=
  let link := d / 2
  let s := (s.settleAllErrors d).settleFlits d
  let x := s.linkDir d
  if x.down then s
  else
    let wasDown := s.linkDown link
    let waves := (List.range 8).foldl (fun (m : Sparse Wave) w =>
      Sparse.set {} m w { Sparse.get {} m w with state := .training, attempts := 0 }) x.waves
    let s := s.setLinkDir d { x with waves, down := true, downevt := x.downevt + 1, failedReplays := 0 }
    if wasDown then s
    else
      let out := s.linkDir (2 * link)
      let s := (s.setLinkDir (2 * link) { out with replay := [] }).passHeld link (undelivered out)
      (s.notify 0x05 link).beginPortDown link

/-- A link with a DOWN direction comes UP once both of its directions have at least 4 wavelengths ACTIVE (R399). What it and its DOWN
sibling hold for replay is sent first. What was in flight when it went DOWN has been passed on, so each receiver starts with the next
flit sent (log entry 107, DEDUCED). -/
def comeUp (s : State) (link : Nat) : State :=
  if s.linkDown link && s.activeCount (2 * link) ≥ 4 && s.activeCount (2 * link + 1) ≥ 4 then
    let s := [2 * link, 2 * link + 1].foldl (fun s d => if (s.linkDir d).down then (s.settleAllErrors d).settleFlits d else s) s
    let x := s.linkDir (2 * link)
    let y := s.linkDir (2 * siblingOf link)
    let waiting := if s.linkDown (siblingOf link) then y.heldFlits else []
    let s := s.setLinkDir (2 * link) { x with down := false, heldFlits := [], replay := [], expected := x.seq, failedReplays := 0 }
    let s := if waiting.isEmpty then s else s.setLinkDir (2 * siblingOf link) { y with heldFlits := [] }
    let s := s.setLinkDir (2 * link + 1) { s.linkDir (2 * link + 1) with down := false, resync := true, failedReplays := 0 }
    let s := s.sendHeld (2 * link) (x.heldFlits ++ waiting)
    let s : State := { s with net := { s.net with
      portdown := Sparse.del s.net.portdown (switchOf link), expired := s.net.expired.filter (· != switchOf link) } }
    s.notify 0x06 link
  else s

/-! ## Training (R398) -/

/-- A spare of the fibre direction takes a position (R398). -/
def takeSpare (s : State) (d w : Nat) (x : Wave) : State :=
  let s := s.setWave d w x
  let s := s.setLinkDir d { s.linkDir d with spareuse := (s.linkDir d).spareuse + 1 }
  let k := 2 * (d / 4) + d % 2
  let s : State := { s with net := { s.net with
    sparesUsed := Sparse.set 0 s.net.sparesUsed k (Sparse.get 0 s.net.sparesUsed k + 1) } }
  s.notify 0x03 (waveArg d w)

/-- A failed attempt: another, a spare, or FAILED. Injection acts on the wavelength that it names, and not on a spare (R413). -/
def failAttempt (s : State) (d w : Nat) : State :=
  let x := s.wave d w
  let n := x.attempts + 1
  if n < max 1 (s.linkDir d).trainmax then s.setWave d w { x with attempts := n }
  else if s.freeSpares d > 0 then s.takeSpare d w { spare := true, state := .training }
  else (s.setWave d w { x with attempts := n, state := .failed }).notify 0x04 (waveArg d w)

end State

/-! ## The events -/

/-- CHECK_INTERVAL_END (R397): `errors` bit errors beside the injected ones. FECCOR counts those of a WITHDRAWING wavelength too (R401). -/
def execCheckIntervalEnd (dir wave errors : Nat) (s : State) : Host.Outcome State Fault Refusal :=
  let x := s.wave dir wave
  let d := s.linkDir dir
  if dir ≥ 512 || wave ≥ 8 || !x.state.carries || d.down then .next s
  else
    let e := s.intervalErrors dir wave errors x.since
    let event := x.state == .active && e * 2 ^ 12 > d.errth
    let others := ((List.range 8).filter (fun w => w != wave &&
      ((s.wave dir w).state == .active || (s.wave dir w).state == .restoring))).length
    let s := s.setLinkDir dir { d with
      feccor := d.feccor + BitVec.ofNat 64 errors, berevt := d.berevt + (if event then 1 else 0)
      withdraw := d.withdraw + (if event && others ≥ 4 then 1 else 0) }
    if event && others ≥ 4 then
      -- the receiver asks for the withdrawal on the reverse direction
      let s := if dir % 2 = 1 then s.askWave dir wave else s
      .next ((s.setWave dir wave { x with state := .withdrawing }).notify 0x01 (State.waveArg dir wave))
    else .next s

/-- WITHDRAW_MSG (R398): the boundary is announced, and the wavelength carries no beat from there on. -/
def execWithdrawMsg (dir wave : Nat) (s : State) : Host.Outcome State Fault Refusal :=
  let x := s.wave dir wave
  let announced := if dir % 2 = 0 then s.announce dir else s
  .next (if x.state == .withdrawing then announced.setWave dir wave { x with state := .training, attempts := 0 } else s)

/-- TRAINING_ATTEMPT_END (R398): the attempt passes, or it fails. -/
def execTrainingAttemptEnd (dir wave errors : Nat) (s : State) : Host.Outcome State Fault Refusal :=
  let x := s.wave dir wave
  if dir ≥ 512 || wave ≥ 8 || x.state != .training then .next s
  else if s.intervalErrors dir wave errors 0 * 2 ^ 14 ≤ (s.linkDir dir).errth then
    .next (s.setWave dir wave { x with state := .ready })
  else .next (s.failAttempt dir wave)

/-- RESTORE_MSG (R398): RESTORE reaches the sender, which announces the boundary; at the boundary the wavelength is ACTIVE
again, a spare as its position's wavelength. An outbound direction reaches the boundary with the flit that it has announced, at the latest,
so changes of its width take effect in SEQ order (R411); the boundary of an inbound one is the switch's to announce. -/
def execRestoreMsg (dir wave : Nat) (s : State) : Host.Outcome State Fault Refusal :=
  let x := s.wave dir wave
  match x.state with
  | .ready =>
    let s := if dir % 2 = 1 then s.askWave dir wave else s.announce dir
    let boundary := if dir % 2 = 1 then none else some (s.linkDir dir).seq
    .next (s.setWave dir wave { s.wave dir wave with state := .restoring, boundary })
  | .restoring => .next (((s.settleErrors dir wave).restoreWave dir wave).comeUp (dir / 2))
  | .active => .next (s.comeUp (dir / 2))
  | _ => .next s

/-- LOSS_OF_LOCK (R399): on 5 or more wavelengths at once. -/
def execLossOfLock (dir : Nat) (lost : BitVec 8) (s : State) : Host.Outcome State Fault Refusal :=
  let n := ((List.range 8).filter (fun i => lost.getLsbD i)).length
  .next (if dir < 512 && n ≥ 5 then s.goDown dir else s)

/-- Flits that are sent again from the one that the receiver awaits (R396): those that this package holds, or, of an inbound direction, that
one and those that its sender had sent after it, 256 at most. -/
def resentFlits (s : State) (d : Nat) : Nat :=
  let x := s.linkDir d
  if d % 2 = 0 then min x.replay.length ((x.seq + 4096 - x.expected) % 4096) else 1 + Config.sentAfter s.freshCount % 256

/-- A flit fails its CRC at the receiver of a direction: it is discarded and replay is asked for; the eighth failed replay of one flit
takes the direction DOWN, and nothing is sent again (R396, R399). -/
def replayFlit (s : State) (d : Nat) : State :=
  let x := s.linkDir d
  let n := resentFlits s d
  let y := { x with crcerr := x.crcerr + 1, failedReplays := x.failedReplays + 1 }
  if x.failedReplays ≥ 8 then ((s.setLinkDir d y).noteLost d (d % 2)).goDown d
  else
    let s := (s.fresh.setLinkDir d { y with replays := y.replays + BitVec.ofNat 64 n }).noteLost d n
    if d % 2 = 1 then s.askReplay (d / 2) x.expected else s

/-- FLIT_RECEIVE (R396): the bytes of a flit, corrected by its FEC, at the receiver of a direction: this package's for an inbound one, the
switch's for an outbound one. An intact flit is delivered if it is the one awaited, so that each is delivered once and in order; the
messages that it carries to this package are the events of R403 to R409. -/
def execFlitReceive (dir : Nat) (bytes : List Byte) (s : State) : Host.Outcome State Fault Refusal :=
  let x := s.linkDir dir
  if dir ≥ 512 || x.down then .next s
  else if !crcOk bytes then .next (replayFlit s dir)
  else
    let f := parseFlit bytes
    if f.type == 0 || (f.seq != x.expected && !x.resync) then .next s
    else .next (s.setLinkDir dir { x with expected := (f.seq + 1) % 4096, failedReplays := 0, resync := false })

end Sys2Proof.Machine
end

