-- ==== Sys2Proof/Machine/Coherence.lean ====
section
/-! DEFINITION. What the switches and the other packages do to lines that this package homes or holds (R403 to R409): requests
of other packages, invalidations, back-invalidations, switch failures, rebuilds and port-down. -/

namespace Sys2Proof.Machine

/-! ## Requests of other packages (R403) -/

/-- Does a request need an answer of this package: a forward to it as holder, or an invalidation of it? -/
def needsUs (s : State) (r : DirRequest) : Bool :=
  match s.dirEntry? r.line with
  | none => false
  | some e =>
    match r.kind with
    | .rds | .homeRead => e.state != .shared && e.owner == s.net.pkg
    | .rdx | .homeWrite => e.holders.contains s.net.pkg || (e.state != .shared && e.owner == s.net.pkg)

/-- Bytes that reach a line's home, all together, with ECC; the shadows of its page take the old content first (R220, R335). -/
def writeHome (s : State) (line : Nat) (bytes : List (Nat × Byte)) : State :=
  (s.preserveLine line).putHome line (bytes.filter (fun b => b.1 < 256))

/-- The first sector of a line as this package has it, for an answer: from its remote-line frame, the bytes that it has written alone where
the sector is not valid; from the frame that holds the home's copy; or from HBM. -/
def answerData (s : State) (line : Nat) : State × List Byte :=
  let a := 256 * line
  let valid := fun (fid n : Nat) => if s.sectorValid fid n then (frameLoc fid (64 * n)).phys else a
  match s.remoteFrame line, s.homeFrame line with
  | some (fid, n), _ =>
    let here := (frameLoc fid (256 * n)).phys
    let (s, bs, _) := s.readBytes (valid fid (4 * n)) 64
    (s, bs.zipIdx.map (fun x => if s.isMasked (here + x.2) then s.byteAt (here + x.2) else x.1))
  | none, some fid =>
    let (s, bs, _) := s.readBytes (valid fid (4 * (line % 16))) 64
    (s, bs)
  | none, none =>
    let (s, bs, _) := s.readBytes a 64
    (s, bs)

/-- Answer a request with the line's data, if `wanted`. Which sector a request asks for is not told: the first stands for it (log entry
18). -/
def sendData (s : State) (r : DirRequest) (wanted : Bool := true) : State :=
  let (s, bs) := answerData s r.line
  s.sendAnswer 1 r.line r.pkg (if wanted then s.merged (256 * r.line) bs else [])

/-- This package's part in a resolution: data as the holder or the home of the line, the acknowledgement of an invalidation, or that of a write
at its home (R403). Whether an RDX wants data is not told: a free value (log entry 18). -/
def supply (s : State) (r : DirRequest) : State :=
  let home := pkgOf (256 * r.line) == s.net.pkg
  let owner := (s.dirEntry? r.line).any (fun e => e.state != .shared && e.owner == s.net.pkg)
  match r.kind with
  | .rds | .homeRead => if needsUs s r || home then sendData s r else s
  | .rdx =>
    let s := if needsUs s r then s.sendAnswer 2 r.line r.pkg else s
    if owner || (home && !(s.dirEntry? r.line).any (fun e => e.state != .shared)) then
      sendData s.fresh r (Config.wantsData s.freshCount) else s
  | .homeWrite =>
    let s := if needsUs s r then s.sendAnswer 2 r.line r.pkg else s
    if home then s.sendAnswer 1 r.line r.pkg else s

/-- The resolution of a request (R403). While its range is rebuilt it is performed at the home (R407). A package that is granted the line can
write it without a further request, so the shadows of the page take its content first (R335). -/
def resolveRequest (s : State) (r : DirRequest) : State :=
  let s := if r.kind == .homeRead then s else s.preserveLine r.line
  if s.rangeUncached (256 * r.line) then
    let home := pkgOf (256 * r.line) == s.net.pkg
    match r.kind with
    | .rdx | .homeWrite =>
      let s := writeHome s r.line r.bytes
      let s := if home then s.sendAnswer 1 r.line r.pkg else s
      { s with net := { s.net with rebuilds := s.net.rebuilds.map (fun x =>
          if x.failed == rangeOf (256 * r.line) && !x.written.contains r.line then { x with written := x.written ++ [r.line] } else x) } }
    | _ => if home then sendData s r else s
  else
    match r.kind with
    | .rds => (supply s r).dirRead r.line r.pkg
    | .rdx => (supply s r).dirOwn r.line r.pkg
    | .homeRead => (supply s r).dirHomeRead r.line
    | .homeWrite => writeHome ((supply s r).dirHomeWrite r.line) r.line r.bytes

/-- Serve the requests of a line in order, until one must wait for this package. Resolved from I, no request needs it. -/
def serveLine (s : State) (line : Nat) : Nat → State
  | 0 => s
  | fuel + 1 =>
    match s.net.requests.find? (fun r => r.line == line) with
    | none => s
    | some r =>
      if needsUs s r && !s.rangeUncached (256 * line) then s
      else
        let s := resolveRequest s r
        serveLine { s with net := { s.net with requests := s.net.requests.erase r } } line fuel

/-- Is the range of a line held by a rebuild (R407), or this package out of its switch's reach (R409)? -/
def switchHolds (s : State) (line : Nat) : Bool :=
  (s.routeOf (256 * line)).isNone ||
    (match s.rebuildOf (rangeOf (256 * line)) with
     | some r => r.phase == .hold
     | none => false)

/-- A request arrives at its switch. A line's requests are served one at a time, in order of arrival. -/
def arriveRequest (s : State) (r : DirRequest) : State :=
  let s : State := { s with net := { s.net with requests := s.net.requests ++ [r] } }
  if switchHolds s r.line then s else serveLine s r.line (s.net.requests.length + 1)

/-- The package is another one, and not the line's home. -/
def remoteTo (s : State) (line pkg : Nat) : Bool := pkg < 512 && pkg != s.net.pkg && pkg != pkgOf (256 * line)

/-- RDS (R403) by another package. -/
def execRds (line pkg : Nat) (s : State) : Host.Outcome State Fault Refusal :=
  .next (if remoteTo s line pkg then arriveRequest s { kind := .rds, line, pkg } else s)

/-- RDX (R403) by another package. -/
def execRdx (line pkg : Nat) (s : State) : Host.Outcome State Fault Refusal :=
  .next (if remoteTo s line pkg then arriveRequest s { kind := .rdx, line, pkg } else s)

/-- HOME_READ (R403) by the cores of a line's home, another package. -/
def execHomeRead (line : Nat) (s : State) : Host.Outcome State Fault Refusal :=
  let home := pkgOf (256 * line)
  .next (if home != s.net.pkg then arriveRequest s { kind := .homeRead, line, pkg := home } else s)

/-- A write is applied once at a home (R406). -/
def freshWrite (s : State) (pkg tag : Nat) : Bool := !s.net.applied.contains (pkg, tag)

/-- Remember a write that a home has applied. -/
def noteApplied (s : State) (pkg tag : Nat) : State := { s with net := { s.net with applied := s.net.applied ++ [(pkg, tag)] } }

/-- HOME_WRITE (R403): by the cores of the home, or by a package that stores to the line without a frame (log entry 20). -/
def execHomeWrite (line pkg tag : Nat) (bytes : List (Nat × Byte)) (s : State) : Host.Outcome State Fault Refusal :=
  .next (if pkg < 512 && pkg != s.net.pkg && freshWrite s pkg tag then
      arriveRequest (noteApplied s pkg tag) { kind := .homeWrite, line, pkg, bytes }
    else s)

/-- WB (R403): the owner's masked bytes are applied at the home, once; it keeps the line clean or drops it. -/
def execWb (line pkg tag : Nat) (keep : Bool) (bytes : List (Nat × Byte)) (s : State) : Host.Outcome State Fault Refusal :=
  let owns := (s.dirEntry? line).any (fun e => e.owner == pkg && (e.state == .owned || e.state == .modified))
  .next (if remoteTo s line pkg && owns && freshWrite s pkg tag then
      (writeHome (noteApplied s pkg tag) line bytes).dirWriteBack line pkg keep
    else s)

/-- EV (R403): a clean holder drops the line. -/
def execEv (line pkg : Nat) (s : State) : Host.Outcome State Fault Refusal :=
  .next (if remoteTo s line pkg then s.dirDrop line pkg else s)

/-- This package answers the request in progress on a line. -/
def answerRequest (s : State) (line : Nat) (kinds : List DirKind) : State :=
  match s.net.requests.find? (fun r => r.line == line) with
  | none => s
  | some r =>
    if !kinds.contains r.kind || switchHolds s line then s
    else
      let s := resolveRequest s r
      let s : State := { s with net := { s.net with requests := s.net.requests.erase r } }
      serveLine s line (s.net.requests.length + 1)

/-- FORWARDED_REQUEST (R403): this package supplies its valid sectors and masked bytes. -/
def execForwardedRequest (line : Nat) (s : State) : Host.Outcome State Fault Refusal :=
  .next (answerRequest s line [.rds, .homeRead])

/-- INVALIDATION (R403): this package loses the line, its masked bytes going home first, and acknowledges. -/
def execInvalidation (line : Nat) (s : State) : Host.Outcome State Fault Refusal :=
  .next (answerRequest s line [.rdx, .homeWrite])

/-- BACK_INVALIDATION (R405): the switch evicts the entry. Requests of the line wait for it, and resolve from I (R411). -/
def execBackInvalidation (line : Nat) (s : State) : Host.Outcome State Fault Refusal :=
  match s.dirEntry? line with
  | some e => .next (if switchHolds s line then s else serveLine ((s.preserveLine line).backInvalidate e) line (s.net.requests.length + 1))
  | none => .next s

/-! ## Switch failure and rebuild (R406, R407, R411) -/

/-- The switch that takes over the range of a failed one. -/
def nextHolder (s : State) (k : Nat) : Nat := ((failoverOrder k).find? (fun j => !s.switchFailed j)).getD k

/-- SWITCH_FAILURE (R406): the range of the switch passes on, with those that it was holding for others, whose rebuilds start again from HOLD
(R411); frozen copies of lines written before it are still to be invalidated (R407, R408). -/
def execSwitchFailure (switch : Nat) (s : State) : Host.Outcome State Fault Refusal :=
  if switch ≥ 128 || s.switchFailed switch then .next s
  else
    let s : State := { s with net := { s.net with
      swfail := s.net.swfail + 1, rebuilds := s.net.rebuilds ++ [{ failed := switch, holder := switch }] } }
    let s : State := { s with net := { s.net with rebuilds := s.net.rebuilds.map (fun r =>
      if r.holder == switch then { r with holder := nextHolder s r.failed, phase := .hold, reported := 0 } else r) } }
    .next (s.notify 0x08 (switch + 2 ^ 8 * nextHolder s switch))

/-- REQUEST_RESEND (R406): an access unanswered for 8 µs is sent again to the range's holder. -/
def execRequestResend (wid lane : Nat) (s : State) : Host.Outcome State Fault Refusal :=
  let due := fun (p : Pending) => p.wid == wid && p.lane == lane && p.since + 8000 * (p.resent + 1) ≤ s.gt
  let w := s.warp wid
  let again := s.net.pendings.filter due
  let s := again.foldl (fun s p => s.sendMessage w.tenant (s.classOf w) 0 (256 * p.line)) s
  .next { s with net := { s.net with pendings := s.net.pendings.map (fun p => if due p then { p with resent := p.resent + 1 } else p) } }

/-- Entries of a range. -/
def entriesOf (s : State) (k : Nat) : List DirEntry := s.net.directory.filter (fun e => rangeOf (256 * e.line) == k)

/-- Change the rebuild of a range. -/
def updRebuild (s : State) (k : Nat) (f : Rebuild → Rebuild) : State :=
  { s with net := { s.net with rebuilds := s.net.rebuilds.map (fun r => if r.failed == k then f r else r) } }

/-- Serve every line of a range that has requests. -/
def serveRange (s : State) (k : Nat) : State :=
  let lines := ((s.net.requests.map (·.line)).filter (fun l => rangeOf (256 * l) == k)).eraseDups
  lines.foldl (fun s l => if switchHolds s l then s else serveLine s l (s.net.requests.length + 1)) s

/-- The acknowledgement of a rebuild, with the list of the lines that this package's floors hold: 16 line numbers in a message (R407, log
entry 18). -/
def reportLines (s : State) (switch : Nat) (lines : List Nat) : State :=
  (List.range (lines.length / 16 + 1)).foldl (fun s i =>
    s.sendMessage 0 0 2 (switch * 2 ^ 14) (((lines.drop (16 * i)).take 16).flatMap (fun l => leBytes 8 l)) s.net.pkg) s

/-- Has this package's floors' acknowledgement reached the holder of a range, or been given up (R407, R409)? -/
def heardFrom (s : State) (k : Nat) : Bool := (s.routeOf (k * 2 ^ 14)).isSome || s.net.expired.contains (s.rangeHolder k)

/-- REBUILD_HOLD_END (R407): masked bytes have gone home, those of other packages as given by line and offset, and every
reported line has clean holders. -/
def execRebuildHoldEnd (switch : Nat) (bytes : List (Nat × Nat × Byte)) (s : State) : Host.Outcome State Fault Refusal :=
  match s.rebuildOf switch with
  | none => .next s
  | some r =>
    if r.phase != .hold || !heardFrom s switch then .next s
    else
      let es := entriesOf s switch
      let mine := es.filter (fun e => e.holders.contains s.net.pkg)
      let s := mine.foldl (fun s e => match s.remoteFrame e.line with
        | some (fid, n) => s.writeBackLine fid n
        | none => s) s
      let s := es.foldl (fun s e =>
        let theirs := (bytes.filter (fun b => b.1 == e.line)).map (·.2)
        if e.owner == s.net.pkg then s
        else if theirs.isEmpty then (s.preserveLine e.line).settleOwner e.line
        else writeHome s e.line theirs) s
      let s := reportLines s switch (mine.map (·.line))
      let s := es.foldl (fun s e => s.setDirEntry { e with state := .shared, owner := 0 }) s
      let s : State := { s with net := { s.net with rebuilt := s.net.rebuilt + BitVec.ofNat 64 mine.length } }
      .next (serveRange (updRebuild s switch (fun r => { r with phase := .uncached, reported := es.length })) switch)

/-- REBUILD_OPEN (R407): frozen copies of the lines written meanwhile are invalidated. -/
def execRebuildOpen (switch : Nat) (s : State) : Host.Outcome State Fault Refusal :=
  match s.rebuildOf switch with
  | none => .next s
  | some r =>
    if r.phase != .uncached then .next s
    else
      let s := r.written.foldl (fun s l => ((s.loseLine l false).dropDirEntry l).setExported l false) s
      let s := updRebuild s switch (fun r => { r with phase := .open_, written := [] })
      .next (serveRange (s.notify 0x09 (switch + 2 ^ 8 * r.reported)) switch)

/-! ## Port-down (R409) -/

/-- Poison a line where the home's copy of it stands. -/
def poisonHome (s : State) (line : Nat) : State :=
  (List.range 4).foldl (fun s i =>
    let n := 4 * (line % 16) + i
    match s.homeFrame line with
    | some fid => s.poison (if s.sectorValid fid n then (frameLoc fid (64 * n)).phys else 256 * line + 64 * i) 64
    | none => s.poison (256 * line + 64 * i) 64) s

/-- The entries of a switch's ranges forget a package; what it held O or M is poisoned at its home. -/
def forgetPackage (s : State) (switch pkg : Nat) : State :=
  let its := s.net.directory.filter (fun e => s.rangeHolder (rangeOf (256 * e.line)) == switch &&
    (e.holders.contains pkg || (e.state != .shared && e.owner == pkg)))
  its.foldl (fun s e =>
    let dirty := (e.state == .owned || e.state == .modified) && e.owner == pkg
    let s := if dirty then s.preserveLine e.line else s
    let s := if pkg == s.net.pkg then s.loseLine e.line false else s
    let s := if dirty then poisonHome s e.line else s
    let rest := e.holders.filter (· != pkg)
    if rest.isEmpty then (s.dropDirEntry e.line).setExported e.line false
    else if e.owner == pkg then s.setDirEntry { line := e.line, state := .shared, owner := 0, holders := rest }
    else s.setDirEntry { e with holders := rest }) s

/-- Serve the lines of every range that a switch serves. -/
def serveSwitch (s : State) (switch : Nat) : State :=
  ((List.range 128).filter (fun k => s.rangeHolder k == switch)).foldl serveRange s

/-- The requests of a package that wait at a switch have ended with its port-down (R409). -/
def dropRequests (s : State) (switch pkg : Nat) : State :=
  { s with net := { s.net with
      requests := s.net.requests.filter (fun r => !(r.pkg == pkg && s.rangeHolder (rangeOf (256 * r.line)) == switch)) } }

/-- PORT_DOWN_EXPIRY (R409), for this package's port or for that of another package, whose links this one does not see. -/
def execPortDownExpiry (port : Port) (s : State) : Host.Outcome State Fault Refusal :=
  let switch := port.switch
  let pkg := port.pkg
  if pkg != s.net.pkg then
    .next (if switch < 128 && pkg < 512 then serveSwitch (dropRequests (forgetPackage s switch pkg) switch pkg) switch else s)
  else if !Sparse.mem s.net.portdown switch || s.gt < Sparse.get 0 s.net.portdown switch + s.net.portto then .next s
  else
    let waiting := s.net.pendings.filter (fun p => s.rangeHolder (rangeOf (256 * p.line)) == switch)
    let s := (waiting.map (·.wid)).eraseDups.foldl (fun s wid =>
      if (s.warp wid).isMember && Sparse.mem s.warps wid then s.consume (s.warp wid).grid (s.warp wid).block 0 else s) s
    let s := forgetPackage s switch pkg
    let s : State := { s with net := { s.net with
      pendings := s.net.pendings.filter (fun p => !waiting.contains p)
      portdown := Sparse.insert switch s.gt (Sparse.del s.net.portdown switch)
      expired := s.net.expired.filter (· != switch) ++ [switch] } }
    .next (s.notify 0x07 switch)

end Sys2Proof.Machine
end

