-- ==== Sys2Proof/Machine/Approx.lean ====
section
/-! DEFINITION. The approximate functions (R168, R169): special inputs and exact cases as the tables give them, and
otherwise a free value of Config kept within the bound of R168, which a fixed-point reference of 160 bits decides
(log entry 12). -/

namespace Sys2Proof.Machine

namespace Approx

/-- The functions of R168. -/
inductive Fn where
  | rcp | rsq | ex2 | lg2 | sin | cos | tanh | sgm
  deriving DecidableEq, Repr

/-- The number by which Config tells the functions apart. -/
def Fn.code : Fn → Nat
  | .rcp => 0x8A
  | .rsq => 0x8B
  | .ex2 => 0x8C
  | .lg2 => 0x8D
  | .sin => 0x8E
  | .cos => 0x8F
  | .tanh => 0x90
  | .sgm => 0x91

/-! ## Fixed point: integers counted in 2^−160 -/

def one : Int := 2 ^ 160
def mul (a b : Int) : Int := a * b / one
def div (a b : Int) : Int := a * one / b
/-- `m · 2^e` in fixed point, cut off. -/
def ofNum (m : Nat) (e : Int) : Int :=
  if e + 160 ≥ 0 then (m : Int) * 2 ^ (e + 160).toNat else (m : Int) / 2 ^ (-(e + 160)).toNat

/-- Σ of `n` terms, each made from the one before. -/
def series (next : Nat → Int → Int) : Nat → Nat → Int → Int → Int
  | 0, _, _, acc => acc
  | n + 1, k, t, acc => series next n (k + 1) (next k t) (acc + t)

/-- ln 2 = Σ 1 / (k·2^k). -/
def ln2 : Int := (List.range 180).foldl (fun a k => a + one / (((k + 1) * 2 ^ (k + 1) : Nat) : Int)) 0

/-- atan (1/n) by its series. -/
def atanInv (n : Int) : Int :=
  (List.range 80).foldl (fun (a : Int) (k : Nat) =>
    a + (if k % 2 = 0 then 1 else -1) * (one / (n ^ (2 * k + 1) * (2 * k + 1 : Nat)))) 0

/-- π by Machin's formula. -/
def pi : Int := 16 * atanInv 5 - 4 * atanInv 239

/-- e^y for |y| ≤ 1. -/
def expSmall (y : Int) : Int := series (fun k t => mul t y / ((k : Int) + 1)) 60 0 one 0

/-- 2^x as a mantissa in [1, 2) and an exponent. -/
def exp2 (x : Int) : Int × Int :=
  let n := x / one
  (expSmall (mul (x - n * one) ln2), n)

/-- e^(−y) for y ≥ 0. -/
def expNeg (y : Int) : Int :=
  let (m, n) := exp2 (-(div y ln2))
  if n < -400 then 0 else m / 2 ^ (-n).toNat

/-- sin y for |y| ≤ 4. -/
def sinSmall (y : Int) : Int :=
  series (fun k t => -(mul (mul t y) y / (((2 * k + 2) * (2 * k + 3) : Nat) : Int))) 40 0 y 0

/-- cos y for |y| ≤ 4. -/
def cosSmall (y : Int) : Int :=
  series (fun k t => -(mul (mul t y) y / (((2 * k + 1) * (2 * k + 2) : Nat) : Int))) 40 0 one 0

/-- An angle brought within one turn around 0. -/
def reduce (y : Int) : Int :=
  let turn := 2 * pi
  y - (2 * y + turn) / (2 * turn) * turn

/-- log₂ of `m · 2^e`. -/
def log2 (m : Nat) (e : Int) : Int :=
  let t : Int := Nat.log2 m
  let y := ofNum m (-t)
  let z := div (y - one) (y + one)
  let z2 := mul z z
  let sum := (List.range 60).foldl (fun (a : Int × Int) k => (a.1 + a.2 / ((2 * k + 1 : Nat) : Int), mul a.2 z2)) (0, z)
  div (2 * sum.1) ln2 + (e + t) * one

/-! ## The reference and the bound -/

/-- The exact result of a function to some 100 bits: an integer and its exponent. -/
def reference (fn : Fn) (neg : Bool) (m : Nat) (e : Int) : Int × Int :=
  let x := if neg then -(ofNum m e) else ofNum m e
  match fn with
  | .rcp => ((if neg then -1 else 1) * (2 ^ 200 / (m : Int)), -e - 200)
  | .rsq =>
    let k : Nat := 240 + (if e % 2 = 0 then 0 else 1)
    ((isqrt (2 ^ k / m) 130 0 : Nat), (-e - (k : Int)) / 2)
  | .ex2 => let (f, n) := exp2 x; (f, n - 160)
  | .lg2 => (log2 m e, -160)
  | .sin => (sinSmall (reduce x), -160)
  | .cos => (cosSmall (reduce x), -160)
  | .tanh =>
    let t := expNeg (2 * ofNum m e)
    ((if neg then -1 else 1) * div (one - t) (one + t), -160)
  | .sgm =>
    let t := expNeg (ofNum m e)
    (if neg then div t (one + t) else div one (one + t), -160)

/-- Integers, with the exponent of the reference, between which the exact result lies: a generous bound of the reference's own error, and
never outside the open range of the function, whose ends large and small operands come closer to than any fixed point tells. -/
def bracket (fn : Fn) (m : Nat) (e : Int) (r : Int × Int) : Int × Int :=
  let err : Int := match fn with
    | .rcp | .rsq => 2
    | .sin | .cos => if ofNum m e ≤ one then 2 ^ 10 else 2 ^ 28
    | _ => 2 ^ 10
  match fn with
  | .sin | .cos | .tanh => (max (r.1 - err) (-one), min (r.1 + err) one)
  | .sgm => (max (r.1 - err) 0, min (r.1 + err) one)
  | _ => (r.1 - err, r.1 + err)

/-- The bound of R168 as a power of two and a count: ulps of FP32 at the result, or an absolute bound. -/
def tolerance (fn : Fn) (m : Nat) (e : Int) (r : Int × Int) : Nat × Int :=
  let ulp : Int := max (r.2 + (Nat.log2 r.1.natAbs : Int) - 23) (-149)
  let inHalfTwo := ofNum m e ≥ one / 2 && ofNum m e ≤ 2 * one
  match fn with
  | .rcp => (1, ulp)
  | .rsq | .ex2 => (2, ulp)
  | .lg2 => if inHalfTwo then (1, -22) else (2, ulp)
  | .sin | .cos | .tanh => (1, -21)
  | .sgm => (1, -22)

/-- Is a number within the bound of every value of a bracket, whose ends have the exponent `re`? -/
def within (c : FpVal) (ends : Int × Int) (re : Int) (tol : Nat × Int) : Bool :=
  match c with
  | .num neg m e =>
    let q := min (min e re) tol.2
    let x := signedNat neg (m * 2 ^ (e - q).toNat)
    let near := fun (r : Int) => (x - r * 2 ^ (re - q).toNat).natAbs ≤ tol.1 * 2 ^ (tol.2 - q).toNat
    near ends.1 && near ends.2
  | _ => false

/-- Is the result an exact case of R168, and which? -/
def exactCase (fn : Fn) (neg : Bool) (m : Nat) (e : Int) : Option Nat :=
  let power := m == 2 ^ Nat.log2 m
  let n := e + (Nat.log2 m : Int)
  match fn with
  | .rcp => if power && -126 ≤ -n && -n ≤ 127 then some (roundNum .fp32 .rne false neg 1 (-n)).1 else none
  | .rsq => if power && n % 2 = 0 then some (roundNum .fp32 .rne false false 1 (-n / 2)).1 else none
  | .ex2 =>
    if exactAt m e 0 then
      let x := signedNat neg (roundTo .tz neg m e 0)
      if -149 ≤ x && x ≤ 127 then some (roundNum .fp32 .rne false false 1 x).1 else none
    else none
  | .lg2 => if power then some (roundNum .fp32 .rne false (n < 0) n.natAbs 0).1 else none
  | _ => none

/-- A value within [−1, 1] made of a free one. -/
def unitValue (c : Nat) : Nat := if c % 2 ^ 31 ≤ 0x3F800000 then c else c / 2 ^ 31 * 2 ^ 31 + 0x3F000000 + c % 2 ^ 23

/-- NX, and UF for a result below 2^−126 in magnitude (R168). -/
def inexactFlags (bits : Nat) : FpFlags := FpFlags.nx ||| FpFlags.when (bits % 2 ^ 31 < 0x00800000) .uf

/-- A finite nonzero operand (R168). -/
def finite (fn : Fn) (x : Word) (neg : Bool) (m : Nat) (e : Int) : Nat × FpFlags :=
  let free := (Config.approx fn.code x).toNat
  if (fn == .rsq || fn == .lg2) && neg then (Fmt.fp32.nan, FpFlags.nv)
  else match exactCase fn neg m e with
  | some bits => (bits, 0)
  | none =>
    if fn == .ex2 && !neg && ofNum m e ≥ 128 * one then (Fmt.fp32.inf, FpFlags.of_ ||| FpFlags.nx)
    else if fn == .ex2 && neg && ofNum m e > 149 * one then (free % 2, FpFlags.uf ||| FpFlags.nx)
    else if (fn == .sin || fn == .cos) && ofNum m e > 2 ^ 16 * one then
      let bits := unitValue free
      (bits, inexactFlags bits)
    else
      let r := reference fn neg m e
      let near := roundNum .fp32 .rne false (r.1 < 0) r.1.natAbs r.2
      if near.1 % 2 ^ 31 == Fmt.fp32.inf then near
      else
        let bits := if within (.ofBits .fp32 free) (bracket fn m e r) r.2 (tolerance fn m e r) then free else near.1
        (bits, inexactFlags bits)

/-- The table of R169, for one operand. -/
def apply (fn : Fn) (x : Word) : Nat × FpFlags :=
  let inf := Fmt.fp32.inf
  let nan := Fmt.fp32.nan
  let sgn := fun (n : Bool) => Fmt.fp32.sign n
  match FpVal.ofBits .fp32 x.toNat with
  | .nan s => (nan, FpFlags.when s .nv)
  | .inf n =>
    match fn with
    | .rcp => (sgn n, 0)
    | .rsq => if n then (nan, FpFlags.nv) else (0, 0)
    | .ex2 => (if n then 0 else inf, 0)
    | .lg2 => if n then (nan, FpFlags.nv) else (inf, 0)
    | .sin | .cos => (nan, FpFlags.nv)
    | .tanh => (sgn n + 0x3F800000, 0)
    | .sgm => (if n then 0 else 0x3F800000, 0)
  | .num n 0 _ =>
    match fn with
    | .rcp | .rsq => (sgn n + inf, FpFlags.dz)
    | .ex2 | .cos => (0x3F800000, 0)
    | .lg2 => (sgn true + inf, FpFlags.dz)
    | .sin | .tanh => (sgn n, 0)
    | .sgm => (0x3F000000, 0)
  | .num n m e => finite fn x n m e

end Approx

end Sys2Proof.Machine
end

