-- ==== Sys2Proof/Machine/Float.lean ====
section
/-! DEFINITION. Class 1: floating-point and conversion instructions (R160 to R175). -/

namespace Sys2Proof.Machine

/-! ## Shapes -/

/-- The enabled flags that a lane raised trap FPX there (R159). -/
def fpOutcome (w : Warp) (r : List RegWrite × FpFlags) : LaneOutcome :=
  let t := r.2 &&& w.enabledFlags
  if t = 0 then .done r.1 none else .trap Cause.fpx 0 t.toNat

/-- The flags that completed lanes OR into FPFLAGS (R159). -/
def fpRaised (w : Warp) (rs : List (List RegWrite × FpFlags)) : FpFlags :=
  rs.foldl (fun a r => if r.2 &&& w.enabledFlags = 0 then a ||| r.2 else a) 0

/-- Perform a floating-point instruction lane by lane: register writes and flags (R158, R159, R163). -/
def performFp (i : Instr) (f : Fields) (s : State) (lane : Ctx → Nat → List RegWrite × FpFlags) :
    Host.Outcome State Fault Refusal :=
  perform i f s (fun c =>
    let rs := c.active.lanes.map (fun l => (l, lane c l))
    { s := s, outs := rs.map (fun r => (r.1, fpOutcome c.w r.2)), flags := fpRaised c.w (rs.map (·.2)) })

/-- .NB and .NC (R161). -/
def negIf (b : Bool) (x : FpVal) : FpVal := if b then x.negate else x

/-- The operands of an instruction as patterns: one element of 32 bits, two of 16, or one of 64. -/
structure FpShape where
  fmt : Fmt
  elems : Nat
  bits : Nat

def FpShape.single : FpShape := { fmt := .fp32, elems := 1, bits := 32 }
def FpShape.half : FpShape := { fmt := .fp16, elems := 2, bits := 16 }
def FpShape.brain : FpShape := { fmt := .bf16, elems := 2, bits := 16 }
def FpShape.double : FpShape := { fmt := .fp64, elems := 1, bits := 64 }

/-- Read an operand as a number. -/
def FpShape.read (h : FpShape) (w : Warp) (l : Nat) (o : Opnd) (imm : BitVec 32) : Nat :=
  if h.bits = 64 then (w.src64 l o imm).toNat else (w.src32 l o imm).toNat

/-- Write a result. -/
def FpShape.write (h : FpShape) (o : Opnd) (x : Nat) : List RegWrite :=
  if h.bits = 64 then dst64 o (BitVec.ofNat 64 x) else dst32 o (BitVec.ofNat 32 x)

/-- Element `e` of a pattern. -/
def FpShape.elem (h : FpShape) (x e : Nat) : FpVal := .ofBits h.fmt (x / 2 ^ (h.bits * e) % 2 ^ h.bits)

/-- Elements of a result with their flags joined. -/
def joinElems (bits : Nat) (rs : List (Nat × FpFlags)) : Nat × FpFlags :=
  rs.foldr (fun r a => (r.1 + 2 ^ bits * a.1, r.2 ||| a.2)) (0, 0)

/-- One lane of R163: `op` of the elements of A, B and C. -/
def fpLane (h : FpShape) (f : Fields) (op : Rounding → FpVal → FpVal → FpVal → Nat × FpFlags) (c : Ctx) (l : Nat) :
    List RegWrite × FpFlags :=
  let a := h.read c.w l f.sa f.imm
  let b := h.read c.w l f.sb f.imm
  let d := h.read c.w l f.sc f.imm
  let r := joinElems h.bits ((List.range h.elems).map (fun e =>
    op (.ofMod f.mod) (h.elem a e) (negIf (f.aux.getLsbD 0) (h.elem b e)) (negIf (f.aux.getLsbD 1) (h.elem d e))))
  (h.write f.dst r.1, r.2)

/-- The operations of R163. -/
def opAdd (fmt : Fmt) (r : Rounding) (a b _ : FpVal) : Nat × FpFlags := fpAdd fmt r a b
def opSub (fmt : Fmt) (r : Rounding) (a b _ : FpVal) : Nat × FpFlags := fpAdd fmt r a b.negate
def opMul (fmt : Fmt) (r : Rounding) (a b _ : FpVal) : Nat × FpFlags := fpMul fmt r a b
def opFma (fmt : Fmt) (r : Rounding) (a b c : FpVal) : Nat × FpFlags := fpFma fmt r a b c
def opDiv (fmt : Fmt) (r : Rounding) (a b _ : FpVal) : Nat × FpFlags := fpDiv fmt r a b
def opSqrt (fmt : Fmt) (r : Rounding) (a _ _ : FpVal) : Nat × FpFlags := fpSqrt fmt r a

/-- A 32-bit result of one 32-bit pattern. -/
def fpUnary (f : Fields) (g : Word → Nat × FpFlags) (c : Ctx) (l : Nat) : List RegWrite × FpFlags :=
  let r := g (c.w.src32 l f.sa f.imm)
  (dst32 f.dst (BitVec.ofNat 32 r.1), r.2)

/-! ## Arithmetic (R163) -/

/-- FADD. -/
def execFadd (f : Fields) (s : State) := performFp (.fadd f) f s (fpLane .single f (opAdd .fp32))
/-- FSUB. -/
def execFsub (f : Fields) (s : State) := performFp (.fsub f) f s (fpLane .single f (opSub .fp32))
/-- FMUL. -/
def execFmul (f : Fields) (s : State) := performFp (.fmul f) f s (fpLane .single f (opMul .fp32))
/-- FFMA. -/
def execFfma (f : Fields) (s : State) := performFp (.ffma f) f s (fpLane .single f (opFma .fp32))
/-- HADD2. -/
def execHadd2 (f : Fields) (s : State) := performFp (.hadd2 f) f s (fpLane .half f (opAdd .fp16))
/-- HMUL2. -/
def execHmul2 (f : Fields) (s : State) := performFp (.hmul2 f) f s (fpLane .half f (opMul .fp16))
/-- HFMA2. -/
def execHfma2 (f : Fields) (s : State) := performFp (.hfma2 f) f s (fpLane .half f (opFma .fp16))
/-- BADD2. -/
def execBadd2 (f : Fields) (s : State) := performFp (.badd2 f) f s (fpLane .brain f (opAdd .bf16))
/-- BMUL2. -/
def execBmul2 (f : Fields) (s : State) := performFp (.bmul2 f) f s (fpLane .brain f (opMul .bf16))
/-- BFMA2. -/
def execBfma2 (f : Fields) (s : State) := performFp (.bfma2 f) f s (fpLane .brain f (opFma .bf16))
/-- DADD. -/
def execDadd (f : Fields) (s : State) := performFp (.dadd f) f s (fpLane .double f (opAdd .fp64))
/-- DMUL. -/
def execDmul (f : Fields) (s : State) := performFp (.dmul f) f s (fpLane .double f (opMul .fp64))
/-- DFMA. -/
def execDfma (f : Fields) (s : State) := performFp (.dfma f) f s (fpLane .double f (opFma .fp64))

/-! ## Selection, comparison and classes (R164 to R166) -/

/-- FMIN and FMAX of one lane. -/
def fpMinMaxLane (max : Bool) (f : Fields) (c : Ctx) (l : Nat) : List RegWrite × FpFlags :=
  let r := fpMinMax max (c.w.src32 l f.sa f.imm).toNat (c.w.src32 l f.sb f.imm).toNat
  (dst32 f.dst (BitVec.ofNat 32 r.1), r.2)

/-- FMIN. -/
def execFmin (f : Fields) (s : State) := performFp (.fmin f) f s (fpMinMaxLane false f)
/-- FMAX. -/
def execFmax (f : Fields) (s : State) := performFp (.fmax f) f s (fpMinMaxLane true f)

/-- FP32, or FP64 with .D (R165, R166). -/
def FpShape.byD (f : Fields) : FpShape := if f.aux.getLsbD 5 then .double else .single

/-- FCMP (R165). -/
def execFcmp (f : Fields) (s : State) := performFp (.fcmp f) f s (fun c l =>
  let h := FpShape.byD f
  let a := h.elem (h.read c.w l f.sa f.imm) 0
  let b := h.elem (h.read c.w l f.sb f.imm) 0
  (dstP f.dst (combineBool f.combine (fpCompare f.scope a b) (c.w.srcP l f.sc)), signalling [a, b]))

/-- FCLASS (R166). -/
def execFclass (f : Fields) (s : State) := performFp (.fclass f) f s (fun c l =>
  let h := FpShape.byD f
  (dstP f.dst (f.imm.getLsbD (fpClass h.fmt (h.elem (h.read c.w l f.sa f.imm) 0))), 0))

/-! ## Division, roots and approximate functions (R167 to R169) -/

/-- FDIV. -/
def execFdiv (f : Fields) (s : State) := performFp (.fdiv f) f s (fpLane .single f (opDiv .fp32))
/-- FSQRT. -/
def execFsqrt (f : Fields) (s : State) := performFp (.fsqrt f) f s (fpLane .single f (opSqrt .fp32))
/-- FRCP. -/
def execFrcp (f : Fields) (s : State) := performFp (.frcp f) f s (fpUnary f (Approx.apply .rcp))
/-- FRSQ. -/
def execFrsq (f : Fields) (s : State) := performFp (.frsq f) f s (fpUnary f (Approx.apply .rsq))
/-- FEX2. -/
def execFex2 (f : Fields) (s : State) := performFp (.fex2 f) f s (fpUnary f (Approx.apply .ex2))
/-- FLG2. -/
def execFlg2 (f : Fields) (s : State) := performFp (.flg2 f) f s (fpUnary f (Approx.apply .lg2))
/-- FSIN. -/
def execFsin (f : Fields) (s : State) := performFp (.fsin f) f s (fpUnary f (Approx.apply .sin))
/-- FCOS. -/
def execFcos (f : Fields) (s : State) := performFp (.fcos f) f s (fpUnary f (Approx.apply .cos))
/-- FTANH. -/
def execFtanh (f : Fields) (s : State) := performFp (.ftanh f) f s (fpUnary f (Approx.apply .tanh))
/-- FSGM. -/
def execFsgm (f : Fields) (s : State) := performFp (.fsgm f) f s (fpUnary f (Approx.apply .sgm))

end Sys2Proof.Machine
end

