-- ==== Sys2Proof/Machine/Convert.lean ====
section
/-! DEFINITION. Class 1: conversions between formats (R170 to R175). -/

namespace Sys2Proof.Machine

/-- The format codes of CVT (R162). -/
def cvtShape (code : Nat) : FpShape :=
  match code with
  | 0 => .single
  | 1 => .double
  | 2 => { FpShape.half with elems := 1 }
  | _ => { FpShape.brain with elems := 1 }

/-- CVT: the source in the low half, or with .HI in the high one (R170). -/
def execCvt (f : Fields) (s : State) := performFp (.cvt f) f s (fun c l =>
  let src := cvtShape (f.aux.extractLsb' 0 2).toNat
  let dst := cvtShape (f.aux.extractLsb' 2 2).toNat
  let a := src.elem (src.read c.w l f.sa f.imm) (ofBool (f.aux.getLsbD 4))
  let r := fpConvert dst.fmt .rne false a
  (dst.write f.dst r.1, r.2))

/-- Lowest and highest value of an integer type (R150). -/
def intRange (long unsigned : Bool) : Int × Int :=
  let n := if long then 64 else 32
  if unsigned then (0, 2 ^ n - 1) else (-(2 ^ (n - 1)), 2 ^ (n - 1) - 1)

/-- F2I (R171). -/
def execF2i (f : Fields) (s : State) := performFp (.f2i f) f s (fun c l =>
  let h : FpShape := if f.aux.getLsbD 0 then .double else .single
  let (lo, hi) := intRange (f.aux.getLsbD 1) (f.aux.getLsbD 2)
  let (y, fl) := fpToInt (.ofMod f.mod) lo hi (h.elem (h.read c.w l f.sa f.imm) 0)
  (if f.aux.getLsbD 1 then dst64 f.dst (BitVec.ofInt 64 y) else dst32 f.dst (BitVec.ofInt 32 y), fl))

/-- I2F (R172). -/
def execI2f (f : Fields) (s : State) := performFp (.i2f f) f s (fun c l =>
  let h : FpShape := if f.aux.getLsbD 0 then .double else .single
  let x := if f.aux.getLsbD 1 then intOf (f.aux.getLsbD 2) (c.w.src64 l f.sa f.imm)
    else intOf (f.aux.getLsbD 2) (c.w.src32 l f.sa f.imm)
  let r := roundVal h.fmt (.ofMod f.mod) false (.ofInt x)
  (h.write f.dst r.1, r.2))

/-- The four FP32 elements of an s128 source (R160). -/
def fourElems (c : Ctx) (l : Nat) (o : Opnd) : List FpVal :=
  (List.range 4).map (fun i => .ofBits .fp32 (c.w.srcElem l o i).toNat)

/-- PACK8 (R173). -/
def execPack8 (f : Fields) (s : State) := performFp (.pack8 f) f s (fun c l =>
  let r := joinElems 8 ((fourElems c l f.sa).map (fpConvert .e4m3 .rne (f.aux.getLsbD 0)))
  (dst32 f.dst (BitVec.ofNat 32 r.1), r.2))

/-- The FP32 that a pattern of another format denotes exactly. -/
def widen (fmt : Fmt) (x : Nat) : Word := BitVec.ofNat 32 (roundVal .fp32 .rne false (.ofBits fmt x)).1

/-- UNPK8 (R174). -/
def execUnpk8 (f : Fields) (s : State) := performLanes (.unpk8 f) f s (fun c l =>
  let a := (c.w.src32 l f.sa f.imm).toNat
  let elem := fun (i : Nat) => widen .e4m3 (a / 2 ^ (8 * i) % 2 ^ 8)
  if f.aux.getLsbD 2 then dst32 f.dst (elem (f.aux.extractLsb' 0 2).toNat)
  else dst128 f.dst (elem 3 ++ (elem 2 ++ (elem 1 ++ elem 0))))

/-- TOS24 (R175). -/
def execTos24 (f : Fields) (s : State) := performFp (.tos24 f) f s
  (fpUnary f (fun a => fpConvert .s24 .rne false (.ofBits .fp32 a.toNat)))

/-- FROMS24 (R175). -/
def execFroms24 (f : Fields) (s : State) := performFp (.froms24 f) f s
  (fpUnary f (fun a => fpConvert .fp32 .rne false (.ofBits .s24 (a.toNat % 2 ^ 24))))

/-- PACK16 (R173). -/
def execPack16 (f : Fields) (s : State) := performFp (.pack16 f) f s (fun c l =>
  let fmt : Fmt := if f.aux.getLsbD 0 then .bf16 else .fp16
  let conv := fun (x : Word) => fpConvert fmt .rne false (.ofBits .fp32 x.toNat)
  let r := joinElems 16 [conv (c.w.src32 l f.sa f.imm), conv (c.w.src32 l f.sb f.imm)]
  (dst32 f.dst (BitVec.ofNat 32 r.1), r.2))

/-- PACKI8 (R173). -/
def execPacki8 (f : Fields) (s : State) := performFp (.packi8 f) f s (fun c l =>
  let conv := fun (x : FpVal) =>
    let r := if f.aux.getLsbD 0 then fpToByte 0 255 x else fpToByte (-128) 127 x
    ((BitVec.ofInt 8 r.1).toNat, r.2)
  let r := joinElems 8 ((fourElems c l f.sa).map conv)
  (dst32 f.dst (BitVec.ofNat 32 r.1), r.2))

end Sys2Proof.Machine
end

