-- ==== Sys2Proof/Machine/Matrix.lean ====
section
/-! DEFINITION. Class 2: operand maps, convergence registers, product steps, accumulate steps, tile moves and drains
(R187 to R204). -/

namespace Sys2Proof.Machine

/-! ## Maps and convergence registers (R187, R188) -/

/-- The k register that SB names. -/
def kNo (o : Opnd) : Nat :=
  match o with
  | .k n => n.val
  | _ => 0

/-- OMSET (R187). -/
def execOmset (f : Fields) (s : State) := performWarp (.omset f) f s (fun c =>
  let k := fun i => c.w.getK (kNo f.sb + i)
  { s, outs := doneAll c
    onWarp := fun w => w.setOm (mapNo f) (Map.store (k 3 ++ (k 2 ++ (k 1 ++ k 0)))) })

/-- OMLD (R187): one relaxed load of 32 bytes. -/
def execOmld (f : Fields) (s : State) := performWarp (.omld f) f s (fun c =>
  let va := c.w.getK (kNo f.sb)
  let mis := if va.toNat % 32 = 0 then none else some va
  match settle c mis none (checkSpans s c.agent c.low .read [{ va, len := 32 }]) with
  | .error r => r
  | .ok (s, places) =>
    let (s, bs, bad) := readPlaces s c.w.tenant (s.classOf c.w) places
    { s, outs := doneAll c, consumed := bad
      onWarp := fun w => w.setOm (mapNo f) (Map.store (leWord 256 bs)) })

/-- GIDX (R187). -/
def execGidx (f : Fields) (s : State) := performWarp (.gidx f) f s (fun c =>
  let (gen, greg) := match f.sb with
    | .v n => (true, n.val)
    | _ => (false, 0)
  { s, outs := doneAll c, onWarp := fun w => w.setOm (mapNo f) (Map.setGather (w.getOm (mapNo f)) gen greg) })

/-- CVDECL (R188). -/
def execCvdecl (f : Fields) (s : State) := performWarp (.cvdecl f) f s (fun c =>
  let members : LaneMask := match f.sb with
    | .k n => (c.w.getK n.val).setWidth 32
    | _ => c.active
  { s, outs := doneAll c, onWarp := fun w => w.setCv (cvNo f.dst) (cvOf members 0) })

/-- CVSIGN (R188). -/
def execCvsign (f : Fields) (s : State) := performWarp (.cvsign f) f s (fun c =>
  { s, outs := doneAll c
    onWarp := fun w =>
      let x := w.getCv (cvNo f.dst)
      w.setCv (cvNo f.dst) (cvOf (cvMembers x) (cvSigned x ||| (c.active &&& cvMembers x))) })

/-! ## Product steps (R189 to R192) -/

/-- Read both operands of a product step and compute its partial tile. -/
def productStep (f : Fields) (s : State) (e n : Nat) (c : Ctx)
    (g : List (List Nat) → List (List Nat) → List Word × FpFlags) : Result :=
  let a := mapA c.w f
  let b := mapB c.w f
  let members := cvMembers (c.w.getCv (cvNo f.sc))
  let rowsA := if Map.gen a then gatherSpans c.w members a e n else mapSpans a e n
  let rowsB := mapSpans b e n
  let outside := if Map.gen a then outsideScratch rowsA else none
  let spans := (rowsA ++ rowsB).map (·.span)
  match settle c (misaligned e (rowsA ++ rowsB)) outside (checkSpans s c.agent c.low .read spans) with
  | .error r => r
  | .ok (s, _) =>
    match readRows c s (s.classOf c.w) e n none rowsA with
    | .error r => r
    | .ok (s, xs) =>
      match readRows c s (s.classOf c.w) e n none rowsB with
      | .error r => r
      | .ok (s, ys) =>
        let (t, fl) := g xs ys
        tileDone c f (useAnvil s c.w.gcore 64 false) fl (fun w => w.setTile f.dst t)

/-- A tile of elements with flags. -/
def tileWithFlags (g : Nat → Nat → Nat × FpFlags) : List Word × FpFlags :=
  let cells := (List.range 64).flatMap (fun i => (List.range 64).map (g i))
  let t := cells.map (fun x => BitVec.ofNat 32 x.1)
  (if t.all (· == 0) then [] else t, cells.foldl (fun a x => a ||| x.2) 0)

/-- The product of two E4M3 elements in units of 2^−18, or none for a NaN. -/
def e4m3Int (x : Nat) : Option Int :=
  match FpVal.ofBits .e4m3 x with
  | .num neg m e => some (signedNat neg (m * 2 ^ (e + 9).toNat))
  | _ => none

/-- One element of MMA8 (R189). -/
def dotE4m3 (xs ys : List (Option Int × Bool)) : Nat × FpFlags :=
  let ps := List.zipWith (fun (x y : Option Int × Bool) => (x, y)) xs ys
  if ps.any (fun p => p.1.1.isNone || p.2.1.isNone) then (Fmt.fp32.nan, 0)
  else
    let sum := ps.foldl (fun (a : Int) p => a + p.1.1.getD 0 * p.2.1.getD 0) 0
    if sum = 0 then (Fmt.fp32.sign (ps.all (fun p => (p.1.1.getD 0 = 0 ∨ p.2.1.getD 0 = 0) && p.1.2 != p.2.2)), 0)
    else roundNum .fp32 .matrix false (sum < 0) sum.natAbs (-18)

/-- The tile of MMA8. -/
def tileE4m3 (a b : List (List Nat)) : List Word × FpFlags :=
  let read := fun (r : List (List Nat)) => (r.map (fun row => row.map (fun x => (e4m3Int x, x.testBit 7)))).toArray
  let xs := read a
  let ys := read b
  tileWithFlags (fun i j => dotE4m3 (xs.getD i []) (ys.getD j []))

/-- MMA8 (R189). -/
def execMma8 (f : Fields) (s : State) := performTile (.mma8 f) f s (fun c => productStep f s 1 128 c tileE4m3)

/-- One level of the summing tree: neighbours added and rounded (R190). -/
def treeLevel : List FpVal → List FpVal × FpFlags
  | x :: y :: rest =>
    let (v, fl) := addVal .matrix x y
    let (bits, fl') := roundVal .fp32 .matrix false v
    let (vs, fl'') := treeLevel rest
    (FpVal.ofBits .fp32 bits :: vs, fl ||| fl' ||| fl'')
  | l => (l, 0)

/-- The six levels of the tree (R190). -/
def treeSum (l : List FpVal) : Nat → List FpVal × FpFlags
  | 0 => (l, 0)
  | n + 1 =>
    let (l, fl) := treeLevel l
    let (l, fl') := treeSum l n
    (l, fl ||| fl')

/-- One element of MMAH and MMAB (R190). -/
def dotHalf (xs ys : List FpVal) : Nat × FpFlags :=
  let ps := List.zipWith mulVal xs ys
  let fl := ps.foldl (fun a p => a ||| p.2) (signalling (xs ++ ys))
  let (l, fl') := treeSum (ps.map (·.1)) 6
  let (bits, _) := roundVal .fp32 .matrix false (l.headD (.num false 0 0))
  (bits, fl ||| fl')

/-- The tile of MMAH and MMAB. -/
def tileHalf (fmt : Fmt) (a b : List (List Nat)) : List Word × FpFlags :=
  let read := fun (r : List (List Nat)) => (r.map (fun row => row.map (FpVal.ofBits fmt))).toArray
  let xs := read a
  let ys := read b
  tileWithFlags (fun i j => dotHalf (xs.getD i []) (ys.getD j []))

/-- MMAH (R190). -/
def execMmah (f : Fields) (s : State) := performTile (.mmah f) f s (fun c => productStep f s 2 64 c (tileHalf .fp16))
/-- MMAB (R190). -/
def execMmab (f : Fields) (s : State) := performTile (.mmab f) f s (fun c => productStep f s 2 64 c (tileHalf .bf16))

/-- The tile of MMAI (R191). -/
def tileInt8 (a b : List (List Nat)) : List Word × FpFlags :=
  let read := fun (r : List (List Nat)) => (r.map (fun row => row.map (signedOf 8))).toArray
  let xs := read a
  let ys := read b
  (tileOf (fun i j =>
    BitVec.ofInt 32 ((List.zipWith (· * ·) (xs.getD i []) (ys.getD j [])).foldl (· + ·) 0)), 0)

/-- MMAI (R191). -/
def execMmai (f : Fields) (s : State) := performTile (.mmai f) f s (fun c => productStep f s 1 128 c tileInt8)

/-! ## Accumulate steps and tile moves (R193 to R195) -/

/-- One element of SACC (R193). -/
def scaledSum (acc pf : Word) (sa sb : FpVal) : Nat × FpFlags :=
  let a := FpVal.ofBits .fp32 acc.toNat
  let p := FpVal.ofBits .fp32 pf.toNat
  let (x, fl) := mulVal p sa
  let (y, fl') := mulVal x sb
  let (z, fl'') := addVal .matrix a y
  let (bits, fl''') := roundVal .fp32 .matrix false z
  (bits, fl ||| fl' ||| fl'' ||| fl''' ||| signalling [a, p, sa, sb])

/-- SACC (R193). -/
def execSacc (f : Fields) (s : State) := performTile (.sacc f) f s (fun c =>
  match readRows c s (s.classOf c.w) 3 1 none (mapSpans (mapA c.w f) 3 1) with
  | .error r => r
  | .ok (s, scales) =>
    let sb := FpVal.ofBits .s24 ((c.w.getK f.xspecK).toNat % 2 ^ 24)
    let old := (c.w.tile f.dst).toArray
    let pf := (c.w.tile f.sb).toArray
    let (t, fl) := tileWithFlags (fun i j =>
      scaledSum (old.getD (64 * i + j) 0) (pf.getD (64 * i + j) 0) (.ofBits .s24 ((scales.getD i []).getD 0 0)) sb)
    tileDone c f (useAnvil s c.w.gcore 16 false) fl (fun w => w.setTile f.dst t))

/-- IACC (R194). -/
def execIacc (f : Fields) (s : State) := performTile (.iacc f) f s (fun c =>
  let t := tileOf (fun i j =>
    saturate32 false ((tileElem (c.w.tile f.dst) i j).toInt + (tileElem (c.w.tile f.sb) i j).toInt))
  tileDone c f (useAnvil s c.w.gcore 16 false) 0 (fun w => w.setTile f.dst t))

/-- ACCZ (R195). -/
def execAccz (f : Fields) (s : State) := performTile (.accz f) f s (fun c =>
  tileDone c f (useAnvil s c.w.gcore 4 false) 0 (fun w => w.setTile f.dst []))

/-- ACCLD (R195). -/
def execAccld (f : Fields) (s : State) := performTile (.accld f) f s (fun c =>
  match readRows c s (s.classOf c.w) 4 64 none (mapSpans (mapA c.w f) 4 64) with
  | .error r => r
  | .ok (s, rows) =>
    tileDone c f (useAnvil s c.w.gcore 16 true) 0 (fun w =>
      w.setTile f.dst (tileOfRows (rows.map (fun r => r.map (BitVec.ofNat 32))))))

/-- ACCST (R195). -/
def execAccst (f : Fields) (s : State) := performTile (.accst f) f s (fun c =>
  let m := mapA c.w f
  let rows := mapSpans m 4 64
  match settle c (misaligned 4 rows) none (checkSpans s c.agent c.low .write (rows.map (·.span))) with
  | .error r => r
  | .ok (s, places) =>
    let t := c.w.tile f.sb
    let s := writeRows c s (s.classOf c.w) 4 m places (fun i j => leBytes 4 (tileElem t i j).toNat)
    tileDone c f (useAnvil s c.w.gcore 16 true) 0 id)

/-- ACCMOV (R195). -/
def execAccmov (f : Fields) (s : State) := performTile (.accmov f) f s (fun c =>
  tileDone c f (useAnvil s c.w.gcore 16 false) 0 (fun w => w.setTile f.dst (c.w.tile f.sb)))

/-! ## Drains (R196 to R201) -/

/-- Bytes of an element of a FMT (R196). -/
def drainBytes (fmt : Nat) : Nat :=
  match fmt with
  | 1 => 2
  | 2 => 2
  | 3 => 1
  | _ => 4

/-- Convert a tile element to a FMT (R196). -/
def drainConvert (fmt : Nat) (x : Word) : Nat × FpFlags :=
  match fmt with
  | 0 => fpConvert .fp32 .matrix false (.ofBits .fp32 x.toNat)
  | 1 => fpConvert .bf16 .matrix false (.ofBits .fp32 x.toNat)
  | 2 => fpConvert .fp16 .matrix false (.ofBits .fp32 x.toNat)
  | 3 => fpConvert .e4m3 .matrix true (.ofBits .fp32 x.toNat)
  | _ => (x.toNat, 0)

/-- The elements (i, j) of a map in use (R179). -/
def usedElems (m : BitVec 256) (e : Nat) : List (Nat × Nat) :=
  (List.range (Map.usedRows m)).flatMap (fun i => (List.range (Map.usedCols m e 64)).map (fun j => (i, j)))

/-- The tile after the bound check, and how many of its used elements were out of range (R92, R197). -/
def boundTile (int : Bool) (b : Option (BitVec 128)) (m : BitVec 256) (e : Nat) (t : List Word) : List Word × Nat :=
  match b with
  | none => (t, 0)
  | some b =>
    (tileOf (fun i j => (boundElement int b (tileElem t i j)).1),
      ((usedElems m e).filter (fun x => (boundElement int b (tileElem t x.1 x.2)).2)).length)

/-- DRAIN (R196). -/
def execDrain (f : Fields) (s : State) := performTile (.drain f) f s (fun c =>
  let m := mapA c.w f
  let fmt := Map.fmt m
  let e := drainBytes fmt
  let rows := mapSpans m e 64
  match settle c (misaligned e rows) none (checkSpans s c.agent c.low .engineWrite (rows.map (·.span))) with
  | .error r => r
  | .ok (s, places) =>
    let b := drainBound f m
    let (t, n) := boundTile (fmt == 4) (b.map c.w.getBd) m e (c.w.tile f.sb)
    if boundTraps c.w b n then { s, outs := trapAll c Cause.bound 0 (b.getD 0) }
    else
      let fl := (usedElems m e).foldl (fun a x => a ||| (drainConvert fmt (tileElem t x.1 x.2)).2) 0
      if fl &&& c.w.enabledFlags ≠ 0 then tileDone c f s fl id
      else
        let s := writeRows c s (s.classOf c.w) e m places
          (fun i j => leBytes e (drainConvert fmt (tileElem t i j)).1)
        tileDone c f (useAnvil s c.w.gcore 16 true) fl (fun w => w.countBound b n))

/-- Is a frame that of the page which a copy of DRAM or REMOTE kind reaches (R201)? A frame that another page's entry names makes the page
none of FRAME kind; a grantee's page is of FRAME kind while its owner's is (R358). -/
def frameOfPage (s : State) (t vpn : Nat) (c : Cached) (fid : Nat) : Bool :=
  let fr := s.frame fid
  if s.grantee t vpn c.word0 then !s.isReplicated fr.owner fr.vpn else fr.owner == t && fr.vpn == vpn

/-- The frame or the scratch bytes that an addend's page names (R199, R201): only scratch, a FRAME page or a page that
holds a shadow. Through a stale copy of another kind the addend goes where the page is now, and is the page's if that is a frame of its own
(R247, R252). -/
def resolveAddend (s : State) (ag : Agent) (va : DWord) : State.Access :=
  match rangeOfVa va with
  | .global a =>
    let (s, c) := s.lookup ag.gcore ag.tenant (a / 4096)
    match c with
    | none => .park s
    | some c =>
      if !State.permits c (ag.tenant == 0) .engineWrite then .trap s Cause.permission
      else
        match s.tables.shadows.find? (fun sh => sh.tenant == ag.tenant && sh.vpn == a / 4096) with
        | some sh => .at s (.frame sh.fid (a % 4096))
        | none =>
          if Leaf.kind c.word0 == 2 || c.sharedFrame.any (fun fid => !frameOfPage s ag.tenant (a / 4096) c fid) then
            .trap s Cause.permission
          else if Leaf.kind c.word0 != 1 then
            match s.throughCopy ag 0 a c .engineWrite with
            | .at s p =>
              match p.bare with
              | .frame fid _ => if frameOfPage s ag.tenant (a / 4096) c fid then .at s p else .trap s Cause.permission
              | _ => .trap s Cause.permission
            | r => r
          else if !s.ownsColumn ag.tenant (colOfFid (Leaf.target c.word0)) then .trap s Cause.permission
          else .at s (.frame (Leaf.target c.word0) (a % 4096))
  | r =>
    match s.scratchPlace ag r with
    | some loc => .at s (.scratch loc)
    | none => .trap s Cause.permission

/-- Check the address of one addend. -/
def addAddend (ag : Agent) (k : Checked) (x : Span) : Checked :=
  match resolveAddend k.s ag x.va with
  | .at s p => { k with s, places := (x, p) :: k.places }
  | .trap s _ => { k with s, perm := k.perm <|> some x.va }
  | .park s => { k with s, park := k.park <|> some x.va }
  | .wait s => { k with s, wait := true }
  | .hole a => { k with hole := k.hole <|> some a }

/-- End of the lease of the copy through which a core reaches a page: the present where it holds none (R242). -/
def leaseOf (s : State) (gcore t : Nat) (va : DWord) : Nat :=
  match (s.core gcore).tcache.find? (s.liveCopy t (va.toNat / 4096)) with
  | some c => c.leaseEnd
  | none => s.gt

/-- The addend of an element, with its home and the lease that it carries. -/
def addendAt (s : State) (c : Ctx) (va : DWord) (p : State.Place) (x : Word) (ticket : Option Nat) (group : Nat) : Addend :=
  let sent : Addend := { wid := c.wid, tenant := c.w.tenant, gen := c.w.gen, loc := .hbm 0, fid := none, va, gcore := c.w.gcore,
                         lease := leaseOf s c.w.gcore c.w.tenant va, value := x, ticket, group }
  match p.bare with
  | .frame fid off => { sent with loc := frameLoc fid off, fid := some fid }
  | .scratch loc => { sent with loc }
  | .hbm a | .remote a => { sent with loc := .hbm a }
  | .forwarded _ _ => sent

/-- DRAINA (R198 to R201): the addends are sent; the homes add them later. -/
def execDraina (f : Fields) (s : State) := performTile (.draina f) f s (fun c =>
  let m := mapA c.w f
  let rows := mapSpans m 4 64
  let elems := usedElems m 4
  let spans := elems.map (fun x => ({ va := Map.rowAddr m x.1 + BitVec.ofNat 64 (4 * x.2), len := 4 } : Span))
  let k := spans.foldl (addAddend c.agent) { s }
  match settle c (misaligned 4 rows) none { k with places := k.places.reverse } with
  | .error r => r
  | .ok (s, places) =>
    let b := drainBound f m
    let (t, n) := boundTile false (b.map c.w.getBd) m 4 (c.w.tile f.sb)
    if boundTraps c.w b n then { s, outs := trapAll c Cause.bound 0 (b.getD 0) }
    else
      let ticket := if f.mod0 then some ((c.w.getK f.xspecK).toNat % 2 ^ 16) else none
      let group := s.loft.nextSerial
      let sent := List.zipWith (fun (x : Nat × Nat) (p : Span × State.Place) =>
        addendAt s c p.1.va p.2 (tileElem t x.1 x.2) ticket group) elems places
      let s : State := { s with
        mem := { s.mem with addends := s.mem.addends ++ sent }
        loft := { s.loft with nextSerial := group + 1 } }
      tileDone c f (useAnvil s c.w.gcore 16 true) 0 (fun w => w.countBound b n))

end Sys2Proof.Machine
end

