-- ==== Sys2Proof/Machine/Homes.lean ====
section
/-! DEFINITION. What goes on at the homes and in the floors beside the warps: the additions of DRAINA (R199, R200), sector
fills, moves, evictions and replicas (R216, R330 to R338), resizes (R214), copy engines (R287 to R291), and the register
writes whose events the table lists apart (R318, R398). -/

namespace Sys2Proof.Machine

/-! ## Additions (R199, R200) -/

/-- The place of an addend through the copy that its core holds: the visible page, or the shadow to which it was sent (R242, R298). -/
def lookAgain (s : State) (a : Addend) : State.Access :=
  let page := a.va.toNat / 4096
  match s.lookup a.gcore a.tenant page with
  | (s, none) => .park s
  | (s, some c) =>
    match s.tables.shadows.find? (fun sh => sh.tenant == a.tenant && sh.vpn == page && a.fid == some sh.fid) with
    | some sh => .at s (.frame sh.fid (a.va.toNat % 4096))
    | none => s.throughCopy { wid := a.wid, addend := true, tenant := a.tenant, gcore := a.gcore } 0 a.va.toNat c .engineWrite

/-- An addend whose lease has ended comes back to its core, which looks the page up again (R242). -/
def sendAgain (s : State) (a : Addend) : State.Access :=
  match lookAgain s a with
  | .park s' =>
    match s.completeWalk a.gcore a.tenant a.va.toNat with
    | .handed s => lookAgain s a
    | _ => .wait s'
  | r => r

/-- The access of an addend at its home: a remap is followed as for a store (R199). No register of the core changes (R242). -/
def addendAccess (s : State) (a : Addend) : State.Access :=
  match a.fid with
  | none => .at s (.scratch a.loc)
  | some fid =>
    if s.gt < a.lease then
      s.reach { wid := a.wid, tenant := a.tenant, gcore := a.gcore } 0 (a.va.toNat / 4096) (.frame fid (a.loc.phys % 4096))
        .engineWrite
    else
      match sendAgain s a with
      | .at s' p => .at (s'.updCore a.gcore (fun c => { c with tcmiss := (s.core a.gcore).tcmiss })) p
      | r => r

/-- y := RoundTZ32(y + x) at the addend's home (R199); none while the addend waits, and where the page no longer admits a store, for
which the spec states no result (log entry 90, DESIGN CHOICE). An uncorrectable word is counted at the read and again before its partial
write (log entry 111, DESIGN CHOICE). -/
def applyAddend (s : State) (a : Addend) : Option State :=
  match addendAccess s a with
  | .at s p =>
    let (s, bs, _) := s.readAt a.tenant 0 p 4
    let (v, _) := addVal .matrix (.ofBits .fp32 (leNat bs)) (.ofBits .fp32 a.value.toNat)
    let (y, _) := roundVal .fp32 .matrix false v
    let s := s.writeAt a.tenant 0 p.bare (leBytes 4 y)
    some (if Sparse.mem s.warps a.wid then s.noteWrite a.wid p else s)
  | _ => none

/-- Take the addend at a place in the list. -/
def takeAddend (s : State) (n : Nat) : Option (State × Addend) :=
  match s.mem.addends[n]? with
  | some a => some ({ s with mem := { s.mem with addends := s.mem.addends.eraseIdx n } }, a)
  | none => none

/-- DRAINA_ADDITION (R199): one addend without a ticket, in no promised order. -/
def execDrainaAddition (n : Nat) (s : State) : Host.Outcome State Fault Refusal :=
  match takeAddend s n with
  | some (s', a) => .next (if a.ticket.isNone then (applyAddend s' a).getD s else s)
  | none => .next s

/-- The 256-byte line in which an addend falls now (R200). A group whose page has gone to its backing meets the counter of the line there,
which starts at 0: the spec gives counters to frames and scratch alone (log entry 90, DESIGN CHOICE). -/
def addendLine (s : State) (a : Addend) : Nat :=
  match addendAccess s a with
  | .at _ p => State.placePhys p / 256
  | _ => a.loc.phys / 256

/-- The home of a line: its bin column, or its HBM channel. -/
def lineHome (line : Nat) : Nat := (256 * line) / 2 ^ 24

/-- Ticketed groups that have reached a home: the oldest 16; further senders stall (R200). -/
def heldGroups (s : State) (home : Nat) : List (Nat × Nat) :=
  (((s.mem.addends.filter (fun a => a.ticket.isSome && lineHome (addendLine s a) == home)).map
    (fun a => (addendLine s a, a.group))).eraseDups).take 16

/-- The group at a line whose ticket is the line's next. -/
def dueGroup (s : State) (line : Nat) : Option Nat :=
  let next := Sparse.get 0 s.mem.tickets line
  ((heldGroups s (lineHome line)).find? (fun x => x.1 == line &&
    s.mem.addends.any (fun a => a.group == x.2 && a.ticket == some next && addendLine s a == line))).map (·.2)

/-- ORD_GROUP_APPLY (R200). -/
def execOrdGroupApply (line : Nat) (s : State) : Host.Outcome State Fault Refusal :=
  match dueGroup s line with
  | none => .next s
  | some g =>
    let mine := fun (a : Addend) => a.ticket.isSome && a.group == g && addendLine s a == line
    let now := s.mem.addends.filter mine
    let next := (Sparse.get 0 s.mem.tickets line + 1) % 2 ^ 16
    let t : State := { s with mem := { s.mem with
      addends := s.mem.addends.filter (fun a => !mine a), tickets := Sparse.set 0 s.mem.tickets line next } }
    -- a group is applied in full or waits
    .next ((now.foldlM applyAddend t).getD s)

/-! ## Sector fills (R216) -/

/-- May a sector of the frame be fetched from what lies behind it? The target of a move is filled by the move alone. -/
def fillable (f : Frame) : Bool :=
  match f.state with
  | .mapped | .draining => true
  | .filling => f.role == .replica || f.role == .shadow
  | _ => false

/-- SECTOR_FILL (R216, R334, R335). -/
def execSectorFill (fid sector : Nat) (s : State) : Host.Outcome State Fault Refusal :=
  let fr := s.frame fid
  let far := fr.role == .remoteLine || pkgOf fr.backing != s.net.pkg
  if sector < 64 && fillable fr && !(far && s.remoteWaits (fr.backing + 64 * sector)) then .next (s.fillSector fid sector) else .next s

/-! ## Moves, evictions, replicas (R330 to R334, R338) -/

/-- GLEANER_POLICY_MOVE (R338): a move into a column of the tenant, or an eviction; a page of replicas collapses first. -/
def execGleanerPolicyMove (tenant vpn : Nat) (target : Option Nat) (s : State) : Host.Outcome State Fault Refusal :=
  match s.leafOf tenant vpn with
  | none => .next s
  | some (_, w0, _) =>
    let r : GleanerReq := { tenant, gen := (s.tenant tenant).gen, vpn, cols := target.toList.filter (s.ownsColumn tenant), repl := false, dram := target.isNone }
    if Leaf.valid w0 && Leaf.kind w0 == 2 && !Leaf.pin w0 && !Leaf.shd w0 && !Leaf.mig w0 then .next (s.giveUp tenant vpn)
    else if Leaf.mig w0 || placeAnswer s r w0 != .work then .next s else .next (startRequest s r).1

/-- A switch of a move of one kind. -/
def switchOf (s : State) (tenant vpn : Nat) (kind : MoveKind) (f : State → Move → State) : State :=
  match s.moveOf tenant vpn with
  | some m => if m.kind == kind then f s m else s
  | none => s

/-- MOVE_SWITCH (R331). -/
def execMoveSwitch (tenant vpn : Nat) (s : State) : Host.Outcome State Fault Refusal :=
  .next (switchOf s tenant vpn .place State.switchMove)

/-- EVICTION_SWITCH (R332). -/
def execEvictionSwitch (tenant vpn : Nat) (s : State) : Host.Outcome State Fault Refusal :=
  .next (switchOf s tenant vpn .evict State.switchEvict)

/-- REPLICA_SWITCH (R334). -/
def execReplicaSwitch (tenant vpn : Nat) (s : State) : Host.Outcome State Fault Refusal :=
  .next (switchOf s tenant vpn .replicate State.switchReplicate)

/-- REPLICA_COLLAPSE (R334): once GT has reached H. -/
def execReplicaCollapse (tenant vpn : Nat) (s : State) : Host.Outcome State Fault Refusal :=
  .next (switchOf s tenant vpn .collapse (fun s m => if m.horizon ≤ s.gt then s.finishCollapse m else s))

/-- FORWARDING_FREE (R330). -/
def execForwardingFree (fid : Nat) (s : State) : Host.Outcome State Fault Refusal := .next (s.freePassed fid)

/-! ## Resizes (R214) and register writes (R318, R398) -/

/-- SPLIT_RESIZE (R214). -/
def execSplitResize (col : Nat) (val : DWord) (s : State) : Host.Outcome State Fault Refusal := .next (s.splitWrite col val)

/-- RESIZE_COMPLETE (R214): the growth goes on, and completes with its last frame. -/
def execResizeComplete (col : Nat) (s : State) : Host.Outcome State Fault Refusal := .next (s.resizeStep col)

/-- ELAST_CLEAR (R318). -/
def execElastClear (die : Nat) (val : DWord) (s : State) : Host.Outcome State Fault Refusal :=
  .next (if val.getLsbD 63 then s.updDie die (fun d => { d with elast := d.elast &&& ~~~(1#64 <<< 63) }) else s)

/-- LCFG_WRITE (R398, R400). -/
def execLcfgWrite (dir : Nat) (val : DWord) (s : State) : Host.Outcome State Fault Refusal :=
  .next (s.setLinkDir dir (retrainFailed { s.linkDir dir with
    trainmax := (val.extractLsb' 32 4).toNat, errth := (val.extractLsb' 0 32).toNat }))

/-! ## Copy engines (R287, R288, R291) -/

/-- WAIN_REQUEST (R287): serial 0 fetches the next request, another serial advances that request. -/
def execWainRequest (core serial : Nat) (s : State) : Host.Outcome State Fault Refusal := s.engineStep (core % 384) serial

/-- WAIN_REQUEST_COMPLETE (R288). -/
def execWainRequestComplete (core serial : Nat) (s : State) : Host.Outcome State Fault Refusal :=
  .next (s.engineComplete (core % 384) serial)

/-- DIE_ENGINE_REQUEST (R291): as the two above, for a bulk engine of a die. -/
def execDieEngineRequest (die engine serial : Nat) (s : State) : Host.Outcome State Fault Refusal :=
  let id := 384 + 8 * (die % 8) + engine % 8
  match (s.engine id).progress.find? (fun r => r.serial == serial) with
  | some r => if r.checked && r.pos ≥ r.total then .next (s.completeRequest id r) else s.engineStep id serial
  | none => s.engineStep id serial

end Sys2Proof.Machine
end

