-- ==== Sys2Proof/Machine/Partitions.lean ====
section
/-! DEFINITION. Partition commands (R353 to R366): the command block, the partition, tenant and segment tables, mode changes
and tenant resets. SAVE and RESTORE stand in Images. -/

namespace Sys2Proof.Machine

/-! ## Bytes of the tables (R355 to R357) -/

/-- The 128 bytes of a partition entry (R355). -/
def partitionBytes (n : Nat) (p : Partition) : List Byte :=
  leBytes 12 p.quads.toNat ++ leBytes 4 0 ++ leBytes 48 p.cols.toNat ++ leBytes 48 p.chans.toNat ++
  leBytes 8 p.engs.toNat ++ leBytes 2 p.tenants.toNat ++ leBytes 1 n ++ leBytes 5 0

/-- The number in bytes `[i, i + n)` of a payload. -/
def bytesAt (bs : List Byte) (i n : Nat) : Nat := leNat ((bs.drop i).take n)

/-- A partition entry of a payload: its PART, whether its zero bytes are zero, and the entry. -/
def parsePartition (bs : List Byte) : Nat × Bool × Partition :=
  (bytesAt bs 122 1, bytesAt bs 12 4 == 0 && bytesAt bs 123 5 == 0,
    { quads := BitVec.ofNat 96 (bytesAt bs 0 12), cols := BitVec.ofNat 384 (bytesAt bs 16 48)
      chans := BitVec.ofNat 384 (bytesAt bs 64 48), engs := BitVec.ofNat 64 (bytesAt bs 112 8)
      tenants := BitVec.ofNat 16 (bytesAt bs 120 2) })

/-- The 64 bytes of a tenant entry (R356). -/
def tenantBytes (t : Tenant) : List Byte :=
  leBytes 8 t.ptroot ++ leBytes 2 t.gen ++ leBytes 1 t.part ++ leBytes 1 (ofBool t.defined + 2 * t.priocap) ++
  leBytes 4 t.budget ++ leBytes 4 t.lease ++ leBytes 4 t.sigma.toNat ++ leBytes 4 t.frameq ++ leBytes 2 t.replq ++
  leBytes 2 0 ++ leBytes 4 t.wdoglim ++ leBytes 4 t.savebnd ++ leBytes 24 0

/-- The fields that SETTEN writes are within the limits of R356. -/
def tenantFieldsOk (bs : List Byte) : Bool :=
  let root := bytesAt bs 0 8
  root % 4096 == 0 && root < 2 ^ 40 && bytesAt bs 11 1 < 8 && bytesAt bs 12 4 ≤ 960 && 256 ≤ bytesAt bs 16 4 &&
  bytesAt bs 16 4 ≤ 16384 && bytesAt bs 24 4 ≤ 1572864 && bytesAt bs 28 2 ≤ 4096 && bytesAt bs 30 2 == 0 &&
  bytesAt bs 40 24 == 0

/-- A tenant entry with the writable fields of a payload. -/
def withPayload (t : Tenant) (bs : List Byte) : Tenant :=
  { t with ptroot := bytesAt bs 0 8, defined := bitOf (bytesAt bs 11 1) 0, priocap := bitsOf (bytesAt bs 11 1) 2 1
           budget := bytesAt bs 12 4, lease := bytesAt bs 16 4, sigma := BitVec.ofNat 32 (bytesAt bs 20 4)
           frameq := bytesAt bs 24 4, replq := bytesAt bs 28 2 }

/-- A segment descriptor of a payload, if its fields are within limits (R357). A segment that runs past the global range is refused too: no
rule limits BASE + LEN (log entry 115, DESIGN CHOICE). -/
def parseSegment (bs : List Byte) : Option Segment :=
  let base := bytesAt bs 0 8
  let len := bytesAt bs 8 8
  if base % 4096 == 0 && len % 4096 == 0 && len ≤ 0x10000000 && base + len ≤ 2 ^ 56 && bytesAt bs 18 1 < 4 &&
      bytesAt bs 19 13 == 0 then
    some { base, len, grant := BitVec.ofNat 16 (bytesAt bs 16 2), acc := bytesAt bs 18 1 }
  else none

/-! ## The loft's accesses to command memory (R353) -/

/-- The place of a byte in a readable and writable SUPERVISOR page of tenant 0. -/
def commandPlace (s : State) (va : Nat) : Option State.Place :=
  if va ≥ 2 ^ 56 then none
  else
    match s.walk 0 va with
    | .leaf _ w0 _ => if Leaf.sup w0 && Leaf.r w0 && Leaf.w w0 then s.loftPlace 0 va else none
    | _ => none

/-- Read pieces of command memory, each within a sector and one after another: the bytes, and whether a word is uncorrectable; none
where a page fails. -/
def commandRead (s : State) (va : Nat) : List Nat → Option (State × List Byte × Bool)
  | [] => some (s, [], false)
  | n :: ns =>
    match commandPlace s va with
    | none => none
    | some p =>
      let (s, bs, bad) := s.readAt 0 0 p n
      match commandRead s (va + n) ns with
      | none => none
      | some (s, bs', bad') => some (s, bs ++ bs', bad || bad')

/-- Every one of `n` sectors of command memory can be reached. -/
def commandReach (s : State) (va n : Nat) : Bool := (List.range n).all (fun i => (commandPlace s (va + 64 * i)).isSome)

/-- Write bytes to command memory, sector by sector. -/
def commandWrite (s : State) (va : Nat) (bs : List Byte) : Nat → State
  | 0 => s
  | n + 1 =>
    let s := match commandPlace s va with
      | some p => s.writeAt 0 0 p (bs.take 64)
      | none => s
    commandWrite s (va + 64) (bs.drop 64) n

/-! ## Status (R354) -/

namespace Status

def ok : Nat := 0
def field : Nat := 1
def busy : Nat := 2
def conflict : Nat := 3
def nofit : Nat := 4
def tenant : Nat := 5

end Status

/-- What a command comes to. -/
inductive CommandEnd where
  /-- It completes with STATUS and DETAIL. -/
  | done (status detail : Nat)
  /-- It goes on later at the head of the queue. -/
  | waits
  /-- It is dropped: LAST is 1 and no result field is written (R353). -/
  | dropped
  deriving DecidableEq, Repr

/-- What a command has made of the machine. -/
abbrev CommandResult := State × CommandEnd

/-- DETAIL of R362. -/
def detail (kind index : Nat) : Nat := kind * 2 ^ 28 + index

/-- Extend a measurement register by the digest of a payload (R420). -/
def measure (s : State) (n : Nat) (payload : List Byte) : State :=
  { s with fw := { s.fw with meas := Sparse.set 0 s.fw.meas n (extendMeas (Sparse.get 0 s.fw.meas n) (sha384 payload)) } }

/-! ## The work of a tenant (R356, R362) -/

/-- Global core numbers of a tenant's contexts, resident or saved. -/
def contextCores (s : State) (t : Nat) : List Nat :=
  (s.warpsWhere (fun w => w.tenant == t && w.isMember)).map (fun wid => (s.warp wid).gcore)

/-- Cores of a tenant's blocks for which an engine has work: requests in progress, and kicks whose requests are still to come. -/
def Engine.coresFor (s : State) (t : Nat) (e : Engine) : List Nat :=
  ((e.progress.map (fun r => (r.grid, r.block))) ++ (e.queue.map (fun k => (k.grid, k.block)))).filterMap (fun x =>
    if (s.grid x.1).tenant == t then some ((s.block? x.1 x.2).map (·.gcore) |>.getD 0) else none)

/-- Cores of the blocks for which a wain has work. -/
def wainCores (s : State) (t : Nat) : List Nat := s.cores.flatMap (fun (e : Nat × Core) => e.2.wain.coresFor s t)

/-- Cores of the blocks for which a wain or a die engine has work. -/
def requestCores (s : State) (t : Nat) : List Nat :=
  wainCores s t ++ s.dies.flatMap (fun (e : Nat × Die) => e.2.engines.flatMap (fun (x : Nat × Engine) => x.2.coresFor s t))

/-- Pipelines held for a tenant. -/
def pipelinesOf (s : State) (t : Nat) : List Nat :=
  (s.loft.pipelines.filter (fun (e : Nat × Pipeline) => e.2.tenant == t)).map (·.1)

/-- Queues of a tenant that hold a record. -/
def heldQueues (s : State) (t : Nat) : List Nat :=
  ((List.range 4).filter (fun p => queueEntries s t p > 0)).map (fun p => 4 * t + p)

/-- The cause of BUSY for a list of tenants: row 7 of R362. -/
def busyCause (s : State) (ts : List Nat) : Option Nat :=
  ((least (ts.flatMap (contextCores s))).map (detail 1)) <|>
  ((least (ts.flatMap (heldQueues s))).map (detail 2)) <|>
  ((least (ts.flatMap (pipelinesOf s))).map (detail 3)) <|>
  ((least (ts.flatMap (requestCores s))).map (detail 4))

/-! ## The leaves of a tenant's page tables (R323) -/

/-- The valid entries of an interior table that lead on, with the virtual address they stand for. -/
def interiorNext (s : State) (table base step : Nat) : List (Nat × Nat) :=
  (List.range 512).filterMap (fun i =>
    let e := s.raw64 (s.local_ (table + 8 * i))
    if e.getLsbD 0 && (e &&& ~~~0xFFFFFFF001#64) == 0 then some (base + i * step, bitsOf e.toNat 39 12 * 4096) else none)

/-- The tables of the next level under a list of tables. -/
def tablesBelow (s : State) (step : Nat) (ts : List (Nat × Nat)) : List (Nat × Nat) :=
  ts.flatMap (fun x => interiorNext s x.2 x.1 step)

/-- Page numbers of a tenant with a valid leaf. -/
def leafPages (s : State) (t : Nat) : List Nat :=
  let l := [47, 38, 29, 20].foldl (fun ts b => tablesBelow s (2 ^ b) ts) [(0, (s.tenant t).ptroot)]
  (l.flatMap (fun x => (List.range 256).map (fun i => x.1 / 4096 + i))).filter (fun v => (s.leafOf t v).isSome)

/-! ## Frames given up at once (R360, R363, R365) -/

/-- Finish whatever the gleaner has in progress on a page. -/
def finishMove (s : State) (t vpn : Nat) : State :=
  match s.moveOf t vpn with
  | none => s
  | some m =>
    match m.kind with
    | .place => s.switchMove m
    | .evict => s.switchEvict m
    | .replicate => s.switchReplicate m
    | .collapse => s.finishCollapse m

/-- Finish what is in progress on a page, but no collapse before its horizon (R334). -/
def settleMove (s : State) (t vpn : Nat) : State :=
  match s.moveOf t vpn with
  | some m => if m.kind == .collapse && s.gt < m.horizon then s else finishMove s t vpn
  | none => s

/-- A page of a replica set begins its collapse, which is over at once where the horizon has passed. -/
def collapsePage (s : State) (t vpn : Nat) : State :=
  match s.leafOf t vpn with
  | some (_, w0, _) => if Leaf.kind w0 == 2 && !Leaf.mig w0 then settleMove (s.beginCollapse t vpn) t vpn else s
  | none => s

/-- A page gives up its frame: it is written back, its entry takes the kind of its backing, and the frame forwards there until the
horizon (R332). A page of a replica set collapses first (R334). -/
def evictPage (s : State) (t vpn : Nat) : State :=
  let s := collapsePage (settleMove s t vpn) t vpn
  match s.leafOf t vpn with
  | some (_, w0, _) =>
    if Leaf.kind w0 != 1 || Leaf.mig w0 then s
    else (finishMove (s.beginEvict t vpn) t vpn).freePassed (Leaf.target w0)
  | none => s

/-- A replica set that no entry names is given up once no copy can name it. -/
def dropOrphanSet (s : State) (e : Nat × ReplicaSet) : State :=
  if s.entryNames e.2.master || s.gt < s.horizon e.2.tenant e.2.vpn || (s.moveOf e.2.tenant e.2.vpn).isSome then s
  else (e.2.frames.foldl (fun s f => s.freeFrame f) s).dropSet e.2.tenant e.2.vpn

/-- Give up frames of a tenant: their pages are evicted, and frames that no entry names are written back too. -/
def evictFrames (s : State) (t : Nat) (p : Nat × Frame → Bool) : State :=
  let mine := fun (s : State) => s.tables.frames.filter (fun (e : Nat × Frame) =>
    e.2.owner == t && e.2.state != .free && e.2.role != .shadow && p e)
  let s := (((mine s).map (fun e => e.2.vpn)).eraseDups).foldl (fun s v => evictPage s t v) s
  let s := (s.tables.replicas.filter (fun (e : Nat × ReplicaSet) => e.2.tenant == t)).foldl dropOrphanSet s
  (mine s).foldl (fun s e => if e.2.role == .replica || s.entryNames e.1 then s else s.releaseFrame e.1) s

/-- A tenant still holds frames in service: FREE and FORWARDING ones hold nothing of it. -/
def holdsFrames (s : State) (t : Nat) (p : Nat × Frame → Bool) : Bool :=
  s.tables.frames.any (fun (e : Nat × Frame) => e.2.owner == t && e.2.state != .free && e.2.state != .forwarding && p e)

/-- Pages of a tenant for which the loft keeps a horizon. -/
def horizonPages (s : State) (t : Nat) : List Nat :=
  (s.tables.horizons.filter (fun e => e.1 / 2 ^ 44 == t)).map (fun e => e.1 % 2 ^ 44)

/-- Pages of a tenant that the gleaner or the loft works on. -/
def movingPages (s : State) (t : Nat) : List Nat := (s.tables.moves.filter (fun m => m.tenant == t)).map (·.vpn)

/-- Finish what can be finished on a tenant's pages: a recall of a page with MIG set waits for the switch (R340). -/
def settleMoves (s : State) (t : Nat) : State := (movingPages s t).foldl (fun s v => settleMove s t v) s

/-- A move of a tenant's page is not over; a collapse waits for its horizon alone. -/
def stillMoving (s : State) (t : Nat) : Bool := s.tables.moves.any (fun m => m.tenant == t && m.kind != .collapse)

/-- The loft recalls every translation of a tenant; HZN of its pages becomes the present time, and what forwards for them
ends (R340, R360, R363), except under a grantee's lease (`endHorizon`). -/
def recallAll (s : State) (t : Nat) : State :=
  let s := recallRange s t 0 (2 ^ 44)
  let s := (movingPages s t).foldl (fun s v => finishMove s t v) s
  let forwarding := (s.tables.frames.filter (fun (e : Nat × Frame) => e.2.owner == t && e.2.state == .forwarding)).map (fun e => e.2.vpn)
  ((leafPages s t ++ horizonPages s t ++ forwarding).eraseDups).foldl (fun s v => endHorizon s t v) s

/-- Discard the shadows of a tenant (R330, R360). -/
def dropShadows (s : State) (t : Nat) : State :=
  let mine := s.tables.shadows.filter (fun x => x.tenant == t)
  let s := mine.foldl (fun s x =>
    let s := s.freeFrame x.fid
    match s.leafOf t x.vpn with
    | some (a, w0, _) => s.setRaw64 a (Leaf.withBit w0 7 false)
    | none => s) s
  { s with tables := { s.tables with shadows := s.tables.shadows.filter (fun x => x.tenant != t) } }

/-! ## READPART, READTEN, SETTEN, SEGMENT -/

/-- A command that writes a payload of some sectors. -/
def givePayload (s : State) (data : Nat) (bs : List Byte) : CommandResult :=
  let n := bs.length / 64
  if commandReach s data n then (commandWrite s data bs n, .done Status.ok 0) else (s, .done Status.field 0)

/-- Steps 1 to 4 of the reset of a tenant (R360). -/
def beginReset (s : State) (t : Nat) : State :=
  let e := s.tenant t
  let s := s.setTenant t { e with gen := (e.gen + 1) % 2 ^ 16 }
  let held := s.loft.grids.filter (fun (x : Nat × Grid) => x.2.tenant == t && x.2.state != .retired && x.2.state != .refused)
  let pipes := pipelinesOf s t
  let s := held.foldl (fun s x => if pipes.contains x.1 then s else s.endGrid x.1 4) s
  let s := pipes.foldl (fun s p => (s.updGrid p (fun g => { g with state := .retired }))) s
  let s : State := { s with loft := { s.loft with
    pipelines := s.loft.pipelines.filter (fun (x : Nat × Pipeline) => x.2.tenant != t) } }
  let keep := fun (e : Engine) => ({ queue := e.queue.filter (fun k => (s.grid k.grid).tenant != t)
                                     progress := e.progress.filter (fun r => (s.grid r.grid).tenant != t) } : Engine)
  let s : State := { s with
    mem := { s.mem with addends := s.mem.addends.filter (fun a => a.tenant != t) }
    cores := s.cores.map (fun (x : Nat × Core) => (x.1, { x.2 with wain := keep x.2.wain }))
    dies := s.dies.map (fun (x : Nat × Die) => (x.1, { x.2 with
      engines := x.2.engines.map (fun (y : Nat × Engine) => (y.1, keep y.2))
      gleaner := x.2.gleaner.filter (fun r => r.tenant != t) })) }
  let s := (s.loft.blocks.filter (fun b => (s.grid b.grid).tenant == t && !b.alive)).foldl (fun s b => s.startClearing b.grid b.block) s
  { s with loft := { s.loft with resetting := some t } }

/-- RESET of a tenant (R360): it goes on until every frame of the tenant is FREE, which a remote line's directory (R404) or a grantee's lease
(R332, R358) can delay. Whether it is over. -/
def resetTenant (s : State) (t : Nat) : State × Bool :=
  let s := if s.loft.resetting == some t then s else beginReset s t
  let s := settleMoves s t
  if stillMoving s t then (s, false)
  else
    let s := (evictFrames (dropShadows (recallAll s t) t) t (fun _ => true)).freeAllPassed
    if s.tables.frames.any (fun (e : Nat × Frame) => e.2.owner == t && e.2.state != .free) then (s, false)
    else ({ s with loft := { s.loft with resetting := none } }, true)

/-- Bind a tenant to a partition or to none. -/
def bindTenant (s : State) (t : Nat) (dest : Option Nat) : State :=
  (List.range 16).foldl (fun s n =>
    let p := s.partition n
    let bit := BitVec.ofNat 16 (2 ^ t)
    s.setPartition n { p with tenants := if dest == some n then p.tenants ||| bit else p.tenants &&& ~~~bit }) s

/-- SETTEN (R356). A clear of DEFINED that has begun its reset is measured and tested no more (R420). -/
def setTenantEntry (s : State) (t : Nat) (bs : List Byte) : CommandResult :=
  let begun := s.loft.resetting == some t
  let s := if begun then s else measure s 6 bs
  let e := s.tenant t
  if !tenantFieldsOk bs then (s, .done Status.field 0)
  else
    let new := withPayload e bs
    if new.defined && !e.defined then
      ((bindTenant s t (some 0)).setTenant t { new with gen := 0, part := 0, wdoglim := 100000000, savebnd := 50000, limitFrom := 0 },
        .done Status.ok 0)
    else if !new.defined && e.defined then
      match if begun then none else busyCause s [t] with
      | some d => (s, .done Status.busy d)
      | none =>
        if t == 0 then (s, .done Status.field 0)
        else
          match resetTenant s t with
          | (s, false) => (s, .waits)
          | (s, true) => ((bindTenant s t none).setTenant t { new with gen := (s.tenant t).gen }, .done Status.ok 0)
    else (s.setTenant t new, .done Status.ok 0)

/-- Pages of grantees that an owner's segments covered and cover no longer, or otherwise than before: those that their page tables map, and
those of copies that the loft has handed out. -/
def uncovered (old new : State) (t : Nat) : List (Nat × Nat) :=
  let us := (List.range 16).filter (fun u => u != t && (List.range 8).any (fun n =>
    (old.segment t n).len != 0 && (old.segment t n).grant.getLsbD u))
  let mapped := us.flatMap (fun u => (leafPages old u).filterMap (fun v => match old.leafOf u v with
    | some (_, w0, w1) =>
      let before := old.sharedPage u w1.toNat
      if old.grantee u v w0 && before.any (fun x => x.owner == t) &&
          before.map (fun x => (x.owner, x.vpn, x.acc)) != (new.sharedPage u w1.toNat).map (fun x => (x.owner, x.vpn, x.acc)) then
        some (u, v)
      else none
    | none => none))
  let copies := (copiesHeld old).filter (fun c => c.tenant != t && old.grantee c.tenant c.vpn c.word0 &&
    (new.sharedPage c.tenant c.word1.toNat).map (fun x => x.acc) != some c.acc)
  (mapped ++ copies.map (fun c => (c.tenant, c.vpn))).eraseDups

/-- SEGMENT (R357): the grantees' translations of pages no longer covered, or covered otherwise, are recalled as TCRCL recalls them (R340),
with its waits. -/
def setSegment (s : State) (arg : Nat) (bs : List Byte) : CommandResult :=
  let t := arg / 256
  let n := arg % 256
  match parseSegment bs with
  | none => (measure s 6 bs, .done Status.field 0)
  | some g =>
    let new : State := { s with loft := { s.loft with segments := Sparse.set {} s.loft.segments (8 * t + n) (if g.len == 0 then {} else g) } }
    let pages := uncovered s new t
    let moving := fun (x : Nat × Nat) => anyMig s x.1 [x.2]
    let s := pages.foldl (fun s x => s.performThrough x.1 (inPages x.2 1)) s
    let new : State := { s with loft := new.loft }
    let withdraw := fun (s : State) => (pages.filter (fun x => !moving x)).foldl (fun s x => recallRange s x.1 x.2 1) s
    if pages.any (fun x => moving x || addendsThrough s x.1 x.2 1 || !(s.leftThrough x.1 (inPages x.2 1)).isEmpty) then (withdraw s, .waits)
    else (pages.foldl (fun s x => endHorizon s x.1 x.2) (withdraw (measure new 6 bs)), .done Status.ok 0)

/-! ## MODE (R362, R363) -/

/-- The partitions that result from the payload's entries. -/
def resultPartitions (s : State) (es : List (Nat × Partition)) : List Partition :=
  (List.range 16).map (fun n => match es.find? (fun e => e.1 == n) with
    | some e => e.2
    | none => s.partition n)

/-- How many partitions have bit `i` of a bitmap. -/
def owners (ps : List Partition) (bit : Partition → Bool) : List Nat :=
  (ps.zipIdx.filter (fun x => bit x.1)).map (·.2)

/-- The lowest index below `n` of which two partitions have the bit. -/
def doubly (ps : List Partition) (n : Nat) (bit : Partition → Nat → Bool) : Option Nat :=
  (List.range n).find? (fun i => (owners ps (fun p => bit p i)).length ≥ 2)

/-- Rows 2 to 6 of R362. Row 2 gives TENANT a DETAIL, where R368 has 0 for it: the table of R362 is followed (log entry 87, DEDUCED). -/
def modeConflict (s : State) (old new : List Partition) : Option (Nat × Nat) :=
  let undefinedTenant := (List.range 16).find? (fun t => !(s.tenant t).defined && new.any (fun p => p.tenants.getLsbD t))
  let twice := ((doubly new 96 (fun p i => p.quads.getLsbD i)).map (detail 1)) <|>
    ((doubly new 384 (fun p i => p.cols.getLsbD i)).map (detail 2)) <|>
    ((doubly new 384 (fun p i => p.chans.getLsbD i)).map (detail 3)) <|>
    ((doubly new 64 (fun p i => p.engs.getLsbD i)).map (detail 4))
  let unbound := (List.range 16).find? (fun t => (s.tenant t).defined && (owners new (fun p => p.tenants.getLsbD t)).length != 1)
  let passing := (List.range 384).find? (fun c =>
    match (owners old (fun p => p.chans.getLsbD c)).head?, (owners new (fun p => p.chans.getLsbD c)).head? with
    | some a, some b => a != b && (old.getD a {}).tenants &&& ~~~(new.getD b {}).tenants != 0
    | _, _ => false)
  let empty := (List.range 16).find? (fun n => (new.getD n {}).tenants != 0 && (new.getD n {}).quads == 0)
  (undefinedTenant.map (fun t => (Status.tenant, detail 5 t))) <|> (twice.map (fun d => (Status.conflict, d))) <|>
  (unbound.map (fun t => (Status.conflict, detail 5 t))) <|> (passing.map (fun c => (Status.conflict, detail 3 c))) <|>
  (empty.map (fun n => (Status.conflict, detail 6 n)))

/-- Does a unit pass from a tenant's partition to none, or to one to which the tenant is not bound? -/
def passesAway (old new : List Partition) (t : Nat) (bit : Partition → Bool) : Bool :=
  (owners old bit).any (fun a => (old.getD a {}).tenants.getLsbD t) &&
    !(owners new bit).any (fun b => (new.getD b {}).tenants.getLsbD t)

/-- Does a context of a tenant stand on a unit that passes to no partition, or to one to which the tenant is not bound (R362)? The unit may
have been another partition's. -/
def strands (old new : List Partition) (t : Nat) (bit : Partition → Bool) : Bool :=
  passesAway old new t bit || (owners old bit != owners new bit && !(owners old bit).isEmpty &&
    !(owners new bit).any (fun b => (new.getD b {}).tenants.getLsbD t))

/-- Row 8 of R362. -/
def strandedCore (s : State) (old new : List Partition) (ts : List Nat) : Option Nat :=
  least (ts.flatMap (fun t => (contextCores s t).filter (fun c =>
    strands old new t (fun p => p.quads.getLsbD (gquadOf c)) || strands old new t (fun p => p.cols.getLsbD c))))

/-- Columns that pass away from a tenant. -/
def lostColumn (old new : List Partition) (t col : Nat) : Bool := passesAway old new t (fun p => p.cols.getLsbD col)

/-- Step 2 of R363 must wait: a resize in a column that passes, a frame in service there (a shadow not published, a set that collapses),
a move in progress, or accesses and addends on their way through translations that step 4 recalls (R340). -/
def modeWaits (s : State) (old new : List Partition) (ts : List Nat) : Bool :=
  (List.range 384).any (fun c => (s.column c).busy &&
    owners old (fun p => p.cols.getLsbD c) != owners new (fun p => p.cols.getLsbD c)) ||
  ts.any (fun t => holdsFrames s t (fun e => lostColumn old new t (colOfFid e.1)) || stillMoving s t || addendsThrough s t 0 (2 ^ 44) ||
    !(s.leftThrough t (fun _ => true)).isEmpty)

/-- Step 1 of R363: placement stops, and with FORCE every resident context is saved. -/
def beginMode (s : State) (new : List Partition) (ts : List Nat) (force : Bool) : State :=
  let mine := if force then s.warpsWhere (fun w => ts.contains w.tenant && w.onCore) else []
  let s := mine.foldl (fun s wid => s.saveWarp wid) s
  { s with loft := { s.loft with mode := some { partitions := new, tenants := ts, saved := mine } } }

/-- Steps 3 to 5 of R363. -/
def installMode (s : State) (w : ModeWork) : State :=
  let new := w.partitions
  let ts := w.tenants
  let s := new.zipIdx.foldl (fun s x => s.setPartition x.2 x.1) s
  let s := (List.range 16).foldl (fun s t =>
    match (owners new (fun p => p.tenants.getLsbD t)).head? with
    | some n => s.setTenant t { s.tenant t with part := n }
    | none => s) s
  let s := ts.foldl recallAll s
  let off := fun (x : Target) => x.places.any (fun p => !(s.quadsOf (s.grid x.grid).tenant).contains p.2.1)
  let s : State := { s with loft := { s.loft with
    targets := s.loft.targets.filter (fun x => !off x), mode := none
    -- the quads of pipelines return to their tenants until the next assignment (R275)
    pipelines := s.loft.pipelines.map (fun (e : Nat × Pipeline) =>
      if ts.contains e.2.tenant then (e.1, { e.2 with stages := e.2.stages.map (fun st => { st with quads := [] }) }) else e) } }
  let back := w.saved.filter (fun wid => isSaved (s.warp wid))
  if s.restorable back then back.foldl (fun s wid => s.restoreWarp wid) s else s

/-- Steps 2 to 5 of R363, for an accepted MODE. -/
def advanceMode (s : State) (w : ModeWork) : CommandResult :=
  let old := (List.range 16).map s.partition
  let s := w.tenants.foldl (fun s t => evictFrames (settleMoves s t) t (fun e => lostColumn old w.partitions t (colOfFid e.1))) s
  let s := w.tenants.foldl (fun s t => s.performThrough t (fun _ => true)) s
  if modeWaits s old w.partitions w.tenants then (s, .waits) else (installMode s w, .done Status.ok 0)

/-- MODE (R362, R363). -/
def setMode (s : State) (n : Nat) (force : Bool) (bs : List Byte) : CommandResult :=
  let es := (List.range n).map (fun i => parsePartition ((bs.drop (128 * i)).take 128))
  let parts := es.map (·.1)
  let bad := es.any (fun (e : Nat × Bool × Partition) => !e.2.1 || e.1 > 15)
  if bad || parts.eraseDups.length != n then (s, .done Status.field 0)
  else
    let old := (List.range 16).map s.partition
    let new := resultPartitions s (es.map (fun e => (e.1, e.2.2)))
    match modeConflict s old new with
    | some (status, d) => (s, .done status d)
    | none =>
      let affected := (List.range 16).filter (fun p => old.getD p {} != new.getD p {})
      let ts := (List.range 16).filter (fun t =>
        affected.any (fun p => (old.getD p {}).tenants.getLsbD t || (new.getD p {}).tenants.getLsbD t))
      let busy := if force then (strandedCore s old new ts).map (detail 1) else busyCause s ts
      match busy with
      | some d => (s, .done Status.busy d)
      | none =>
        let s := beginMode (measure s 4 bs) new ts force
        match s.loft.mode with
        | some w => advanceMode s w
        | none => (s, .waits)

end Sys2Proof.Machine
end

