-- ==== Sys2Proof/Machine/Images.lean ====
section
/-! DEFINITION. SAVE and RESTORE of a tenant (R365, R366), and the performance of partition commands (R353, R354). -/

namespace Sys2Proof.Machine

/-! ## The scratch of saved blocks -/

/-- The number of byte `off` of a block's allocation. -/
def blockPhys (b : Block) (off : Nat) : Nat := (scratchLoc b.gcore (b.unit + off / 4096) (off % 4096)).phys

/-- The offset in a block's allocation of a byte that lies in it. -/
def blockOffset (b : Block) (p : Nat) : Nat :=
  let off := p - binBase
  (off % 2 ^ 24 / 4096 - b.unit) * 4096 + off % 4096

/-- Entries of a table by offset in a block's allocation; a key of the table stands for `unit` bytes. -/
def takeScratch (b : Block) (unit : Nat) (m : Sparse β) : Sparse β :=
  (m.filter (fun e => State.Block.holds b (e.1 * unit))).map (fun e => (blockOffset b (e.1 * unit), e.2))

/-- What a block's scratch holds. -/
def scratchImage (s : State) (b : Block) : ScratchImage :=
  { bytes := takeScratch b 1 s.mem.cells, ecc := takeScratch b 32 s.mem.ecc, full := takeScratch b 16 s.mem.full }

/-- Put a block's scratch back. -/
def putScratch (s : State) (b : Block) (x : ScratchImage) : State :=
  let s := x.bytes.foldl (fun s e => s.setByte (blockPhys b e.1) e.2) s
  let s := x.ecc.foldl (fun s e => s.setSyndrome (blockPhys b e.1) e.2) s
  x.full.foldl (fun s e => s.setFull (blockPhys b e.1) e.2) s

/-! ## SAVE (R365) -/

/-- The image of a tenant. -/
def imageOf (s : State) (t serial : Nat) : Image :=
  let grids := s.loft.grids.filter (fun (e : Nat × Grid) =>
    e.2.tenant == t && e.2.state != .retired && e.2.state != .refused)
  let mine := fun (g : Nat) => grids.any (fun e => e.1 == g)
  { serial, tenant := s.tenant t, segments := (List.range 8).map (s.segment t)
    quads := (s.partOf t).quads, cols := (s.partOf t).cols, grids
    queues := (List.range 4).map (fun p => s.queue (4 * t + p))
    blocks := (s.loft.blocks.filter (fun b => mine b.grid && b.alive)).map (fun b => (b, scratchImage s b))
    barriers := s.loft.barriers.filter (fun b => mine b.grid)
    warps := s.warps.filter (fun e => e.2.tenant == t && mine e.2.grid)
    areas := s.loft.saveAreas.filter (fun e => (s.warp e.1).tenant == t && mine (s.warp e.1).grid) }

/-- The bytes of an image as SAVE writes them: the format is the loft's own (log entry 14). -/
def imageBytes (serial : Nat) : List Byte :=
  (List.range (4096 * Config.imageUnits serial)).map (Config.imageByte serial)

/-- SAVE. A tenant refused for a shadow has DETAIL 0, since R362 has no kind for one, and a tenant that is not defined is saved as one that
holds nothing (log entry 116, DESIGN CHOICE). -/
def saveTenant (s : State) (t data : Nat) : CommandResult :=
  let resident := s.warpsWhere (fun w => w.tenant == t && w.onCore)
  let cause := ((least (resident.map (fun wid => (s.warp wid).gcore))).map (detail 1)) <|>
    ((least (pipelinesOf s t)).map (detail 3)) <|> ((least (wainCores s t)).map (detail 4))
  match cause with
  | some d => (s, .done Status.busy d)
  | none =>
    if s.tables.shadows.any (fun x => x.tenant == t) then (s, .done Status.busy 0)
    else
      let serial := s.loft.nextSerial + 1
      let bs := imageBytes serial
      if !commandReach s data (bs.length / 64) then (s, .done Status.field 0)
      else
        let s := evictFrames s t (fun _ => true)
        -- replica sets that still collapse
        if holdsFrames s t (fun _ => true) then (s, .waits)
        else
          let image := imageOf s t serial
          let s : State := { s with loft := { s.loft with nextSerial := serial, images := image :: s.loft.images } }
          (commandWrite s data bs (bs.length / 64), .done Status.ok (Config.imageUnits serial))

/-! ## RESTORE (R366) -/

/-- What a loft's bytes of an image mean, whichever loft wrote them, and the size in 4 KiB units that their first sector tells: the format
is the loft's own. Free values, log entry 14. -/
opaque foreignImage : List Byte → Option Image
opaque foreignUnits : List Byte → Nat

/-- Size in 4 KiB units of the image whose first sector stands at an address. -/
def unitsAt (s : State) (first : List Byte) : Nat :=
  match s.loft.images.find? (fun x => (imageBytes x.serial).take 64 == first) with
  | some x => Config.imageUnits x.serial
  | none => foreignUnits first

/-- The image whose bytes these are: one that SAVE has written here, or one of another loft. -/
def imageAt (s : State) (bs : List Byte) : Option Image :=
  (s.loft.images.find? (fun x => bs == imageBytes x.serial)) <|> foreignImage bs

/-- The partition in which a restored tenant stands: its own, or that of the image where RESTORE defines it (R356). -/
def restoredPart (s : State) (t : Nat) (x : Image) : Nat := (if (s.tenant t).defined then s.tenant t else x.tenant).part % 16

/-- Does every context fit the target: its quad and column in the tenant's partition and not withdrawn? -/
def imageFits (s : State) (t : Nat) (x : Image) : Bool :=
  let p := s.partition (restoredPart s t x)
  x.blocks.all (fun b =>
    let q := gquadOf b.1.gcore
    p.quads.getLsbD q && p.cols.getLsbD b.1.gcore && !(s.die (q / 12)).withdrawn.contains (q % 12))

/-- Give the blocks of an image their scratch; none where one finds no run. -/
def placeBlocks (s : State) (number : Nat → Nat) : List (Block × ScratchImage) → Option State
  | [] => some s
  | (b, x) :: rest =>
    match if b.units == 0 then some 0 else s.lowestRun b.gcore b.units with
    | none => none
    | some unit =>
      let b := { b with grid := number b.grid, unit }
      placeBlocks (putScratch { s with loft := { s.loft with blocks := s.loft.blocks ++ [b] } } b x) number rest

/-- Retain the grids of an image under new numbers: the old and the new number of each. -/
def retainGrids (s : State) (t gen : Nat) : List (Nat × Grid) → State × List (Nat × Nat)
  | [] => (s, [])
  | (old, g) :: rest =>
    let (s, new) := retain s { g with gen, tenant := t }
    let (s, ns) := retainGrids s t gen rest
    (s, (old, new) :: ns)

/-- A renaming: a number without a new one stays. -/
def rename (ns : List (Nat × Nat)) (n : Nat) : Nat :=
  match ns.find? (fun x => x.1 == n) with
  | some x => x.2
  | none => n

/-- The barriers and contexts of an image under their new numbers. The contexts become the named tenant's, whichever tenant's SAVE wrote
the image: the spec does not say that such a RESTORE is refused (log entry 14, DESIGN CHOICE). What %tenant and %pkg read stays (R86). -/
def putContexts (s : State) (t gen : Nat) (x : Image) (number : Nat → Nat) : State :=
  let wids := x.warps.zipIdx.map (fun w => (w.1.1, s.loft.nextWid + w.2))
  let bars := x.barriers.zipIdx.map (fun b => (b.1.id, s.loft.nextBarrier + b.2))
  let barriers := x.barriers.map (fun b => { b with
    id := rename bars b.id, grid := number b.grid, arr := b.arr.map (rename wids), pend := b.pend.map (rename wids) })
  let s : State := { s with loft := { s.loft with
    barriers := s.loft.barriers ++ barriers
    nextBarrier := s.loft.nextBarrier + bars.length
    nextWid := s.loft.nextWid + wids.length
    saveAreas := x.areas.foldl (fun m a => Sparse.insert (rename wids a.1) a.2 m) s.loft.saveAreas } }
  x.warps.foldl (fun s w => s.setWarp (rename wids w.1) { w.2 with
    grid := number w.2.grid, tenant := t, gen, notes := w.2.notes.map (fun n => { n with bar := rename bars n.bar }) }) s

/-- RESTORE of the image of some bytes: whole or not at all. No rule says how an HBM page comes to be retired, and none is here (log entry 117,
DESIGN CHOICE). Requests of the older generation on their way are not performed (R359). -/
def restoreImage (s : State) (t : Nat) (bs : List Byte) : CommandResult :=
  let e := s.tenant t
  if e.defined && (busyCause s [t]).isSome then (s, .done Status.tenant 0)
  else
    match imageAt s bs with
    | none => (s, .done Status.nofit 0)
    | some x =>
      let gen := (e.gen + 1) % 2 ^ 16
      let s' := if e.defined then s else bindTenant s t (some (restoredPart s t x))
      let s' := s'.setTenant t { x.tenant with limitFrom := 0, gen, part := restoredPart s t x, defined := true }
      let segments := x.segments.zipIdx.foldl (fun m g => Sparse.set {} m (8 * t + g.2) g.1) s'.loft.segments
      let s' : State := { s' with loft := { s'.loft with segments } }
      let retired := (leafPages s' t).any (fun v => match s'.leafOf t v with
        | some (_, _, w1) => s.mem.retired.contains (w1.toNat / 4096)
        | none => false)
      let (s', ns) := retainGrids s' t gen x.grids
      match if retired || !imageFits s t x then none else placeBlocks s' (rename ns) x.blocks with
      | none => (s, .done Status.nofit 0)
      | some s' =>
        let s' : State := { s' with mem := { s'.mem with addends := s'.mem.addends.filter (fun a => a.tenant != t) } }
        let s' := putContexts s' t gen x (rename ns)
        let s' := x.queues.zipIdx.foldl (fun s q => s.setQueue (4 * t + q.2) (s.queue (4 * t + q.2) ++ q.1.map (rename ns))) s'
        (s', .done Status.ok 0)

/-- RESTORE: the image is the command's payload and is read whole first (R353). -/
def restoreTenant (s : State) (t data : Nat) : CommandResult :=
  match commandRead s data [64] with
  | none => (s, .done Status.field 0)
  | some (s', first, bad) =>
    if bad then (s', .dropped)
    else
      match commandRead s data (List.replicate (64 * unitsAt s first) 64) with
      | none => (s, .done Status.field 0)
      | some (s, bs, bad) => if bad then (s, .dropped) else restoreImage s t bs

/-! ## Performing a command (R353, R354) -/

/-- The fields of a command block. -/
structure CommandBlock where
  op : Nat
  flags : Nat
  arg : Nat
  data : Nat
  /-- Every byte that must be zero is zero. -/
  clean : Bool
  deriving DecidableEq, Repr

/-- Read the fields of a block's bytes. -/
def parseCommand (bs : List Byte) : CommandBlock :=
  { op := bytesAt bs 0 1, flags := bytesAt bs 1 1, arg := bytesAt bs 8 4, data := bytesAt bs 16 8
    clean := bytesAt bs 3 1 == 0 && bytesAt bs 12 4 == 0 && bytesAt bs 32 32 == 0 }

/-- The checks of R354 that every command meets: OP, FLAGS, ARG, zero bytes, and the alignment of DATA, whose failure the rule gives no
status: it is FIELD, of a command without payload too (log entry 115, DESIGN CHOICE). -/
def commandOk (b : CommandBlock) : Bool :=
  b.clean && b.data % 64 == 0 && (b.flags == 0 || (b.flags == 1 && b.op == 4)) &&
    (match b.op with
     | 1 | 2 | 3 => b.arg < 16
     | 4 => 1 ≤ b.arg && b.arg ≤ 16
     | 5 | 7 | 8 => 1 ≤ b.arg && b.arg ≤ 15
     | 6 => b.arg / 256 < 16 && b.arg % 256 < 8
     | _ => false)

/-- The pieces of payload that a command reads. -/
def payloadPieces (b : CommandBlock) : List Nat :=
  match b.op with
  | 3 => [64]
  | 4 => List.replicate (2 * b.arg) 64
  | 6 => [32]
  | _ => []

/-- The command itself, with its payload. -/
def runCommand (s : State) (b : CommandBlock) (payload : List Byte) : CommandResult :=
  match b.op with
  | 1 => givePayload s b.data (partitionBytes b.arg (s.partition b.arg))
  | 2 => givePayload s b.data (tenantBytes (s.tenant b.arg))
  | 3 => setTenantEntry s b.arg payload
  | 4 => setMode s b.arg (b.flags == 1) payload
  | 5 =>
    match resetTenant s b.arg with
    | (s, true) => (s, .done Status.ok 0)
    | (s, false) => (s, .waits)
  | 6 => setSegment s b.arg payload
  | 7 => saveTenant s b.arg b.data
  | _ => restoreTenant s b.arg b.data

/-- New firmware takes over (R422): MEAS5 is extended with its image digest, and its bank is the active one. -/
def takeOver (s : State) : State :=
  let f := s.fw
  let bank := if f.activeB then f.bankA else f.bankB
  { s with fw := { f with activeB := !f.activeB, activateWaits := f.activateWaits - 1, activating := some s.gt, reached := false
                          nextDie := 0, meas := Sparse.set 0 f.meas 5 (extendMeas (Sparse.get 0 f.meas 5) (sha384 bank.image)) } }

/-- The bank that is not active. -/
def inactiveBank (f : Firmware) : Bank := if f.activeB then f.bankA else f.bankB

/-- An ACTIVATE that waits goes on once no partition command is in progress (R422). It waits for an earlier ACTIVATE to end too, and has no
effect where the bank is not valid by then: the spec says neither (log entry 61, DEDUCED). -/
def settleActivate (s : State) : State :=
  if s.fw.activateWaits = 0 || s.fw.activating.isSome then s
  else if (inactiveBank s.fw).valid then takeOver s
  else { s with fw := { s.fw with activateWaits := 0 } }

/-- The head of the command queue leaves: LAST, SEQ (R353); an ACTIVATE that waited for it goes on (R422). -/
def endCommand (s : State) (last : Nat) : State :=
  let s : State := { s with loft := { s.loft with
    pcmd := s.loft.pcmd.drop 1, pstatLast := last, pstatSeq := (s.loft.pstatSeq + 1) % 2 ^ 16, resetting := none } }
  settleActivate s

/-- Write the result fields of a command block (R354). -/
def writeResult (s : State) (addr status d : Nat) : State :=
  match commandPlace s addr with
  | none => s
  | some p =>
    let s := s.writeAt 0 0 (p.plus 4) (leBytes 4 d)
    let s := s.writeAt 0 0 (p.plus 24) (leBytes 8 s.gt)
    s.writeAt 0 0 (p.plus 2) (leBytes 1 status)

/-- What becomes of the head of the queue. -/
def completeCommand (addr : Nat) (r : CommandResult) : State :=
  match r.2 with
  | .done status d => endCommand (writeResult r.1 addr status d) status
  | .waits => r.1
  | .dropped => endCommand r.1 1

/-- The head of the queue keeps its block and payload as they were read (R353). -/
def keepTaken (s : State) (block payload : List Byte) : State :=
  match s.loft.pcmd with
  | c :: cs => { s with loft := { s.loft with pcmd := { c with taken := some (block, payload) } :: cs } }
  | [] => s

/-- Read the payload of the head of the queue, and perform it (R353): both have been read whole before the loft acts. -/
def takeCommand (s : State) (addr : Nat) (block : List Byte) : State :=
  let b := parseCommand block
  match commandRead s b.data (payloadPieces b) with
  | none => completeCommand addr (s, .done Status.field 0)
  | some (s, payload, bad) =>
    completeCommand addr (if bad then (s, .dropped) else runCommand (keepTaken s block payload) b payload)

/-- Perform the head of the command queue, if it is of the operation `op`, or if it is dropped or names no command; a command
waits while firmware is being activated (R425). -/
def performCommand (op : Nat) (s : State) : Host.Outcome State Fault Refusal :=
  match s.loft.pcmd with
  | [] => .next s
  | c :: _ =>
    let addr := c.addr.toNat
    if s.fw.activating.isSome then .next s
    else
      match s.loft.mode with
      | some w => .next (if op = 4 then completeCommand addr (advanceMode s w) else s)
      | none =>
        match c.taken with
        | some (block, payload) =>
          let b := parseCommand block
          .next (if b.op ≠ op then s else completeCommand addr (runCommand s b payload))
        | none =>
          match commandRead s addr [64] with
          | none => .next (endCommand s 1)
          | some (s', bs, bad) =>
            let b := parseCommand bs
            if bad then .next (endCommand s' 1)
            else if !commandOk b then .next (completeCommand addr (s', .done Status.field 0))
            else .next (if b.op ≠ op then s else takeCommand s' addr bs)

/-- READPART (R355). -/
def execReadpart (s : State) : Host.Outcome State Fault Refusal := performCommand 1 s
/-- READTEN (R356). -/
def execReadten (s : State) : Host.Outcome State Fault Refusal := performCommand 2 s
/-- SETTEN (R356). -/
def execSetten (s : State) : Host.Outcome State Fault Refusal := performCommand 3 s
/-- MODE (R362, R363). -/
def execMode (s : State) : Host.Outcome State Fault Refusal := performCommand 4 s
/-- TENANT_RESET (R360). -/
def execTenantReset (s : State) : Host.Outcome State Fault Refusal := performCommand 5 s
/-- SEGMENT (R357). -/
def execSegment (s : State) : Host.Outcome State Fault Refusal := performCommand 6 s
/-- SAVE (R365). -/
def execSave (s : State) : Host.Outcome State Fault Refusal := performCommand 7 s
/-- RESTORE (R366). -/
def execRestore (s : State) : Host.Outcome State Fault Refusal := performCommand 8 s

end Sys2Proof.Machine
end

