-- ==== Sys2Proof/Machine/Issue.lean ====
section
/-! DEFINITION. Issue: the choice of a warp and of its splits at an issue opportunity (R23, R24, R97 to R104, R140), the
release of WSYNC groups (R139), and the fetch of a chosen split's instruction (R34, R38, R53). -/

namespace Sys2Proof.Machine

/-! ## Splits (R97, R98) -/

/-- A split: lanes with one PC and one handler tag, and its starvation count (R103). -/
structure Split where
  pc : DWord
  tag : Option Tag
  lanes : LaneMask
  starve : Nat
  deriving DecidableEq, Repr

/-- The lower of two splits: by PC, then by lowest lane (R101, R104). -/
def Split.before (a b : Split) : Bool :=
  a.pc.toNat < b.pc.toNat || (a.pc == b.pc && a.lanes.lowest ≤ b.lanes.lowest)

/-- Insert a split in order. -/
def insertSplit (x : Split) : List Split → List Split
  | [] => [x]
  | y :: ys => if x.before y then x :: y :: ys else y :: insertSplit x ys

namespace Warp

/-- The splits of the running lanes, lowest PC first; lanes at one PC with one tag are one split (R98). R97 to R99 leave it unclear whether
lanes that reach the PC at which a split waits in SLEEP or WSYNC merge with it: they issue the instruction apart (log entry 85, DESIGN
CHOICE). -/
def splits (w : Warp) : List Split :=
  let ls := w.running.lanes
  let heads := ls.filter (fun l => !ls.any (fun j => j < l && (w.lane j).pc == (w.lane l).pc && (w.lane j).tag == (w.lane l).tag))
  heads.foldl (fun acc l =>
    let x := w.lane l
    let same := LaneMask.ofPred (fun j => w.running.has j && (w.lane j).pc == x.pc && (w.lane j).tag == x.tag)
    insertSplit { pc := x.pc, tag := x.tag, lanes := same
                  starve := same.lanes.foldl (fun m j => max m (w.lane j).starve) 0 } acc) []

/-- The fetched line that holds a PC. -/
def line? (w : Warp) (pc : DWord) : Option (BitVec 512) := (w.lines.find? (fun x => x.1 == lineOf pc)).map (·.2)

/-- The instruction at a PC whose line has been fetched and checked. -/
def instrAt (w : Warp) (pc : DWord) : Option Instr :=
  match w.line? pc with
  | some bits => (decodeWord (Line.slot bits (slotOf pc))).toOption
  | none => none

/-- The convergence register of a tile instruction at the PC. -/
def tileSet (w : Warp) (pc : DWord) : Option Nat :=
  match w.instrAt pc with
  | some i =>
    match i.row, i.fields with
    | some r, some f => if r.sig.sc == .cv then some (cvNo f.sc) else none
    | _, _ => none
  | none => none

/-- Does a fetched line show a tile instruction at the PC that must wait for its convergence set, or for an unretired entry that writes the
register (R183)? -/
def tileHeld (w : Warp) (x : Split) : Bool :=
  match w.tileSet x.pc with
  | some n => !tileReady w x.pc x.lanes n || w.rob.any (fun e => e.instr.writesCv n)
  | none => false

/-- v registers that the instruction at a PC needs from renaming (R107). -/
def namesAt (w : Warp) (pc : DWord) : Nat := ((w.instrAt pc).map Instr.renames).getD 0

/-- Accesses of a split that have issued and not completed (R102): unretired entries that are not performed, the KICKs of its lanes that
an engine has not finished, and the stores that a page move holds. -/
def outstanding (w : Warp) (kicks : List (Nat × Nat)) (held : List (LaneMask × Nat)) (x : Split) : Nat :=
  (w.rob.filter (fun e => e.instr.memOp && !e.decided && e.lanes &&& x.lanes != 0)).length +
    ((kicks.filter (fun k => x.lanes.has k.1)).map (·.2)).eraseDups.length +
    ((held.filter (fun h => h.1 &&& x.lanes != 0)).map (·.2)).eraseDups.length

/-- The splits that may take a slot: a split that yielded takes none while another is ready (R140). -/
def candidates (w : Warp) (ready : List Split) : List Split :=
  let others := ready.filter (fun x => x.lanes &&& w.yielded == 0)
  if others.isEmpty then ready else others

/-- The two slots of an opportunity (R101 to R103). The spec does not say which split counts as the one that the secondary slot last
took once that split has divided or merged: this model takes the one that holds the lowest of its lanes (log entry 85, DESIGN CHOICE). -/
def slots (w : Warp) (ready : List Split) (count : Split → Nat) : Option Split × Option Split :=
  let c := w.candidates ready
  match ready.filter (fun x => x.starve ≥ 64) with
  | a :: b :: _ => (some a, some b)
  | forced =>
    let primary := forced.head? <|> c.head?
    match primary with
    | none => (none, none)
    | some p =>
      let rest := c.filter (fun x => x != p)
      let kept := match w.secondary with
        | some m => rest.find? (fun x => x.lanes.has m.lowest)
        | none => none
      let fewest := rest.find? (fun x => rest.all (fun y => count x ≤ count y))
      (some p, kept <|> fewest)

/-- Set the starvation counts after an opportunity (R103). -/
def starveAll (w : Warp) (ready chosen : List Split) : Warp :=
  ready.foldl (fun w x =>
    let n := if chosen.contains x then 0 else x.starve + 1
    x.lanes.lanes.foldl (fun w l => w.updLane l (fun y => { y with starve := n })) w) w

end Warp

namespace State

/-- The ready splits of a warp (R100): its line is fetched and checked, an entry within W is free, renaming has the registers, and no
serialising instruction is unretired. -/
def readySplits (s : State) (wid : Nat) : List Split :=
  let w := s.warp wid
  if w.onCore && w.inFlight < w.window && !w.rob.any (fun e => e.instr.serialises) then
    w.splits.filter (fun x => (w.line? x.pc).isSome && !w.tileHeld x && s.canRename wid (w.namesAt x.pc))
  else []

/-- KICKs of a warp whose requests an engine holds: lane and number of the KICK. -/
def kicksOf (s : State) (wid : Nat) : List (Nat × Nat) :=
  let of := fun (e : Engine) => (e.queue.filter (fun k => k.wid == wid)).map (fun k => (k.lane, k.op)) ++
    (e.progress.filter (fun r => r.wid == wid)).map (fun r => (r.lane, r.op))
  of (s.core (s.warp wid).gcore).wain ++ (s.die (dieOf (s.warp wid).gcore)).engines.flatMap (fun (e : Nat × Engine) => of e.2)

/-- Stores of a warp whose write-completion time waits for a page move: lanes and number of the instruction. -/
def heldBy (s : State) (wid : Nat) : List (LaneMask × Nat) :=
  s.tables.moves.flatMap (fun m => (m.writers.filter (fun x => x.1 == wid)).map (·.2))

end State

/-! ## The choice of a warp (R24) -/

/-- The warp that issues on a core, among the ready ones. -/
def chooseWarp (s : State) (ready : List Nat) : Option Nat :=
  let w := s.warp
  let starved := ready.filter (fun x => (w x).waitCount ≥ 256)
  let lowestSlot := fun (l : List Nat) => l.foldl (fun (b : Option Nat) x =>
    match b with
    | none => some x
    | some y => if (w x).slot < (w y).slot then some x else some y) none
  match lowestSlot starved with
  | some x => some x
  | none =>
    let willing := ready.filter (fun x => !(w x).yieldWarp)
    let pool := if willing.isEmpty then ready else willing
    pool.foldl (fun (b : Option Nat) x =>
      match b with
      | none => some x
      | some y =>
        let p := w x
        let q := w y
        if p.prio > q.prio || (p.prio == q.prio &&
            (p.lastIssue < q.lastIssue || (p.lastIssue == q.lastIssue && p.slot < q.slot))) then some x else some y) none

/-! ## WSYNC (R139) -/

/-- Release every WSYNC group of a warp that is complete. -/
def settleWsync (s : State) (wid : Nat) : State :=
  let masks := ((s.warp wid).pauses.filterMap wsyncMask).eraseDups
  masks.foldl (fun s m =>
    let w := s.warp wid
    if m &&& w.live &&& ~~~wsyncLanes w m = 0 then releaseWsync s wid m else s) s

/-! ## The issue opportunity of a core -/

/-- CYCLES of a core, and WSTALL and BARWAIT of its warps, count cycles that have gone by (R389). -/
def countCycles (s : State) (core gone : Nat) (wids : List Nat) : State :=
  let s := s.updCore core (fun c => { c with cycles := c.cycles + gone, spent := c.spent + gone })
  (wids.filter (fun wid => (s.warp wid).onCore)).foldl (fun s wid =>
    let stalled := (s.readySplits wid).isEmpty
    s.updWarp wid (fun w =>
      -- a warp that became resident since then counts from that cycle
      let d := BitVec.ofNat 64 (min gone ((s.core core).cycles - w.lastIssue))
      let inBarrier := w.rob.any (fun e => !e.decided && (match e.instr with | .bara _ | .barw _ | .bars _ => true | _ => false))
      { w with wstall := if stalled then w.wstall + d else w.wstall
               barwait := if inBarrier then w.barwait + d else w.barwait })) s

/-- One more span of core cycles: time advances, and the counters of cycles with it (R387, R389). A cycle is 10/36 ns; the core keeps
the tenths of a cycle that GT has not yet reached. -/
def advanceCore (s : State) (core : Nat) (wids : List Nat) : State :=
  let c := s.core core
  let gone := max 1 ((s.gt - c.since) * 36 / 10 - c.spent)
  countCycles (s.advanceTo (c.since + (c.spent + gone) * 10 / 36)) core gone wids

/-- The splits that take the two slots, the lower one first (R104). R100 judges each split alone and does not say which of two issues where
one entry or renaming for one is left, where the lower one serialises (R110), or where it writes the convergence set for which the other
would wait (R183). This model then takes the primary alone, but for a serialising primary that is the lower one: the other is taken with it,
and issues at the same opportunity if the serialising instruction has retired by then (log entry 95, DESIGN CHOICE). -/
def takenSplits (s : State) (wid : Nat) (p q : Option Split) : List Split :=
  let w := s.warp wid
  match p, q with
  | some a, some b =>
    let (x, y) := if a.before b then (a, b) else (b, a)
    let tiles := (w.tileSet y.pc).any (fun n => (w.instrAt x.pc).any (fun i => i.writesCv n))
    if tiles || w.inFlight + 2 > w.window || !s.canRename wid (w.namesAt x.pc + w.namesAt y.pc) then [a]
    else if (w.instrAt x.pc).any Instr.serialises && x != a then [a]
    else [x, y]
  | _, _ => p.toList ++ q.toList

/-- What the front end holds of a split that takes a slot: its instruction as fetched. -/
def pickOf (w : Warp) (wid : Nat) (x : Split) : Pick :=
  let bits := (w.line? x.pc).getD 0
  { wid, pc := x.pc, lanes := x.lanes, word := Line.slot bits (slotOf x.pc), target := Line.target bits (slotOf x.pc), starve := x.starve }

/-- The chosen warp fills its slots (R100 to R104); with the first instruction to issue its grid is RUNNING (R264). -/
def fillSlots (s : State) (core wid : Nat) : State :=
  let w := s.warp wid
  let ready := s.readySplits wid
  let (p, q) := w.slots ready (w.outstanding (s.kicksOf wid) (s.heldBy wid))
  let taken := takenSplits s wid p q
  let w := w.starveAll ready taken
  let s := s.setWarp wid { w with yielded := 0, waitCount := 0, lastIssue := (s.core core).cycles
                                  secondary := q.map (fun x => x.lanes) }
  let s := s.updGrid w.grid (fun g => if g.state == .placing then { g with state := .running } else g)
  { s with chosen := s.chosen ++ taken.map (pickOf w wid) }

/-- The entry of a fetch whose lanes trap or park once the entries before have retired (R111, R114). -/
def fetchEntry (s : State) (x : Split) (word : BitVec 96) (outs : List (Nat × LaneOutcome)) : Entry :=
  { pc := x.pc, lanes := x.lanes, active := x.lanes, instr := .nop {}, word, since := s.gt, outs }

/-- Fetch and check the next line of a split that has none (R34, R38): the line is held, or its lanes park, or a failed check traps in
them, both once the entries before have retired. The state, or an address beyond HBM. -/
def fetchSplit (s : State) (wid : Nat) (x : Split) : State × Option Nat :=
  match fetchLine s wid x.lanes.lowest (lineOf x.pc) with
  | .hole a => (s, some a)
  | .wait s | .line s _ => (s, none)
  | .consumed s => (s.consume (s.warp wid).grid (s.warp wid).block (lineOf x.pc), none)
  | .park s =>
    if (s.warp wid).rob.isEmpty then
      ((s.updWarp wid (fun w => x.lanes.lanes.foldl (fun w l =>
        w.updLane l (fun y => { y with status := .parked, parkAddr := lineOf x.pc, parkWith := x.lanes })) w)).settleParked wid, none)
    else (s.keepEntry wid (s.warp wid).rob.length (fetchEntry s x 0 (allLanes x.lanes (.park (lineOf x.pc)))), none)
  | .trap s cause bits =>
    let word := Line.slot bits (slotOf x.pc)
    let w := s.warp wid
    if w.rob.isEmpty then (s.trapSplit wid x.pc word x.lanes cause (lineOf x.pc), none)
    else (s.keepEntry wid w.rob.length (fetchEntry s x word (allLanes x.lanes (.trap cause (lineOf x.pc) 0))), none)

/-- Fetch what the splits of a warp need next. -/
def fetchSplits (s : State) (wid : Nat) : List Split → State × Option Nat
  | [] => (s, none)
  | x :: xs =>
    let w := s.warp wid
    if !w.onCore || w.inFlight ≥ w.window || (w.line? x.pc).isSome ||
        !x.lanes.lanes.all (fun l => (w.lane l).status == .running && (w.lane l).pc == x.pc) then fetchSplits s wid xs
    else
      match fetchSplit s wid x with
      | (s, some a) => (s, some a)
      | (s, none) => fetchSplits s wid xs

/-- Fetch for the warps of a core. -/
def fetchWarps (s : State) : List Nat → State × Option Nat
  | [] => (s, none)
  | wid :: rest =>
    match fetchSplits s wid (s.warp wid).splits with
    | (s, some a) => (s, some a)
    | (s, none) => fetchWarps s rest

/-- ISSUE_OPPORTUNITY (R24, R34, R98, R100): one core cycle of one core. While the island holds its clock only GT goes on. -/
def execIssueOpportunity (core : Nat) (s : State) : Host.Outcome State Fault Refusal :=
  if clockHeld s core then
    .next (s.advanceTo (s.gt + 1))
  else
    let wids := s.warpsWhere (fun w => w.onCore && w.gcore == core)
    let s := wids.foldl settleWsync s
    match fetchWarps s wids with
    | (_, some a) => .fault (.noSuchHbm a)
    | (s, none) =>
      let wids := wids.filter (fun wid => (s.warp wid).onCore)
      let s := advanceCore s core wids
      let wids := wids.filter (fun wid => (s.warp wid).onCore)
      let ready := wids.filter (fun wid => !(s.readySplits wid).isEmpty)
      let chosen := chooseWarp s ready
      let s := wids.foldl (fun s x => s.updWarp x (fun w =>
        { w with yieldWarp := false
                 waitCount := if chosen == some x then 0 else if ready.contains x then w.waitCount + 1 else w.waitCount })) s
      match chosen with
      | none => .next s
      | some wid => .next (fillSlots s core wid)

/-! ## Fetch of a chosen split -/

/-- What the front end makes of a chosen split. -/
inductive Front where
  /-- The entry is set up for this instruction. -/
  | run (s : State) (i : Instr)
  | done (s : State)

/-- Does the split still stand as it was chosen, with an entry free for it and nothing unretired that serialises? -/
def pickStands (w : Warp) (p : Pick) : Bool :=
  w.onCore && w.inFlight < w.window && !w.rob.any (fun e => e.instr.serialises) && p.lanes != 0 &&
    p.lanes.lanes.all (fun l => (w.lane l).status == .running && (w.lane l).pc == p.pc)

/-- A chosen split that does not issue was not chosen after all: its count rises (R103). -/
def dropPick (s : State) (p : Pick) : State :=
  if p.place.isSome then s
  else s.updWarp p.wid (fun w => p.lanes.lanes.foldl (fun w l =>
    if (w.lane l).status == .running then w.updLane l (fun y => { y with starve := p.starve + 1 }) else w) w)

/-- Is an access that issues now left in flight (log entry 5)? -/
def leftInFlight (s : State) (i : Instr) : Bool := i.deferrable && s.late.head? == some true

/-- Take the choice for an access that issues from the list. -/
def takeLate (s : State) (i : Instr) : State := if i.deferrable then { s with late := s.late.drop 1 } else s

/-- Decode the instruction of a chosen split, as it was fetched and checked when the split became ready (R34, R37, R38, R53 orders 1 to 3).
An entry whose turn has come is taken from the reorder buffer. -/
def frontEnd (s : State) (p : Pick) : Front :=
  let w := s.warp p.wid
  match p.place with
  | some n =>
    match w.rob[n]? with
    | some e => if w.onCore && !e.decided then .run (s.atEntry p.wid n e) e.instr else .done s
    | none => .done s
  | none =>
    if !pickStands w p then .done (dropPick s p)
    else
      let bad := w.starting && !p.target
      let s := s.updWarp p.wid (fun w => { w with starting := false })
      if bad then .done (s.trapSplit p.wid p.pc p.word p.lanes Cause.branchAlign)
      else
        match decodeWord p.word with
        | .ok i =>
          .run { (takeLate s i) with cur := { wid := p.wid, pc := p.pc, lanes := p.lanes, word := p.word, late := leftInFlight s i
                                              op := w.wissued.toNat } } i
        | .error _ =>
          let s := s.countIssue p.wid
          if w.rob.isEmpty then .done (s.trapSplit p.wid p.pc p.word p.lanes Cause.illop)
          else
            .done (s.keepEntry p.wid w.rob.length
              { pc := p.pc, lanes := p.lanes, active := p.lanes, instr := .nop {}, word := p.word, since := s.gt
                outs := allLanes p.lanes (.trap Cause.illop 0 0) })

/-! ## What is owed before an event (R245) -/

/-- Does an event pay by itself: the core's own clock, and what ends the accesses of one warp? -/
def leavesOwed (i : Instr) : Bool :=
  match i with
  | .issueOpportunity _ | .entryRetire _ | .loadDataReturn _ => true
  | _ => false

/-- Events that read or write memory for an agent: they wait while something owed to it cannot be performed. -/
def readsMemory (i : Instr) : Bool :=
  match i with
  | .ldfeServe _ | .bcwaitReturn _ | .wainRequest _ _ | .wainRequestComplete _ _ | .dieEngineRequest _ _ _
  | .drainaAddition _ | .ordGroupApply _ => true
  | _ => false

/-- Before any other event of the machine's agents, every owed access is performed. -/
def payAll (s : State) (i : Instr) : State :=
  if leavesOwed i then s else payOwed s (fun _ _ _ _ => true) payRounds

/-- Must an event wait for an owed access that could not be performed? -/
def mustWait (s : State) (i : Instr) : Bool := readsMemory i && !(owedWhere s (fun _ _ _ => true)).isEmpty

end Sys2Proof.Machine
end

