-- ==== Sys2Proof/Machine/Firmware.lean ====
section
/-! DEFINITION. Bring-up, firmware, identity, islands and power (R317, R412, R417 to R428): the host's commands, boots, die
re-admission, throttling and the host's CXL.mem accesses. -/

namespace Sys2Proof.Machine

/-! ## Boot (R417) -/

/-- Bits `[hi:lo]` of the 32-bit word at byte `b` of a firmware header (R418). -/
def headerWord (h : BitVec 2048) (b : Nat) : Nat := (h.extractLsb' (8 * b) 32).toNat

/-- The signature of a header verifies, as that of the bank from which the part boots does (R418). -/
def verifies (h : BitVec 2048) : Bool := h == bootHeader || Config.signatureOk h

/-- The checks of R418 on a header and an image. -/
def firmwareOk (floor : Nat) (h : BitVec 2048) (image : List Byte) : Bool :=
  headerWord h 0 == 0x57465844 && floor ≤ headerWord h 8 && headerWord h 12 == image.length && image.length % 4096 == 0 &&
  image.length ≤ 0x4000000 && h.extractLsb' (8 * 160) 768 == 0 && h.extractLsb' (8 * 16) 384 == sha384 image &&
  verifies h

/-- A bank as it is written. -/
def bankOf (floor : Nat) (h : BitVec 2048) (image : List Byte) : Bank :=
  { header := h, image, valid := firmwareOk floor h image }

/-- A bank passes its check at boot (R417 step 2, R418). -/
def bootable (floor : Nat) (b : Bank) : Bool := b.valid && floor ≤ headerWord b.header 8

/-- The GT that the pod gives at boot `n` (R419): that of the first switch that has not failed and that one of its links reaches, in the
order of R406. -/
def podTime (s : State) (n : Nat) : Option Nat :=
  ((0 :: failoverOrder 0).filter (fun k => !(s.linkDown (2 * k) && s.linkDown (2 * k + 1)))).findSome? (Config.podTime n)

/-- What a loft reset keeps: the banks, the fused floor, what the host has received, and the model's own agenda. -/
def afterReset (s : State) : State :=
  { State.reset with
    schedule := s.schedule, late := s.late, freshCount := s.freshCount
    fw := { State.reset.fw with
      bankA := s.fw.bankA, bankB := s.fw.bankB, activeB := s.fw.activeB, svnFloor := s.fw.svnFloor
      notifications := s.fw.notifications, results := s.fw.results, extensions := s.fw.extensions
      meas := [] } }

/-- The members of a list that number one of `n` units, each once. -/
def unitsOf (n : Nat) (l : List Nat) : List Nat := (l.filter (· < n)).eraseDups

/-- A bitmap without the bits of some units. -/
def without (m : BitVec w) (l : List Nat) : BitVec w := l.foldl (fun m i => m &&& ~~~BitVec.ofNat w (2 ^ i)) m

/-- Quads leave the QUADS of their partition (R8, R348). -/
def withdrawQuads (s : State) (die : Nat) (lost : List Nat) : State :=
  let s := s.updDie die (fun d => { d with withdrawn := (d.withdrawn ++ lost).eraseDups })
  (List.range 16).foldl (fun s n =>
    let p := s.partition n
    s.setPartition n { p with quads := without p.quads (lost.map (12 * die + ·)) }) s

/-- Step 4 (R417): the channels that fail training are left out of CHANS, with a notification each. -/
def trainChannels (s : State) (failed : List Nat) : State :=
  let p := s.partition 0
  let s := s.setPartition 0 { p with chans := without p.chans failed }
  failed.foldl (fun s c => s.notify 0x0A c) { s with mem := { s.mem with leftOut := failed } }

/-- A wavelength fails its training at boot: a free spare of the fibre direction takes its position, or it is FAILED (R398, R410). -/
def failWave (s : State) (x : Nat × Nat) : State :=
  if (s.wave x.1 x.2).state == .failed then s
  else if s.freeSpares x.1 > 0 then s.takeSpare x.1 x.2 { spare := true }
  else (s.setWave x.1 x.2 { state := .failed }).notify 0x04 (State.waveArg x.1 x.2)

/-- Step 5 (R417): spares take the positions of wavelengths that fail; a direction that cannot reach 4 wavelengths is DOWN, and all its
wavelengths train (R399). -/
def trainLinks (s : State) (failed : List (Nat × Nat)) : State :=
  let s := failed.foldl failWave s
  ((failed.map (·.1)).eraseDups.filter (fun d => s.activeCount d < 4)).foldl (fun s d => s.setLinkDir d
    { s.linkDir d with down := true, waves := (List.range 8).map (fun w => (w, { s.wave d w with state := .training })) }) s

/-- Step 7 (R417): the quads lost in the tests are withdrawn (R8). -/
def testDies (s : State) (lost : List Nat) : State :=
  (List.range 8).foldl (fun s d => withdrawQuads s d ((lost.filter (fun q => q / 12 == d)).map (· % 12))) s

/-- Steps 6 and 7: GT and %pkg come from the pod where a switch is reached (R47, R419), the cores' clocks start, and the limit of a port that
is down runs from here (R409). -/
def alignTime (s : State) (n : Nat) : State :=
  let t := (podTime s n).getD 0
  let apart := (List.range 128).filter (fun k => s.linkDown (2 * k) && s.linkDown (2 * k + 1))
  let pkg := if (podTime s n).isSome then Config.podPackage % 512 else 0
  { s with gt := t, net := { s.net with pkg, flitsFrom := t, portdown := apart.map (fun k => (k, t)) }
           loft := { s.loft with period := t / periodNs }
           cores := if t = 0 then [] else (List.range 384).map (fun c => (c, { since := t })) }

/-- Boot from a bank: steps 3 to 8. -/
def bootFrom (s : State) (useB : Bool) : State :=
  let b := if useB then s.fw.bankB else s.fw.bankA
  let n := s.fw.extensions
  let k := s.freshCount
  let s := trainLinks (trainChannels s (unitsOf 384 (Config.failedChannels k))) ((Config.failedWaves k).filter (fun x => x.1 < 512 && x.2 < 8))
  let s := testDies (alignTime s k) (unitsOf 96 (Config.failedQuads k))
  ({ s with
    freshCount := k + 1
    fw := { s.fw with activeB := useB, meas := bootMeas b n, extensions := n + 2
                      svnFloor := max s.fw.svnFloor (headerWord b.header 8) } }).notify 0x0B 0

/-- A loft reset: the boot steps (R417). -/
def loftReset (s : State) : State :=
  let r := afterReset s
  let active := if r.fw.activeB then r.fw.bankB else r.fw.bankA
  let other := if r.fw.activeB then r.fw.bankA else r.fw.bankB
  if bootable r.fw.svnFloor active then bootFrom r r.fw.activeB
  else if bootable r.fw.svnFloor other then bootFrom r (!r.fw.activeB)
  else { r with
    loft := {}, net := { r.net with hostCache := false, hostMem := false }
    fw := { r.fw with booted := false, recovery := true } }

/-- LOFT_RESET (R417): power-on or PERST#. -/
def execLoftReset (s : State) : Host.Outcome State Fault Refusal := .next (loftReset s)

/-- HOST_RESET (R421): always allowed while the package is powered. -/
def execHostReset (s : State) : Host.Outcome State Fault Refusal := .next (if s.fw.powered then loftReset s else s)

/-! ## The host's commands (R420 to R422) -/

/-- After step 8. -/
def State.ready (s : State) : Bool := s.fw.powered && s.fw.booted && !s.fw.recovery

/-- A command that the table of R421 allows, or BUSY. -/
def hostCommand (s : State) (allowed : Bool) (act : State → State) : Host.Outcome State Fault Refusal :=
  if !s.fw.powered then .next s
  else if allowed then .next (act s)
  else .next (s.answer .busy)

/-- The active bank. -/
def activeBank (f : Firmware) : Bank := if f.activeB then f.bankB else f.bankA

/-- Bytes 0 to 431 of a quote (R421). -/
def quoteBody (s : State) (nonce : BitVec 256) : List Byte :=
  let h := (activeBank s.fw).header
  (List.range 8).flatMap (fun n => leBytes 48 (Sparse.get 0 s.fw.meas n).toNat) ++ leBytes 32 nonce.toNat ++
  leBytes 4 (headerWord h 4) ++ leBytes 4 (headerWord h 8) ++ leBytes 8 s.gt

/-- QUOTE (R421). -/
def execQuote (nonce : BitVec 256) (s : State) : Host.Outcome State Fault Refusal :=
  hostCommand s s.ready (fun s =>
    let body := quoteBody s nonce
    s.answer (.quote (body ++ leBytes 96 (Config.quoteSignature (leWord 3456 body)).toNat)))

/-- CERT (R421). -/
def execCert (s : State) : Host.Outcome State Fault Refusal :=
  hostCommand s s.ready (fun s => s.answer (.chain Config.certificateChain))

/-- EXTEND (R420). -/
def execExtend (digest : BitVec 384) (s : State) : Host.Outcome State Fault Refusal :=
  hostCommand s s.ready (fun s =>
    let s : State := { s with fw := { s.fw with
      meas := Sparse.set 0 s.fw.meas 7 (extendMeas (Sparse.get 0 s.fw.meas 7) digest) } }
    s.answer .ok)

/-- UPDATE (R418, R421): the inactive bank; not during ACTIVATE, nor while one waits (R425). -/
def execUpdate (header : BitVec 2048) (image : List Byte) (s : State) : Host.Outcome State Fault Refusal :=
  hostCommand s (s.ready && s.fw.activateWaits = 0 && s.fw.activating.isNone) (fun s =>
    let b := bankOf s.fw.svnFloor header image
    let fw := if s.fw.activeB then { s.fw with bankA := b } else { s.fw with bankB := b }
    ({ s with fw := fw }).answer .ok)

/-- ACTIVATE (R422): it waits for the partition command in progress. -/
def execActivate (s : State) : Host.Outcome State Fault Refusal :=
  hostCommand s (s.ready && (inactiveBank s.fw).valid) (fun s =>
    let s : State := { s with fw := { s.fw with activateWaits := s.fw.activateWaits + 1 } }
    (if s.loft.pcmd.isEmpty then settleActivate s else s).answer .ok)

/-- ACTIVATE_TIMEOUT (R422): no ready point within 100 ms; the old bank is active again and the new one invalid. -/
def execActivateTimeout (s : State) : Host.Outcome State Fault Refusal :=
  match s.fw.activating with
  | none => .next s
  | some t =>
    if s.gt < t + 100000000 || s.fw.reached then .next s
    else
      let f := s.fw
      let fw := if f.activeB then { f with bankB := { f.bankB with valid := false } }
        else { f with bankA := { f.bankA with valid := false } }
      .next (settleActivate (({ s with fw := { fw with activeB := !f.activeB, activating := none } }).notify 0x0E 0))

/-- LOAD (R417, R421): in RECOVERY the ROM checks the image, writes it to bank A and resets. -/
def execLoad (header : BitVec 2048) (image : List Byte) (s : State) : Host.Outcome State Fault Refusal :=
  hostCommand s s.fw.recovery (fun s =>
    if firmwareOk s.fw.svnFloor header image then
      loftReset { s with fw := { s.fw with bankA := bankOf s.fw.svnFloor header image, activeB := false } }
    else s)

/-! ## Re-admission of a die (R8, R423) -/

/-- Spares take the place of wires (R8, R389): VW_REMAP counts them, and VW_SPARE what is left. -/
def remapWires (s : State) (die n : Nat) : State :=
  let d := s.die die
  let k := min (Config.remappedWires n) ((Config.vwSpares die).toNat - d.vwUsed)
  s.setDie die { d with vwUsed := d.vwUsed + k, vwRemap := d.vwRemap + BitVec.ofNat 64 k }

/-- ELAST of an uncorrectable error on a vertical wire: SOURCE 1, the column, bundle and wire (R318). -/
def wireElast (col bundle wire : Nat) : DWord :=
  BitVec.ofNat 64 (2 ^ 63 + 2 ^ 60 + col % 512 * 2 ^ 40 + bundle % 256 * 2 ^ 8 + wire % 132)

/-- The tests of a die detect an error on a vertical wire: it is counted and recorded as any other (R318, R389). -/
def testWires (s : State) (die n : Nat) : State :=
  match Config.wireError n with
  | some (core, bundle, wire) =>
    s.updDie die (fun d => { d with eccUnc := d.eccUnc + 1, elast := wireElast (48 * die + core % 48) bundle wire })
  | none => s

/-- Kill the gangs with a block on withdrawn quads, as by a fatal die error. -/
def killQuads (s : State) (die : Nat) (lost : List Nat) : State :=
  let gs := ((s.loft.blocks.filter (fun b => b.alive && dieOf b.gcore == die && lost.contains (quadOf b.gcore))).map
    (fun b => (b.grid, b.gang))).eraseDups
  let s := gs.foldl (fun s x => s.killGang x.1 x.2 1 0) s
  ((gs.map (·.1)).eraseDups).foldl (fun s g => s.afterKill g ((gs.filter (fun x => x.1 == g)).map (·.2))) s

/-- What a compute-die reset takes from a die beside its contexts (R9): every register and cache of its cores. The wain's
requests are held in scratch and go on (R307), CYCLES counts from 0 (R389), and the loft keeps its count of evictions (R280). -/
def resetDie (s : State) (die : Nat) : State :=
  (List.range 48).foldl (fun s i => s.updCore (48 * die + i) (fun c =>
    { wain := c.wain, since := s.runsFrom (48 * die + i), evictions := c.evictions })) s

/-- May the re-admission of a die begin: after an activation, the dies in their order, the first within 100 ms (R422)? -/
def mayReadmit (s : State) (die : Nat) : Bool :=
  match s.fw.activating with
  | none => true
  | some t => die == s.fw.nextDie && (s.fw.reached || s.gt < t + 100000000)

/-- Steps 1 and 2 (R423): placement on the die stops, and its contexts are saved. After an activation the first die shows that the new
firmware has reached its ready point (R422; log entry 61, DEDUCED). -/
def beginReadmission (s : State) (die : Nat) : State :=
  let mine := s.warpsWhere (fun w => w.onCore && dieOf w.gcore == die)
  let s := mine.foldl (fun s wid => s.saveWarp wid) s
  let s : State := { s with fw := { s.fw with readmitting := some (die, mine) } }
  if s.fw.activating.isSome && !s.fw.reached then ({ s with fw := { s.fw with reached := true } } : State).notify 0x0E 0 else s

/-- A hang limit that is reached before the save has ended is latched (R305, R425). -/
def latchHang (s : State) (wid : Nat) : State :=
  if isSaved (s.warp wid) && overLimit s (s.warp wid) then s.updWarp wid (fun w => { w with residence := .savedHung }) else s

/-- Steps 3 to 5 (R423): the die is reset and tested; the quads that the test loses are withdrawn and their contexts killed, and the other
contexts that its save has kept are restored. -/
def endReadmission (s : State) (die : Nat) (mine lost : List Nat) : State :=
  let n := s.fw.extensions
  let s := mine.foldl latchHang s
  let s := remapWires (testWires (resetDie s die) die n) die n
  let s := killQuads (withdrawQuads s die lost) die lost
  let f := s.fw
  let fw := { f with
    readmitting := none, extensions := n + 1
    meas := Sparse.set 0 f.meas 3 (extendMeas (Sparse.get 0 f.meas 3) (Config.measureDigest 3 n)) }
  let next := f.activating.isSome && f.reached
  let last := next && die = 7
  let fw := if next then { fw with nextDie := die + 1, activating := if last then none else f.activating } else fw
  let s : State := { s with fw }
  let back := mine.filter (fun wid => isSaved (s.warp wid) && !s.loft.mode.any (fun m => m.tenants.contains (s.warp wid).tenant))
  let s := if s.restorable back then back.foldl (fun s wid => s.restoreWarp wid) s else s
  let s := s.notify 0x0F die
  if last then settleActivate s else s

/-- DIE_READMISSION (R423): a first event begins the re-admission of a die, and the next one of that die ends it, with what its test
loses. Between the two, a save may exceed its bound (R425). What a MODE holds by then it gives back itself (R363). -/
def execDieReadmission (die : Nat) (lost : List Nat) (s : State) : Host.Outcome State Fault Refusal :=
  if !s.ready || die ≥ 8 then .next s
  else
    match s.fw.readmitting with
    | some (d, mine) => .next (if d = die then endReadmission s die mine (lost.filter (· < 12)) else s)
    | none => .next (if mayReadmit s die then beginReadmission s die else s)

/-! ## Islands and power (R424, R428) -/

/-- A core stops its clock until `t`: the cycles gone by so far are counted (R389, R424). -/
def holdCore (s : State) (t core : Nat) : State :=
  let c := s.core core
  let wids := s.warpsWhere (fun w => w.onCore && w.gcore == core)
  (countCycles s core ((s.gt - c.since) * 36 / 10 - c.spent) wids).updCore core (fun c => { c with since := t, spent := 0 })

/-- ISLAND_RECALIBRATION (R424): the island holds its clock, and no hang count of it advances. -/
def execIslandRecalibration (island ns : Nat) (s : State) : Host.Outcome State Fault Refusal :=
  if ns > 20000 || island ≥ 64 || s.fw.recalibrating.any (fun e => s.gt < e.2) then .next s
  else
    let s := ((List.range 384).filter (fun c => islandOf c == island)).foldl (fun s c => holdCore s (s.gt + ns) c) s
    let mine := s.warpsWhere (fun w => w.onCore && islandOf w.gcore == island && w.parkedSince.isNone)
    let s := mine.foldl (fun s wid => s.updWarp wid (fun w => { w with hangBase := w.hangBase + ns })) s
    .next { s with fw := { s.fw with recalibrating := [(island, s.gt + ns)] } }

/-- Every piece of state is lost (R428); the firmware banks and the fuses are no state of the package's operation. -/
def powerOff (s : State) : State :=
  { schedule := s.schedule, late := s.late, freshCount := s.freshCount
    net := { hostUp := false, lanes := 0, hostCache := false, hostMem := false, hostFlit := false }
    fw := { powered := false, booted := false, bankA := s.fw.bankA, bankB := s.fw.bankB, activeB := s.fw.activeB
            svnFloor := s.fw.svnFloor, extensions := s.fw.extensions
            notifications := s.fw.notifications, results := s.fw.results } }

/-- A sample of an island's temperature (R389): FMHZ is lowered by 100 MHz where a step is due. -/
def sampleIsland (s : State) (island : Nat) (temp : BitVec 16) (step : Bool) : State :=
  let m := islandMonitor s island
  let m := (m &&& ~~~0xFFFF#64) ||| temp.setWidth 64
  let mhz := (m.extractLsb' 32 16).toNat - 100
  let m := if step then (m &&& ~~~(0xFFFF#64 <<< 32)) ||| BitVec.ofNat 64 (mhz * 2 ^ 32) else m
  { s with fw := { s.fw with islands := Sparse.set none s.fw.islands island (some m) } }

/-- THERMAL_THROTTLE (R428): at the temperature sampled, one step where 10 µs have gone by since the last; 125 °C removes the power. -/
def execThermalThrottle (island : Nat) (temp : BitVec 16) (s : State) : Host.Outcome State Fault Refusal :=
  let last := Sparse.get none s.fw.throttled island
  let hot := temp.toInt ≥ 110 * 16 || (last.isSome && temp.toInt ≥ 105 * 16)
  let step := hot && last.all (fun t => t + 10000 ≤ s.gt)
  if island ≥ 64 then .next s
  else if temp.toInt ≥ 125 * 16 then .next (powerOff (s.notify 0x0D island))
  else
    let s := sampleIsland s island temp step
    let s := if hot && last.isNone then s.notify 0x0C island else s
    .next { s with fw := { s.fw with
      throttled := Sparse.set none s.fw.throttled island (if step then some s.gt else if hot then last else none) } }

/-- THERMAL_SHUTDOWN (R428). -/
def execThermalShutdown (island : Nat) (temp : BitVec 16) (s : State) : Host.Outcome State Fault Refusal :=
  .next (if temp.toInt ≥ 125 * 16 then powerOff (s.notify 0x0D island) else s)

/-- POWER_LOSS (R428). -/
def execPowerLoss (s : State) : Host.Outcome State Fault Refusal := .next (powerOff s)

/-! ## The host link (R412) -/

/-- HOST_LANE_FAILURE (R412): `lanes` good lanes are left; the link falls back to ×8 or ×4. -/
def execHostLaneFailure (lanes : Nat) (s : State) : Host.Outcome State Fault Refusal :=
  let width := if lanes ≥ 16 then 16 else if lanes ≥ 8 then 8 else 4
  .next (if lanes < 4 || width > s.net.lanes then s else { s with net := { s.net with lanes := width } })

/-- May the host reach `n` bytes of HBM in one access of CXL.mem: one 64-byte line. An access to an exported line waits as
another of the home does (R402, R407, R409). -/
def hostReach (s : State) (addr n : Nat) : Bool :=
  s.net.hostUp && s.net.hostMem && addr < 2 ^ 49 && pkgOf addr == s.net.pkg && inHbm addr && 1 ≤ n && addr % 64 + n ≤ 64 &&
    !(s.homeExported addr && s.remoteWaits addr)

/-- CXL_MEM_READ (R412): at the HBM channel, with the poison indication. -/
def execCxlMemRead (addr n : Nat) (s : State) : Host.Outcome State Fault Refusal :=
  if !hostReach s addr n then .next s
  else
    let (s, bs, bad) := s.readAt 0 0 (.hbm addr) n
    .next (s.answer (.read addr bs bad))

/-- CXL_MEM_WRITE (R412). -/
def execCxlMemWrite (addr : Nat) (bytes : List Byte) (s : State) : Host.Outcome State Fault Refusal :=
  if !hostReach s addr bytes.length then .next s
  else .next (s.writeAt 0 0 (.hbm addr) bytes)

/-! ## Injection (R317) -/

/-- INJECTION_DURATION_END (R317). -/
def execInjectionDurationEnd (dir wave : Nat) (s : State) : Host.Outcome State Fault Refusal :=
  let w := s.wave dir wave
  if w.until_ = 0 || s.gt < w.until_ then .next s
  else
    let s := s.settleErrors dir wave
    let x := s.linkDir dir
    .next (s.setLinkDir dir { x with waves := Sparse.set {} x.waves wave ((s.wave dir wave).ended w.until_ s.gt) })

end Sys2Proof.Machine
end

