-- ==== Sys2Proof/Machine/Integer.lean ====
section
/-! DEFINITION. Class 0: moves, integer arithmetic, logic, bit fields, compares and predicates (R122 to R131). -/

namespace Sys2Proof.Machine

/-! ## Values (R123 to R128) -/

/-- `a ± b` wrapping, or clamped with .SAT (R123). -/
def addSub32 (sub : Bool) (unsigned sat : Bool) (a b : Word) : Word :=
  if sat then
    let x := intOf unsigned a
    let y := intOf unsigned b
    saturate32 unsigned (if sub then x - y else x + y)
  else if sub then a - b else a + b

/-- A 32-bit value extended to 64 bits (R123). -/
def ext64 (unsigned : Bool) (a : Word) : DWord := if unsigned then a.setWidth 64 else a.signExtend 64

/-- Upper half of the exact product (R123). -/
def mulHigh32 (unsigned : Bool) (a b : Word) : Word := (ext64 unsigned a * ext64 unsigned b).extractLsb' 32 32

/-- Quotient toward zero with the border cases of R124. -/
def div32 (unsigned : Bool) (a b : Word) : Word :=
  if b = 0 then BitVec.allOnes 32 else if unsigned then a.udiv b else a.sdiv b

/-- Remainder with the sign of A with the border cases of R124. -/
def rem32 (unsigned : Bool) (a b : Word) : Word :=
  if b = 0 then a else if unsigned then a.umod b else a.srem b

/-- The lesser or the greater (R123). -/
def minMax32 (max unsigned : Bool) (a b : Word) : Word :=
  if (intOf unsigned a < intOf unsigned b) != max then a else b

/-- Absolute value, with 0x8000_0000 kept or saturated (R123). -/
def abs32 (sat : Bool) (a : Word) : Word :=
  if a.msb then (if sat && a == 0x80000000 then 0x7FFFFFFF else -a) else a

/-- Negation, with 0x8000_0000 kept or saturated (R123). -/
def neg32 (sat : Bool) (a : Word) : Word := if sat && a == 0x80000000 then 0x7FFFFFFF else -a

/-- The count of a shift: bits [7:0] (R126). -/
def shiftCount (b : Word) : Nat := (b.extractLsb' 0 8).toNat

/-- Number of ones (R126). -/
def popCount (a : Word) : Nat := ((List.range 32).filter (fun i => a.getLsbD i)).length

/-- Number of leading zeros, 32 for zero (R126). -/
def leadingZeros (a : Word) : Nat := ((List.range 32).find? (fun i => a.getLsbD (31 - i))).getD 32

/-- Number of trailing zeros, 32 for zero (R126). -/
def trailingZeros (a : Word) : Nat := ((List.range 32).find? (fun i => a.getLsbD i)).getD 32

/-- The bits in reverse order (R126). -/
def reverseBits (a : Word) : Word := LaneMask.ofPred (fun i => a.getLsbD (31 - i))

/-- FSHF (R126). -/
def funnelShift (left : Bool) (lo hi : Word) (n : Nat) : Word :=
  if left then ((hi ++ lo : DWord) <<< (n % 32)).extractLsb' 32 32 else ((hi ++ lo : DWord) >>> (n % 32)).setWidth 32

/-- BFE (R127). -/
def bitExtract (unsigned : Bool) (a ctl : Word) : Word :=
  let pos := (ctl.extractLsb' 0 8).toNat
  let len := min (ctl.extractLsb' 8 8).toNat 32
  if len = 0 then 0
  else
    let bit := fun i => if pos + i ≤ 31 then a.getLsbD (pos + i) else !unsigned && a.getLsbD 31
    LaneMask.ofPred (fun i => if i < len then bit i else !unsigned && bit (len - 1))

/-- BFI (R127). -/
def bitInsert (ins ctl base : Word) : Word :=
  let pos := (ctl.extractLsb' 0 8).toNat
  let len := min (ctl.extractLsb' 8 8).toNat 32
  if len = 0 ∨ pos ≥ 32 then base
  else
    let m : Word := BitVec.ofNat 32 ((2 ^ min len (32 - pos) - 1) * 2 ^ pos)
    (base &&& ~~~m) ||| ((ins <<< pos) &&& m)

/-- Byte `n` of a BMIX result (R128). -/
def mixByte (a c sel : Word) (n : Nat) : Byte :=
  let s := (sel.extractLsb' (5 * n) 5).toNat
  let x : Byte := (c ++ a : DWord).extractLsb' (8 * (s % 8)) 8
  match s / 8 with
  | 0 => x
  | 1 => 0
  | 2 => if x.msb then 0xFF else 0
  | _ => ~~~x

/-- BMIX (R128). -/
def byteMix (a c sel : Word) : Word := mixByte a c sel 3 ++ (mixByte a c sel 2 ++ (mixByte a c sel 1 ++ mixByte a c sel 0))

/-! ## Shapes -/

/-- d := g(a, b), all 32 bits. -/
def lanes2 (f : Fields) (g : Word → Word → Word) (c : Ctx) (l : Nat) : List RegWrite :=
  dst32 f.dst (g (c.w.src32 l f.sa f.imm) (c.w.src32 l f.sb f.imm))

/-- d := g(a, b, c), all 32 bits. -/
def lanes3 (f : Fields) (g : Word → Word → Word → Word) (c : Ctx) (l : Nat) : List RegWrite :=
  dst32 f.dst (g (c.w.src32 l f.sa f.imm) (c.w.src32 l f.sb f.imm) (c.w.src32 l f.sc f.imm))

/-- d := g(a), 32 bits. -/
def lanes1 (f : Fields) (g : Word → Word) (c : Ctx) (l : Nat) : List RegWrite :=
  dst32 f.dst (g (c.w.src32 l f.sa f.imm))

/-! ## Moves (R122) -/

/-- NOP. -/
def execNop (f : Fields) (s : State) := performLanes (.nop f) f s (fun _ _ => [])

/-- MOV at 32, 64 or 128 bits. -/
def execMov (f : Fields) (s : State) := performLanes (.mov f) f s (fun c l =>
  match f.size with
  | 3 => dst64 f.dst (c.w.src64 l f.sa f.imm)
  | 4 => dst128 f.dst (c.w.src128 l f.sa)
  | _ => dst32 f.dst (c.w.src32 l f.sa f.imm))

/-- MOVI. -/
def execMovi (f : Fields) (s : State) := performLanes (.movi f) f s (fun _ _ => dst32 f.dst f.imm)

/-- MOVK. -/
def execMovk (f : Fields) (s : State) := performLanes (.movk f) f s (fun c l => dst64 f.dst (c.w.src64 l f.sa f.imm))

/-- The special registers of R47 as lane `l` of the issuing split reads them. -/
def specialValue (s : State) (c : Ctx) (l : Nat) (n : Nat) : Word :=
  let r := s.recordOf c.w
  let b := c.w.block
  let ofN := fun (x : Nat) => BitVec.ofNat 32 x
  match n with
  | 0 => ofN l
  | 1 => ofN c.w.warpNo
  | 2 => ofN (b % Rec.nblkx r)
  | 3 => ofN (b / Rec.nblkx r % Rec.nblky r)
  | 4 => ofN (b / Rec.nblkx r / Rec.nblky r)
  | 5 => ofN (Rec.nblkx r)
  | 6 => ofN (Rec.nblky r)
  | 7 => ofN (Rec.nblkz r)
  | 8 => ofN (b / Rec.g r)
  | 9 => ofN (b % Rec.g r)
  | 10 => ofN (dieOf c.w.gcore)
  | 11 => ofN (quadOf c.w.gcore)
  | 12 => ofN (coreOf c.w.gcore)
  | 13 => ofN c.w.spPkg
  | 14 => ofN (if (s.grid c.w.grid).pipe.isSome then (s.grid c.w.grid).stage else 0)
  | 15 => ofN c.w.spTenant
  | 16 => s.gtWord.setWidth 32
  | 17 => s.gtWord.extractLsb' 32 32
  | 18 => ofN (s.core c.w.gcore).cycles
  | 19 => ofN ((s.core c.w.gcore).cycles / 2 ^ 32)
  | 20 => c.lanes
  | _ => c.active

/-- MOVS. -/
def execMovs (f : Fields) (s : State) := performLanes (.movs f) f s (fun c l =>
  match f.sa with
  | .special n => dst32 f.dst (specialValue s c l n)
  | _ => [])

/-- SEL. -/
def execSel (f : Fields) (s : State) := performLanes (.sel f) f s (fun c l =>
  let p := c.w.srcP l f.sc
  if f.size == 3 then dst64 f.dst (if p then c.w.src64 l f.sa f.imm else c.w.src64 l f.sb f.imm)
  else dst32 f.dst (if p then c.w.src32 l f.sa f.imm else c.w.src32 l f.sb f.imm))

/-! ## Arithmetic (R123 to R125) -/

/-- IADD. -/
def execIadd (f : Fields) (s : State) := performLanes (.iadd f) f s (lanes2 f (addSub32 false f.mod5 f.mod6))

/-- ISUB. -/
def execIsub (f : Fields) (s : State) := performLanes (.isub f) f s (lanes2 f (addSub32 true f.mod5 f.mod6))

/-- IADDC: the carry in is read before the carry out is written (R125). -/
def execIaddc (f : Fields) (s : State) := performLanes (.iaddc f) f s (fun c l =>
  let a := c.w.src32 l f.sa f.imm
  let b := c.w.src32 l f.sb f.imm
  let cin := c.w.srcP l f.sc
  dst32 f.dst (a + b + (if cin then 1 else 0)) ++
    (if f.aux.getLsbD 3 then [.p f.scope (carryOut a b cin)] else []))

/-- IMUL. -/
def execImul (f : Fields) (s : State) := performLanes (.imul f) f s (lanes2 f (· * ·))

/-- IMULH. -/
def execImulh (f : Fields) (s : State) := performLanes (.imulh f) f s (lanes2 f (mulHigh32 f.mod5))

/-- IMAD. -/
def execImad (f : Fields) (s : State) := performLanes (.imad f) f s (lanes3 f (fun a b c => a * b + c))

/-- IMAL. -/
def execImal (f : Fields) (s : State) := performLanes (.imal f) f s (fun c l =>
  dst64 f.dst (ext64 f.mod5 (c.w.src32 l f.sa f.imm) * ext64 f.mod5 (c.w.src32 l f.sb f.imm) + c.w.src64 l f.sc f.imm))

/-- IDIV. -/
def execIdiv (f : Fields) (s : State) := performLanes (.idiv f) f s (lanes2 f (div32 f.mod5))

/-- IREM. -/
def execIrem (f : Fields) (s : State) := performLanes (.irem f) f s (lanes2 f (rem32 f.mod5))

/-- IMIN. -/
def execImin (f : Fields) (s : State) := performLanes (.imin f) f s (lanes2 f (minMax32 false f.mod5))

/-- IMAX. -/
def execImax (f : Fields) (s : State) := performLanes (.imax f) f s (lanes2 f (minMax32 true f.mod5))

/-- IABS. -/
def execIabs (f : Fields) (s : State) := performLanes (.iabs f) f s (lanes1 f (abs32 f.mod6))

/-- INEG. -/
def execIneg (f : Fields) (s : State) := performLanes (.ineg f) f s (lanes1 f (neg32 f.mod6))

/-- IADD64. -/
def execIadd64 (f : Fields) (s : State) := performLanes (.iadd64 f) f s (fun c l =>
  dst64 f.dst (c.w.src64 l f.sa f.imm + c.w.src64 l f.sb f.imm))

/-- ISUB64. -/
def execIsub64 (f : Fields) (s : State) := performLanes (.isub64 f) f s (fun c l =>
  dst64 f.dst (c.w.src64 l f.sa f.imm - c.w.src64 l f.sb f.imm))

/-- LEA. -/
def execLea (f : Fields) (s : State) := performLanes (.lea f) f s (fun c l =>
  dst64 f.dst (c.w.src64 l f.sa f.imm + (ext64 f.mod5 (c.w.src32 l f.sb f.imm) <<< (f.aux.extractLsb' 0 4).toNat)))

/-! ## Logic and shifts (R126 to R128) -/

/-- AND. -/
def execAnd (f : Fields) (s : State) := performLanes (.and f) f s (lanes2 f (· &&& ·))
/-- OR. -/
def execOr (f : Fields) (s : State) := performLanes (.or f) f s (lanes2 f (· ||| ·))
/-- XOR. -/
def execXor (f : Fields) (s : State) := performLanes (.xor f) f s (lanes2 f (· ^^^ ·))
/-- ANDN. -/
def execAndn (f : Fields) (s : State) := performLanes (.andn f) f s (lanes2 f (fun a b => a &&& ~~~b))
/-- NOT. -/
def execNot (f : Fields) (s : State) := performLanes (.not f) f s (lanes1 f (~~~ ·))
/-- SHL. -/
def execShl (f : Fields) (s : State) := performLanes (.shl f) f s (lanes2 f (fun a b => a <<< shiftCount b))
/-- SHR. -/
def execShr (f : Fields) (s : State) := performLanes (.shr f) f s (lanes2 f (fun a b => a >>> shiftCount b))
/-- SHA. -/
def execSha (f : Fields) (s : State) := performLanes (.sha f) f s (lanes2 f (fun a b => a.sshiftRight (shiftCount b)))
/-- ROTL. -/
def execRotl (f : Fields) (s : State) := performLanes (.rotl f) f s (lanes2 f (fun a b => a.rotateLeft (shiftCount b % 32)))
/-- FSHF: SA is lo, SB the count, SC hi. -/
def execFshf (f : Fields) (s : State) := performLanes (.fshf f) f s
  (lanes3 f (fun lo n hi => funnelShift f.mod0 lo hi (shiftCount n)))
/-- BFE. -/
def execBfe (f : Fields) (s : State) := performLanes (.bfe f) f s (lanes2 f (bitExtract f.mod5))
/-- BFI. -/
def execBfi (f : Fields) (s : State) := performLanes (.bfi f) f s (lanes3 f bitInsert)
/-- POPC. -/
def execPopc (f : Fields) (s : State) := performLanes (.popc f) f s (lanes1 f (fun a => BitVec.ofNat 32 (popCount a)))
/-- CLZ. -/
def execClz (f : Fields) (s : State) := performLanes (.clz f) f s (lanes1 f (fun a => BitVec.ofNat 32 (leadingZeros a)))
/-- CTZ. -/
def execCtz (f : Fields) (s : State) := performLanes (.ctz f) f s (lanes1 f (fun a => BitVec.ofNat 32 (trailingZeros a)))
/-- BREV. -/
def execBrev (f : Fields) (s : State) := performLanes (.brev f) f s (lanes1 f reverseBits)
/-- BMIX: SA is A, SB the selector, SC is C. -/
def execBmix (f : Fields) (s : State) := performLanes (.bmix f) f s (lanes3 f (fun a sel c => byteMix a c sel))

/-! ## Compares and predicates (R129 to R131) -/

/-- ICMP. -/
def execIcmp (f : Fields) (s : State) := performLanes (.icmp f) f s (fun c l =>
  let t := compareInt f.scope (intOf f.mod5 (c.w.src32 l f.sa f.imm)) (intOf f.mod5 (c.w.src32 l f.sb f.imm))
  dstP f.dst (combineBool f.combine t (c.w.srcP l f.sc)))

/-- ICMP64: an immediate is zero-extended with .U (R119). -/
def execIcmp64 (f : Fields) (s : State) := performLanes (.icmp64 f) f s (fun c l =>
  let t := compareInt f.scope (intOf f.mod5 (c.w.src64 l f.sa f.imm)) (intOf f.mod5 (c.w.src64 l f.sb f.imm f.mod5))
  dstP f.dst (combineBool f.combine t (c.w.srcP l f.sc)))

/-- PTAB. -/
def execPtab (f : Fields) (s : State) := performLanes (.ptab f) f s (fun c l =>
  dstP f.dst (f.imm.getLsbD (ofBool (c.w.srcP l f.sa) + 2 * ofBool (c.w.srcP l f.sb) + 4 * ofBool (c.w.srcP l f.sc))))

/-- PMOV.GET. -/
def execPmovGet (f : Fields) (s : State) := performLanes (.pmovGet f) f s (fun c l =>
  dst32 f.dst (LaneMask.ofPred (fun n => n < 8 && c.w.getP l n)))

/-- PMOV.SET. -/
def execPmovSet (f : Fields) (s : State) := performLanes (.pmovSet f) f s (fun c l =>
  let a := c.w.src32 l f.sa f.imm
  ((List.range 7).filter (fun n => f.imm.getLsbD n)).map (fun n => .p n (a.getLsbD n)))

end Sys2Proof.Machine
end

