-- ==== Sys2Proof/Machine/LaneOps.lean ====
section
/-! DEFINITION. Class 0: lane operations, which exchange values among the lanes of Active only (R132 to R135). -/

namespace Sys2Proof.Machine

/-- LPOLL (R133). -/
def execLpoll (f : Fields) (s : State) := performLanes (.lpoll f) f s (fun c _ =>
  let t := fun l => c.w.srcP l f.sa != f.mod0
  let ls := c.active.lanes
  match (f.aux.extractLsb' 0 2).toNat with
  | 0 => dstP f.dst (ls.all t)
  | 1 => dstP f.dst (ls.any t)
  | 2 => dstP f.dst (ls.all t || ls.all (fun l => !t l))
  | _ => dst32 f.dst (LaneMask.ofPred (fun l => c.active.has l && t l)))

/-- The width of an LXCH segment (R134). -/
def segmentWidth (code : Nat) : Nat := 32 / 2 ^ code

/-- The lane that LXCH reads (R134). -/
def exchangeLane (mode w l b : Nat) : Nat :=
  let base := l / w * w
  let r := l - base
  match mode with
  | 0 => base + b % w
  | 1 => base + (r + b) % w
  | 2 => base + (w - 1 - r + b) % w
  | _ => base + (r ^^^ (b % w))

/-- LXCH (R134). -/
def execLxch (f : Fields) (s : State) := performLanes (.lxch f) f s (fun c l =>
  let w := segmentWidth (f.aux.extractLsb' 2 3).toNat
  let j := exchangeLane (f.aux.extractLsb' 0 2).toNat w l (c.w.src32 l f.sb f.imm).toNat
  let ok := c.active.has j
  dst32 f.dst (c.w.src32 (if ok then j else l) f.sa f.imm) ++ dstP f.sc ok)

/-- One step of an LFOLD operation (R135). -/
def foldOp (op : Nat) (unsigned : Bool) (a b : Word) : Word :=
  match op with
  | 0 => a + b
  | 1 => minMax32 false unsigned a b
  | 2 => minMax32 true unsigned a b
  | 3 => a &&& b
  | 4 => a ||| b
  | _ => a ^^^ b

/-- The identity of an LFOLD operation (R135). -/
def foldUnit (op : Nat) (unsigned : Bool) : Word :=
  match op with
  | 1 => if unsigned then 0xFFFFFFFF else 0x7FFFFFFF
  | 2 => if unsigned then 0 else 0x80000000
  | 3 => 0xFFFFFFFF
  | _ => 0

/-- LFOLD, whole or over the lanes below (R135). -/
def execLfold (f : Fields) (s : State) := performLanes (.lfold f) f s (fun c l =>
  let ls := if f.mod0 then c.active.lanes.filter (· < l) else c.active.lanes
  dst32 f.dst (ls.foldl (fun x j => foldOp f.scope f.mod5 x (c.w.src32 j f.sa f.imm)) (foldUnit f.scope f.mod5)))

/-- LGRP (R135). -/
def execLgrp (f : Fields) (s : State) := performLanes (.lgrp f) f s (fun c l =>
  let val := fun j => if f.size == 3 then c.w.src64 j f.sa f.imm else (c.w.src32 j f.sa f.imm).setWidth 64
  let same := LaneMask.ofPred (fun j => c.active.has j && val j == val l)
  if f.aux.getLsbD 0 then dst32 f.dst (if same = c.active then c.active else 0)
  else dst32 f.dst same)

end Sys2Proof.Machine
end

