-- ==== Sys2Proof/Machine/Dispatch.lean ====
section
/-! DEFINITION. The meaning of every instruction and event: one arm for each constructor of Instr. -/

namespace Sys2Proof.Machine

def exec (i : Instr) (s : State) : Host.Outcome State Fault Refusal :=
  match i with
  | .nop f => Sys2Proof.Machine.execNop f s
  | .mov f => Sys2Proof.Machine.execMov f s
  | .movi f => Sys2Proof.Machine.execMovi f s
  | .movk f => Sys2Proof.Machine.execMovk f s
  | .movs f => Sys2Proof.Machine.execMovs f s
  | .sel f => Sys2Proof.Machine.execSel f s
  | .iadd f => Sys2Proof.Machine.execIadd f s
  | .isub f => Sys2Proof.Machine.execIsub f s
  | .iaddc f => Sys2Proof.Machine.execIaddc f s
  | .imul f => Sys2Proof.Machine.execImul f s
  | .imulh f => Sys2Proof.Machine.execImulh f s
  | .imad f => Sys2Proof.Machine.execImad f s
  | .imal f => Sys2Proof.Machine.execImal f s
  | .idiv f => Sys2Proof.Machine.execIdiv f s
  | .irem f => Sys2Proof.Machine.execIrem f s
  | .imin f => Sys2Proof.Machine.execImin f s
  | .imax f => Sys2Proof.Machine.execImax f s
  | .iabs f => Sys2Proof.Machine.execIabs f s
  | .ineg f => Sys2Proof.Machine.execIneg f s
  | .iadd64 f => Sys2Proof.Machine.execIadd64 f s
  | .isub64 f => Sys2Proof.Machine.execIsub64 f s
  | .lea f => Sys2Proof.Machine.execLea f s
  | .and f => Sys2Proof.Machine.execAnd f s
  | .or f => Sys2Proof.Machine.execOr f s
  | .xor f => Sys2Proof.Machine.execXor f s
  | .andn f => Sys2Proof.Machine.execAndn f s
  | .not f => Sys2Proof.Machine.execNot f s
  | .shl f => Sys2Proof.Machine.execShl f s
  | .shr f => Sys2Proof.Machine.execShr f s
  | .sha f => Sys2Proof.Machine.execSha f s
  | .rotl f => Sys2Proof.Machine.execRotl f s
  | .fshf f => Sys2Proof.Machine.execFshf f s
  | .bfe f => Sys2Proof.Machine.execBfe f s
  | .bfi f => Sys2Proof.Machine.execBfi f s
  | .popc f => Sys2Proof.Machine.execPopc f s
  | .clz f => Sys2Proof.Machine.execClz f s
  | .ctz f => Sys2Proof.Machine.execCtz f s
  | .brev f => Sys2Proof.Machine.execBrev f s
  | .bmix f => Sys2Proof.Machine.execBmix f s
  | .icmp f => Sys2Proof.Machine.execIcmp f s
  | .icmp64 f => Sys2Proof.Machine.execIcmp64 f s
  | .ptab f => Sys2Proof.Machine.execPtab f s
  | .pmovGet f => Sys2Proof.Machine.execPmovGet f s
  | .pmovSet f => Sys2Proof.Machine.execPmovSet f s
  | .lpoll f => Sys2Proof.Machine.execLpoll f s
  | .lxch f => Sys2Proof.Machine.execLxch f s
  | .lfold f => Sys2Proof.Machine.execLfold f s
  | .lgrp f => Sys2Proof.Machine.execLgrp f s
  | .fadd f => Sys2Proof.Machine.execFadd f s
  | .fsub f => Sys2Proof.Machine.execFsub f s
  | .fmul f => Sys2Proof.Machine.execFmul f s
  | .ffma f => Sys2Proof.Machine.execFfma f s
  | .fmin f => Sys2Proof.Machine.execFmin f s
  | .fmax f => Sys2Proof.Machine.execFmax f s
  | .fcmp f => Sys2Proof.Machine.execFcmp f s
  | .fclass f => Sys2Proof.Machine.execFclass f s
  | .fdiv f => Sys2Proof.Machine.execFdiv f s
  | .fsqrt f => Sys2Proof.Machine.execFsqrt f s
  | .frcp f => Sys2Proof.Machine.execFrcp f s
  | .frsq f => Sys2Proof.Machine.execFrsq f s
  | .fex2 f => Sys2Proof.Machine.execFex2 f s
  | .flg2 f => Sys2Proof.Machine.execFlg2 f s
  | .fsin f => Sys2Proof.Machine.execFsin f s
  | .fcos f => Sys2Proof.Machine.execFcos f s
  | .ftanh f => Sys2Proof.Machine.execFtanh f s
  | .fsgm f => Sys2Proof.Machine.execFsgm f s
  | .hadd2 f => Sys2Proof.Machine.execHadd2 f s
  | .hmul2 f => Sys2Proof.Machine.execHmul2 f s
  | .hfma2 f => Sys2Proof.Machine.execHfma2 f s
  | .badd2 f => Sys2Proof.Machine.execBadd2 f s
  | .bmul2 f => Sys2Proof.Machine.execBmul2 f s
  | .bfma2 f => Sys2Proof.Machine.execBfma2 f s
  | .dadd f => Sys2Proof.Machine.execDadd f s
  | .dmul f => Sys2Proof.Machine.execDmul f s
  | .dfma f => Sys2Proof.Machine.execDfma f s
  | .cvt f => Sys2Proof.Machine.execCvt f s
  | .f2i f => Sys2Proof.Machine.execF2i f s
  | .i2f f => Sys2Proof.Machine.execI2f f s
  | .pack8 f => Sys2Proof.Machine.execPack8 f s
  | .unpk8 f => Sys2Proof.Machine.execUnpk8 f s
  | .tos24 f => Sys2Proof.Machine.execTos24 f s
  | .froms24 f => Sys2Proof.Machine.execFroms24 f s
  | .pack16 f => Sys2Proof.Machine.execPack16 f s
  | .packi8 f => Sys2Proof.Machine.execPacki8 f s
  | .omset f => Sys2Proof.Machine.execOmset f s
  | .omld f => Sys2Proof.Machine.execOmld f s
  | .gidx f => Sys2Proof.Machine.execGidx f s
  | .cvdecl f => Sys2Proof.Machine.execCvdecl f s
  | .cvsign f => Sys2Proof.Machine.execCvsign f s
  | .mma8 f => Sys2Proof.Machine.execMma8 f s
  | .mmah f => Sys2Proof.Machine.execMmah f s
  | .mmab f => Sys2Proof.Machine.execMmab f s
  | .mmai f => Sys2Proof.Machine.execMmai f s
  | .sacc f => Sys2Proof.Machine.execSacc f s
  | .iacc f => Sys2Proof.Machine.execIacc f s
  | .accz f => Sys2Proof.Machine.execAccz f s
  | .accld f => Sys2Proof.Machine.execAccld f s
  | .accst f => Sys2Proof.Machine.execAccst f s
  | .accmov f => Sys2Proof.Machine.execAccmov f s
  | .drain f => Sys2Proof.Machine.execDrain f s
  | .draina f => Sys2Proof.Machine.execDraina f s
  | .ld f => Sys2Proof.Machine.execLd f s
  | .st f => Sys2Proof.Machine.execSt f s
  | .ldfe f => Sys2Proof.Machine.execLdfe f s
  | .stfe f => Sys2Proof.Machine.execStfe f s
  | .feclr f => Sys2Proof.Machine.execFeclr f s
  | .atom f => Sys2Proof.Machine.execAtom f s
  | .acas f => Sys2Proof.Machine.execAcas f s
  | .red f => Sys2Proof.Machine.execRed f s
  | .fence f => Sys2Proof.Machine.execFence f s
  | .pref f => Sys2Proof.Machine.execPref f s
  | .bra f => Sys2Proof.Machine.execBra f s
  | .brx f => Sys2Proof.Machine.execBrx f s
  | .call f => Sys2Proof.Machine.execCall f s
  | .callx f => Sys2Proof.Machine.execCallx f s
  | .ret f => Sys2Proof.Machine.execRet f s
  | .exit f => Sys2Proof.Machine.execExit f s
  | .wsync f => Sys2Proof.Machine.execWsync f s
  | .yield f => Sys2Proof.Machine.execYield f s
  | .sleep f => Sys2Proof.Machine.execSleep f s
  | .rgacq f => Sys2Proof.Machine.execRgacq f s
  | .rgrel f => Sys2Proof.Machine.execRgrel f s
  | .role f => Sys2Proof.Machine.execRole f s
  | .brk f => Sys2Proof.Machine.execBrk f s
  | .trap f => Sys2Proof.Machine.execTrap f s
  | .kick f => Sys2Proof.Machine.execKick f s
  | .kickDie f => Sys2Proof.Machine.execKickDie f s
  | .wainst f => Sys2Proof.Machine.execWainst f s
  | .qpush f => Sys2Proof.Machine.execQpush f s
  | .qpop f => Sys2Proof.Machine.execQpop f s
  | .qpeek f => Sys2Proof.Machine.execQpeek f s
  | .qclose f => Sys2Proof.Machine.execQclose f s
  | .lnch f => Sys2Proof.Machine.execLnch f s
  | .shadow f => Sys2Proof.Machine.execShadow f s
  | .publish f => Sys2Proof.Machine.execPublish f s
  | .bara f => Sys2Proof.Machine.execBara f s
  | .barw f => Sys2Proof.Machine.execBarw f s
  | .bars f => Sys2Proof.Machine.execBars f s
  | .barq f => Sys2Proof.Machine.execBarq f s
  | .bcinit f => Sys2Proof.Machine.execBcinit f s
  | .bcadd f => Sys2Proof.Machine.execBcadd f s
  | .bcwait f => Sys2Proof.Machine.execBcwait f s
  | .cntrd f => Sys2Proof.Machine.execCntrd f s
  | .gtrd f => Sys2Proof.Machine.execGtrd f s
  | .tcinv f => Sys2Proof.Machine.execTcinv f s
  | .tcrcl f => Sys2Proof.Machine.execTcrcl f s
  | .place f => Sys2Proof.Machine.execPlace f s
  | .repl f => Sys2Proof.Machine.execRepl f s
  | .probe f => Sys2Proof.Machine.execProbe f s
  | .probeF f => Sys2Proof.Machine.execProbeF f s
  | .sysrd f => Sys2Proof.Machine.execSysrd f s
  | .syswr f => Sys2Proof.Machine.execSyswr f s
  | .eret f => Sys2Proof.Machine.execEret f s
  | .trqpop f => Sys2Proof.Machine.execTrqpop f s
  | .bndset f => Sys2Proof.Machine.execBndset f s
  | .bndrd f => Sys2Proof.Machine.execBndrd f s
  | .diagst f => Sys2Proof.Machine.execDiagst f s
  | .diagld f => Sys2Proof.Machine.execDiagld f s
  | .wdog f => Sys2Proof.Machine.execWdog f s
  | .halt f => Sys2Proof.Machine.execHalt f s
  | .idle f => Sys2Proof.Machine.execIdle f s
  | .splitResize col val => Sys2Proof.Machine.execSplitResize col val s
  | .resizeComplete col => Sys2Proof.Machine.execResizeComplete col s
  | .elastClear die val => Sys2Proof.Machine.execElastClear die val s
  | .lcfgWrite dir val => Sys2Proof.Machine.execLcfgWrite dir val s
  | .issueOpportunity core => Sys2Proof.Machine.execIssueOpportunity core s
  | .loadDataReturn wid => Sys2Proof.Machine.execLoadDataReturn wid s
  | .entryRetire wid => Sys2Proof.Machine.execEntryRetire wid s
  | .translationWalk wid lane => Sys2Proof.Machine.execTranslationWalk wid lane s
  | .watchdog wid => Sys2Proof.Machine.execWatchdog wid s
  | .feTimeout wid lane => Sys2Proof.Machine.execFeTimeout wid lane s
  | .ldfeServe granule => Sys2Proof.Machine.execLdfeServe granule s
  | .bcwaitReturn wid => Sys2Proof.Machine.execBcwaitReturn wid s
  | .barrierPhaseComplete bar => Sys2Proof.Machine.execBarrierPhaseComplete bar s
  | .sleepWake wid => Sys2Proof.Machine.execSleepWake wid s
  | .idleWake wid => Sys2Proof.Machine.execIdleWake wid s
  | .rgacqGrant core => Sys2Proof.Machine.execRgacqGrant core s
  | .kickQueueFree engine => Sys2Proof.Machine.execKickQueueFree engine s
  | .gleanerQueueFree silo => Sys2Proof.Machine.execGleanerQueueFree silo s
  | .launchRecordEnqueue record => Sys2Proof.Machine.execLaunchRecordEnqueue record s
  | .pipelineDescriptor record => Sys2Proof.Machine.execPipelineDescriptor record s
  | .gangPlacement queue quad base => Sys2Proof.Machine.execGangPlacement queue quad base s
  | .coresidentPlacement queue places => Sys2Proof.Machine.execCoresidentPlacement queue places s
  | .stageLaunch pipe stage quad base => Sys2Proof.Machine.execStageLaunch pipe stage quad base s
  | .allocationClearDone col unit => Sys2Proof.Machine.execAllocationClearDone col unit s
  | .sliceEnd queue => Sys2Proof.Machine.execSliceEnd queue s
  | .partialEviction core queue => Sys2Proof.Machine.execPartialEviction core queue s
  | .contextRestore wid => Sys2Proof.Machine.execContextRestore wid s
  | .saveBoundExpiry wid => Sys2Proof.Machine.execSaveBoundExpiry wid s
  | .fatalDieError die => Sys2Proof.Machine.execFatalDieError die s
  | .sectorFill fid sector => Sys2Proof.Machine.execSectorFill fid sector s
  | .gleanerPolicyMove tenant vpn target => Sys2Proof.Machine.execGleanerPolicyMove tenant vpn target s
  | .moveSwitch tenant vpn => Sys2Proof.Machine.execMoveSwitch tenant vpn s
  | .evictionSwitch tenant vpn => Sys2Proof.Machine.execEvictionSwitch tenant vpn s
  | .forwardingFree fid => Sys2Proof.Machine.execForwardingFree fid s
  | .replicaSwitch tenant vpn => Sys2Proof.Machine.execReplicaSwitch tenant vpn s
  | .replicaCollapse tenant vpn => Sys2Proof.Machine.execReplicaCollapse tenant vpn s
  | .wainRequest core serial => Sys2Proof.Machine.execWainRequest core serial s
  | .wainRequestComplete core serial => Sys2Proof.Machine.execWainRequestComplete core serial s
  | .dieEngineRequest die engine serial => Sys2Proof.Machine.execDieEngineRequest die engine serial s
  | .drainaAddition n => Sys2Proof.Machine.execDrainaAddition n s
  | .ordGroupApply line => Sys2Proof.Machine.execOrdGroupApply line s
  | .quote nonce => Sys2Proof.Machine.execQuote nonce s
  | .extend digest => Sys2Proof.Machine.execExtend digest s
  | .update header image => Sys2Proof.Machine.execUpdate header image s
  | .dieReadmission die lost => Sys2Proof.Machine.execDieReadmission die lost s
  | .load header image => Sys2Proof.Machine.execLoad header image s
  | .islandRecalibration island ns => Sys2Proof.Machine.execIslandRecalibration island ns s
  | .thermalThrottle island temp => Sys2Proof.Machine.execThermalThrottle island temp s
  | .thermalShutdown island temp => Sys2Proof.Machine.execThermalShutdown island temp s
  | .flitReceive dir bytes => Sys2Proof.Machine.execFlitReceive dir bytes s
  | .checkIntervalEnd dir wave errors => Sys2Proof.Machine.execCheckIntervalEnd dir wave errors s
  | .withdrawMsg dir wave => Sys2Proof.Machine.execWithdrawMsg dir wave s
  | .trainingAttemptEnd dir wave errors => Sys2Proof.Machine.execTrainingAttemptEnd dir wave errors s
  | .restoreMsg dir wave => Sys2Proof.Machine.execRestoreMsg dir wave s
  | .lossOfLock dir lost => Sys2Proof.Machine.execLossOfLock dir lost s
  | .rds line pkg => Sys2Proof.Machine.execRds line pkg s
  | .rdx line pkg => Sys2Proof.Machine.execRdx line pkg s
  | .wb line pkg tag keep bytes => Sys2Proof.Machine.execWb line pkg tag keep bytes s
  | .ev line pkg => Sys2Proof.Machine.execEv line pkg s
  | .homeRead line => Sys2Proof.Machine.execHomeRead line s
  | .homeWrite line pkg tag bytes => Sys2Proof.Machine.execHomeWrite line pkg tag bytes s
  | .forwardedRequest line => Sys2Proof.Machine.execForwardedRequest line s
  | .invalidation line => Sys2Proof.Machine.execInvalidation line s
  | .backInvalidation line => Sys2Proof.Machine.execBackInvalidation line s
  | .switchFailure switch => Sys2Proof.Machine.execSwitchFailure switch s
  | .requestResend wid lane => Sys2Proof.Machine.execRequestResend wid lane s
  | .rebuildHoldEnd switch bytes => Sys2Proof.Machine.execRebuildHoldEnd switch bytes s
  | .rebuildOpen switch => Sys2Proof.Machine.execRebuildOpen switch s
  | .portDownExpiry port => Sys2Proof.Machine.execPortDownExpiry port s
  | .cxlMemRead addr n => Sys2Proof.Machine.execCxlMemRead addr n s
  | .cxlMemWrite addr bytes => Sys2Proof.Machine.execCxlMemWrite addr bytes s
  | .hostLaneFailure lanes => Sys2Proof.Machine.execHostLaneFailure lanes s
  | .injectionDurationEnd dir wave => Sys2Proof.Machine.execInjectionDurationEnd dir wave s
  | .tokensReachZero tenant => Sys2Proof.Machine.execTokensReachZero tenant s
  | .pcmdQueueFree => Sys2Proof.Machine.execPcmdQueueFree s
  | .periodBoundary => Sys2Proof.Machine.execPeriodBoundary s
  | .readpart => Sys2Proof.Machine.execReadpart s
  | .readten => Sys2Proof.Machine.execReadten s
  | .setten => Sys2Proof.Machine.execSetten s
  | .mode => Sys2Proof.Machine.execMode s
  | .tenantReset => Sys2Proof.Machine.execTenantReset s
  | .segment => Sys2Proof.Machine.execSegment s
  | .save => Sys2Proof.Machine.execSave s
  | .restore => Sys2Proof.Machine.execRestore s
  | .cert => Sys2Proof.Machine.execCert s
  | .activate => Sys2Proof.Machine.execActivate s
  | .activateTimeout => Sys2Proof.Machine.execActivateTimeout s
  | .hostReset => Sys2Proof.Machine.execHostReset s
  | .loftReset => Sys2Proof.Machine.execLoftReset s
  | .powerLoss => Sys2Proof.Machine.execPowerLoss s

end Sys2Proof.Machine
end

