-- ==== Sys2Proof/Machine/Agenda.lean ====
section
/-! DEFINITION. The default schedule: which event of the machine's own agents comes next where the state's agenda names none
(log entry 3). The spec leaves the order of these events open; each of them is listed once its condition holds, and a
rotation through the list and the issue opportunities leaves none of them out for good. -/

namespace Sys2Proof.Machine

namespace State

/-! ## Warps and their waits -/

/-- Warps on their cores. -/
def awake (s : State) : List Nat := s.warpsWhere Warp.onCore

/-- Has ENTRY_RETIRE something to do for a warp (R108, R109)? -/
def retireDue (s : State) (wid : Nat) : Bool :=
  let w := s.warp wid
  match w.rob.head? with
  | none => false
  | some e =>
    s.headReady wid e || isPause e || w.rob.any (completedBehind s wid) ||
      !(performable s wid (fun e => e.wait == .turn || e.wait == .sent)).isEmpty

/-- Events that end the waits of one warp (R108, R141, R227, R304, R306, R321, R384). -/
def warpAgenda (s : State) (wid : Nat) : List Instr :=
  let w := s.warp wid
  let whenever := fun (b : Bool) (i : Instr) => if b then [i] else []
  List.flatten [
    whenever (s.retireDue wid) (.entryRetire wid),
    whenever (!(performable s wid (fun e => e.wait == .loadData && e.since < s.gt)).isEmpty) (.loadDataReturn wid),
    whenever (w.rob.any (fun e => e.wait == .byteCount)) (.bcwaitReturn wid),
    (w.rob.find? (fun e => e.wait == .kickQueue)).toList.map (fun e => .kickQueueFree (kickEngine e.instr w)),
    whenever (w.pauses.any (idleOver s w)) (.idleWake wid),
    whenever ((w.rob ++ w.pauses).any (sleepOver s.gt)) (.sleepWake wid),
    ((List.range 32).filter (fun l => (w.lane l).status == .parked)).map (fun l => .translationWalk wid l),
    whenever (hung s w) (.watchdog wid)]

/-- Full/empty requests that can be served or have run out (R211). -/
def feAgenda (s : State) : List Instr :=
  (((s.mem.feQueue.map (·.granule)).eraseDups).filter (fun g => s.isFull (16 * g))).map (fun g => Instr.ldfeServe g) ++
  (s.mem.feQueue.filter (fun r =>
    (s.warp r.wid).feLimit != 0 && r.since + (s.warp r.wid).feLimit.toNat ≤ s.gt)).map (fun r => Instr.feTimeout r.wid r.lane)

/-- The commands of a partition queue (R353 to R355). -/
def commandEvents : List Instr := [.readpart, .readten, .setten, .mode, .tenantReset, .segment, .save, .restore]

/-- Barriers, extended blocks, gleaner queues and the command queue (R142, R341, R353, R374). -/
def waitAgenda (s : State) : List Instr :=
  List.flatten [
    (s.loft.barriers.filter (fun b => s.phaseReady b || podBroken s b)).map (fun b => .barrierPhaseComplete b.id),
    (s.cores.filter (fun e => (nextGrant s e.1).isSome)).map (fun e => .rgacqGrant e.1),
    ((List.range 8).filter (fun d => !(s.die d).gleaner.isEmpty || !(s.waiters (waitsForSilo s d)).isEmpty)).map
      (fun d => .gleanerQueueFree d),
    if s.loft.pcmd.isEmpty then [] else commandEvents,
    if decide (s.loft.pcmd.length < 16) && !(s.waiters waitsForPcmd).isEmpty then [Instr.pcmdQueueFree] else []]

/-! ## Copy engines -/

/-- Serial numbers with which an engine can be stepped: 0 to fetch, and every request in progress. -/
def engineSerials (id : Nat) (e : Engine) : List Nat :=
  (if !e.queue.isEmpty && e.progress.length < progressLimit id then [0] else []) ++ e.progress.map (·.serial)

/-- Events of the copy engines (R287, R288, R291). -/
def engineAgenda (s : State) : List Instr :=
  s.cores.flatMap (fun (e : Nat × Core) =>
    (engineSerials e.1 e.2.wain).map (fun n =>
      if e.2.wain.progress.any (fun r => r.serial == n && r.checked && r.pos ≥ r.total) then
        Instr.wainRequestComplete e.1 n
      else .wainRequest e.1 n)) ++
  s.dies.flatMap (fun (e : Nat × Die) => e.2.engines.flatMap (fun (x : Nat × Engine) =>
    (engineSerials 384 x.2).map (fun n => Instr.dieEngineRequest e.1 x.1 n)))

/-! ## Placement -/

/-- The queues that have a gang to place, in the order of service. -/
def queueOrder (s : State) : List Nat :=
  ((List.range 64).filter (fun q => (s.placingGrid q).isSome)).foldl (fun (l : List Nat) q =>
    let (a, b) := l.span (fun x => s.queueBefore x q)
    a ++ q :: b) []

/-- How many blocks of a record an empty core holds, its scratchpad at 8 MiB whatever its SPLIT (R16, R19). -/
def blocksPerCore (r : BitVec 2048) : Nat :=
  ((List.range 17).filter (fun n =>
    Needs.withinCore { slots := n * Rec.warps r, entries := n * Rec.warps r * Rec.windowSize r
                       tiles := n * Rec.warps r * (Rec.a r + Rec.f r), bars := n * Rec.barcore r } &&
      n * Rec.units r ≤ 2048)).length - 1

/-- Places for the gangs of a grid as the tenant's quads would hold them empty (R19). -/
def emptyPlaces (s : State) (g n : Nat) : Option (List (Nat × Nat)) :=
  let r := (s.grid g).record
  let all := (s.workQuads g).flatMap (fun q =>
    let here := (basesOf r).flatMap (fun b =>
      List.replicate (blocksPerCore r) (q, b))
    if Rec.barquad r == 0 then here else here.take (4 / Rec.barquad r))
  if all.length < n then none else some (all.take n)

/-- The placement events of one queue (R18 to R20). -/
def placeQueue (s : State) (q : Nat) : List Instr :=
  match s.placingGrid q with
  | none => []
  | some g =>
    if !s.mayPlace g then []
    else if s.placedWhole g then
      let n := (gangsToPlace (s.grid g)).length
      let own := (s.loft.targets.find? (fun t => t.grid == g)).map (fun t => t.places.map (·.2))
      match own.filter (fun ps => (placeWhole s g ps).isSome) with
      | some ps => [.coresidentPlacement q ps]
      | none =>
        let others : State := { s with loft := { s.loft with targets := s.loft.targets.filter (fun t => t.grid != g) } }
        match others.freePlaces g n with
        | some ps => [.coresidentPlacement q ps]
        | none => if own.isSome then [] else (s.emptyPlaces g n).toList.map (fun ps => .coresidentPlacement q ps)
    else ((s.gangPlaces g).find? (fun p => s.gangFits g p.1 p.2)).toList.map (fun p => .gangPlacement q p.1 p.2)

/-- The launches of a pipeline's stages (R273). -/
def stageAgenda (s : State) (e : Nat × Pipeline) : List Instr :=
  ((List.range e.2.stages.length).filter (stageReady s e.1)).flatMap (fun i =>
    match stageGrid s e.1 i with
    | some (s', g) =>
      if !s'.mayPlace g then []
      else ((s'.gangPlaces g).find? (fun p => s'.gangFits g p.1 p.2)).toList.map (fun p => Instr.stageLaunch e.1 i p.1 p.2)
    | none => [])

/-- What makes room for the waiting work of a queue: an eviction, or the end of a slice where no eviction does (R278, R280; log entry 112,
DESIGN CHOICE). -/
def roomAgenda (s : State) (q : Nat) : List Instr :=
  match wanting s q with
  | none => []
  | some (x, g) =>
    let cores := evictionCores x g
    match cores.filter (fun c => cores.all (fun d => (s.core c).evictions ≤ (s.core d).evictions)) with
    | c :: _ => [.partialEviction c q]
    | [] => if (sliceFor s q).isSome then [.sliceEnd q] else []

/-- Saved contexts that fit their cores again (R27, R281). -/
def restoreAgenda (s : State) : List Instr :=
  ((s.warpsWhere isSaved).filter (fun wid => s.restorable (s.restoreSet wid))).map (fun wid => .contextRestore wid)

/-- The loft's placement work: placements first, then restores, then room (R268). -/
def loftAgenda (s : State) : List Instr :=
  let s := s.openPods
  let queues := s.queueOrder
  let places := match queues.findSome? (fun q => (s.placeQueue q).head?) with
    | some i => [i]
    | none => []
  let stages := s.loft.pipelines.flatMap s.stageAgenda
  let clears := s.loft.clearing.map (fun c => Instr.allocationClearDone c.1 c.2.1)
  if !(places ++ stages ++ clears).isEmpty then places ++ stages ++ clears
  else s.restoreAgenda ++ (List.range 64).flatMap s.roomAgenda

/-! ## Homes, gleaners, columns -/

/-- The switches of what the gleaners have in progress, expired horizons, and resizes (R214, R330 to R334). -/
def gleanerAgenda (s : State) : List Instr :=
  List.flatten [
    s.tables.moves.flatMap (fun m => match m.kind with
      | .place => [.moveSwitch m.tenant m.vpn]
      | .evict => [.evictionSwitch m.tenant m.vpn]
      | .replicate => [.replicaSwitch m.tenant m.vpn]
      | .collapse => if m.horizon ≤ s.gt then [.replicaCollapse m.tenant m.vpn] else []),
    (s.tables.frames.filter (fun (e : Nat × Frame) => e.2.state == .forwarding && e.2.horizon ≤ s.gt)).map
      (fun e => .forwardingFree e.1),
    (s.columns.filter (fun e => e.2.busy)).map (fun e => .resizeComplete e.1)]

/-- The next addition without a ticket, and the ticketed groups whose turn has come (R199, R200). -/
def addendAgenda (s : State) : List Instr :=
  let plain := match s.mem.addends.findIdx? (fun a => a.ticket.isNone) with
    | some n => [.drainaAddition n]
    | none => []
  let lines := ((s.mem.addends.filter (fun a => a.ticket.isSome)).map (addendLine s)).eraseDups
  plain ++ (lines.filter (fun l => (dueGroup s l).isSome)).map (fun l => .ordGroupApply l)

/-! ## Time, links and firmware -/

/-- What falls due as GT goes on, and answers that this package owes (R276, R277, R317, R403, R406, R409, R422). -/
def timeAgenda (s : State) : List Instr :=
  List.flatten [
    (if s.gt ≥ periodNs * (s.loft.period + 1) then [.periodBoundary] else []),
    ((List.range 16).filter (fun t => (s.tenant t).defined && (s.budget t).tokens ≤ 0 && !(s.budget t).spent)).map
      (fun t => .tokensReachZero t),
    ((s.net.requests.map (·.line)).eraseDups).flatMap (fun l => [.forwardedRequest l, .invalidation l]),
    (s.net.portdown.filter (fun (e : Nat × Nat) => e.2 + s.net.portto ≤ s.gt)).map (fun e => .portDownExpiry { switch := e.1, pkg := s.net.pkg }),
    (s.net.pendings.filter (fun p => p.since + 8000 * (p.resent + 1) ≤ s.gt)).map (fun p => .requestResend p.wid p.lane),
    s.net.dirs.flatMap (fun (d : Nat × LinkDir) =>
      (d.2.waves.filter (fun (w : Nat × Wave) => w.2.until_ ≠ 0 && w.2.until_ ≤ s.gt)).map
        (fun w => Instr.injectionDurationEnd d.1 w.1)),
    (match s.fw.activating with
     | some t => if !s.fw.reached && t + 100000000 ≤ s.gt then [.activateTimeout] else [.dieReadmission ((s.fw.readmitting.map (·.1)).getD s.fw.nextDie) []]
     | none => s.fw.readmitting.toList.map (fun x => .dieReadmission x.1 []))]

/-! ## The choice -/

/-- Every event of the machine's own agents whose condition holds. -/
def agenda (s : State) : List Instr :=
  s.awake.flatMap s.warpAgenda ++ s.feAgenda ++ s.waitAgenda ++ s.engineAgenda ++ s.loftAgenda ++ s.gleanerAgenda ++
    s.addendAgenda ++ s.timeAgenda

/-- The core that issues next: the next one up that has a resident warp, round and round. -/
def issuingCore (s : State) : Nat :=
  let cores := s.awake.map (fun wid => (s.warp wid).gcore)
  ((least (cores.filter (· ≥ s.nextCore))) <|> (least cores)).getD 0

/-- The event that comes next, and the machine with the rotation moved on. -/
def nextEvent (s : State) : State × Instr :=
  let t : State := { s with turn := s.turn + 1 }
  let events := s.agenda
  match if s.turn % 2 = 0 then none else events[s.turn / 2 % events.length]? with
  | some i => (t, i)
  | none => ({ t with nextCore := s.issuingCore + 1 }, .issueOpportunity s.issuingCore)

end State

/-! ## The dated agenda -/

/-- Take the head of the agenda once its time has come; without power no time passes. -/
def takeDue (s : State) : Option (State × Instr) :=
  match s.schedule with
  | e :: rest => if e.time ≤ s.gt || !s.fw.powered then some ({ s with schedule := rest }, e.op) else none
  | [] => none

/-- May an operation of the agenda take place: an event, and without power only a power-on? -/
def mayHappen (s : State) (i : Instr) : Bool := i.fields.isNone && (s.fw.powered || i == .loftReset)

end Sys2Proof.Machine
end

