-- ==== Sys2Proof/Machine/Step.lean ====
section
/-! DEFINITION. One step of the machine: a fetch slot that an issue opportunity filled is served, else the next dated
operation of the agenda takes place, else the default schedule goes on. -/

namespace Sys2Proof.Machine

/-- Serve a fetch slot: check and decode (R34, R53), then the instruction. -/
def serve (p : Pick) (s : State) : Host.Outcome State Fault Refusal :=
  let s := payBefore s p.wid
  if owing s p.wid then .next (dropPick s p)
  else
    match frontEnd s p with
    | .run s i => exec i s
    | .done s => .next s

/-- An event of the machine's agents. -/
def happen (i : Instr) (s : State) : Host.Outcome State Fault Refusal :=
  let s := payAll s i
  if mustWait s i then .next s else exec i s

/-- The next event of the default schedule; without power nothing happens (R428). -/
def idleStep (s : State) : Host.Outcome State Fault Refusal :=
  if s.fw.powered then happen s.nextEvent.2 s.nextEvent.1 else .next s

/-- One step. -/
def step (s : State) : Host.Outcome State Fault Refusal :=
  match s.chosen with
  | p :: rest => serve p { s with chosen := rest }
  | [] =>
    match takeDue s with
    | some (s, i) => if mayHappen s i then happen i s else .next s
    | none => idleStep s

namespace State

/-- A warp at its start on core 0 whose fetched line holds one instruction, in the slot at its PC (R33, R38). -/
def placedWarp (w : Nat) : Warp :=
  { lanes := (List.range 32).map (fun l => (l, { pc := 0, status := .running }))
    lines := [(0, Line.make [BitVec.ofNat 96 w] 31)]
    lastIssue := 0 }

/-- The machine with an instruction stored where the next step fetches: a resident warp of tenant 0 whose lanes stand
at it, with a fetch slot filled (log entry 30). Bits from `nbits` up are 0. -/
def withFetchWord (s : State) (nbits w : Nat) : State :=
  let wid := s.loft.nextWid
  { s with
    warps := Sparse.insert wid (placedWarp (w % 2 ^ nbits)) s.warps
    loft := { s.loft with nextWid := wid + 1 }
    chosen := { wid, pc := 0, lanes := LaneMask.all, word := BitVec.ofNat 96 (w % 2 ^ nbits) } :: s.chosen }

end State

end Sys2Proof.Machine
end

