-- ==== Sys2Proof/Safety.lean ====
section
/-! DEFINITION. The terms in which claims are stated: a split that stands ready to issue an instruction, what the completion of
an entry leaves, how a lane traps, and the invariants of the state. -/

namespace Sys2Proof.Machine

/-! ## A split ready to issue -/

/-- The split named by `cur` stands on its core with no unretired entry before it and its access is not to stay in flight, none of its lanes is parked or has exited, and the word passes the decode-time
checks of R53 for this warp. -/
structure Issuing (i : Instr) (f : Fields) (s : State) : Prop where
  onCore : (s.ctx f).w.onCore = true
  split : (s.ctx f).lanes ≠ 0
  running : ∀ l < 32, (s.ctx f).lanes.has l = true → ((s.ctx f).w.lane l).status = .running
  unparked : (s.ctx f).w.parkedSince = none
  legal : decodeCause s (s.ctx f) i = none
  first : (s.ctx f).w.rob = []
  now : s.cur.late = false

/-- The 32-bit sources of a lane of the split that issues (R118). -/
def srcA (s : State) (f : Fields) (l : Nat) : Word := (s.ctx f).w.src32 l f.sa f.imm
def srcB (s : State) (f : Fields) (l : Nat) : Word := (s.ctx f).w.src32 l f.sb f.imm
def srcC (s : State) (f : Fields) (l : Nat) : Word := (s.ctx f).w.src32 l f.sc f.imm

/-- The 64-bit sources of a lane (R118). -/
def srcA64 (s : State) (f : Fields) (l : Nat) : DWord := (s.ctx f).w.src64 l f.sa f.imm
def srcB64 (s : State) (f : Fields) (l : Nat) : DWord := (s.ctx f).w.src64 l f.sb f.imm
def srcC64 (s : State) (f : Fields) (l : Nat) : DWord := (s.ctx f).w.src64 l f.sc f.imm

/-- The predicate sources of a lane (R118). -/
def srcPA (s : State) (f : Fields) (l : Nat) : Bool := (s.ctx f).w.srcP l f.sa
def srcPB (s : State) (f : Fields) (l : Nat) : Bool := (s.ctx f).w.srcP l f.sb
def srcPC (s : State) (f : Fields) (l : Nat) : Bool := (s.ctx f).w.srcP l f.sc

/-! ## Completion (R84, R108 to R111) -/

/-- v register `n` of a lane after its writes. -/
def afterV (ws : List RegWrite) (n : Nat) (old : Word) : Word :=
  ws.foldl (fun a r => match r with | .v m x => if m = n then x else a | _ => a) old

/-- Predicate `n` of a lane after its writes; p7 reads true whatever is written (R46). -/
def afterP (ws : List RegWrite) (n : Nat) (old : Bool) : Bool :=
  ws.foldl (fun a r => match r with | .p m x => if m = n ∧ m ≠ 7 then x else a | _ => a) old

/-- k register `n` after the writes of the lane that writes it. -/
def afterK (ws : List RegWrite) (n : Nat) (old : DWord) : DWord :=
  ws.foldl (fun a r => match r with | .k m x => if m = n then x else a | _ => a) old

/-- The writes name registers that exist. -/
def inRange (ws : List RegWrite) : Prop :=
  ∀ r ∈ ws, match r with | .v n _ => n < 128 | .p n _ => n < 8 | .k _ _ => True

/-- Every lane of Active has completed and the entry has retired. `b` is the machine after the instruction's effects
outside the warp's registers: `t` differs from it in the one warp alone, and there in the registers that `ws` writes for the
lanes of Active (a k register takes the value of the lowest one, R84), in the PCs of the split's lanes, in what `own` does, and in
the monitors and the hang count of the warp (R304, R389). -/
structure Completed (b : State) (c : Ctx) (ws : Nat → List RegWrite) (goto : Nat → DWord) (own : Warp → Warp)
    (t : State) : Prop where
  only : t = b.setWarp c.wid (t.warp c.wid)
  v : ∀ l n, l < 32 → n < 128 → (t.warp c.wid).getV l n =
    if c.active.has l then afterV (ws l) n ((b.warp c.wid).getV l n) else (b.warp c.wid).getV l n
  p : ∀ l n, l < 32 → n < 8 → (t.warp c.wid).getP l n =
    if c.active.has l then afterP (ws l) n ((b.warp c.wid).getP l n) else (b.warp c.wid).getP l n
  k : ∀ n, (t.warp c.wid).getK n =
    if c.active = 0 then (b.warp c.wid).getK n else afterK (ws c.active.lowest) n ((b.warp c.wid).getK n)
  lane : ∀ l, l < 32 → (t.warp c.wid).lane l =
    if c.active.has l then { (b.warp c.wid).lane l with pc := goto l, status := .running }
    else if c.lanes.has l then { (b.warp c.wid).lane l with pc := nextPc c.pc, status := .running }
    else (b.warp c.wid).lane l
  rest : t.warp c.wid = { own (b.warp c.wid) with
    v := (t.warp c.wid).v, k := (t.warp c.wid).k, p := (t.warp c.wid).p, lanes := (t.warp c.wid).lanes
    wissued := (b.warp c.wid).wissued + 1, wretired := (b.warp c.wid).wretired + 1, hangBase := b.runsFrom (b.warp c.wid).gcore }

/-- `Completed` with the next slot as the place where every lane of Active goes. -/
abbrev CompletedNext (b : State) (c : Ctx) (ws : Nat → List RegWrite) (own : Warp → Warp) (t : State) : Prop :=
  Completed b c ws (fun _ => nextPc c.pc) own t

/-- `CompletedNext` of a floating-point instruction: each lane's writes and flags, and the flags of the lanes of Active ORed into
FPFLAGS (R94, R159). -/
def CompletedFp (b : State) (c : Ctx) (r : Nat → List RegWrite × FpFlags) (t : State) : Prop :=
  ∃ fl : FpFlags, (∀ i, fl.getLsbD i = true ↔ ∃ l, c.active.has l = true ∧ (r l).2.getLsbD i = true) ∧
    CompletedNext b c (fun l => (r l).1) (fun w => w.raise fl) t

/-- No lane of Active raises a flag that FPTRAPEN enables (R159). -/
def Untrapped (c : Ctx) (r : Nat → List RegWrite × FpFlags) : Prop :=
  ∀ l, c.active.has l = true → (r l).2 &&& c.w.enabledFlags = 0

/-! ## Traps (R302) -/

/-- The lanes of a mask have an empty handler tag, TVEC names a handler, and the queue of records has room. -/
structure CanTrap (w : Warp) (m : LaneMask) : Prop where
  lanes : m ≠ 0
  handler : validTvec w.tvec = true
  tags : ∀ l, m.has l = true → (w.lane l).tag = none
  room : w.records.length < 16

/-- One cause has been delivered to the lanes `m` of the split, and its other lanes go on (R112, R302). `b` is the machine
before; `t` differs from it in the one warp, and there as said. -/
structure Trapped (b : State) (c : Ctx) (m : LaneMask) (cause : Nat) (addr : DWord) (code : Nat) (t : State) : Prop where
  only : t = b.setWarp c.wid (t.warp c.wid)
  lane : ∀ l, l < 32 → (t.warp c.wid).lane l =
    if m.has l then
      { (b.warp c.wid).lane l with
        pc := c.w.tvec, status := .running, tag := some { cause, pc := c.pc }, trapPc := c.pc
        trapCause := BitVec.ofNat 64 cause, trapAddr := addr }
    else if c.lanes.has l then { (b.warp c.wid).lane l with pc := nextPc c.pc, status := .running }
    else (b.warp c.wid).lane l
  rest : t.warp c.wid = { b.warp c.wid with
    lanes := (t.warp c.wid).lanes
    records := (b.warp c.wid).records ++
      [recordBytes { pc := c.pc, addr, lanes := m, cause, flags := 0, code, word := c.word } b.gt (b.warp c.wid).grid
        (b.warp c.wid).gen (b.warp c.wid).warpNo (b.warp c.wid).lost (b.warp c.wid).block (b.warp c.wid).seq]
    lost := 0, seq := (b.warp c.wid).seq + 1, entered := (b.warp c.wid).entered + 1
    wissued := (b.warp c.wid).wissued + 1, wretired := (b.warp c.wid).wretired + 1, hangBase := b.runsFrom (b.warp c.wid).gcore }

/-! ## Accesses (R224, R225) -/

/-- The scratch byte that a lane of the split addresses, in its block's scratchpad or in the gang window (R207, R208). -/
def scratchAt (s : State) (f : Fields) (l : Nat) : Option Loc :=
  match rangeOfVa ((s.ctx f).w.addr l f) with
  | .global _ | .nowhere => none
  | r => s.scratchPlace (s.ctx f).agent r

/-- Every lane of Active addresses scratch that it may reach, at a multiple of `n`, in words without an error; `at_` is the number
of each lane's first byte. -/
def ScratchReady (s : State) (f : Fields) (n : Nat) (at_ : Nat → Nat) : Prop :=
  ∀ l, (s.ctx f).active.has l = true →
    ((s.ctx f).w.addr l f).toNat % n = 0 ∧ (scratchAt s f l).map Loc.phys = some (at_ l) ∧ eccClass (s.syndrome (at_ l)) = .clean

/-- The checks of every lane of Active pass: the machine after them and the place of each lane in lane order. -/
def PlacesFound (s : State) (f : Fields) (k : AccKind) (align : Nat) (s' : State) (ps : List (Nat × State.Place)) : Prop :=
  checkLanes s (s.ctx f) k align f (s.ctx f).active.lanes = (s', ps.map (fun x => (x.1, LaneAccess.at x.2)))

/-- Perform the lanes at their places in order, each on the machine that the one before left: the machine after the last, the
register writes of each lane, and whether a word was uncorrectable. -/
def inOrder (act : State → Nat → State.Place → State × List RegWrite × Bool) (s : State) :
    List (Nat × State.Place) → State × List (Nat × List RegWrite) × Bool
  | [] => (s, [], false)
  | (l, p) :: ps =>
    let (s, ws, bad) := act s l p
    let (s, rest, bad') := inOrder act s ps
    (s, (l, ws) :: rest, bad || bad')

/-- The same for an action that gives each lane its outcome. -/
def outcomesInOrder (act : State → Nat → State.Place → State × LaneOutcome × Bool) (s : State) :
    List (Nat × State.Place) → State × List (Nat × LaneOutcome) × Bool
  | [] => (s, [], false)
  | (l, p) :: ps =>
    let (s, o, bad) := act s l p
    let (s, rest, bad') := outcomesInOrder act s ps
    (s, (l, o) :: rest, bad || bad')

/-- Lanes that have completed with their writes. -/
def completedLanes (ws : List (Nat × List RegWrite)) : List (Nat × LaneOutcome) := ws.map (fun x => (x.1, .done x.2 none))

/-- The writes of a lane in a list of lanes. -/
def writesOf (xs : List (Nat × List RegWrite)) (l : Nat) : List RegWrite := Sparse.get [] xs l

/-! ## Tile instructions and waits -/

/-- The split may issue a tile instruction on the set of its convergence register, and Active is that set (R183, R184). -/
structure Convened (c : Ctx) (f : Fields) : Prop where
  ready : tileReady c.w c.pc c.lanes (cvNo f.sc) = true
  members : c.active = cvMembers (c.w.getCv (cvNo f.sc))
  nonempty : c.active ≠ 0

/-- The instruction waits in the reorder buffer and the lanes of the split wait with it (R99, R108), or it retires and its lanes go on
waiting (`paused`: R139, R141, R145, R321). -/
structure Entered (b : State) (c : Ctx) (e : Entry) (paused : Bool) (t : State) : Prop where
  only : t = b.setWarp c.wid (t.warp c.wid)
  lane : ∀ l, l < 32 → (t.warp c.wid).lane l =
    if c.lanes.has l then { (b.warp c.wid).lane l with status := .waiting } else (b.warp c.wid).lane l
  rest : t.warp c.wid = { b.warp c.wid with
    lanes := (t.warp c.wid).lanes, wissued := (b.warp c.wid).wissued + 1
    rob := if paused then (b.warp c.wid).rob else (b.warp c.wid).rob ++ [e]
    pauses := if paused then (b.warp c.wid).pauses ++ [e] else (b.warp c.wid).pauses
    wretired := if paused then (b.warp c.wid).wretired + 1 else (b.warp c.wid).wretired
    hangBase := if paused then b.runsFrom (b.warp c.wid).gcore else (b.warp c.wid).hangBase }

/-- The wait of the lanes of `e`, which has retired, is over: they go on (R139, R141, R321). -/
structure Woken (b : State) (wid : Nat) (e : Entry) (goto : Nat → DWord) (t : State) : Prop where
  only : t = b.setWarp wid (t.warp wid)
  lane : ∀ l, l < 32 → (t.warp wid).lane l =
    if e.active.has l then { (b.warp wid).lane l with pc := goto l, status := .running }
    else if e.lanes.has l then { (b.warp wid).lane l with pc := nextPc e.pc, status := .running }
    else (b.warp wid).lane l
  rest : t.warp wid = { b.warp wid with
    lanes := (t.warp wid).lanes, pauses := (b.warp wid).pauses.filter (fun x => !(x.pc == e.pc && x.lanes == e.lanes)) }

/-- The entry of an issuing instruction. -/
def entryOf (s : State) (c : Ctx) (i : Instr) (outs : List (Nat × LaneOutcome)) (wait : Wait) : Entry :=
  { pc := c.pc, lanes := c.lanes, active := c.active, instr := i, word := c.word, outs, wait, since := s.gt
    op := s.cur.op }

/-- The oldest entry of a warp, `e`, retires with every lane of its Active completed, and its split, which has waited, goes on (R108).
Its issue has been counted before. -/
def Retired (b : State) (wid : Nat) (e : Entry) (ws : Nat → List RegWrite) (goto : Nat → DWord) (own : Warp → Warp) (t : State) :
    Prop :=
  Completed (b.updWarp wid (fun w => { w with rob := w.rob.drop 1, wissued := w.wissued - 1 })) (b.entryCtx wid e) ws goto own t

/-- The oldest entry of a warp, `e`, whose split has gone on before, retires: its registers and flags change, no lane does (R108). -/
structure RetiredAfter (b : State) (wid : Nat) (e : Entry) (ws : Nat → List RegWrite) (t : State) : Prop where
  only : t = b.setWarp wid (t.warp wid)
  v : ∀ l n, l < 32 → n < 128 → (t.warp wid).getV l n =
    if e.active.has l then afterV (ws l) n ((b.warp wid).getV l n) else (b.warp wid).getV l n
  p : ∀ l n, l < 32 → n < 8 → (t.warp wid).getP l n =
    if e.active.has l then afterP (ws l) n ((b.warp wid).getP l n) else (b.warp wid).getP l n
  k : ∀ n, (t.warp wid).getK n =
    if e.active = 0 then (b.warp wid).getK n else afterK (ws e.active.lowest) n ((b.warp wid).getK n)
  rest : t.warp wid = { (b.warp wid).raise e.flags with
    v := (t.warp wid).v, k := (t.warp wid).k, p := (t.warp wid).p
    rob := (b.warp wid).rob.drop 1, wretired := (b.warp wid).wretired + 1, hangBase := b.runsFrom (b.warp wid).gcore }

/-- The instruction has its outcomes behind unretired entries: its entry `e` joins them, and its split goes on (R108, R109). -/
structure WentOn (b : State) (c : Ctx) (e : Entry) (t : State) : Prop where
  only : t = b.setWarp c.wid (t.warp c.wid)
  lane : ∀ l, l < 32 → (t.warp c.wid).lane l =
    if c.lanes.has l then { (b.warp c.wid).lane l with pc := nextPc c.pc, status := .running } else (b.warp c.wid).lane l
  rest : t.warp c.wid = { b.warp c.wid with
    lanes := (t.warp c.wid).lanes, rob := (b.warp c.wid).rob ++ [{ e with moved := true }], wissued := (b.warp c.wid).wissued + 1 }

/-- The checks of every transfer target pass (R37); the machine after them holds the lines that they fetched. -/
def TargetsPass (s : State) (c : Ctx) (tgt : Bool) (goal : Nat → DWord) (s' : State) : Prop :=
  checkTargets s c.wid tgt (goals c goal) = (s', (goals c goal).map (fun g => (g.1, g.2, Transfer.ok)))

/-! ## Invariants -/

/-- Memory is in canonical form (log entry 1). -/
def State.Inv (s : State) : Prop := Memory.wf s.mem = true

end Sys2Proof.Machine
end

