-- ==== Sys2Proof/Certificates/Slice0/Obligations.lean ====
section
/-! DEFINITION. The statements for the provers. -/

open Sys2Proof Sys2Proof.Machine

/-! ## Decode and encode -/

/-- R39, R45 to R48, R50: the word of a well-formed instruction decodes to it, with every operand and every modifier it
holds. -/
def Obligations.DecodeOfEncode : Prop :=
  ∀ i : Instr, i.WellFormed → ∃ w, encode i = some w ∧ decodeWord w = .ok i

/-- R39, R51: no two words decode to one instruction; what a word decodes to encodes to that word. -/
def Obligations.EncodeOfDecode : Prop :=
  ∀ (w : BitVec 96) (i : Instr), decodeWord w = .ok i → i.WellFormed ∧ encode i = some w

/-- R30, R31, R51: the twelve bytes of a well-formed instruction decode to it and leave the bytes that follow; an opcode that no row
has is refused by that name. -/
def Obligations.DecodeBytes : Prop :=
  (∀ (i : Instr) (rest : List Byte), i.WellFormed → decode (encodeBytes i ++ rest) = .ok (i, rest)) ∧
  (∀ w : BitVec 96, Instr.ofOpcode (w.extractLsb' 0 10).toNat {} = none → decodeWord w = .error .unassignedOpcode)

/-- R39 to R43, R45: the words that the spec works out bit by bit decode to the instructions that they stand for, and one with
an ordering of 3, one with a nonzero unassigned bit and one with an unassigned opcode decode to none. -/
def Obligations.DecodeWords : Prop :=
  (∀ p ∈ ([
      ((0xFFFFDC00#32, 0x00003FFF#32, 0x00000000#32), Instr.nop {}),
      ((0x00009C10#32, 0x00003FFC#32, 0x00000040#32), Instr.iadd { dst := .v 2, sa := .v 0, sb := .imm, imm := 0x40 }),
      ((0xC1021D80#32, 0x04143FFF#32, 0x00000040#32), Instr.ld { dst := .v 8, sa := .v 4, mod := 0x0A, aux := 0x04, imm := 0x40 }),
      ((0x8040DC83#32, 0x00020000#32, 0x00000000#32), Instr.ffma { dst := .v 3, sa := .v 1, sb := .v 2, sc := .v 0, mod := 1 }),
      ((0xC4051CC3#32, 0x01003FFF#32, 0x00000000#32), Instr.pack8 { dst := .v 20, sa := .v 16, aux := 1 }),
      ((0xC4381D08#32, 0x0000393F#32, 0x00000000#32), Instr.mma8 { dst := .pf 0, sa := .maps 0 1, sc := .cv 0 }),
      ((0x06870588#32, 0x40443FC6#32, 0x00000000#32), Instr.atom { pred := 1, dst := .v 28, sa := .v 26, sb := .v 24, mod := 0x22, aux := 0x40 }),
      ((0x843FCE80#32, 0x00003FC7#32, 0x00004100#32), Instr.kick { pred := 3, sa := .v 16, sb := .v 30, imm := 0x4100 }),
      ((0x3FFFDF02#32, 0x02003FFC#32, 0x00000000#32), Instr.bars { sb := .imm, aux := 0x02 }),
      ((0xFFC19F11#32, 0x00003FFF#32, 0x00000000#32), Instr.gtrd { dst := .v 6 }),
      ((0xFFFFDF82#32, 0x00023FFF#32, 0x00000000#32), Instr.eret { mod := 1 })] : List ((Word × Word × Word) × Instr)), 
    (decodeWord (p.1.2.2 ++ (p.1.2.1 ++ p.1.1))).toOption = some p.2) ∧
  (∀ p ∈ ([(0xC1021D80#32, 0x041C3FFF#32, 0x00000040#32), (0xC4051CC3#32, 0x02003FFF#32, 0x00000000#32),
      (0xFFFFDC06#32, 0x00003FFF#32, 0x00000000#32)] : List (Word × Word × Word)),
    (decodeWord (p.2.2 ++ (p.2.1 ++ p.1))).toOption = none)

/-! ## Integer instructions -/

/-- R123: IADD and ISUB wrap, or with .SAT clamp the exact sum or difference. -/
def Obligations.SumResults : Prop :=
  ∀ p ∈ ([(Instr.iadd, false), (Instr.isub, true)] : List ((Fields → Instr) × Bool)), ∀ (s : State) (f : Fields),
    Issuing (p.1 f) f s →
    ∃ t, exec (p.1 f) s = .next t ∧ CompletedNext s (s.ctx f) (fun l =>
      let a := srcA s f l
      let b := srcB s f l
      dst32 f.dst (
        if f.mod6 = false then (if p.2 then a - b else a + b)
        else if f.mod5 then
          BitVec.ofInt 32 (max 0 (min (2 ^ 32 - 1) (if p.2 then (a.toNat : Int) - b.toNat else (a.toNat : Int) + b.toNat)))
        else
          BitVec.ofInt 32 (max (-(2 ^ 31)) (min (2 ^ 31 - 1) (if p.2 then a.toInt - b.toInt else a.toInt + b.toInt))))) id t

/-- R125: IADDC, the carry in read before the carry out is written; AUX[3] asks for the carry out, AUX[2:0] names it. -/
def Obligations.AddWithCarry : Prop :=
  ∀ (s : State) (f : Fields), Issuing (.iaddc f) f s →
    ∃ t, exec (.iaddc f) s = .next t ∧ CompletedNext s (s.ctx f) (fun l =>
      let sum := (srcA s f l).toNat + (srcB s f l).toNat + (if f.sc = .zero then 0 else if srcPC s f l then 1 else 0)
      dst32 f.dst (BitVec.ofNat 32 sum) ++
        (if f.aux.getLsbD 3 then [.p (f.aux.extractLsb' 0 3).toNat (decide (sum ≥ 2 ^ 32))] else [])) id t

/-- R123: products. IMUL, IMULH, IMAD and IMAL. -/
def Obligations.ProductResults : Prop :=
  ∀ (s : State) (f : Fields),
    let signed := fun (x : Word) => if f.mod5 then (x.toNat : Int) else x.toInt
    (Issuing (.imul f) f s → ∃ t, exec (.imul f) s = .next t ∧ CompletedNext s (s.ctx f) (fun l =>
      dst32 f.dst (BitVec.ofNat 32 ((srcA s f l).toNat * (srcB s f l).toNat))) id t) ∧
    (Issuing (.imulh f) f s → ∃ t, exec (.imulh f) s = .next t ∧ CompletedNext s (s.ctx f) (fun l =>
      dst32 f.dst (BitVec.ofInt 32 (signed (srcA s f l) * signed (srcB s f l) / 2 ^ 32))) id t) ∧
    (Issuing (.imad f) f s → ∃ t, exec (.imad f) s = .next t ∧ CompletedNext s (s.ctx f) (fun l =>
      dst32 f.dst (BitVec.ofNat 32 ((srcA s f l).toNat * (srcB s f l).toNat + (srcC s f l).toNat))) id t) ∧
    (Issuing (.imal f) f s → ∃ t, exec (.imal f) s = .next t ∧ CompletedNext s (s.ctx f) (fun l =>
      dst64 f.dst (BitVec.ofInt 64 (signed (srcA s f l) * signed (srcB s f l) + (srcC64 s f l).toNat))) id t)

/-- R124: IDIV rounds its quotient toward zero and IREM has the sign of A; division by zero gives all ones and A, and
nothing traps. -/
def Obligations.QuotientResults : Prop :=
  ∀ (s : State) (f : Fields),
    (Issuing (.idiv f) f s → ∃ t, exec (.idiv f) s = .next t ∧ CompletedNext s (s.ctx f) (fun l =>
      let a := srcA s f l
      let b := srcB s f l
      dst32 f.dst (if b = 0 then 0xFFFFFFFF
        else if f.mod5 then BitVec.ofNat 32 (a.toNat / b.toNat) else BitVec.ofInt 32 (a.toInt.tdiv b.toInt))) id t) ∧
    (Issuing (.irem f) f s → ∃ t, exec (.irem f) s = .next t ∧ CompletedNext s (s.ctx f) (fun l =>
      let a := srcA s f l
      let b := srcB s f l
      dst32 f.dst (if b = 0 then a
        else if f.mod5 then BitVec.ofNat 32 (a.toNat % b.toNat) else BitVec.ofInt 32 (a.toInt.tmod b.toInt))) id t)

/-- R123: IMIN, IMAX, IABS, INEG, IADD64, ISUB64 and LEA. -/
def Obligations.SelectAndWideResults : Prop :=
  ∀ (s : State) (f : Fields),
    let less := fun (a b : Word) => if f.mod5 then a.toNat < b.toNat else a.toInt < b.toInt
    (Issuing (.imin f) f s → ∃ t, exec (.imin f) s = .next t ∧ CompletedNext s (s.ctx f) (fun l =>
      dst32 f.dst (if less (srcA s f l) (srcB s f l) then srcA s f l else srcB s f l)) id t) ∧
    (Issuing (.imax f) f s → ∃ t, exec (.imax f) s = .next t ∧ CompletedNext s (s.ctx f) (fun l =>
      dst32 f.dst (if less (srcA s f l) (srcB s f l) then srcB s f l else srcA s f l)) id t) ∧
    (Issuing (.iabs f) f s → ∃ t, exec (.iabs f) s = .next t ∧ CompletedNext s (s.ctx f) (fun l =>
      let a := srcA s f l
      dst32 f.dst (if 0 ≤ a.toInt then a else if a = 0x80000000 ∧ f.mod6 then 0x7FFFFFFF else -a)) id t) ∧
    (Issuing (.ineg f) f s → ∃ t, exec (.ineg f) s = .next t ∧ CompletedNext s (s.ctx f) (fun l =>
      let a := srcA s f l
      dst32 f.dst (if a = 0x80000000 ∧ f.mod6 then 0x7FFFFFFF else -a)) id t) ∧
    (Issuing (.iadd64 f) f s → ∃ t, exec (.iadd64 f) s = .next t ∧ CompletedNext s (s.ctx f) (fun l =>
      dst64 f.dst (BitVec.ofNat 64 ((srcA64 s f l).toNat + (srcB64 s f l).toNat))) id t) ∧
    (Issuing (.isub64 f) f s → ∃ t, exec (.isub64 f) s = .next t ∧ CompletedNext s (s.ctx f) (fun l =>
      dst64 f.dst (BitVec.ofInt 64 ((srcA64 s f l).toNat - (srcB64 s f l).toNat))) id t) ∧
    (Issuing (.lea f) f s → ∃ t, exec (.lea f) s = .next t ∧ CompletedNext s (s.ctx f) (fun l =>
      dst64 f.dst (BitVec.ofInt 64 ((srcA64 s f l).toNat +
        (if f.mod5 then ((srcB s f l).toNat : Int) else (srcB s f l).toInt) * 2 ^ (f.aux.extractLsb' 0 4).toNat))) id t)

/-- R126: the logic and shift instructions, with N = B[7:0], and POPC, CLZ, CTZ and BREV by the bits of A. -/
def Obligations.LogicShiftAndCountResults : Prop :=
  (∀ p ∈ ([(Instr.and, fun _ a b _ => a &&& b), (Instr.or, fun _ a b _ => a ||| b), (Instr.xor, fun _ a b _ => a ^^^ b),
      (Instr.andn, fun _ a b _ => a &&& ~~~b), (Instr.not, fun _ a _ _ => ~~~a),
      (Instr.shl, fun _ a b _ => if b.toNat % 256 ≥ 32 then 0 else a <<< (b.toNat % 256)),
      (Instr.shr, fun _ a b _ => if b.toNat % 256 ≥ 32 then 0 else a >>> (b.toNat % 256)),
      (Instr.sha, fun _ a b _ =>
        if b.toNat % 256 ≥ 32 then (if a.msb then 0xFFFFFFFF else 0) else a.sshiftRight (b.toNat % 256)),
      (Instr.rotl, fun _ a b _ => (a <<< (b.toNat % 32)) ||| (a >>> (32 - b.toNat % 32))),
      (Instr.fshf, fun f a b c =>
        if f.mod0 then BitVec.ofNat 32 ((c.toNat * 2 ^ 32 + a.toNat) * 2 ^ (b.toNat % 32) / 2 ^ 32)
        else BitVec.ofNat 32 ((c.toNat * 2 ^ 32 + a.toNat) / 2 ^ (b.toNat % 32)))] :
      List ((Fields → Instr) × (Fields → Word → Word → Word → Word))),
    ∀ (s : State) (f : Fields), Issuing (p.1 f) f s →
      ∃ t, exec (p.1 f) s = .next t ∧
        CompletedNext s (s.ctx f) (fun l => dst32 f.dst (p.2 f (srcA s f l) (srcB s f l) (srcC s f l))) id t) ∧
  (∀ (s : State) (f : Fields),
    (Issuing (.popc f) f s → ∃ t, exec (.popc f) s = .next t ∧ CompletedNext s (s.ctx f) (fun l =>
      dst32 f.dst (BitVec.ofNat 32 ((List.range 32).countP (fun i => (srcA s f l).getLsbD i)))) id t) ∧
    (Issuing (.clz f) f s → ∃ n : Nat → Nat,
      (∀ l, n l ≤ 32 ∧ (∀ i < n l, (srcA s f l).getLsbD (31 - i) = false) ∧
        (n l < 32 → (srcA s f l).getLsbD (31 - n l) = true)) ∧
      ∃ t, exec (.clz f) s = .next t ∧
        CompletedNext s (s.ctx f) (fun l => dst32 f.dst (BitVec.ofNat 32 (n l))) id t) ∧
    (Issuing (.ctz f) f s → ∃ n : Nat → Nat,
      (∀ l, n l ≤ 32 ∧ (∀ i < n l, (srcA s f l).getLsbD i = false) ∧ (n l < 32 → (srcA s f l).getLsbD (n l) = true)) ∧
      ∃ t, exec (.ctz f) s = .next t ∧
        CompletedNext s (s.ctx f) (fun l => dst32 f.dst (BitVec.ofNat 32 (n l))) id t) ∧
    (Issuing (.brev f) f s → ∃ y : Nat → Word,
      (∀ l, ∀ i < 32, (y l).getLsbD i = (srcA s f l).getLsbD (31 - i)) ∧
      ∃ t, exec (.brev f) s = .next t ∧ CompletedNext s (s.ctx f) (fun l => dst32 f.dst (y l)) id t))

/-- R127, R128: BFE and BFI by the bits of their results; BMIX byte by byte, with index s[2:0] into the bytes of C and A and
operation s[4:3]. -/
def Obligations.BitFieldAndByteMixResults : Prop :=
  (∀ (s : State) (f : Fields),
    let pos := fun (l : Nat) => (srcB s f l).toNat % 256
    let len := fun (l : Nat) => min ((srcB s f l).toNat / 256 % 256) 32
    (Issuing (.bfe f) f s → ∃ x : Nat → Word,
      (∀ l, (len l = 0 → x l = 0) ∧ (len l ≠ 0 →
        (∀ i < len l, (x l).getLsbD i =
          if pos l + i ≤ 31 then (srcA s f l).getLsbD (pos l + i) else if f.mod5 then false else (srcA s f l).getLsbD 31) ∧
        (∀ i, len l ≤ i → i < 32 → (x l).getLsbD i = if f.mod5 then false else (x l).getLsbD (len l - 1)))) ∧
      ∃ t, exec (.bfe f) s = .next t ∧ CompletedNext s (s.ctx f) (fun l => dst32 f.dst (x l)) id t) ∧
    (Issuing (.bfi f) f s → ∃ x : Nat → Word,
      (∀ l, ∀ i < 32, (x l).getLsbD i =
        if len l = 0 ∨ pos l ≥ 32 then (srcC s f l).getLsbD i
        else if pos l ≤ i ∧ i < pos l + len l then (srcA s f l).getLsbD (i - pos l) else (srcC s f l).getLsbD i) ∧
      ∃ t, exec (.bfi f) s = .next t ∧ CompletedNext s (s.ctx f) (fun l => dst32 f.dst (x l)) id t)) ∧
  (∀ (s : State) (f : Fields), Issuing (.bmix f) f s → ∃ y : Nat → Word,
    (∀ l, ∀ n < 4,
      let sel := (srcB s f l).toNat / 2 ^ (5 * n) % 32
      let x : Byte := BitVec.ofNat 8 (((srcC s f l).toNat * 2 ^ 32 + (srcA s f l).toNat) / 2 ^ (8 * (sel % 8)))
      (y l).extractLsb' (8 * n) 8 =
        if sel / 8 = 0 then x else if sel / 8 = 1 then 0 else if sel / 8 = 2 then (if x.getLsbD 7 then 0xFF else 0) else ~~~x) ∧
    ∃ t, exec (.bmix f) s = .next t ∧ CompletedNext s (s.ctx f) (fun l => dst32 f.dst (y l)) id t)

/-- R122, R129 to R131: ICMP and ICMP64 with their combine codes, PTAB, PMOV.GET and PMOV.SET; NOP, MOV, MOVI, MOVK, MOVS and SEL. -/
def Obligations.PredicateAndMoveResults : Prop :=
  (∀ (s : State) (f : Fields),
    let holds := fun (x y : Int) =>
      (f.scope = 0 ∧ x = y) ∨ (f.scope = 1 ∧ x ≠ y) ∨ (f.scope = 2 ∧ x < y) ∨ (f.scope = 3 ∧ x ≤ y) ∨
        (f.scope = 4 ∧ x > y) ∨ (f.scope = 5 ∧ x ≥ y)
    let combined := fun (l : Nat) (x y : Int) => decide (
      (f.combine = 0 ∧ holds x y) ∨ (f.combine = 1 ∧ holds x y ∧ srcPC s f l) ∨
        (f.combine = 2 ∧ (holds x y ∨ srcPC s f l)) ∨ (f.combine = 3 ∧ (holds x y ↔ ¬ srcPC s f l)))
    (Issuing (.icmp f) f s → ∃ t, exec (.icmp f) s = .next t ∧ CompletedNext s (s.ctx f) (fun l =>
      dstP f.dst (combined l (if f.mod5 then ((srcA s f l).toNat : Int) else (srcA s f l).toInt)
        (if f.mod5 then ((srcB s f l).toNat : Int) else (srcB s f l).toInt))) id t) ∧
    (Issuing (.icmp64 f) f s → ∃ t, exec (.icmp64 f) s = .next t ∧ CompletedNext s (s.ctx f) (fun l =>
      let b := (s.ctx f).w.src64 l f.sb f.imm f.mod5
      dstP f.dst (combined l (if f.mod5 then ((srcA64 s f l).toNat : Int) else (srcA64 s f l).toInt)
        (if f.mod5 then (b.toNat : Int) else b.toInt))) id t) ∧
    (Issuing (.ptab f) f s → ∃ t, exec (.ptab f) s = .next t ∧ CompletedNext s (s.ctx f) (fun l =>
      dstP f.dst (f.imm.getLsbD ((if srcPA s f l then 1 else 0) + (if srcPB s f l then 2 else 0) +
        (if srcPC s f l then 4 else 0)))) id t) ∧
    (Issuing (.pmovGet f) f s → ∃ y : Nat → Word,
      (∀ l, ∀ n < 32, (y l).getLsbD n = (decide (n < 8) && (s.ctx f).w.getP l n)) ∧
      ∃ t, exec (.pmovGet f) s = .next t ∧ CompletedNext s (s.ctx f) (fun l => dst32 f.dst (y l)) id t) ∧
    (Issuing (.pmovSet f) f s → ∃ t, exec (.pmovSet f) s = .next t ∧ CompletedNext s (s.ctx f) (fun l =>
      ((List.range 7).filter (fun n => f.imm.getLsbD n)).map (fun n => .p n ((srcA s f l).getLsbD n))) id t)) ∧
  (∀ (s : State) (f : Fields),
    (Issuing (.nop f) f s → ∃ t, exec (.nop f) s = .next t ∧ CompletedNext s (s.ctx f) (fun _ => []) id t) ∧
    (Issuing (.mov f) f s → ∃ t, exec (.mov f) s = .next t ∧ CompletedNext s (s.ctx f) (fun l =>
      if f.size = 2 then dst32 f.dst (srcA s f l) else if f.size = 3 then dst64 f.dst (srcA64 s f l)
      else dst128 f.dst ((s.ctx f).w.src128 l f.sa)) id t) ∧
    (Issuing (.movi f) f s → ∃ t, exec (.movi f) s = .next t ∧
      CompletedNext s (s.ctx f) (fun _ => dst32 f.dst f.imm) id t) ∧
    (Issuing (.movk f) f s → ∃ t, exec (.movk f) s = .next t ∧ CompletedNext s (s.ctx f) (fun l =>
      dst64 f.dst (srcA64 s f l)) id t) ∧
    (Issuing (.movs f) f s → ∃ t, exec (.movs f) s = .next t ∧ CompletedNext s (s.ctx f) (fun l =>
      match f.sa with
      | .special n => dst32 f.dst (specialValue s (s.ctx f) l n)
      | _ => []) id t) ∧
    (Issuing (.sel f) f s → ∃ t, exec (.sel f) s = .next t ∧ CompletedNext s (s.ctx f) (fun l =>
      if f.size = 3 then dst64 f.dst (if srcPC s f l then srcA64 s f l else srcB64 s f l)
      else dst32 f.dst (if srcPC s f l then srcA s f l else srcB s f l)) id t))

/-! ## Lane operations and register reads -/

/-- R133 to R135: LPOLL, LXCH, LFOLD and LGRP over the lanes of Active. -/
def Obligations.LaneOperationResults : Prop :=
  ∀ (s : State) (f : Fields),
    let act := fun (l : Nat) => l < 32 ∧ (s.ctx f).active.has l = true
    (Issuing (.lpoll f) f s →
      let holds := fun (l : Nat) => (srcPA s f l != f.mod0) = true
      ∃ (all any : Bool) (m : Word),
        (all = true ↔ ∀ l, act l → holds l) ∧ (any = true ↔ ∃ l, act l ∧ holds l) ∧
        (∀ i < 32, m.getLsbD i = true ↔ act i ∧ holds i) ∧
        ∃ t, exec (.lpoll f) s = .next t ∧ CompletedNext s (s.ctx f) (fun _ =>
          if f.aux.extractLsb' 0 2 = 0 then dstP f.dst all
          else if f.aux.extractLsb' 0 2 = 1 then dstP f.dst any
          else if f.aux.extractLsb' 0 2 = 2 then dstP f.dst (all || !any)
          else dst32 f.dst m) id t) ∧
    (Issuing (.lxch f) f s →
      let w := 32 / 2 ^ (f.aux.extractLsb' 2 3).toNat
      let j := fun (l : Nat) =>
        let r := l % w
        let b := (srcB s f l).toNat
        (l - r) + (if f.aux.extractLsb' 0 2 = 0 then b % w
          else if f.aux.extractLsb' 0 2 = 1 then (r + b) % w
          else if f.aux.extractLsb' 0 2 = 2 then (w - 1 - r + b) % w
          else r ^^^ (b % w))
      ∃ t, exec (.lxch f) s = .next t ∧ CompletedNext s (s.ctx f) (fun l =>
        dst32 f.dst (srcA s f (if (s.ctx f).active.has (j l) then j l else l)) ++
          dstP f.sc ((s.ctx f).active.has (j l))) id t) ∧
    (Issuing (.lfold f) f s → ∃ r : Nat → Word,
      (∀ l,
        let xs := ((List.range 32).filter (fun j => (s.ctx f).active.has j && (!f.mod0 || decide (j < l)))).map (srcA s f)
        let val := fun (x : Word) => if f.mod5 then (x.toNat : Int) else x.toInt
        (f.scope = 0 → r l = BitVec.ofNat 32 ((xs.map BitVec.toNat).foldl (· + ·) 0)) ∧
        (f.scope = 1 → if xs = [] then r l = (if f.mod5 then 0xFFFFFFFF else 0x7FFFFFFF)
          else r l ∈ xs ∧ ∀ x ∈ xs, val (r l) ≤ val x) ∧
        (f.scope = 2 → if xs = [] then r l = (if f.mod5 then 0 else 0x80000000)
          else r l ∈ xs ∧ ∀ x ∈ xs, val x ≤ val (r l)) ∧
        (f.scope = 3 → ∀ i < 32, (r l).getLsbD i = true ↔ ∀ x ∈ xs, x.getLsbD i = true) ∧
        (f.scope = 4 → ∀ i < 32, (r l).getLsbD i = true ↔ ∃ x ∈ xs, x.getLsbD i = true) ∧
        (f.scope = 5 → ∀ i < 32, (r l).getLsbD i = decide ((xs.countP (fun x => x.getLsbD i)) % 2 = 1))) ∧
      ∃ t, exec (.lfold f) s = .next t ∧ CompletedNext s (s.ctx f) (fun l => dst32 f.dst (r l)) id t) ∧
    (Issuing (.lgrp f) f s → ∃ m : Nat → Word,
      (∀ l, ∀ i < 32, (m l).getLsbD i = true ↔ act i ∧
        (if f.size = 3 then srcA64 s f i = srcA64 s f l else srcA s f i = srcA s f l)) ∧
      ∃ t, exec (.lgrp f) s = .next t ∧ CompletedNext s (s.ctx f) (fun l =>
        if f.aux.getLsbD 0 = true ∧ m l ≠ (s.ctx f).active then dst32 f.dst 0 else dst32 f.dst (m l)) id t)

/-- R93, R237, R313, R316, R388, R390: GTRD, SYSRD, CNTRD, BNDRD and PREF. -/
def Obligations.RegisterReadResults : Prop :=
  ∀ (s : State) (f : Fields),
    let w := (s.ctx f).w
    let context := fun (x : Nat → DWord) =>
      ∀ l, (f.regNumber = 0 → x l = w.tvec) ∧ (f.regNumber = 1 → x l = (w.lane l).trapPc) ∧
        (f.regNumber = 2 → x l = (w.lane l).trapCause) ∧ (f.regNumber = 3 → x l = (w.lane l).trapAddr) ∧
        (f.regNumber = 4 → x l = w.fpflags) ∧ (f.regNumber = 5 → x l = w.fptrapen) ∧ (f.regNumber = 6 → x l = w.feLimit) ∧
        (f.regNumber = 8 → x l = w.gtwake) ∧ (f.regNumber = 0x501 → x l = w.wretired) ∧
        (f.regNumber = 0x502 → s.cur.place = none → x l = w.wissued + 1) ∧ (f.regNumber = 0x503 → x l = w.wstall) ∧
        (f.regNumber = 0x505 → x l = (s.core w.gcore).anvil) ∧ (f.regNumber = 0x520 → x l = (s.die (dieOf w.gcore)).eccCor)
    (Issuing (.gtrd f) f s → ∃ t, exec (.gtrd f) s = .next t ∧
      CompletedNext s (s.ctx f) (fun _ => dst64 f.dst (BitVec.ofNat 64 s.gt)) id t) ∧
    (Issuing (.sysrd f) f s → ∃ x, context x ∧ ∃ t, exec (.sysrd f) s = .next t ∧
      CompletedNext s (s.ctx f) (fun l => dst64 f.dst (x l)) id t) ∧
    (Issuing (.cntrd f) f s → ∃ x, context x ∧ ∃ t, exec (.cntrd f) s = .next t ∧
      CompletedNext s (s.ctx f) (fun l => dst64 f.dst (x l)) id t) ∧
    (Issuing (.bndrd f) f s → ∃ t, exec (.bndrd f) s = .next t ∧
      CompletedNext s (s.ctx f) (fun _ => dst128 f.dst (w.getBd (f.aux.extractLsb' 0 4).toNat)) id t) ∧
    (Issuing (.pref f) f s → ∃ t, exec (.pref f) s = .next t ∧ CompletedNext s (s.ctx f) (fun _ => []) id t)

/-! ## Floating point -/

/-- R158, R159, R163, R167: the arithmetic instructions. Each element of the result is one rounding, in the format, of the exact
result of the elements of A, B and C, B negated with AUX[0] and C with AUX[1]; the flags of the lanes of Active reach FPFLAGS. -/
def Obligations.FloatArithmeticResults : Prop :=
  ∀ p ∈ ([(Instr.fadd, .single, opAdd .fp32), (Instr.fsub, .single, opSub .fp32), (Instr.fmul, .single, opMul .fp32),
      (Instr.ffma, .single, opFma .fp32), (Instr.fdiv, .single, opDiv .fp32), (Instr.fsqrt, .single, opSqrt .fp32),
      (Instr.hadd2, .half, opAdd .fp16), (Instr.hmul2, .half, opMul .fp16), (Instr.hfma2, .half, opFma .fp16),
      (Instr.badd2, .brain, opAdd .bf16), (Instr.bmul2, .brain, opMul .bf16), (Instr.bfma2, .brain, opFma .bf16),
      (Instr.dadd, .double, opAdd .fp64), (Instr.dmul, .double, opMul .fp64), (Instr.dfma, .double, opFma .fp64)] :
      List ((Fields → Instr) × FpShape × (Rounding → FpVal → FpVal → FpVal → Nat × FpFlags))),
    ∀ (s : State) (f : Fields),
      let w := (s.ctx f).w
      let elem := fun (l e : Nat) =>
        p.2.2 (.ofMod f.mod) (p.2.1.elem (p.2.1.read w l f.sa f.imm) e)
          (negIf (f.aux.getLsbD 0) (p.2.1.elem (p.2.1.read w l f.sb f.imm) e))
          (negIf (f.aux.getLsbD 1) (p.2.1.elem (p.2.1.read w l f.sc f.imm) e))
      let lane := fun (l : Nat) =>
        if p.2.1.elems = 2 then
          (p.2.1.write f.dst ((elem l 0).1 + 2 ^ p.2.1.bits * (elem l 1).1), (elem l 0).2 ||| (elem l 1).2)
        else (p.2.1.write f.dst (elem l 0).1, (elem l 0).2)
      Issuing (p.1 f) f s → Untrapped (s.ctx f) lane →
        ∃ t, exec (p.1 f) s = .next t ∧ CompletedFp s (s.ctx f) lane t

/-- R148, R152, R153, R158: FADD, FSUB, FMUL, FFMA and FDIV give the canonical NaN where an operand is a NaN, C of FFMA among them, and raise NV
where one is a signalling one, and FFMA also for 0 × ∞; rounding to nearest-even leaves a number at most half a unit away, and an even one where it lies between two;
rounding toward zero leaves the greatest one that is not above. -/
def Obligations.NanAndRounding : Prop :=
  (∀ (r : Rounding) (a b c : FpVal), (a.isNan = true ∨ b.isNan = true) →
    let nv := fun (xs : List FpVal) => if xs.any FpVal.isSignalling then FpFlags.nv else 0
    opAdd .fp32 r a b c = (0x7FC00000, nv [a, b]) ∧
    opSub .fp32 r a b c = (0x7FC00000, nv [a, b]) ∧
    opMul .fp32 r a b c = (0x7FC00000, nv [a, b]) ∧
    opFma .fp32 r a b c = (0x7FC00000, nv [a, b, c]) ∧
    opDiv .fp32 r a b c = (0x7FC00000, nv [a, b])) ∧
  (∀ (r : Rounding) (a b c : FpVal), a.isNan = false → b.isNan = false → c.isNan = true →
    let infinite := fun (x : FpVal) => match x with | .inf _ => true | _ => false
    opFma .fp32 r a b c = (0x7FC00000,
      if c.isSignalling || (a.isZero && infinite b) || (infinite a && b.isZero) then FpFlags.nv else 0)) ∧
  (∀ (neg : Bool) (m k : Nat),
    let y := roundTo .rne neg m 0 k
    let z := roundTo .tz neg m 0 k
    2 * (y * 2 ^ k) ≤ 2 * m + 2 ^ k ∧ 2 * m ≤ 2 * (y * 2 ^ k) + 2 ^ k ∧
    (2 * m = 2 * (y * 2 ^ k) + 2 ^ k ∨ 2 * (y * 2 ^ k) = 2 * m + 2 ^ k → y % 2 = 0) ∧
    z * 2 ^ k ≤ m ∧ m < (z + 1) * 2 ^ k)

/-- R129, R164 to R166: FMIN, FMAX, FCMP and FCLASS. -/
def Obligations.FloatSelectAndCompareResults : Prop :=
  ∀ (s : State) (f : Fields),
    let a := fun (l : Nat) => FpVal.ofBits .fp32 (srcA s f l).toNat
    let b := fun (l : Nat) => FpVal.ofBits .fp32 (srcB s f l).toNat
    let below := fun (x y : FpVal) => decide (cmpVal x y < 0 ∨ (cmpVal x y = 0 ∧ x.neg = true ∧ y.neg = false))
    let nv := fun (xs : List FpVal) => if xs.any FpVal.isSignalling then FpFlags.nv else 0
    let select := fun (first : Nat → Bool) (l : Nat) =>
      (dst32 f.dst (if (a l).isNan && (b l).isNan then 0x7FC00000 else if (a l).isNan then srcB s f l
        else if (b l).isNan then srcA s f l else if first l then srcA s f l else srcB s f l), nv [a l, b l])
    let wide := f.aux.getLsbD 5
    let x := fun (l : Nat) => if wide then FpVal.ofBits .fp64 (srcA64 s f l).toNat else a l
    let y := fun (l : Nat) => if wide then FpVal.ofBits .fp64 (srcB64 s f l).toNat else b l
    let holds := fun (l : Nat) =>
      let nan := (x l).isNan || (y l).isNan
      let c := cmpVal (x l) (y l)
      decide ((f.scope = 0 ∧ ¬ nan ∧ c = 0) ∨ (f.scope = 1 ∧ (nan ∨ c ≠ 0)) ∨ (f.scope = 2 ∧ ¬ nan ∧ c < 0) ∨
        (f.scope = 3 ∧ ¬ nan ∧ c ≤ 0) ∨ (f.scope = 4 ∧ ¬ nan ∧ c > 0) ∨ (f.scope = 5 ∧ ¬ nan ∧ c ≥ 0) ∨
        (f.scope = 6 ∧ ¬ nan) ∨ (f.scope = 7 ∧ nan))
    let compared := fun (l : Nat) =>
      (dstP f.dst (decide ((f.combine = 0 ∧ holds l) ∨ (f.combine = 1 ∧ holds l ∧ srcPC s f l) ∨
        (f.combine = 2 ∧ (holds l ∨ srcPC s f l)) ∨ (f.combine = 3 ∧ (holds l ↔ ¬ srcPC s f l)))), nv [x l, y l])
    let least := select (fun l => below (a l) (b l))
    let greatest := select (fun l => !below (a l) (b l))
    (Issuing (.fmin f) f s → Untrapped (s.ctx f) least →
      ∃ t, exec (.fmin f) s = .next t ∧ CompletedFp s (s.ctx f) least t) ∧
    (Issuing (.fmax f) f s → Untrapped (s.ctx f) greatest →
      ∃ t, exec (.fmax f) s = .next t ∧ CompletedFp s (s.ctx f) greatest t) ∧
    (Issuing (.fcmp f) f s → Untrapped (s.ctx f) compared →
      ∃ t, exec (.fcmp f) s = .next t ∧ CompletedFp s (s.ctx f) compared t) ∧
    (Issuing (.fclass f) f s → ∃ t, exec (.fclass f) s = .next t ∧ CompletedFp s (s.ctx f) (fun l =>
      (dstP f.dst (f.imm.getLsbD (fpClass (if wide then .fp64 else .fp32) (x l))), 0)) t)

/-- R168, R169: the approximate functions. A special operand has the result and the flag of the table. Of the others an exact case is exact
and raises no flag; FEX2 overflows from 128 on, and underflows below −149; FSIN and FCOS of more than 2^16 stay in [−1, 1]; any other
result is the nearest number to the machine's reference or lies within R168's bound of both ends of the bracket around it (log entry 12,
the model's choice), and raises NX, and UF below 2^−126. The bracket holds the exact result of FRCP and FRSQ; that it holds those of the
other functions rests on log entry 12. -/
def Obligations.ApproximateFunctionResults : Prop :=
  ∀ p ∈ ([(Instr.frcp, .rcp), (Instr.frsq, .rsq), (Instr.fex2, .ex2), (Instr.flg2, .lg2), (Instr.fsin, .sin),
      (Instr.fcos, .cos), (Instr.ftanh, .tanh), (Instr.fsgm, .sgm)] : List ((Fields → Instr) × Approx.Fn)),
    ∀ (s : State) (f : Fields),
      let lane := fun (l : Nat) =>
        (dst32 f.dst (BitVec.ofNat 32 (Approx.apply p.2 (srcA s f l)).1), (Approx.apply p.2 (srcA s f l)).2)
      (Issuing (p.1 f) f s → Untrapped (s.ctx f) lane →
        ∃ t, exec (p.1 f) s = .next t ∧ CompletedFp s (s.ctx f) lane t) ∧
      (∀ x : Word, (FpVal.ofBits .fp32 x.toNat).isNan = true → Approx.apply p.2 x =
        (0x7FC00000, if (FpVal.ofBits .fp32 x.toNat).isSignalling then FpFlags.nv else 0)) ∧
      ((Approx.apply p.2 0, Approx.apply p.2 0x80000000, Approx.apply p.2 0x7F800000, Approx.apply p.2 0xFF800000) =
        match p.2 with
        | .rcp => ((0x7F800000, FpFlags.dz), (0xFF800000, FpFlags.dz), (0, 0), (0x80000000, 0))
        | .rsq => ((0x7F800000, FpFlags.dz), (0xFF800000, FpFlags.dz), (0, 0), (0x7FC00000, FpFlags.nv))
        | .ex2 => ((0x3F800000, 0), (0x3F800000, 0), (0x7F800000, 0), (0, 0))
        | .lg2 => ((0xFF800000, FpFlags.dz), (0xFF800000, FpFlags.dz), (0x7F800000, 0), (0x7FC00000, FpFlags.nv))
        | .sin => ((0, 0), (0x80000000, 0), (0x7FC00000, FpFlags.nv), (0x7FC00000, FpFlags.nv))
        | .cos => ((0x3F800000, 0), (0x3F800000, 0), (0x7FC00000, FpFlags.nv), (0x7FC00000, FpFlags.nv))
        | .tanh => ((0, 0), (0x80000000, 0), (0x3F800000, 0), (0xBF800000, 0))
        | .sgm => ((0x3F000000, 0), (0x3F000000, 0), (0x3F800000, 0), (0, 0))) ∧
      (∀ (x : Word) (n : Bool) (m : Nat) (e : Int), FpVal.ofBits .fp32 x.toNat = .num n m e → m ≠ 0 →
        if n = true ∧ (p.2 = .rsq ∨ p.2 = .lg2) then Approx.apply p.2 x = (0x7FC00000, FpFlags.nv)
        else
          let y := Approx.apply p.2 x
          let r := Approx.reference p.2 n m e
          let ends := Approx.bracket p.2 m e r
          let near := roundNum .fp32 .rne false (decide (r.1 < 0)) r.1.natAbs r.2
          let inexact := FpFlags.nx ||| (if y.1 % 2 ^ 31 < 0x00800000 then FpFlags.uf else 0)
          (p.2 = .rcp → r.2 = -e - 200 ∧ ends.1 * m ≤ (if n then -2 ^ 200 else 2 ^ 200) ∧ (if n then -2 ^ 200 else 2 ^ 200) ≤ ends.2 * m) ∧
          (p.2 = .rsq → ∃ k : Nat, e + k = -2 * r.2 ∧ 0 ≤ ends.1 ∧ ends.1 ^ 2 * m ≤ 2 ^ k ∧ 2 ^ k ≤ ends.2 ^ 2 * m) ∧
          match Approx.exactCase p.2 n m e with
          | some bits => y = (bits, 0)
          | none =>
            if p.2 = .ex2 ∧ 0x43000000 ≤ x.toNat ∧ n = false then y = (0x7F800000, FpFlags.of_ ||| FpFlags.nx)
            else if p.2 = .ex2 ∧ 0xC3150000 < x.toNat then (y.1 = 0 ∨ y.1 = 1) ∧ y.2 = FpFlags.uf ||| FpFlags.nx
            else if (p.2 = .sin ∨ p.2 = .cos) ∧ 0x47800000 < x.toNat % 2 ^ 31 then y.1 % 2 ^ 31 ≤ 0x3F800000 ∧ y.2 = inexact
            else if near.1 % 2 ^ 31 = 0x7F800000 then y = near
            else (y.1 = near.1 ∨ Approx.within (.ofBits .fp32 y.1) ends r.2 (Approx.tolerance p.2 m e r) = true) ∧ y.2 = inexact)

/-- R170 to R175: conversions. Every element is one rounding of the exact value that its source denotes. -/
def Obligations.ConversionResults : Prop :=
  ∀ (s : State) (f : Fields),
    let w := (s.ctx f).w
    let a := fun (l : Nat) => FpVal.ofBits .fp32 (srcA s f l).toNat
    let four := fun (l i : Nat) => FpVal.ofBits .fp32 (w.srcElem l f.sa i).toNat
    let pair := fun (l : Nat) (fmt : Fmt) =>
      let x := fpConvert fmt .rne false (a l)
      let y := fpConvert fmt .rne false (.ofBits .fp32 (srcB s f l).toNat)
      (dst32 f.dst (BitVec.ofNat 32 (x.1 + 2 ^ 16 * y.1)), x.2 ||| y.2)
    let bytes := fun (l : Nat) (g : FpVal → Nat × FpFlags) =>
      (dst32 f.dst (BitVec.ofNat 32 ((g (four l 0)).1 + 2 ^ 8 * (g (four l 1)).1 + 2 ^ 16 * (g (four l 2)).1 +
        2 ^ 24 * (g (four l 3)).1)), (g (four l 0)).2 ||| (g (four l 1)).2 ||| (g (four l 2)).2 ||| (g (four l 3)).2)
    let one := fun (r : Nat × FpFlags) => (dst32 f.dst (BitVec.ofNat 32 r.1), r.2)
    let wide := f.aux.getLsbD 0
    let long := f.aux.getLsbD 1
    let unsigned := f.aux.getLsbD 2
    let runs := fun (i : Instr) (lane : Nat → List RegWrite × FpFlags) =>
      Issuing i f s → Untrapped (s.ctx f) lane → ∃ t, exec i s = .next t ∧ CompletedFp s (s.ctx f) lane t
    runs (.cvt f) (fun l =>
      let src := cvtShape (f.aux.extractLsb' 0 2).toNat
      let dst := cvtShape (f.aux.extractLsb' 2 2).toNat
      let r := fpConvert dst.fmt .rne false (src.elem (src.read w l f.sa f.imm) (if f.aux.getLsbD 4 then 1 else 0))
      (dst.write f.dst r.1, r.2)) ∧
    runs (.f2i f) (fun l =>
      let n := if long then 64 else 32
      let r := fpToInt (.ofMod f.mod) (if unsigned then 0 else -(2 ^ (n - 1))) (if unsigned then 2 ^ n - 1 else 2 ^ (n - 1) - 1)
        (if wide then .ofBits .fp64 (srcA64 s f l).toNat else a l)
      (if long then dst64 f.dst (BitVec.ofInt 64 r.1) else dst32 f.dst (BitVec.ofInt 32 r.1), r.2)) ∧
    runs (.i2f f) (fun l =>
      let x : Int :=
        if long then (if unsigned then ((srcA64 s f l).toNat : Int) else (srcA64 s f l).toInt)
        else if unsigned then ((srcA s f l).toNat : Int) else (srcA s f l).toInt
      let r := roundVal (if wide then .fp64 else .fp32) (.ofMod f.mod) false (.ofInt x)
      (if wide then dst64 f.dst (BitVec.ofNat 64 r.1) else dst32 f.dst (BitVec.ofNat 32 r.1), r.2)) ∧
    runs (.pack8 f) (fun l => bytes l (fpConvert .e4m3 .rne wide)) ∧
    runs (.packi8 f) (fun l => bytes l (fun x =>
      let r := if wide then fpToByte 0 255 x else fpToByte (-128) 127 x
      ((BitVec.ofInt 8 r.1).toNat, r.2))) ∧
    runs (.pack16 f) (fun l => pair l (if wide then .bf16 else .fp16)) ∧
    runs (.tos24 f) (fun l => one (fpConvert .s24 .rne false (a l))) ∧
    runs (.froms24 f) (fun l => one (fpConvert .fp32 .rne false (.ofBits .s24 ((srcA s f l).toNat % 2 ^ 24)))) ∧
    (Issuing (.unpk8 f) f s → ∃ t, exec (.unpk8 f) s = .next t ∧ CompletedNext s (s.ctx f) (fun l =>
      let elem := fun (i : Nat) => BitVec.ofNat 32
        (roundVal .fp32 .rne false (.ofBits .e4m3 ((srcA s f l).toNat / 2 ^ (8 * i) % 2 ^ 8))).1
      if f.aux.getLsbD 2 then dst32 f.dst (elem (f.aux.extractLsb' 0 2).toNat)
      else dst128 f.dst (elem 3 ++ (elem 2 ++ (elem 1 ++ elem 0)))) id t)

/-! ## Matrix instructions -/

/-- R185, R187, R188, R194, R195, R389: OMSET, OMLD, GIDX, CVDECL and CVSIGN. What a map stores has its reserved bits zero, and an FMT
above 4 reads 0. ACCZ, ACCMOV and IACC clear SIGNED, and the anvil is occupied for 4, 16 and 16 cycles. -/
def Obligations.MapAndTileMoveResults : Prop :=
  (∀ (s s' b : State) (f : Fields) (places : List (Span × State.Place)) (bytes : List Byte),
    let c := s.ctx f
    let w := c.w
    let k := fun i => w.getK (kNo f.sb + i)
    (∀ x, (Map.store x).extractLsb' 145 111 = 0 ∧ Map.base (Map.store x) = Map.base x ∧
      Map.fmt (Map.store x) = if Map.fmt x ≤ 4 then Map.fmt x else 0) ∧
    (c.active ≠ 0 →
      (Issuing (.omset f) f s → ∃ t, exec (.omset f) s = .next t ∧ CompletedNext s c (fun _ => [])
        (fun w => w.setOm (mapNo f) (Map.store (k 3 ++ (k 2 ++ (k 1 ++ k 0))))) t) ∧
      (Issuing (.omld f) f s → (k 0).toNat % 32 = 0 →
        settle c none none (checkSpans s c.agent c.low .read [{ va := k 0, len := 32 }]) = .ok (s', places) →
        readPlaces s' w.tenant (s'.classOf w) places = (b, bytes, none) → (b.warp c.wid).parkedSince = none →
        ∃ t, exec (.omld f) s = .next t ∧ CompletedNext b c (fun _ => [])
          (fun w => w.setOm (mapNo f) (Map.store (leWord 256 bytes))) t) ∧
      (Issuing (.gidx f) f s → ∃ t, exec (.gidx f) s = .next t ∧ CompletedNext s c (fun _ => [])
        (fun w => w.setOm (mapNo f) (match f.sb with
          | .v n => Map.setGather (w.getOm (mapNo f)) true n.val
          | _ => Map.setGather (w.getOm (mapNo f)) false 0)) t) ∧
      (Issuing (.cvdecl f) f s → ∃ t, exec (.cvdecl f) s = .next t ∧ CompletedNext s c (fun _ => [])
        (fun w => w.setCv (cvNo f.dst) (cvOf (match f.sb with | .k n => (c.w.getK n.val).setWidth 32 | _ => c.active) 0)) t) ∧
      (Issuing (.cvsign f) f s → ∃ t, exec (.cvsign f) s = .next t ∧ CompletedNext s c (fun _ => [])
        (fun w => w.setCv (cvNo f.dst) (cvOf (cvMembers (w.getCv (cvNo f.dst)))
          (cvSigned (w.getCv (cvNo f.dst)) ||| (c.active &&& cvMembers (w.getCv (cvNo f.dst)))))) t))) ∧
  (∀ (s : State) (f : Fields),
    let c := s.ctx f
    let busy := fun (n : Nat) => s.updCore c.w.gcore (fun x => { x with anvil := x.anvil + BitVec.ofNat 64 n })
    Convened c f →
      (Issuing (.accz f) f s → ∃ t, exec (.accz f) s = .next t ∧
        CompletedNext (busy 4) c (fun _ => []) (fun w => (w.setTile f.dst []).clearSigned (cvNo f.sc)) t) ∧
      (Issuing (.accmov f) f s → ∃ t, exec (.accmov f) s = .next t ∧
        CompletedNext (busy 16) c (fun _ => []) (fun w => (w.setTile f.dst (c.w.tile f.sb)).clearSigned (cvNo f.sc)) t) ∧
      (Issuing (.iacc f) f s → ∃ (tile : List Word) (t : State),
        (∀ i < 64, ∀ j < 64, tileElem tile i j = BitVec.ofInt 32 (max (-(2 ^ 31)) (min (2 ^ 31 - 1)
          ((tileElem (c.w.tile f.dst) i j).toInt + (tileElem (c.w.tile f.sb) i j).toInt)))) ∧
        exec (.iacc f) s = .next t ∧
        CompletedNext (busy 16) c (fun _ => []) (fun w => (w.setTile f.dst tile).clearSigned (cvNo f.sc)) t))

/-- R189 to R192: the product steps, once their accesses pass: element (i, j) of the partial tile is the product of row i of A
and row j of B. The exact integer sum of MMAI is stated here; MMA8, MMAH and MMAB use the rounding of their own rule. -/
def Obligations.ProductStepResults : Prop :=
  (∀ xs ys : List (List Nat), ∀ i < 64, ∀ j < 64, tileElem (tileInt8 xs ys).1 i j = BitVec.ofInt 32
    ((List.zipWith (fun x y => signedOf 8 x * signedOf 8 y) (xs.getD i []) (ys.getD j [])).foldl (· + ·) 0)) ∧
  (∀ xs ys : List (List Nat), ∀ i < 64, ∀ j < 64, tileElem (tileE4m3 xs ys).1 i j = BitVec.ofNat 32
    (dotE4m3 ((xs.getD i []).map (fun x => (e4m3Int x, x.testBit 7))) ((ys.getD j []).map (fun x => (e4m3Int x, x.testBit 7)))).1) ∧
  ∀ p ∈ ([(Instr.mma8, 1, 128, tileE4m3), (Instr.mmah, 2, 64, tileHalf .fp16), (Instr.mmab, 2, 64, tileHalf .bf16),
      (Instr.mmai, 1, 128, tileInt8)] :
      List ((Fields → Instr) × Nat × Nat × (List (List Nat) → List (List Nat) → List Word × FpFlags))),
    ∀ (s s0 s1 s2 : State) (f : Fields) (places : List (Span × State.Place)) (xs ys : List (List Nat)),
      let c := s.ctx f
      let a := mapA c.w f
      let e := p.2.1
      let n := p.2.2.1
      let rowsA := if Map.gen a then gatherSpans c.w c.active a e n else mapSpans a e n
      let rowsB := mapSpans (mapB c.w f) e n
      let r := p.2.2.2 xs ys
      Issuing (p.1 f) f s → Convened c f →
      settle c (misaligned e (rowsA ++ rowsB)) (if Map.gen a then outsideScratch rowsA else none)
        (checkSpans s c.agent c.low .read ((rowsA ++ rowsB).map (·.span))) = .ok (s0, places) →
      readRows c s0 (s0.classOf c.w) e n none rowsA = .ok (s1, xs) →
      readRows c s1 (s1.classOf c.w) e n none rowsB = .ok (s2, ys) →
      (s2.warp c.wid).parkedSince = none → r.2 &&& c.w.enabledFlags = 0 →
      ∃ t, exec (p.1 f) s = .next t ∧
        CompletedNext (s2.updCore c.w.gcore (fun x => { x with anvil := x.anvil + 64 })) c (fun _ => [])
          (fun w => ((w.raise r.2).setTile f.dst r.1).clearSigned (cvNo f.sc)) t

/-- R193, R195 to R199: SACC and ACCLD, once their reads pass; ACCST, DRAIN and DRAINA, once their checks pass and no bound traps. -/
def Obligations.TileMemoryResults : Prop :=
  (∀ (s b : State) (f : Fields) (rows : List (List Nat)),
    let c := s.ctx f
    let element := fun (i j : Nat) => scaledSum (tileElem (c.w.tile f.dst) i j) (tileElem (c.w.tile f.sb) i j)
      (.ofBits .s24 ((rows.getD i []).getD 0 0)) (.ofBits .s24 ((c.w.getK f.xspecK).toNat % 2 ^ 24))
    Convened c f → (b.warp c.wid).parkedSince = none →
      (Issuing (.sacc f) f s → readRows c s (s.classOf c.w) 3 1 none (mapSpans (mapA c.w f) 3 1) = .ok (b, rows) →
        (∀ i < 64, ∀ j < 64, (element i j).2 &&& c.w.enabledFlags = 0) →
        ∃ (tile : List Word) (fl : FpFlags) (t : State),
          (∀ i < 64, ∀ j < 64, tileElem tile i j = BitVec.ofNat 32 (element i j).1) ∧
          (∀ n, fl.getLsbD n = true ↔ ∃ i < 64, ∃ j < 64, (element i j).2.getLsbD n = true) ∧
          exec (.sacc f) s = .next t ∧ CompletedNext (useAnvil b c.w.gcore 16 false) c (fun _ => [])
            (fun w => ((w.raise fl).setTile f.dst tile).clearSigned (cvNo f.sc)) t) ∧
      (Issuing (.accld f) f s → readRows c s (s.classOf c.w) 4 64 none (mapSpans (mapA c.w f) 4 64) = .ok (b, rows) →
        ∃ (tile : List Word) (t : State),
          (∀ i < 64, ∀ j < 64, tileElem tile i j = BitVec.ofNat 32 ((rows.getD i []).getD j 0)) ∧
          exec (.accld f) s = .next t ∧ CompletedNext (useAnvil b c.w.gcore 16 true) c (fun _ => [])
            (fun w => (w.setTile f.dst tile).clearSigned (cvNo f.sc)) t)) ∧
  (∀ (s s' : State) (f : Fields) (places : List (Span × State.Place)),
    let c := s.ctx f
    let m := mapA c.w f
    let done := fun (i : Instr) (b : State) (fl : FpFlags) (own : Warp → Warp) =>
      ∃ t, exec i s = .next t ∧ CompletedNext b c (fun _ => []) (fun w => (own (w.raise fl)).clearSigned (cvNo f.sc)) t
    Convened c f →
      (Issuing (.accst f) f s →
        settle c (misaligned 4 (mapSpans m 4 64)) none (checkSpans s c.agent c.low .write ((mapSpans m 4 64).map (·.span))) =
          .ok (s', places) →
        let b := writeRows c s' (s'.classOf c.w) 4 m places (fun i j => leBytes 4 (tileElem (c.w.tile f.sb) i j).toNat)
        (b.warp c.wid).parkedSince = none → done (.accst f) (useAnvil b c.w.gcore 16 true) 0 id) ∧
      (Issuing (.drain f) f s →
        let e := drainBytes (Map.fmt m)
        let rows := mapSpans m e 64
        settle c (misaligned e rows) none (checkSpans s c.agent c.low .engineWrite (rows.map (·.span))) = .ok (s', places) →
        let bd := drainBound f m
        let x := boundTile (Map.fmt m == 4) (bd.map c.w.getBd) m e (c.w.tile f.sb)
        let fl := (usedElems m e).foldl (fun a y => a ||| (drainConvert (Map.fmt m) (tileElem x.1 y.1 y.2)).2) 0
        let b := writeRows c s' (s'.classOf c.w) e m places
          (fun i j => leBytes e (drainConvert (Map.fmt m) (tileElem x.1 i j)).1)
        boundTraps c.w bd x.2 = false → fl &&& c.w.enabledFlags = 0 → (b.warp c.wid).parkedSince = none →
        done (.drain f) (useAnvil b c.w.gcore 16 true) fl (fun w => w.countBound bd x.2)) ∧
      (Issuing (.draina f) f s →
        let elems := usedElems m 4
        let k := (elems.map (fun x => ({ va := Map.rowAddr m x.1 + BitVec.ofNat 64 (4 * x.2), len := 4 } : Span))).foldl
          (addAddend c.agent) { s }
        settle c (misaligned 4 (mapSpans m 4 64)) none { k with places := k.places.reverse } = .ok (s', places) →
        let bd := drainBound f m
        let x := boundTile false (bd.map c.w.getBd) m 4 (c.w.tile f.sb)
        let ticket := if f.mod0 then some ((c.w.getK f.xspecK).toNat % 2 ^ 16) else none
        let b : State := { s' with
          mem := { s'.mem with addends := s'.mem.addends ++ List.zipWith (fun (y : Nat × Nat) (p : Span × State.Place) =>
            addendAt s' c p.1.va p.2 (tileElem x.1 y.1 y.2) ticket s'.loft.nextSerial) elems places }
          loft := { s'.loft with nextSerial := s'.loft.nextSerial + 1 } }
        boundTraps c.w bd x.2 = false → (b.warp c.wid).parkedSince = none →
        done (.draina f) (useAnvil b c.w.gcore 16 true) 0 (fun w => w.countBound bd x.2)))

/-! ## Memory -/

/-- R207, R222, R227, R251: LD from scratch: the bytes of each lane, lowest first, extended as the form says. Memory keeps every
byte; an SC load is stamped. -/
def Obligations.ScratchLoadResults : Prop :=
  ∀ (s : State) (f : Fields) (at_ : Nat → Nat),
    let c := s.ctx f
    let n := 2 ^ f.size
    Issuing (.ld f) f s → ScratchReady s f n at_ →
      ∃ b t, exec (.ld f) s = .next t ∧
        CompletedNext b c (fun l => dstLoad f.dst f.size f.mod5 (leNat (s.rawBytes (at_ l) n))) id t ∧
        (f.ordering ≠ 2 → b = s) ∧
        (∀ x, x ≠ c.wid → b.warp x = s.warp x) ∧ b.warp c.wid = { s.warp c.wid with scStamp := (b.warp c.wid).scStamp } ∧
        b = { s with mem := { s.mem with scStamps := b.mem.scStamps }, warps := b.warps }

/-- R112, R222, R225, R228, R236, R241: ST to scratch. The bytes stored are those of each lane's address, the value's lowest byte
first; where lanes overlap the highest lane's stay; every other byte of memory keeps its value. -/
def Obligations.ScratchStoreResults : Prop :=
  ∀ (s : State) (f : Fields) (at_ : Nat → Nat),
    let c := s.ctx f
    let n := 2 ^ f.size
    let k := (c.active.lanes.filter (fun l => (storeValue c f l).2)).length
    Issuing (.st f) f s → ScratchReady s f n at_ → (f.ordering = 0 ∨ c.active = 0 ∨ s.storesComplete c.wid = true) →
      boundTraps c.w (storeBound f) k = false →
      ∃ b t, exec (.st f) s = .next t ∧ CompletedNext b c (fun _ => []) (fun w => w.countBound (storeBound f) k) t ∧
        (∀ a, (∀ l, c.active.has l = true → ¬ (at_ l ≤ a ∧ a < at_ l + n)) → b.byteAt a = s.byteAt a) ∧
        (∀ l, c.active.has l = true →
          (∀ l', c.active.has l' = true → l < l' → at_ l' + n ≤ at_ l ∨ at_ l + n ≤ at_ l') →
          ∀ i < n, b.byteAt (at_ l + i) = BitVec.ofNat 8 ((storeValue c f l).1 / 2 ^ (8 * i))) ∧
        (∀ x, x ≠ c.wid → b.warp x = s.warp x) ∧
        b.warp c.wid = { s.warp c.wid with scStamp := (b.warp c.wid).scStamp, gwct := (b.warp c.wid).gwct } ∧
        (c.active ≠ 0 → (b.warp c.wid).gwct = max (s.warp c.wid).gwct s.gt) ∧
        b = { s with mem := { s.mem with cells := b.mem.cells, scStamps := b.mem.scStamps }, warps := b.warps }

/-- R224, R225, R227, R228, R233, R234: LD, ST, ATOM, RED and ACAS at any place of memory. Once the checks of every lane pass and
no word is uncorrectable, the lanes are performed in increasing order, each on the memory that the one before left. -/
def Obligations.AccessesInLaneOrder : Prop :=
  ∀ (s s' b : State) (f : Fields) (ps : List (Nat × State.Place)) (ws : List (Nat × List RegWrite)),
    let c := s.ctx f
    let n := 2 ^ f.size
    let sc := f.ordering == 2
    let read := fun (s : State) (p : State.Place) => s.readAt c.w.tenant (s.classOf c.w) p n
    let store := fun (s : State) (p : State.Place) (x : Nat) =>
      let s := s.writeAt c.w.tenant (s.classOf c.w) p (leBytes n x)
      (stampIf sc s c.wid p).noteWrite c.wid p
    let modify := fun (s : State) (l : Nat) (p : State.Place) =>
      let r := read s p
      let old := leNat r.2.1
      (store r.1 p.bare (atomicOp f.auxHigh f.mod5 (8 * n) old (srcValue c.w l f.sb f.size)), old, r.2.2)
    let done := fun (i : Instr) (own : Warp → Warp) =>
      ∃ t, exec i s = .next t ∧ CompletedNext b c (writesOf ws) own t
    let order := fun (strict : Bool) => strict = true → s.storesComplete c.wid = true
    (b.warp c.wid).parkedSince = none →
      (Issuing (.ld f) f s → PlacesFound s f .read n s' ps →
        inOrder (fun s _ p => (stampIf sc (read s p).1 c.wid p, dstLoad f.dst f.size f.mod5 (leNat (read s p).2.1), (read s p).2.2))
          s' ps = (b, ws, false) → done (.ld f) id) ∧
      (Issuing (.st f) f s → order (f.ordering != 0) → PlacesFound s f .write n s' ps →
        inOrder (fun s l p => (store s p (storeValue c f l).1, [], false)) s' ps = (b, ws, false) →
        let k := (c.active.lanes.filter (fun l => (storeValue c f l).2)).length
        boundTraps c.w (storeBound f) k = false → done (.st f) (fun w => w.countBound (storeBound f) k)) ∧
      (Issuing (.atom f) f s → order (sc || f.mod6) → PlacesFound s f .rmw n s' ps →
        inOrder (fun s l p => ((modify s l p).1, dstLoad f.dst f.size true (modify s l p).2.1, (modify s l p).2.2)) s' ps =
          (b, ws, false) → done (.atom f) id) ∧
      (Issuing (.red f) f s → order (f.ordering != 0) → PlacesFound s f .write n s' ps →
        inOrder (fun s l p => ((modify s l p).1, [], (modify s l p).2.2)) s' ps = (b, ws, false) → done (.red f) id) ∧
      (Issuing (.acas f) f s → order (sc || f.mod6) → PlacesFound s f .rmw n s' ps →
        inOrder (fun s l p =>
          let r := read s p
          let old := leNat r.2.1
          (if old = srcValue c.w l f.sc f.size then store r.1 p.bare (srcValue c.w l f.sb f.size) else stampIf sc r.1 c.wid p,
            dstLoad f.dst f.size true old, r.2.2)) s' ps = (b, ws, false) → done (.acas f) id)

/-- R210, R230 to R232: LDFE, STFE and FECLR. A full granule with no request before serves LDFE and, unless the form keeps it,
is emptied; STFE fills the granule it stores to; FECLR empties its range. -/
def Obligations.FullEmptyResults : Prop :=
  ∀ (s : State) (f : Fields) (at_ : Nat → Nat) (gs : Nat → List Nat),
    let c := s.ctx f
    let n := 2 ^ f.size
    let noted := fun (b : State) => (∀ x, x ≠ c.wid → b.warp x = s.warp x) ∧
      b.warp c.wid = { s.warp c.wid with gwct := (b.warp c.wid).gwct }
    (Issuing (.ldfe f) f s → ScratchReady s f n at_ →
      (∀ l, c.active.has l = true → s.isFull (at_ l) = true ∧ ∀ r ∈ s.mem.feQueue, r.granule ≠ at_ l / 16) →
      (f.mod5 = true ∨ ∀ l l', c.active.has l = true → c.active.has l' = true → l ≠ l' → at_ l / 16 ≠ at_ l' / 16) →
      ∃ b t, exec (.ldfe f) s = .next t ∧
        CompletedNext b c (fun l => dstLoad f.dst f.size false (leNat (s.rawBytes (at_ l) n))) id t ∧
        (∀ p, b.isFull p = true ↔ s.isFull p = true ∧
          (f.mod5 = true ∨ ∀ l, c.active.has l = true → at_ l / 16 ≠ p / 16)) ∧
        noted b ∧ b = { s with mem := { s.mem with full := b.mem.full }, warps := b.warps }) ∧
    (Issuing (.stfe f) f s → ScratchReady s f n at_ → (c.active = 0 ∨ s.storesComplete c.wid = true) →
      ∃ b t, exec (.stfe f) s = .next t ∧ CompletedNext b c (fun _ => []) id t ∧
        (∀ p, b.isFull p = true ↔ s.isFull p = true ∨ ∃ l, c.active.has l = true ∧ at_ l / 16 = p / 16) ∧
        (∀ a, (∀ l, c.active.has l = true → ¬ (at_ l ≤ a ∧ a < at_ l + n)) → b.byteAt a = s.byteAt a) ∧
        (∀ l, c.active.has l = true →
          (∀ l', c.active.has l' = true → l < l' → at_ l' + n ≤ at_ l ∨ at_ l + n ≤ at_ l') →
          ∀ i < n, b.byteAt (at_ l + i) = BitVec.ofNat 8 (srcValue c.w l f.sb f.size / 2 ^ (8 * i))) ∧
        noted b ∧
        b.loft.blocks.map (fun x => { x with events := 0 }) = s.loft.blocks.map (fun x => { x with events := 0 }) ∧
        b = { s with
          mem := { s.mem with cells := b.mem.cells, full := b.mem.full }, warps := b.warps
          loft := { s.loft with blocks := b.loft.blocks } }) ∧
    (Issuing (.feclr f) f s →
      (∀ l, c.active.has l = true →
        let m := (c.w.src32 l f.sb 0).toNat
        (m = 0 ∧ gs l = []) ∨ (m ≠ 0 ∧ (c.w.addr l f).toNat % 16 = 0 ∧ m % 16 = 0 ∧
          granulesOf s c.agent (c.w.addr l f) m = some (gs l))) →
      ∃ b t, exec (.feclr f) s = .next t ∧ CompletedNext b c (fun _ => []) id t ∧
        (∀ p, b.isFull p = true ↔ s.isFull p = true ∧ ∀ l, c.active.has l = true → ∀ g ∈ gs l, g / 16 ≠ p / 16) ∧
        noted b ∧ b = { s with mem := { s.mem with full := b.mem.full }, warps := b.warps })

/-- R382 to R385: BCINIT sets REMAIN and clears COUNTED, BCADD moves an amount from one to the other, and BCWAIT goes on at
once where every object is complete. -/
def Obligations.ByteCountResults : Prop :=
  ∀ (s : State) (f : Fields) (at_ : Nat → Nat),
    let c := s.ctx f
    let remain := fun (s : State) (p : Nat) => (BitVec.ofNat 64 (leNat (s.rawBytes p 8)) : DWord)
    let counted := fun (s : State) (p : Nat) => (BitVec.ofNat 64 (leNat (s.rawBytes (p + 8) 8)) : DWord)
    let alone := fun (l : Nat) => ∀ l', c.active.has l' = true → l' ≠ l → at_ l' ≠ at_ l
    let only := fun (b : State) =>
      (∀ a, (∀ l, c.active.has l = true → ¬ (at_ l ≤ a ∧ a < at_ l + 16)) → b.byteAt a = s.byteAt a) ∧
      (∀ x, x ≠ c.wid → b.warp x = s.warp x) ∧ b.warp c.wid = { s.warp c.wid with gwct := (b.warp c.wid).gwct } ∧
      b = { s with mem := { s.mem with cells := b.mem.cells }, warps := b.warps }
    ScratchReady s f 16 at_ →
      (Issuing (.bcinit f) f s → ∃ b t, exec (.bcinit f) s = .next t ∧ CompletedNext b c (fun _ => []) id t ∧ only b ∧
        ∀ l, c.active.has l = true → alone l →
          remain b (at_ l) = (c.w.src32 l f.sb 0).setWidth 64 ∧ counted b (at_ l) = 0) ∧
      (Issuing (.bcadd f) f s → (c.active = 0 ∨ s.storesComplete c.wid = true) →
        ∃ b t, exec (.bcadd f) s = .next t ∧ CompletedNext b c (fun _ => []) id t ∧ only b ∧
        ∀ l, c.active.has l = true → alone l →
          remain b (at_ l) = remain s (at_ l) - (c.w.src32 l f.sb 0).signExtend 64 ∧
          counted b (at_ l) = counted s (at_ l) + (c.w.src32 l f.sb 0).signExtend 64) ∧
      (Issuing (.bcwait f) f s → (∀ l, c.active.has l = true → (remain s (at_ l)).toInt ≤ 0) →
        ∃ t, exec (.bcwait f) s = .next t ∧ CompletedNext s c (fun _ => []) id t)

/-- R236, R244: FENCE goes on at once where every older store-like access of the warp is complete, and waits otherwise; with no
lane in Active it waits for nothing. That it waits so at every scope is the model's choice (log entry 32, DEDUCED): R236 asks for the
write-completion times at the fence's own scope alone. -/
def Obligations.FenceResults : Prop :=
  ∀ (s : State) (f : Fields), Issuing (.fence f) f s →
    ((s.ctx f).active = 0 ∨ s.storesComplete (s.ctx f).wid = true →
      ∃ t, exec (.fence f) s = .next t ∧ CompletedNext s (s.ctx f) (fun _ => []) id t) ∧
    ((s.ctx f).active ≠ 0 → s.storesComplete (s.ctx f).wid = false →
      ∃ t, exec (.fence f) s = .next t ∧ Entered s (s.ctx f)
        (entryOf s (s.ctx f) (.fence f) (doneAll (s.ctx f)) (.fence (s.ctx f).w.gwct)) false t)

/-! ## Control transfer, waits, extended blocks -/

/-- R37, R42, R137, R138: BRA, BRX, CALL, CALLX and RET take every lane of Active to its target, once its checks pass; CALL and CALLX
write the link pair. A target in a line that the warp holds passes where its slot has the TGT bit. EXIT makes the lanes of
Active exited, the others of the split go on, and with its last lane the warp ends. -/
def Obligations.TransferResults : Prop :=
  (∀ (s b : State) (f : Fields),
    let c := s.ctx f
    let next := nextPc c.pc
    let near := fun (_ : Nat) => (BitVec.ofInt 64 ((lineOf c.pc).toNat + 64 * (f.imm.extractLsb' 3 29).toInt +
      (f.imm.extractLsb' 0 3).toNat) : DWord)
    let far := srcA64 s f
    let link := fun (_ : Nat) => [RegWrite.v 62 (next.setWidth 32), .v 63 (next.extractLsb' 32 32)]
    let goes := fun (i : Instr) (goal : Nat → DWord) (ws : Nat → List RegWrite) =>
      Issuing i f s → TargetsPass s c true goal b → (b.warp c.wid).parkedSince = none →
        ∃ t, exec i s = .next t ∧ Completed b c ws goal id t
    (goes (.bra f) near (fun _ => []) ∧ goes (.brx f) far (fun _ => []) ∧ goes (.call f) near link ∧ goes (.callx f) far link ∧
      goes (.ret f) (fun l => c.w.getV l 63 ++ c.w.getV l 62) (fun _ => [])) ∧
    ∀ goal : Nat → DWord,
      (∀ l, c.active.has l = true → isPc (goal l) = true ∧ ∃ x, c.w.lines.find? (fun y => y.1 == lineOf (goal l)) = some x ∧
        Line.target x.2 (slotOf (goal l)) = true) → TargetsPass s c true goal s) ∧
  (∀ (s : State) (f : Fields),
    let c := s.ctx f
    Issuing (.exit f) f s →
      (c.w.live = c.active ∨ ∃ l < 32, c.active.has l = false ∧ (c.w.lane l).status = .running) →
      ∃ w : Warp,
        (∀ l, l < 32 → w.lane l =
          if c.active.has l then { c.w.lane l with pc := nextPc c.pc, status := .exited }
          else if c.lanes.has l then { c.w.lane l with pc := nextPc c.pc, status := .running } else c.w.lane l) ∧
        w = { c.w with lanes := w.lanes, wissued := c.w.wissued + 1, wretired := c.w.wretired + 1, hangBase := s.runsFrom c.w.gcore } ∧
        exec (.exit f) s = .next ((s.setWarp c.wid w).endWarp c.wid) ∧
        (c.w.live ≠ c.active → exec (.exit f) s = .next (s.setWarp c.wid w)))

/-- R81, R139 to R143: a WSYNC whose wait ends at once, which lets the lanes go that wait with its mask, YIELD, and a SLEEP that is over at
issue; another WSYNC or SLEEP retires and its lanes wait on, which is the model's reading (log entry 31, DEDUCED). With an empty Active
YIELD steps not back (log entry 85, DESIGN CHOICE). RGACQ, RGREL and ROLE: a granted block reads 0 in v64 to v127, a released one is discarded; ROLE changes
the priority class and the entry as well; where no block is free the warp waits. -/
def Obligations.WaitAndBlockResults : Prop :=
  (∀ (s : State) (f : Fields),
    let c := s.ctx f
    let x := c.w.src32 0 f.sb f.imm
    let deadline := if c.w.gtwake = 0 then s.gt + x.toNat else min (s.gt + x.toNat) c.w.gtwake.toNat
    let goesOn := fun (i : Instr) (own : Warp → Warp) =>
      ∃ t, exec i s = .next t ∧ CompletedNext s c (fun _ => []) own t
    let waits := fun (i : Instr) (wait : Wait) (paused : Bool) =>
      ∃ t, exec i s = .next t ∧ Entered s c (entryOf s c i (doneAll c) wait) paused t
    let b := releaseWsync s c.wid x
    (Issuing (.wsync f) f s →
      if c.active = 0 then goesOn (.wsync f) id
      else if x &&& c.w.live &&& ~~~(c.active ||| wsyncLanes c.w x) = 0 then
        (b.warp c.wid).parkedSince = none → ∃ t, exec (.wsync f) s = .next t ∧ CompletedNext b c (fun _ => []) id t
      else waits (.wsync f) (.wsync x) true) ∧
    ((∀ e ∈ c.w.pauses, wsyncMask e ≠ some x) → b = s) ∧
    (Issuing (.sleep f) f s →
      if c.active = 0 ∨ deadline ≤ s.gt then goesOn (.sleep f) id else waits (.sleep f) (.sleep deadline) true) ∧
    (Issuing (.yield f) f s → goesOn (.yield f)
      (if c.active = 0 then id else fun w => { w with yielded := w.yielded ||| c.lanes, yieldWarp := true }))) ∧
  (∀ (s : State) (f : Fields),
    let c := s.ctx f
    let queue := (s.core c.w.gcore).extQueue
    let free := s.extHeld c.w.gcore + (queue.takeWhile (· != c.wid)).length < 8
    let taken := s.updWarp c.wid Warp.takeExt
    let given := s.updWarp c.wid Warp.dropExt
    let queued := if queue.contains c.wid then s
      else s.updCore c.w.gcore (fun x => { x with extQueue := x.extQueue ++ [c.wid] })
    let jump := f.imm.getLsbD 5
    let dest := if jump then c.w.base 0 f.sa else nextPc c.pc
    let prio := fun (w : Warp) => if f.imm.getLsbD 2 then { w with prio := (f.imm.extractLsb' 0 2).toNat } else w
    let ext := f.imm.extractLsb' 3 2
    let goesOn := fun (i : Instr) (b : State) (dest : DWord) (own : Warp → Warp) =>
      ∃ t, exec i s = .next t ∧ Completed b c (fun _ => []) (fun _ => dest) own t
    (∀ (w : Warp) (l n : Nat), n < 128 → w.takeExt.getV l n = if n < 64 then w.getV l n else 0) ∧
    (Issuing (.rgacq f) f s →
      if c.active = 0 ∨ c.w.ext = true then goesOn (.rgacq f) s (nextPc c.pc) id
      else if free then goesOn (.rgacq f) taken (nextPc c.pc) id
      else ∃ t, exec (.rgacq f) s = .next t ∧ Entered queued c (entryOf s c (.rgacq f) (doneAll c) .extBlock) false t) ∧
    (Issuing (.rgrel f) f s → goesOn (.rgrel f) (if c.active = 0 then s else given) (nextPc c.pc) id) ∧
    (Issuing (.role f) f s →
      if c.active = 0 then goesOn (.role f) s (nextPc c.pc) id
      else if jump = true ∧ isPc dest = false then
        CanTrap c.w c.active → ∃ t, exec (.role f) s = .next t ∧ Trapped s c c.active 0x04 0 0 t
      else if ext = 0 ∨ (ext = 1 ∧ c.w.ext = true) then goesOn (.role f) s dest prio
      else if ext = 1 ∧ free then goesOn (.role f) taken dest prio
      else if ext = 1 then ∃ t, exec (.role f) s = .next t ∧ Entered queued c
        (entryOf s c (.role f) (allLanes c.active (.done [] (if jump then some dest else none))) .extBlock) false t
      else goesOn (.role f) given dest prio))

/-! ## Traps -/

/-- R53, R144, R302: BRK and TRAP take the exception in every lane of Active; a decode-time cause traps every lane of the split,
whatever its guard, before anything of the instruction is done. -/
def Obligations.TrapEntry : Prop :=
  (∀ (s : State) (f : Fields), CanTrap (s.ctx f).w (s.ctx f).active →
    (Issuing (.brk f) f s → ∃ t, exec (.brk f) s = .next t ∧ Trapped s (s.ctx f) (s.ctx f).active 0x10 0 0 t) ∧
    (Issuing (.trap f) f s → ∃ t, exec (.trap f) s = .next t ∧
      Trapped s (s.ctx f) (s.ctx f).active 0x0F 0 (f.imm.extractLsb' 0 16).toNat t)) ∧
  (∀ (s : State) (i : Instr) (f : Fields) (cause : Nat), i.fields = some f →
    decodeCause s (s.ctx f) i = some cause → (s.ctx f).w.parkedSince = none → (s.ctx f).w.rob = [] → s.cur.late = false →
    CanTrap (s.ctx f).w (s.ctx f).lanes →
    ∃ t, exec i s = .next t ∧ Trapped s (s.ctx f) (s.ctx f).lanes cause 0 0 t)

/-- R314: ERET takes every lane of Active back to its TRAP_PC, with .NEXT to the slot after, and clears its handler tag. -/
def Obligations.ExceptionReturn : Prop :=
  ∀ (s b : State) (f : Fields),
    let c := s.ctx f
    let goal := fun (l : Nat) =>
      let pc := (c.w.lane l).trapPc
      if f.mod0 = true ∧ isPc pc = true then nextPc pc else pc
    Issuing (.eret f) f s → TargetsPass s c false goal b → (b.warp c.wid).parkedSince = none →
      ∃ t, exec (.eret f) s = .next t ∧ t = b.setWarp c.wid (t.warp c.wid) ∧
        (∀ l, l < 32 → (t.warp c.wid).lane l =
          if c.active.has l then { (b.warp c.wid).lane l with pc := goal l, status := .running, tag := none }
          else if c.lanes.has l then { (b.warp c.wid).lane l with pc := nextPc c.pc, status := .running }
          else (b.warp c.wid).lane l) ∧
        t.warp c.wid = { b.warp c.wid with
          lanes := (t.warp c.wid).lanes, wissued := (b.warp c.wid).wissued + 1, wretired := (b.warp c.wid).wretired + 1
          hangBase := b.runsFrom (b.warp c.wid).gcore }

/-- R50, R52, R112, R302, R313: at USER a SUPERVISOR instruction of class 7 has the cause PRIVILEGE, unless its word is ILLOP; a
lane of ST whose address is not a multiple of the access traps MEM_ALIGN with that address, and stores nothing. -/
def Obligations.ForbiddenForms : Prop :=
  (∀ p ∈ ([Instr.tcrcl, Instr.diagst, Instr.diagld, Instr.wdog, Instr.halt] : List (Fields → Instr)),
    ∀ (s : State) (f : Fields), (p f).WellFormed → (s.ctx f).w.supervisor = false →
      decodeCause s (s.ctx f) (p f) = some 0x11) ∧
  (∀ (s : State) (f : Fields) (va : DWord), Issuing (.st f) f s → CanTrap (s.ctx f).w (s.ctx f).active →
    (f.ordering = 0 ∨ s.storesComplete (s.ctx f).wid = true) →
    (∀ l, (s.ctx f).active.has l = true → (s.ctx f).w.addr l f = va) → va.toNat % 2 ^ f.size ≠ 0 →
    ∃ t, exec (.st f) s = .next t ∧ Trapped s (s.ctx f) (s.ctx f).active 0x06 va 0 t)

/-- R40, R142, R143, R182, R184, R236, R285, R312, R340, R378: with no lane in Active an instruction does nothing and retires, whatever it is;
a tile instruction first waits for its set. Of YIELD the spec does not say so: that is the model's choice (log entry 85, DESIGN CHOICE). -/
def Obligations.EmptyActiveDoesNothing : Prop :=
  ∀ (s : State) (i : Instr) (f : Fields) (r : Row), i.fields = some f → i.row = some r → Issuing i f s →
    (s.ctx f).active = 0 → (r.sig.sc = .cv → tileReady (s.ctx f).w (s.ctx f).pc (s.ctx f).lanes (cvNo f.sc) = true) →
    ∃ t, exec i s = .next t ∧ CompletedNext s (s.ctx f) (fun _ => []) id t

/-! ## Queues and engines -/

/-- R286, R290, R291: KICK and KICK.DIE put one kick for each lane with requests into the engine's queue, in lane order; WAINST
reads the block's status, and clears its error fields with its own form. -/
def Obligations.KickResults : Prop :=
  ∀ (s : State) (f : Fields) (blk : Block),
    let c := s.ctx f
    let va := fun (l : Nat) => c.w.addr l f
    let n := fun (l : Nat) => (c.w.src32 l f.sb 0).toNat
    let full := c.active.lanes.filter (fun l => n l != 0)
    let kicked := fun (i : Instr) (id : Nat) =>
      (∀ l, c.active.has l = true → s.kickTrap c.w (va l) (n l) = none) → (s.engine id).queue.length + full.length ≤ 16 →
      ∃ (b : State) (ks : List Kick) (t : State), exec i s = .next t ∧ CompletedNext b c (fun _ => []) (fun w => w) t ∧
        ks.map (fun k => (k.lane, k.offset, k.left)) = full.map (fun l => (l, (va l).toNat - scratchBase, n l)) ∧
        (∀ k ∈ ks, k.wid = c.wid ∧ k.grid = c.w.grid ∧ k.block = c.w.block ∧ k.pc = c.pc) ∧
        (b.engine id).queue = (s.engine id).queue ++ ks ∧ b = { s with cores := b.cores, dies := b.dies, loft := b.loft }
    (Issuing (.kick f) f s → kicked (.kick f) c.w.gcore) ∧
    (let id := 384 + 8 * dieOf c.w.gcore + (f.aux.extractLsb' 3 3).toNat;
      Issuing (.kickDie f) f s → (s.partOf c.w.tenant).engs.getLsbD (id - 384) = true → kicked (.kickDie f) id) ∧
    (Issuing (.wainst f) f s → c.active ≠ 0 → s.block? c.w.grid c.w.block = some blk →
      ∃ t, exec (.wainst f) s = .next t ∧ CompletedNext
        (if f.mod0 then s.updBlock c.w.grid c.w.block (fun b => { b with errcnt := 0, cause := 0, errreq := 0 }) else s) c
        (fun _ => dst64 f.dst (BitVec.ofNat 64 (blk.errreq % 2 ^ 17 * 2 ^ 40 + blk.cause * 2 ^ 32 + blk.errcnt * 2 ^ 24 +
          (16 - (s.engine c.w.gcore).queue.length) * 2 ^ 16 + min blk.pend 0xFFFF))) (fun w => w) t)

/-- R292 to R296: QPUSH, QPOP, QPEEK, QCLOSE and LNCH, once their accesses pass and every lane has an outcome without a trap. A push into a
closed queue, or beyond its gang's reserved slots, has QUEUE_FAULT; by an explicit handle it answers false where the queue is full; otherwise
the item is the queue's last. A pop takes the next claimed item or answers false; an item that QPEEK shows stays, and one
that QPOP removes is gone. -/
def Obligations.QueueResults : Prop :=
  (∀ (s s' b : State) (f : Fields) (ps : List (Nat × State.Place)) (ws : List (Nat × List RegWrite)) (p : Nat),
    let c := s.ctx f
    let t' := c.w.tenant
    let done := fun (i : Instr) => ∃ t, exec i s = .next t ∧ CompletedNext b c (writesOf ws) id t
    (b.warp c.wid).parkedSince = none →
      (Issuing (.qpush f) f s → (c.active = 0 ∨ s.storesComplete c.wid = true) → PlacesFound s f .read 64 s' ps →
        outcomesInOrder (fun s _ p =>
          let r := s.readAt t' (s.classOf c.w) p 64
          let o := pushLane r.1 c.w f r.2.1
          if r.2.2 then (r.1, .done [] none, true) else (o.1, o.2, false)) s' ps = (b, completedLanes ws, false) →
        done (.qpush f)) ∧
      (Issuing (.qpop f) f s → PlacesFound s f .write 64 s' ps →
        outcomesInOrder (fun s _ p => popLane c f true s p) s' ps = (b, completedLanes ws, false) → done (.qpop f)) ∧
      (Issuing (.qpeek f) f s → PlacesFound s f .write 64 s' ps →
        outcomesInOrder (fun s _ p => popLane c f false s p) s' ps = (b, completedLanes ws, false) → done (.qpeek f)) ∧
      (Issuing (.lnch f) f s → (c.active = 0 ∨ s.storesComplete c.wid = true) → PlacesFound s f .read 256 s' ps →
        outcomesInOrder (fun s _ p =>
          let r := s.readSectors t' (s.classOf c.w) p 4
          let o := acceptRecord r.1 (if t' = 0 then .supervisor else .user t') (leWord 2048 r.2.1)
          if r.2.2 then (r.1, .done [] none, true)
          else (o.1, .done (dst64 f.dst (BitVec.ofNat 64 (o.2.1 * 2 ^ 32 + o.2.2))) none, false)) s' ps =
          (b, completedLanes ws, false) → done (.lnch f)) ∧
      (Issuing (.qclose f) f s → c.active ≠ 0 → f.sb ≠ .zero → explicitPipe s t' (c.w.src64 0 f.sb 0) = some p →
        let stages := (s.pipeline p).stages.mapIdx (fun j st => if j == 0 then { st with closed := true } else st)
        b = (s.setPipeline p { s.pipeline p with stages := stages }).endStages p 9 →
        ∃ t, exec (.qclose f) s = .next t ∧ CompletedNext b c (fun _ => []) id t)) ∧
  (∀ (s : State) (w : Warp) (f : Fields) (item : List Byte) (p q : Nat) (implicit : Bool) (st : Stage),
    let fault := (s, LaneOutcome.trap 0x12 0 0)
    let pushed := fun (t : State) =>
      (t.pipeline p).stages = (s.pipeline p).stages.mapIdx (fun j y => if j = q then { y with items := y.items ++ [item] } else y)
    (pushQueue s w f.sb = none → pushLane s w f item = fault) ∧
    (pushQueue s w f.sb = some (p, q, implicit) → (s.pipeline p).stages[q]? = some st →
      (st.closed = true ∨ (implicit = true ∧ (s.grid w.grid).reserved = 0) → pushLane s w f item = fault) ∧
      (st.closed = false →
        (implicit = false → st.qcap ≤ s.queueItems p q st → pushLane s w f item = (s, .done (dstP f.dst false) none)) ∧
        (implicit = false → s.queueItems p q st < st.qcap → ∃ t, pushLane s w f item = (t, .done (dstP f.dst true) none) ∧ pushed t) ∧
        (implicit = true → (s.grid w.grid).reserved ≠ 0 → ∃ t, pushLane s w f item = (t, .done (dstP f.dst true) none) ∧ pushed t ∧
          (t.grid w.grid).reserved = (s.grid w.grid).reserved - 1)))) ∧
  (∀ (s : State) (f : Fields) (p : State.Place) (item : List Byte) (rest : List (List Byte)) (remove : Bool),
    let c := s.ctx f
    let g := c.w.grid
    f.sb = .zero → (s.grid g).pipe.isSome = true →
      ((s.grid g).claimed = [] → popLane c f remove s p = (s, .done (dstP f.dst false) none, false)) ∧
      ((s.grid g).claimed = item :: rest → ∃ b,
        popLane c f remove s p = (b, .done (dstP f.dst true) none, false) ∧
        (remove = true → (b.grid g).claimed = rest) ∧
        (remove = false → b = (s.writeAt c.w.tenant (s.classOf c.w) p item).noteWrite c.wid p))) ∧
  (∀ (s : State) (f : Fields), Issuing (.qclose f) f s → f.sb = .zero → CanTrap (s.ctx f).w (s.ctx f).active →
    ∃ t, exec (.qclose f) s = .next t ∧ Trapped s (s.ctx f) (s.ctx f).active 0x12 0 0 t)

/-- R297 to R299, R331, R335: SHADOW and PUBLISH, once every page of the range passes; and what they leave of one page. A page of
DRAM kind that its tenant may write gets the FREE frame as its shadow, FILLING, and SHD. PUBLISH of a page with a shadow makes the shadow
the page at one switch: the entry names it, and what held the page forwards to it until the page's horizon, which is when the
instruction is complete as a store. -/
def Obligations.ShadowPublishResults : Prop :=
  (∀ (s b : State) (f : Fields) (h : Nat),
    let c := s.ctx f
    let start := c.w.addr 0 f
    let n := (c.w.src64 0 f.sb 0).toNat
    let vs := (List.range (n / 4096)).map (fun i => start.toNat / 4096 + i)
    c.active ≠ 0 → start.toNat % 4096 = 0 → n % 4096 = 0 → n ≤ 2 ^ 28 → (b.warp c.wid).parkedSince = none →
      (Issuing (.shadow f) f s → shadowRangeTrap s c.w.tenant c.w.gcore vs = none → anyMig s c.w.tenant vs = false →
        giveShadows s c.w.tenant c.w.gcore f.mod5 vs = .ok b →
        ∃ t, exec (.shadow f) s = .next t ∧ CompletedNext (b.noteStore c.wid b.gt) c (fun _ => []) id t) ∧
      (Issuing (.publish f) f s → (∀ v ∈ vs, (s.shadowOf c.w.tenant v).isSome = true) → s.storesComplete c.wid = true →
        s.publishable c.w.tenant vs = true → s.publishPages c.w.tenant vs = (b, h) →
        ∃ t, exec (.publish f) s = .next t ∧
          CompletedNext ((vs.foldl (fun s v => s.dropStale c.w.gcore c.w.tenant v) b).noteStore c.wid h) c (fun _ => []) id t)) ∧
  (∀ (s : State) (f : Fields) (a fid : Nat) (w0 w1 : DWord) (sh : Shadow),
    let c := s.ctx f
    let t' := c.w.tenant
    let start := c.w.addr 0 f
    let v := start.toNat / 4096
    c.active ≠ 0 → start.toNat % 4096 = 0 → start.toNat < 2 ^ 56 → c.w.src64 0 f.sb 0 = 4096 →
    s.leafOf t' v = some (a, w0, w1) → Leaf.mig w0 = false →
      (Issuing (.shadow f) f s → Leaf.kind w0 = 0 → Leaf.shr w0 = false → Leaf.sup w0 = false → Leaf.w w0 = true →
        s.ownsChannel t' w1.toNat = true → s.shadowOf t' v = none → s.framesOf t' < (s.tenant t').frameq →
        s.takeFrom (s.ownedCols t' (dieOf c.w.gcore)) = some fid →
        (f.mod5 = true → ∀ i < 16, ∀ e, s.dirEntry? (w1.toNat / 256 + i) = some e → e.state = .shared ∨ e.owner = s.net.pkg) →
        ∃ b t, exec (.shadow f) s = .next t ∧ CompletedNext b c (fun _ => []) id t ∧
          b.frame fid = { state := .filling, role := .shadow, owner := t', vpn := v, backing := w1.toNat
                          valid := if f.mod5 then 0 else BitVec.allOnes 64 } ∧
          b.raw64 a = Leaf.withBit w0 7 true ∧ b.shadowOf t' v = some { tenant := t', vpn := v, fid, copy := f.mod5, filled := 0 } ∧
          (b.warp c.wid).gwct = max c.w.gwct s.gt) ∧
      (Issuing (.publish f) f s → (Leaf.kind w0 = 0 ∨ Leaf.kind w0 = 1 ∧ Leaf.target w0 ≠ sh.fid) → s.shadowOf t' v = some sh →
        s.storesComplete c.wid = true → (Leaf.kind w0 = 0 → s.forwardsOn w1.toNat < 64) → (pkgOf w1.toNat = s.net.pkg ∨ s.remoteWaits w1.toNat = false) →
        ∃ b t, exec (.publish f) s = .next t ∧ CompletedNext b c (fun _ => []) id t ∧
          (b.frame sh.fid).state = .mapped ∧ (b.frame sh.fid).role = .page ∧ (b.frame sh.fid).valid = BitVec.allOnes 64 ∧
          (b.frame sh.fid).dirty = BitVec.allOnes 64 ∧ b.shadowOf t' v = none ∧
          b.raw64 a = Leaf.withBit (Leaf.withTarget w0 1 sh.fid) 7 false ∧
          (b.warp c.wid).gwct = max c.w.gwct (max (s.horizon t' v) s.gt) ∧
          if Leaf.kind w0 = 1 then
            let old := b.frame (Leaf.target w0)
            old.state = .forwarding ∧ old.fwd = sh.fid ∧ old.horizon = s.horizon t' v ∧ old.published = true ∧ old.dirty = 0
          else ∃ x ∈ b.tables.forwards, x.page = w1.toNat / 4096 ∧ x.fid = sh.fid ∧ x.horizon = s.horizon t' v ∧ x.published = true))

/-! ## Barriers, translations, pages -/

/-- R340, R374, R375, R379, R380: BARA, BARW, BARS and BARQ at a barrier that the launch record asked for and that is not broken. A phase
that is complete already ends first; an arrival is counted in the phase that it then finds, which completes with the last member's. TCINV removes the range's
translations from the core's and the floor's cache and drops fetched lines; TCRCL recalls a tenant's from every cache. No access made through
them is in flight. That TCINV leaves the translations of other tenants is log entry 77 (DEDUCED), and TCRCL's horizon where a grantee still
holds the page log entry 108 (DEDUCED). -/
def Obligations.BarrierAndInvalidateResults : Prop :=
  (∀ (s : State) (f : Fields) (bar : Barrier),
    let c := s.ctx f
    let s0 := s.completePhase bar.id
    let arrived := ((dropNote s0 c bar).updBarrier bar.id (fun x => { x with arr := x.arr ++ [c.wid] })).completePhase bar.id
    let target := ((s0.warp c.wid).src32 c.low f.sa 0).toNat
    let live := (s.members bar).filter (fun wid => (s.warp wid).isMember)
    c.active ≠ 0 → namedBarrier s c f = some bar → bar.broken = false →
      (∀ now, s0.barrier? bar.id = some now → (s0.warp c.wid).notes = [] → now.arr.contains c.wid = false →
        s0.storesComplete c.wid = true → (arrived.warp c.wid).parkedSince = none →
        (Issuing (.bara f) f s →
          ∃ t, exec (.bara f) s = .next t ∧ CompletedNext arrived c (fun _ => dst32 f.dst (BitVec.ofNat 32 now.phase)) id t) ∧
        (Issuing (.bars f) f s → (arrived.barrier? bar.id).any (fun x => State.phasePassed x.phase now.phase) = true →
          ∃ t, exec (.bars f) s = .next t ∧ CompletedNext arrived c (fun _ => []) id t)) ∧
      (Issuing (.barw f) f s → (s0.warp c.wid).notes = [] →
        let b := (dropNote s0 c bar).completePhase bar.id
        (b.warp c.wid).parkedSince = none → (b.barrier? bar.id).any (fun x => State.phasePassed x.phase target) = true →
        ∃ t, exec (.barw f) s = .next t ∧ CompletedNext b c (fun _ => []) id t) ∧
      (Issuing (.barq f) f s → ∃ t, exec (.barq f) s = .next t ∧ CompletedNext s c (fun _ => dst128 f.dst (BitVec.ofNat 128
        ((live.length + s.unplacedMembers bar + (s.podOthers bar).1) * 2 ^ 96 +
          ((live.filter (fun wid => bar.arr.contains wid)).length + (s.podOthers bar).2) * 2 ^ 64 +
          barrierState s bar * 2 ^ 48 + bar.phase))) id t)) ∧
  (∀ (s b : State) (f : Fields),
    let c := s.ctx f
    let start := c.w.addr 0 f
    let n := (c.w.src64 0 f.sb 0).toNat
    let vs := (List.range (n / 4096)).map (fun i => start.toNat / 4096 + i)
    let out := fun (x : Cached) => !(x.tenant == c.w.tenant && start.toNat / 4096 ≤ x.vpn && x.vpn < start.toNat / 4096 + n / 4096)
    let through := fun (t : Nat) => s.leftThrough t (inPages (start.toNat / 4096) (n / 4096))
    c.active ≠ 0 → start.toNat % 4096 = 0 → n % 4096 = 0 → n ≤ 2 ^ 28 → start.toNat + n ≤ 2 ^ 56 →
      (Issuing (.tcinv f) f s → through c.w.tenant = [] → ∃ t, exec (.tcinv f) s = .next t ∧ CompletedNext
        ((s.updCore c.w.gcore (fun x => { x with tcache := x.tcache.filter out })).updDie (dieOf c.w.gcore)
          (fun d => { d with ftcache := d.ftcache.filter out })) c (fun _ => [])
        (fun w => { w with lines := w.lines.filter (fun x => !(start.toNat ≤ x.1.toNat && x.1.toNat < start.toNat + n)) }) t) ∧
      (Issuing (.tcrcl f) f s → n ≠ 0 → s.storesComplete c.wid = true → through f.auxHigh = [] →
        let q := recallRange s f.auxHigh (start.toNat / 4096) (n / 4096)
        anyMig s f.auxHigh vs = false → addendsThrough q f.auxHigh (start.toNat / 4096) (n / 4096) = false →
        b = vs.foldl (fun s v => endHorizon s f.auxHigh v) q → (b.warp c.wid).parkedSince = none →
        ∃ t, exec (.tcrcl f) s = .next t ∧ CompletedNext b c (fun _ => []) id t))

/-- R220, R341, R342: PLACE and REPL once every lane has its answer, PROBE of pages and PROBE.F of frames. A request that the gleaner
accepts stands at the end of its queue. Where a page is named, the ECC errors of the walk to its entry are counted first. -/
def Obligations.PlaceAndProbeResults : Prop :=
  ∀ (s : State) (f : Fields) (q : Performed) (ws : List (Nat × List RegWrite)),
    let c := s.ctx f
    let fid := fun (l : Nat) => (c.w.src32 l f.sb 0).toNat
    let named := fun (l : Nat) => decide (fid l < 2 ^ 21) && s.namesFrame (fid l)
    (∀ p ∈ ([Instr.place, Instr.repl] : List (Fields → Instr)), Issuing (p f) f s →
      placeLanes c (p f) f { s } c.active.lanes = q → q.outs = completedLanes ws → ws.length = c.active.lanes.length →
      (q.s.warp c.wid).parkedSince = none →
      ∃ t, exec (p f) s = .next t ∧ CompletedNext q.s c (writesOf ws) id t) ∧
    (∀ (i : Instr) (l a : Nat) (w0 w1 : DWord), (c.w.addr l f).toNat < 2 ^ 56 →
      let r := gleanerReq s c i f l
      let q := s.checkWalk r.tenant (4096 * r.vpn)
      let silo := pageSilo q w0 c.w.gcore
      q.leafOf r.tenant r.vpn = some (a, w0, w1) → (q.die silo).gleaner.length < 64 → requestAnswer q r w0 = .work →
        placeLane s c i f l = (q.updDie silo (fun d => { d with gleaner := d.gleaner ++ [r] }),
          some (.done (dstP f.dst true) none))) ∧
    (Issuing (.probe f) f s → (∀ l, c.active.has l = true → (c.w.addr l f).toNat < 2 ^ 56) →
      let b := c.active.lanes.foldl (fun s l => s.checkWalk c.w.tenant (c.w.addr l f).toNat) s
      (b.warp c.wid).parkedSince = none →
      ∃ t, exec (.probe f) s = .next t ∧ CompletedNext b c
        (fun l => dst128 f.dst (probePage s c.w.tenant c.w.gcore (c.w.addr l f).toNat)) id t) ∧
    (Issuing (.probeF f) f s →
      (c.w.supervisor = true ∨ ∀ l, c.active.has l = true → named l = true ∧ (s.frame (fid l)).owner = c.w.tenant) →
      ∃ t, exec (.probeF f) s = .next t ∧ CompletedNext s c
        (fun l => dst128 f.dst (if named l then BitVec.ofNat 128 (probeFrame (s.frame (fid l))) else 0)) id t)

/-! ## System instructions -/

/-- R93, R313, R353, R400: SYSWR. Writable registers of the warp context take the value of the lowest lane, TRAP_PC each lane's
own; PCMD submits a command, or waits while 16 are queued. -/
def Obligations.SystemWriteResults : Prop :=
  ∀ (s : State) (f : Fields),
    let c := s.ctx f
    let n := f.regNumber
    let val := srcA64 s f
    let x := val c.low
    let g := c.w.gcore
    let addr := x &&& ~~~63#64
    Issuing (.syswr f) f s → c.active ≠ 0 →
      (n ≤ 8 → ∃ (w : Warp) (t : State), exec (.syswr f) s = .next t ∧ CompletedNext (s.setWarp c.wid w) c (fun _ => []) id t ∧
        (n = 0 → w = { c.w with tvec := x }) ∧ (n = 4 → w = { c.w with fpflags := x &&& 0x1F }) ∧
        (n = 5 → w = { c.w with fptrapen := x &&& 0x1F }) ∧ (n = 6 → w = { c.w with feLimit := x }) ∧
        (n = 8 → w = { c.w with gtwake := x }) ∧
        (n = 1 → w = { c.w with lanes := w.lanes } ∧ ∀ l, l < 32 → w.lane l =
          if c.active.has l then { c.w.lane l with trapPc := val l } else c.w.lane l)) ∧
      (n = 0x200 → s.storesComplete c.wid = true →
        if s.loft.pcmd.length < 16 then
          ∃ t, exec (.syswr f) s = .next t ∧ CompletedNext
            { s with loft := { s.loft with pcmd := s.loft.pcmd ++ [{ addr }] } } c (fun _ => []) id t
        else ∃ t, exec (.syswr f) s = .next t ∧ Entered s c (entryOf s c (.syswr f) (doneAll c) (.pcmd addr)) false t) ∧
      (n > 8 → n ≠ 0x200 → ∃ (b : State) (t : State), exec (.syswr f) s = .next t ∧
        ((b.warp c.wid).parkedSince = none → CompletedNext b c (fun _ => []) id t) ∧
        (n = 0x120 → b = s.splitWrite g x) ∧
        (n = 0x300 → b = s.updCore g (fun y => { y with lsel := x &&& 0x1FF })) ∧
        (n = 0x303 → b = { s with net := { s.net with portto := x.toNat % 2 ^ 32 } }) ∧
        (n = 0x400 → b = s.updCore g (fun y => { y with esel := x &&& 7 })) ∧
        (n = 0x505 → b = s.updCore g (fun y => { y with anvil := x })) ∧
        (n = 0x506 → b = s.updCore g (fun y => { y with tcmiss := x })) ∧
        (n = 0x507 → b = s.updCore g (fun y => { y with wainb := x })) ∧
        (n = 0x520 → b = s.updDie (dieOf g) (fun d => { d with eccCor := x })) ∧
        (n = 0x521 → b = s.updDie (dieOf g) (fun d => { d with eccUnc := x })) ∧
        (n = 0x522 → b = s.updDie (dieOf g) (fun d => { d with vwRemap := x })))

/-- R309, R315 to R317, R319: TRQPOP, BNDSET, WDOG, whose new hang limit applies from the next ns, DIAGST and DIAGLD. -/
def Obligations.RecordAndDiagnosticResults : Prop :=
  ∀ (s s' : State) (f : Fields) (p : State.Place) (q : Performed) (ws : List (Nat × List RegWrite)),
    let c := s.ctx f
    let va := srcA64 s f c.low
    let bound := c.w.src128 c.low f.sa &&& BitVec.ofNat 128 (2 ^ 99 - 1)
    let no := (f.aux.extractLsb' 0 4).toNat
    let kind := (f.aux.extractLsb' 0 2).toNat
    let tenant := (srcA s f c.low).toNat
    let limit := (srcB s f c.low).toNat
    let y := srcB64 s f c.low
    c.active ≠ 0 →
      (Issuing (.trqpop f) f s → checkLane s c .write 64 va c.low = (s', .at p) → (s'.warp c.wid).parkedSince = none →
        (c.w.records = [] → ∃ t, exec (.trqpop f) s = .next t ∧ CompletedNext s' c (fun _ => dstP f.dst false) id t) ∧
        (∀ r rest, c.w.records = r :: rest →
          let b := s'.writeAt c.w.tenant (s'.classOf c.w) p r
          (b.warp c.wid).parkedSince = none → ∃ t, exec (.trqpop f) s = .next t ∧
            CompletedNext (b.noteWrite c.wid p) c (fun _ => dstP f.dst true)
              (fun w => { w with records := w.records.drop 1 }) t)) ∧
      (Issuing (.bndset f) f s →
        (badBounds bound = false → ∃ t, exec (.bndset f) s = .next t ∧
          CompletedNext s c (fun _ => []) (fun w => w.setBd no bound) t) ∧
        (badBounds bound = true → CanTrap c.w c.active → ∃ t, exec (.bndset f) s = .next t ∧
          Trapped s c c.active 0x09 0 (2 ^ 15 + no) t)) ∧
      (Issuing (.wdog f) f s → tenant ≤ 15 → (s.tenant tenant).defined = true →
        let e := s.tenant tenant
        ∃ t, exec (.wdog f) s = .next t ∧ CompletedNext
          (s.setTenant tenant (if f.mod0 then { e with savebnd := max 1000 limit }
            else { e with wdoglim := limit, limitFrom := s.gt + 1
                          limitBefore := if e.limitFrom ≤ s.gt then e.wdoglim else e.limitBefore })) c
          (fun _ => dst64 f.dst (BitVec.ofNat 64 (if f.mod0 then e.savebnd else e.wdoglim))) id t) ∧
      (Issuing (.diagst f) f s →
        (kind = 2 → va.toNat < 2 ^ 11 → (s.warp c.wid).parkedSince = none → ∃ t, exec (.diagst f) s = .next t ∧
          CompletedNext (inject s va (y.toNat % 2 ^ 32) (y.toNat / 2 ^ 32)) c (fun _ => []) id t) ∧
        (∀ x : Nat, kind ≠ 2 → y.toNat < 2 ^ 32 → diagLane s c kind c.low va = (s', .at p, some x) →
          (s'.warp c.wid).parkedSince = none → ∃ t, exec (.diagst f) s = .next t ∧
            CompletedNext (s'.setSyndrome x (s'.syndrome x ^^^ y.setWidth 32)) c (fun _ => []) id t)) ∧
      (Issuing (.diagld f) f s → diagLoads c f { s } c.active.lanes = q → q.outs = completedLanes ws →
        ws.map (·.1) = c.active.lanes →
        (q.s.warp c.wid).parkedSince = none →
        ∃ t, exec (.diagld f) s = .next t ∧ CompletedNext q.s c (writesOf ws) id t)

/-- R320, R321: HALT ends a grid that the loft holds, the warp's own with 0, and tells the host; it retires with no effect for
any other number. That no lane of the issuer goes on when its own grid ends is log entry 78 (DEDUCED). IDLE waits for 1 µs or GTWAKE,
and retires while its lanes wait on, which is the model's reading (log entry 31, DEDUCED). -/
def Obligations.HaltAndIdleResults : Prop :=
  ∀ (s : State) (f : Fields),
    let c := s.ctx f
    let a := (srcA s f c.low).toNat
    let g := if a = 0 then c.w.grid else a
    let ended := (s.endGrid g 4 (if g = c.w.grid then some (s.gangOf g c.w.block, c.pc.toNat) else none)).notify 0x10 g
    let deadline := if c.w.gtwake = 0 then s.gt + 1000 else min (s.gt + 1000) c.w.gtwake.toNat
    c.active ≠ 0 →
      (Issuing (.halt f) f s →
        (heldGrid s g = false → ∃ t, exec (.halt f) s = .next t ∧ CompletedNext s c (fun _ => []) id t) ∧
        (heldGrid s g = true → g = c.w.grid → exec (.halt f) s = .next ended) ∧
        (heldGrid s g = true → g ≠ c.w.grid → (ended.warp c.wid).parkedSince = none →
          ∃ t, exec (.halt f) s = .next t ∧ CompletedNext ended c (fun _ => []) id t)) ∧
      (Issuing (.idle f) f s →
        if deadline ≤ s.gt then ∃ t, exec (.idle f) s = .next t ∧ CompletedNext s c (fun _ => []) id t
        else ∃ t, exec (.idle f) s = .next t ∧
          Entered s c (entryOf s c (.idle f) (doneAll c) (.idle deadline (idleEvents s c.w))) true t)

/-! ## Events: the ends of waits -/

/-- R102, R108 to R111, R139, R141, R142, R321: ENTRY_RETIRE, SLEEP_WAKE, IDLE_WAKE and RGACQ_GRANT retire the entry that has waited: its
registers are written, and its lanes go on unless they have gone on before. A SLEEP, an IDLE or a WSYNC that becomes the oldest retires and its
lanes wait on (log entry 31, DEDUCED), an entry whose turn comes is performed by the next step, and IADD and ISUB behind unretired entries
take their results and let their split go on (log entry 27, DESIGN CHOICE). -/
def Obligations.RetirementEvents : Prop :=
  (∀ (s : State) (wid : Nat) (e : Entry) (ws : Nat → List RegWrite) (dest : Nat → Option DWord),
    let w := s.warp wid
    let goto := fun (l : Nat) => (dest l).getD (nextPc e.pc)
    let own := fun (w : Warp) => w.raise e.flags
    let keepsPlace := (s.core w.gcore).extQueue.contains wid = false ∨
      (w.rob.drop 1).any (fun e => e.instr.asksBlock && e.wait != .nothing) = true
    e.outs = e.active.lanes.map (fun l => (l, .done (ws l) (dest l))) → (∀ l, inRange (ws l)) → e.lanes ≠ 0 →
    (∀ l, e.active.has l = true → e.lanes.has l = true) → w.parkedSince = none →
      (s.head? wid = some e →
        ((e.wait = .nothing ∨ ∃ g, e.wait = .fence g ∧ g ≤ s.gt ∧ s.addendsOf wid = false ∧
            ∀ m ∈ s.tables.moves, ∀ x ∈ m.writers, x.1 ≠ wid) →
          (e.moved = false → keepsPlace → ∃ t, exec (.entryRetire wid) s = .next t ∧ Retired s wid e ws goto own t) ∧
          (e.moved = true → (∃ l < 32, (w.lane l).status = .running) →
            ∃ t, exec (.entryRetire wid) s = .next t ∧ RetiredAfter s wid e ws t)) ∧
        (((∃ g, e.wait = .sleep g) ∨ (∃ g n, e.wait = .idle g n) ∨ ∃ m, e.wait = .wsync m) → exec (.entryRetire wid) s =
          .next (s.updWarp wid (fun w => { w with
            rob := w.rob.drop 1, pauses := w.pauses ++ [e], wretired := w.wretired + 1, hangBase := s.runsFrom w.gcore }))) ∧
        (e.wait = .turn → s.late = [] → s.mayPerform wid 0 e.instr e.lanes = true → s.entryWhere wid (completedBehind s wid) = none →
          exec (.entryRetire wid) s = .next { s with chosen := { wid, pc := e.pc, lanes := e.lanes, place := some 0 } :: s.chosen }) ∧
        (∀ f rest, (s.core w.gcore).extQueue = wid :: rest → s.extHeld w.gcore < 8 → e.instr = .rgacq f → (∀ l, ws l = []) →
          e.wait = .extBlock → rest.contains wid = false → e.moved = false → ∃ t, exec (.rgacqGrant w.gcore) s = .next t ∧ Retired
            ((s.updCore w.gcore (fun c => { c with extQueue := rest })).updWarp wid Warp.takeExt) wid e ws goto own t)) ∧
      (w.onCore = true → w.pauses.filter (sleepOver s.gt) = [e] → (∀ x ∈ w.rob, sleepOver s.gt x = false) →
        ∃ t, exec (.sleepWake wid) s = .next t ∧ Woken s wid e goto t) ∧
      (w.onCore = true → w.pauses.filter (idleOver s w) = [e] → ∃ t, exec (.idleWake wid) s = .next t ∧ Woken s wid e goto t)) ∧
  (∀ (s : State) (f : Fields), ∀ p ∈ ([(Instr.iadd, false), (Instr.isub, true)] : List ((Fields → Instr) × Bool)),
    let w := s.warp s.cur.wid
    let c := s.ctxOf f (w.ahead w.rob)
    let sum := fun (l : Nat) =>
      if p.2 then c.w.src32 l f.sa f.imm - c.w.src32 l f.sb f.imm else c.w.src32 l f.sa f.imm + c.w.src32 l f.sb f.imm
    f.mod6 = false → w.rob ≠ [] → s.cur.place = none → s.cur.late = false → decodeCause s c (p.1 f) = none →
    (∀ e ∈ w.rob, e.feeds c.lanes (p.1 f) = false) → (s.core w.gcore).extQueue.contains s.cur.wid = false →
    ∃ t, exec (p.1 f) s = .next t ∧
      WentOn s c (entryOf s c (p.1 f) (c.active.lanes.map (fun l => (l, .done (dst32 f.dst (sum l)) none))) .nothing) t)

/-- R206, R211, R227, R286, R302, R304, R306, R319, R341, R353, R374, R376, R384: the events that give outcomes to the lanes of a waiting
entry, and the completion of a barrier's phase, or its breaking. A phase that completes is the next one, and further ones complete only while
arrivals that were held make them ready. That WATCHDOG lets retire first what can retire is log entry 34 (DEDUCED), and when a POD barrier
breaks here log entry 36 (DESIGN CHOICE). -/
def Obligations.WaitOutcomeEvents : Prop :=
  ∀ (s : State) (wid lane : Nat) (e : Entry) (f : Fields),
    let w := s.warp wid
    let ctx := s.entryCtx wid e
    let without := fun (l : Nat) => { s with mem := { s.mem with
      feQueue := s.mem.feQueue.filter (fun x => !(x.wid == wid && x.lane == l)) } }
    (s.head? wid = some e →
      (e.wait = .loadData → e.instr = .ld f → e.moved = true → s.late = [] → owedWhere s (owesTo wid s) = [] →
        let r := loadLanes ctx (s.atEntry wid 0 e) f
        sureResult r = true → exec (.loadDataReturn wid) s = .next
          { (r.s.setHead wid { e with outs := r.outs, flags := r.flags, wait := .nothing }).leaveExtQueue wid with cur := s.cur }) ∧
      (e.moved = false →
        (e.wait = .byteCount → e.instr = .bcwait f →
          let p := bcwaitLanes ctx f { s } e.undecided
          p.consumed = none → exec (.bcwaitReturn wid) s = .next (p.s.setHead wid (e.decide p.outs))) ∧
        (∀ r, s.mem.feQueue.find? (fun x => x.wid == wid && x.lane == lane) = some r → waitsFull lane e = true → w.feLimit ≠ 0 →
          r.since + w.feLimit.toNat ≤ s.gt →
          exec (.feTimeout wid lane) s = .next ((without lane).setHead wid (e.decide [(lane, .trap 0x0B 0 0)]))) ∧
        (∀ (r : FeRequest) (g : Nat), s.mem.feQueue.find? (fun x => x.granule == g) = some r → r.wid = wid →
          waitsFull r.lane e = true → e.instr = .ldfe f → s.isFull (16 * g) = true →
          let x := serveFull (without r.lane) wid f (16 * g + (w.addr r.lane f).toNat % 16)
          x.2.2 = false → exec (.ldfeServe g) s = .next (x.1.setHead wid (e.decide [(r.lane, .done x.2.1 none)]))) ∧
        (∀ rest, s.waiters (fun x v => x.wait == .kickQueue && kickEngine x.instr v == kickEngine e.instr w) = wid :: rest →
          e.wait = .kickQueue → e.instr.fields = some f →
          let r := (s.atEntry wid 0 e).kickLanes (kickEngine e.instr w) wid e.pc (fun l => w.addr l f)
            (fun l => (w.src32 l f.sb 0).toNat) e.undecided
          exec (.kickQueueFree (kickEngine e.instr w)) s = .next (State.setHead { r.1 with cur := s.cur } wid (e.decide r.2)))) ∧
      (∀ (addr : DWord) (rest : List Nat), s.loft.pcmd.length < 16 → s.waiters waitsForPcmd = wid :: rest → e.wait = .pcmd addr →
        exec .pcmdQueueFree s = .next (State.setHead { s with loft := { s.loft with pcmd := s.loft.pcmd ++ [{ addr }] } } wid
          { e with wait := .nothing }))) ∧
    (∀ silo,
      let q := serveGleaner s silo
      (q.waiters (waitsForSilo q silo) = [] → exec (.gleanerQueueFree silo) s = .next q) ∧
      (q.waiters (waitsForSilo q silo) = [wid] → q.head? wid = some e → e.moved = false → waitsForSilo q silo e (q.warp wid) = true →
        e.instr.fields = some f →
        let p := placeLanes (q.entryCtx wid e) e.instr f { s := q } e.undecided
        exec (.gleanerQueueFree silo) s = .next (p.s.setHead wid (e.decide p.outs)))) ∧
    ((w.lane lane).status = .parked → w.onCore = true →
      let lanes := parkedWith s wid lane
      (∀ b, s.completeWalk w.gcore w.tenant ((w.lane lane).parkAddr.toNat % 2 ^ 56) = .handed b →
        exec (.translationWalk wid lane) s = .next ((b.updWarp wid (fun w => lanes.foldl (fun w l => w.updLane l (fun x =>
          { x with status := .running, tag := none, starve := 0 })) w)).settleParked wid)) ∧
      (s.completeWalk w.gcore w.tenant ((w.lane lane).parkAddr.toNat % 2 ^ 56) = .noMapping →
        exec (.translationWalk wid lane) s = .next (unparkTrap s wid lanes 0x07)) ∧
      (s.completeWalk w.gcore w.tenant ((w.lane lane).parkAddr.toNat % 2 ^ 56) = .permission →
        exec (.translationWalk wid lane) s = .next (unparkTrap s wid lanes 0x08))) ∧
    (let t := s.settleBuffer wid (w.rob.length + 1);
      let x := s.tenant w.tenant
      let limit := if x.limitFrom ≤ s.gt then x.wdoglim else x.limitBefore
      exec (.watchdog wid) s = .next
        (if w.onCore = true ∧ limit ≠ 0 ∧ w.parkedSince = none ∧ struckLanes w ≠ [] ∧ w.hangBase + limit ≤ s.gt then
          (if hung t (t.warp wid) = true then strike t wid 0 else t)
        else s) ∧
      (w.rob = [] → t = s)) ∧
    (∀ bar x, s.barrier? bar = some x →
      exec (.barrierPhaseComplete bar) s = .next (if podBroken s x then s.breakBarrier x else s.completePhase bar) ∧
      (podBroken s x = false → s.phaseReady x = true →
        let entries := (s.members x).foldl (fun m wid => max m (s.warp wid).rob.length) 0
        let one := s.completePhases bar 1
        ∃ t y z n, exec (.barrierPhaseComplete bar) s = .next t ∧ t.barrier? bar = some y ∧ one.barrier? bar = some z ∧
          z.phase = (x.phase + 1) % 2 ^ 16 ∧ 1 ≤ n ∧ n ≤ entries + 3 ∧ y.phase = (x.phase + n) % 2 ^ 16 ∧
          (one.phaseReady z = false → n = 1 ∧ t = one)))

/-! ## Events: placement, pre-emption, time -/

/-- R19, R207, R265 to R268, R273, R305, R308, R363: the host's enqueues, placement, stage launches, the end of a clearing, and lost
contexts. ENQGT of a stage's gang is log entry 24, GRIDID 0 of a refused record log entry 50 and what a target keeps log entry 54: the model's
choices. -/
def Obligations.PlacementEvents : Prop :=
  ∀ (s : State) (queue quad base g : Nat),
    (∀ p ∈ ([Instr.launchRecordEnqueue, Instr.pipelineDescriptor] : List (BitVec 2048 → Instr)), ∀ r,
      let x := acceptRecord s .supervisor r
      exec (p r) s = .next (x.1.answer (.launch x.2.1 x.2.2)) ∧
      (Rec.kind r ≠ 1 → gridStatus s .supervisor r = 0 → queueEntries s (Rec.tenant r) (Rec.prio r) < 64 →
        x.2.1 = 0 ∧ (x.1.grid x.2.2).record = r ∧
        x.1.queue (4 * Rec.tenant r + Rec.prio r) = s.queue (4 * Rec.tenant r + Rec.prio r) ++ [x.2.2]) ∧
      (Rec.kind r ≠ 1 → gridStatus s .supervisor r ≠ 0 →
        x.2 = (gridStatus s .supervisor r, 0) ∧ (x.1.grid 0).state = .refused ∧ (x.1.grid 0).reason = gridStatus s .supervisor r)) ∧
    (let o := s.openPods;
      o.placingGrid queue = some g → o.servedNow queue = true → o.mayPlace g = true →
      (∀ gang b, o.placedWhole g = false → o.gangFits g quad base = true → o.takeGang g = some (gang, b) →
        exec (.gangPlacement queue quad base) s = .next ((b.addGang g gang quad base none).settlePlacement g)) ∧
      (∀ places, o.placedWhole g = true → places.length = (gangsToPlace (o.grid g)).length →
        places.all (fun p => baseAllowed (Rec.g (o.grid g).record) p.2 && (o.workQuads g).contains p.1) = true →
        let wait := State.updGrid { o with loft := { o.loft with targets := keepTarget o.loft.targets (o.targetOf g places) } } g
          (fun x => { x with state := .placing })
        exec (.coresidentPlacement queue places) s = .next (match placeWhole wait g places with
          | some b => b.settlePlacement g
          | none => wait))) ∧
    (∀ (pipe stage : Nat) (st : Stage), (s.pipeline pipe).stages[stage]? = some st → st.ended = false → st.items ≠ [] →
      (∀ nx, (s.pipeline pipe).stages[stage + 1]? = some nx → st.outmax ≤ outputRoom s pipe (stage + 1) nx) →
      s.loft.grids.find? (fun (e : Nat × Grid) =>
        e.2.pipe == some pipe && e.2.stage == stage && !e.2.relaunch.isEmpty && e.2.state != .retired) = none →
      let t := (s.pipeline pipe).tenant
      let x := retain s { record := st.record, enqgt := s.gt, gen := (s.tenant t).gen, tenant := t, pipe := some pipe, stage }
      x.1.mayPlace x.2 = true → x.1.gangFits x.2 quad base = true →
        exec (.stageLaunch pipe stage quad base) s = .next (launchStage x.1 pipe stage x.2 quad base st)) ∧
    (∀ (col unit n : Nat), s.loft.clearing.find? (fun c => c.1 == col && c.2.1 == unit) = some (col, unit, n) →
      let p := (scratchLoc col unit 0).phys
      ∃ t, exec (.allocationClearDone col unit) s = .next t ∧ t.loft.clearing = s.loft.clearing.filter (· != (col, unit, n)) ∧
        ∀ a, if p ≤ a ∧ a < p + 4096 * n then t.byteAt a = 0 else t.byteAt a = s.byteAt a) ∧
    (∀ wid, isSaved (s.warp wid) = true →
      let gang := s.gangOf (s.warp wid).grid (s.warp wid).block
      exec (.saveBoundExpiry wid) s = .next ((s.killGang (s.warp wid).grid gang 2 0).afterKill (s.warp wid).grid [gang]) ∧
      (s.restorable (s.restoreSet wid) = true → s.loft.mode = none →
        exec (.contextRestore wid) s = .next ((s.restoreSet wid).foldl (fun s x => s.restoreWarp x) s))) ∧
    (∀ die, exec (.fatalDieError die) s = .next (killDie s die) ∧
      ((∀ b ∈ s.loft.blocks, b.alive = true → dieOf b.gcore ≠ die) → killDie s die = s))

/-- R24, R100, R276 to R280, R387, R424: an issue opportunity, a period's end, spent tokens, and what makes room for waiting work. A
core counts 3.6 cycles in a ns, and none while its island recalibrates; a core without warps only counts. How cycles and GT go on together is
log entry 2 (DESIGN CHOICE), one quad for each SLICE_END log entry 53 (DEDUCED), and the count of evictions in warps log entry 103 (DESIGN
CHOICE). -/
def Obligations.ScheduleEvents : Prop :=
  ∀ (s : State) (core queue g tenant : Nat) (x : State),
    let wids := s.warpsWhere (fun w => w.onCore && w.gcore == core)
    let gone := max 1 ((s.gt - (s.core core).since) * 36 / 10 - (s.core core).spent)
    (clockHeld s core = true → exec (.issueOpportunity core) s = .next (s.advanceTo (s.gt + 1))) ∧
    (clockHeld s core = false → wids = [] → exec (.issueOpportunity core) s = .next
      ((s.advanceTo ((s.core core).since + ((s.core core).spent + gone) * 10 / 36)).updCore core
        (fun c => { c with cycles := c.cycles + gone, spent := c.spent + gone }))) ∧
    (clockHeld s core = false → fetchWarps (wids.foldl settleWsync s) wids = (x, none) →
      let b := advanceCore x core (wids.filter (fun wid => (x.warp wid).onCore))
      let here := (wids.filter (fun wid => (x.warp wid).onCore)).filter (fun wid => (b.warp wid).onCore)
      let ready := here.filter (fun wid => !(b.readySplits wid).isEmpty)
      let counted := fun (chosen : Nat → Bool) => here.foldl (fun s wid => s.updWarp wid (fun w => { w with
        yieldWarp := false
        waitCount := if chosen wid then 0 else if ready.contains wid then w.waitCount + 1 else w.waitCount })) b
      (chooseWarp b ready = none → exec (.issueOpportunity core) s = .next (counted (fun _ => false))) ∧
      (∀ wid, chooseWarp b ready = some wid →
        exec (.issueOpportunity core) s = .next (fillSlots (counted (fun y => wid == y)) core wid))) ∧
    (s.advanceTo (s.gt + 1)).gt = s.gt + 1 ∧
    (∃ t, exec .periodBoundary s = .next t ∧ t.loft.period = s.loft.period + 1 ∧ t.gt = max s.gt (10000 * (s.loft.period + 1)) ∧
      (s.loft.overdue = [] → s.loft.pipelines = [] → tenant < 16 →
        let b := s.charge (10000 * (s.loft.period + 1))
        t.budget tenant = State.renewBudget (b.tenant tenant).budget (b.budget tenant))) ∧
    ((s.budget tenant).tokens ≤ 0 → ∃ t, exec (.tokensReachZero tenant) s = .next t ∧
      t.budget tenant = { s.budget tenant with spent := true } ∧ t.holdsBudget tenant = false) ∧
    (wanting s queue = some (x, g) →
      (∀ u q, s.holdsBudget (queue / 4) = true → sliceTenant x g = some u → sliceQuad x g u = some q →
        exec (.sliceEnd queue) s = .next ((warpsOnQuad s u q).foldl (fun s wid => s.saveWarp wid) s)) ∧
      ((evictionCores x g).contains core = true → (∀ c ∈ evictionCores x g, (s.core core).evictions ≤ (s.core c).evictions) →
        let vs := setVictims x g (coreSet x g core)
        let wids := vs.flatMap (·.2)
        exec (.partialEviction core queue) s = .next (vs.foldl
          (fun s v => s.updCore v.1 (fun c => { c with evictions := c.evictions + v.2.length }))
          ((wids.map s.warp).foldl saveWholeGang (wids.foldl (fun s wid => s.saveWarp wid) s)))))

/-! ## Events: homes, gleaners, engines, columns -/

/-- R199, R200, R214, R216, R330 to R334, R338, R343: additions at their homes, sector fills, switches, and a column's resize, each
with what it leaves. An addend in scratch is added and gone; a due group is applied and its line's counter goes on; a mapped page frame
takes a sector of its backing; a frame whose horizon has passed is FREE and zero; a switch writes the entry, and what held the page
forwards; the gleaner's own moves begin; a write of SPLIT clears DONE where it writes 1 there, a write of the size in force does no more than
clear REFUSED and EVICTED, also while a resize runs (log entry 43, DEDUCED), and a resize is refused, complete at once, or busy until its
frames are FREE. -/
def Obligations.HomeEvents : Prop :=
  ∀ (s : State) (tenant vpn fid sector col : Nat) (m : Move),
    let fr := s.frame fid
    let here := (frameLoc fid 0).phys
    (∀ n a, s.mem.addends[n]? = some a → a.ticket = none →
      (∀ b, applyAddend { s with mem := { s.mem with addends := s.mem.addends.eraseIdx n } } a = some b →
        exec (.drainaAddition n) s = .next b) ∧
      (a.fid = none → a.loc.phys % 4 = 0 → eccClass (s.syndrome a.loc.phys) = .clean →
        let p := a.loc.phys
        let sum := (addVal .matrix (.ofBits .fp32 (leNat (s.rawBytes p 4))) (.ofBits .fp32 a.value.toNat)).1
        ∃ t, exec (.drainaAddition n) s = .next t ∧ t.mem.addends = s.mem.addends.eraseIdx n ∧
          t.rawBytes p 4 = leBytes 4 (roundVal .fp32 .matrix false sum).1 ∧
          ∀ x, (x < p ∨ p + 4 ≤ x) → t.byteAt x = s.byteAt x)) ∧
    (∀ line g, dueGroup s line = some g →
      let mine := fun (a : Addend) => a.ticket.isSome && a.group == g && addendLine s a == line
      let next := (Sparse.get 0 s.mem.tickets line + 1) % 2 ^ 16
      let b : State := { s with mem := { s.mem with
        addends := s.mem.addends.filter (fun a => !mine a), tickets := Sparse.set 0 s.mem.tickets line next } }
      (∀ a ∈ s.mem.addends, mine a = true → a.fid = none) →
      ∃ t, exec (.ordGroupApply line) s = .next t ∧ (s.mem.addends.filter mine).foldlM applyAddend b = some t ∧
        t.mem.addends = s.mem.addends.filter (fun a => !mine a) ∧ Sparse.get 0 t.mem.tickets line = next) ∧
    (sector < 64 → (fr.state = .mapped ∨ fr.state = .draining) → fr.role = .page → fr.valid.getLsbD sector = false →
      fr.backing % 64 = 0 → eccClass (s.syndrome (fr.backing + 64 * sector)) = .clean →
      eccClass (s.syndrome (fr.backing + 64 * sector + 32)) = .clean →
      (pkgOf fr.backing = s.net.pkg ∨ s.remoteWaits (fr.backing + 64 * sector) = false) →
      ∃ t, exec (.sectorFill fid sector) s = .next t ∧ t.frame fid = { fr with valid := fr.valid ||| State.sectorBit sector } ∧
        ∀ x, t.byteAt x = if here + 64 * sector ≤ x ∧ x < here + 64 * sector + 64 then s.byteAt (fr.backing + (x - here))
          else s.byteAt x) ∧
    (fr.state = .forwarding → fr.horizon ≤ s.gt → ∃ t, exec (.forwardingFree fid) s = .next t ∧ t.frame fid = {} ∧
      ∀ x, t.byteAt x = if here ≤ x ∧ x < here + 4096 then 0 else s.byteAt x) ∧
    (∀ a, s.moveOf tenant vpn = some m → s.entryKept m = some a → a + 8 ≤ 2 ^ 49 →
      (m.kind = .place → m.src.any s.linesHeld = false → ∀ dst rest, m.dst = dst :: rest →
        (m.src = none ∨ ∃ src, m.src = some src ∧ src ≠ dst) →
        ∃ t, exec (.moveSwitch tenant vpn) s = .next t ∧ t.moveOf tenant vpn = none ∧ (t.frame dst).state = .mapped ∧
          t.raw64 a = Leaf.withBit (Leaf.withTarget m.word0 1 dst) 8 false ∧
          (∀ src, m.src = some src → (t.frame src).state = .forwarding ∧ (t.frame src).fwd = dst ∧
            (t.frame src).horizon = s.horizon tenant vpn ∧ (t.frame src).published = false ∧
            ((s.frame src).role ≠ .remoteLine → t.frame src =
              { s.frame src with state := .forwarding, fwd := dst, horizon := s.horizon tenant vpn, published := false })) ∧
          (m.src = none → Leaf.kind m.word0 = 0 → ∃ x ∈ t.tables.forwards,
            x.page = m.word1.toNat / 4096 ∧ x.fid = dst ∧ x.horizon = s.horizon tenant vpn)) ∧
      (m.kind = .evict → ∀ src, m.src = some src → s.linesHeld src = false →
        ∃ t, exec (.evictionSwitch tenant vpn) s = .next t ∧ t.moveOf tenant vpn = none ∧
          (t.frame src).state = .forwarding ∧ (t.frame src).fwd = 0x1FFFFF ∧ (t.frame src).dirty = 0 ∧
          (t.frame src).horizon = s.horizon tenant vpn ∧
          t.raw64 a = Leaf.withBit (Leaf.withTarget m.word0 (if pkgOf m.word1.toNat = s.net.pkg then 0 else 3) 0) 8 false) ∧
      (m.kind = .replicate → ∀ n set, s.setOf tenant vpn = some (n, set) →
        ∃ t, exec (.replicaSwitch tenant vpn) s = .next t ∧ t.moveOf tenant vpn = none ∧
          (∀ f ∈ m.dst, (t.frame f).state = .mapped) ∧ t.raw64 a = Leaf.withBit (Leaf.withTarget m.word0 2 n) 8 false) ∧
      (m.kind = .collapse → m.horizon ≤ s.gt → ∀ master, m.src = some master →
        ∃ t, exec (.replicaCollapse tenant vpn) s = .next t ∧ t.moveOf tenant vpn = none ∧ t.setOf tenant vpn = none ∧
          (∀ f ∈ m.dst, t.frame f = {}) ∧ t.raw64 a = Leaf.withBit (Leaf.withTarget m.word0 1 master) 8 false)) ∧
    (∀ (a : Nat) (w0 w1 : DWord), s.leafOf tenant vpn = some (a, w0, w1) → s.moveOf tenant vpn = none →
      Leaf.mig w0 = false → Leaf.shd w0 = false → Leaf.pin w0 = false → Leaf.shr w0 = false →
      (Leaf.kind w0 = 0 → s.ownsColumn tenant col = true → s.ownsChannel tenant w1.toNat = true →
        s.framesOf tenant < (s.tenant tenant).frameq → s.forwardsOn w1.toNat < 64 → s.takeFrom [col] = some fid →
        ∃ t, exec (.gleanerPolicyMove tenant vpn (some col)) s = .next t ∧
          t.frame fid = { state := .filling, owner := tenant, vpn, backing := w1.toNat } ∧
          t.raw64 a = Leaf.withBit w0 8 true ∧ t.moveOf tenant vpn = some
            { kind := .place, tenant, vpn, word0 := Leaf.withBit w0 8 true, word1 := w1, src := none, dst := [fid] }) ∧
      (Leaf.kind w0 = 1 → s.backingHeld (s.frame (Leaf.target w0)).backing = false →
        ∃ t, exec (.gleanerPolicyMove tenant vpn none) s = .next t ∧
          t.frame (Leaf.target w0) = { s.frame (Leaf.target w0) with state := .draining } ∧
          t.raw64 a = Leaf.withBit w0 8 true ∧ t.moveOf tenant vpn = some
            { kind := .evict, tenant, vpn, word0 := Leaf.withBit w0 8 true, word1 := w1, src := some (Leaf.target w0), dst := [] })) ∧
    (∀ val : DWord,
      let c := if val.getLsbD 30 then { s.column col with done := false } else s.column col
      let new := (val.extractLsb' 0 4).toNat
      (new = c.scrmib → exec (.splitResize col val) s = .next (s.setColumn col { c with refused := false, evicted := 0 })) ∧
      (new ≠ c.scrmib → (new > 8 ∨ c.busy = true ∨ s.cutsBlock col new = true) →
        exec (.splitResize col val) s = .next (s.setColumn col { c with refused := true })) ∧
      (new < c.scrmib → new ≤ 8 → c.busy = false → s.cutsBlock col new = false →
        s.pinnedIn (State.grownFrames col c.scrmib new) = false → ∃ t, exec (.splitResize col val) s = .next t ∧
          t.column col = { c with scrmib := new, oldmib := c.scrmib, refused := false, done := true
                                  evicted := 256 * (c.scrmib - new) }) ∧
      (c.scrmib < new → new ≤ 8 → c.busy = false → s.cutsBlock col new = false →
        s.pinnedIn (State.grownFrames col c.scrmib new) = false → exec (.splitResize col val) s = .next (s.setColumn col
          { c with scrmib := new, oldmib := c.scrmib, refused := false, busy := true, evicted := 256 * (new - c.scrmib) }))) ∧
    (let c := s.column col
      let fids := State.grownFrames col c.oldmib c.scrmib
      (c.busy = false → exec (.resizeComplete col) s = .next s) ∧
      (c.busy = true → (∀ f ∈ fids, (s.frame f).state = .free) → ∃ t, exec (.resizeComplete col) s = .next t ∧
        t.column col = { c with busy := false, done := true } ∧ ∀ f ∈ fids, t.frame f = {}) ∧
      (c.busy = true → (∃ f ∈ fids, (s.frame f).state ≠ .free) →
        exec (.resizeComplete col) s = .next (fids.foldl (fun s f => s.vacate f) s)))

/-- R214, R287, R288, R291, R318, R398: a write of SPLIT clears DONE where it writes 1 there. One that asks for the size in force changes
nothing else but REFUSED and EVICTED, also while a resize runs (log entry 43, DEDUCED); of the others a size above 8 MiB, and any during a
resize, is refused, and a smaller size is in force at once. Copy engines, and the register
writes whose events the table lists apart. -/
def Obligations.SplitAndEngineEvents : Prop :=
  (∀ (s : State) (col : Nat) (val : DWord),
    let c := if val.getLsbD 30 then { s.column col with done := false } else s.column col
    let new := (val.extractLsb' 0 4).toNat
    (new = c.scrmib → s.splitWrite col val = s.setColumn col { c with refused := false, evicted := 0 }) ∧
    (new ≠ c.scrmib → (new > 8 ∨ c.busy = true) → s.splitWrite col val = s.setColumn col { c with refused := true }) ∧
    (new < c.scrmib → new ≤ 8 → c.busy = false → s.cutsBlock col new = false → ((s.splitWrite col val).column col).scrmib = new ∧
      ((s.splitWrite col val).column col).busy = false ∧ ((s.splitWrite col val).column col).done = true)) ∧
  (∀ (s : State) (core die engine serial dir : Nat) (val : DWord) (r : Request),
    let z : State := { s with cur := {} }
    (core < 384 → exec (.wainRequest core 0) s = .next (z.fetchRequest core)) ∧
    (die < 8 → engine < 8 → (s.engine (384 + 8 * die + engine)).progress.find? (fun r => r.serial == 0) = none →
      exec (.dieEngineRequest die engine 0) s = .next (z.fetchRequest (384 + 8 * die + engine))) ∧
    (core < 384 → serial ≠ 0 → (s.engine core).progress.find? (fun r => r.serial == serial) = some r →
      (∀ b, r.checked = false → z.checkRequest r = .passed b →
        exec (.wainRequest core serial) s = .next
          (b.setRequest core { r with checked := true, todo := List.range r.pieces.length })) ∧
      (∀ b cause, r.checked = false → z.checkRequest r = .faulted b cause →
        exec (.wainRequest core serial) s = .next (b.faultRequest core r cause)) ∧
      (∀ b, r.checked = true → r.pos < r.total →
        (∀ x ∈ (s.engine core).progress, x.kick = r.kick → x.offset < r.offset → x.checked = true) →
        z.copyPiece core r = .passed b → exec (.wainRequest core serial) s = .next b) ∧
      (r.checked = true → r.total ≤ r.pos → r.pub = false →
        exec (.wainRequestComplete core serial) s = .next (s.leaveRequest core r 1))) ∧
    (∃ t, exec (.elastClear die val) s = .next t ∧
      (val.getLsbD 63 = true → (t.die die).elast = (s.die die).elast &&& ~~~(1#64 <<< 63)) ∧ (val.getLsbD 63 = false → t = s)) ∧
    (∃ t, exec (.lcfgWrite dir val) s = .next t ∧ (t.linkDir dir).trainmax = (val.extractLsb' 32 4).toNat ∧
      (t.linkDir dir).errth = (val.extractLsb' 0 32).toNat ∧
      (∀ e ∈ (t.linkDir dir).waves, e.2.state ≠ .failed) ∧ ∀ d, d ≠ dir → t.linkDir d = s.linkDir d))

/-! ## Events: firmware, identity, power, the host -/

/-- R9, R27, R47, R417 to R419, R428: a loft reset and a host reset boot from a bank that passes its check and leave the machine without
warps, work or memory, the channels that fail training left out of CHANS and told to the host; a wavelength that fails has a spare or is
FAILED, and a direction is DOWN only with all of its wavelengths in training; GT is that of the first switch within reach; a loss of power
leaves nothing running. Which channels and wavelengths fail, and the pod's time, are free values (log entries 15, 86). That a reset empties
memory is log entry 64 (DESIGN CHOICE), and that the banks outlast a loss of power log entry 65 (DEDUCED). -/
def Obligations.ResetAndPowerEvents : Prop :=
  ∀ (s : State) (island : Nat) (temp : BitVec 16),
    let active := if s.fw.activeB then s.fw.bankB else s.fw.bankA
    let failed := unitsOf 384 (Config.failedChannels s.freshCount)
    let booted := fun (t : State) =>
      t.warps = [] ∧ t.mem = { leftOut := failed } ∧ t.tables = {} ∧ t.loft.grids = [] ∧ t.loft.pcmd = [] ∧ t.loft.blocks = [] ∧
      t.fw.booted = true ∧ t.fw.powered = true ∧ t.fw.activeB = s.fw.activeB ∧
      t.gt = (([0, 64, 32, 16, 8, 4, 2, 1].filter (fun k => !(t.linkDown (2 * k) && t.linkDown (2 * k + 1)))).findSome?
        (Config.podTime s.freshCount)).getD 0 ∧ t.loft.period = t.gt / 10000 ∧ (∀ c, (t.core c).tcache = []) ∧
      (∀ c < 384, (t.partition 0).chans.getLsbD c = ((State.reset.partition 0).chans.getLsbD c && !failed.contains c)) ∧
      t.fw.svnFloor = max s.fw.svnFloor (headerWord active.header 8) ∧
      (∃ l, t.fw.notifications = s.fw.notifications ++ failed.map (fun c => (0x0A, c)) ++ l ++ [(0x0B, 0)] ∧
        ∀ n ∈ l, n.1 = 3 ∨ n.1 = 4) ∧
      (∀ d w, (d, w) ∉ Config.failedWaves s.freshCount → (t.linkDir d).down = false → (t.wave d w).state = .active) ∧
      (∀ d, (t.linkDir d).down = true → ∀ w < 8, (t.wave d w).state = .training)
    let dark := fun (t : State) =>
      t.warps = [] ∧ t.mem = {} ∧ t.fw.powered = false ∧ t.fw.booted = false ∧ t.net.hostUp = false ∧ t.fw.bankA = s.fw.bankA ∧
      t.fw.bankB = s.fw.bankB ∧ t.fw.svnFloor = s.fw.svnFloor
    (bootable s.fw.svnFloor active = true →
      (∃ t, exec .loftReset s = .next t ∧ booted t) ∧ (s.fw.powered = true → ∃ t, exec .hostReset s = .next t ∧ booted t)) ∧
    (∃ t, exec .powerLoss s = .next t ∧ dark t) ∧
    (125 * 16 ≤ temp.toInt → ∃ t, exec (.thermalShutdown island temp) s = .next t ∧ dark t ∧
      t.fw.notifications = s.fw.notifications ++ [(0x0D, island)])

/-- R418, R420 to R422, R425: QUOTE, CERT, EXTEND, UPDATE, ACTIVATE and LOAD while they are allowed; any other time the host is
told BUSY. An ACTIVATE waits for the partition command in progress, and until then no UPDATE is taken. -/
def Obligations.HostCommandEvents : Prop :=
  ∀ (s : State) (nonce : BitVec 256) (digest : BitVec 384) (header : BitVec 2048) (image : List Byte),
    let ready := s.fw.powered = true ∧ s.fw.booted = true ∧ s.fw.recovery = false
    let inactive := if s.fw.activeB then s.fw.bankA else s.fw.bankB
    let written := bankOf s.fw.svnFloor header image
    let meas := fun (s : State) (n : Nat) => Sparse.get 0 s.fw.meas n
    (ready →
      (∃ t q, exec (.quote nonce) s = .next t ∧ t = s.answer (.quote q) ∧ q.length = 528 ∧
        (∀ n < 8, (q.drop (48 * n)).take 48 = leBytes 48 (meas s n).toNat) ∧ (q.drop 384).take 32 = leBytes 32 nonce.toNat) ∧
      exec .cert s = .next (s.answer (.chain Config.certificateChain)) ∧
      (∃ t, exec (.extend digest) s = .next t ∧
        meas t 7 = sha384 (leBytes 48 (meas s 7).toNat ++ leBytes 48 digest.toNat) ∧
        (∀ n, n ≠ 7 → meas t n = meas s n) ∧ t.fw.results = s.fw.results ++ [.ok]) ∧
      ((s.fw.activateWaits ≠ 0 ∨ s.fw.activating ≠ none) → exec (.update header image) s = .next (s.answer .busy)) ∧
      (inactive.valid = true → s.loft.pcmd ≠ [] → exec .activate s = .next
        (State.answer { s with fw := { s.fw with activateWaits := s.fw.activateWaits + 1 } } .ok)) ∧
      (inactive.valid = false → exec .activate s = .next (s.answer .busy)) ∧
      (s.fw.activateWaits = 0 → s.fw.activating = none →
        (∃ t, exec (.update header image) s = .next t ∧ t.fw.results = s.fw.results ++ [.ok] ∧
          (if s.fw.activeB then t.fw.bankA = written ∧ t.fw.bankB = s.fw.bankB
            else t.fw.bankB = written ∧ t.fw.bankA = s.fw.bankA)) ∧
        (inactive.valid = true → s.loft.pcmd = [] → ∃ t, exec .activate s = .next t ∧ t.fw.activeB = !s.fw.activeB ∧
          t.fw.activating = some s.gt ∧ t.fw.results = s.fw.results ++ [.ok] ∧ t.fw.nextDie = 0 ∧ t.fw.reached = false)) ∧
      exec (.load header image) s = .next (s.answer .busy)) ∧
    (s.fw.powered = true → s.fw.booted = false →
      exec (.quote nonce) s = .next (s.answer .busy) ∧ exec .cert s = .next (s.answer .busy) ∧
      exec (.extend digest) s = .next (s.answer .busy)) ∧
    (s.fw.powered = true → s.fw.recovery = true → ∃ t, exec (.load header image) s = .next t ∧
      (if firmwareOk s.fw.svnFloor header image then t.fw.booted = true ∧ t.fw.activeB = false ∧ t.fw.bankA = written else t = s))

/-- R8, R280, R317, R412, R422 to R424, R428: re-admission of a die, in two events, the activation's time limit, islands, the host's link and
accesses, and the end of an injection. What shows the ready point of an activation is log entry 61, the registers of a die after its reset
log entry 62, and what the host reaches log entry 66 (all DEDUCED). -/
def Obligations.PackageEvents : Prop :=
  ∀ (s : State) (die island ns lanes addr n dir wave t0 : Nat) (temp : BitVec 16) (bytes : List Byte),
    let monitor := fun (s : State) => islandMonitor s island
    let w := s.wave dir wave
    (s.ready = true → die < 8 → s.fw.readmitting = none →
      (s.fw.activating = none ∨ s.fw.activating = some t0 ∧ die = s.fw.nextDie ∧ (s.fw.reached = true ∨ s.gt < t0 + 100000000)) →
      s.warps = [] → exec (.dieReadmission die []) s = .next (
        let b : State := { s with fw := { s.fw with readmitting := some (die, []) } }
        if s.fw.activating.isSome && !s.fw.reached then State.notify { b with fw := { b.fw with reached := true } } 0x0E 0 else b)) ∧
    (s.ready = true → die < 8 → s.fw.readmitting = some (die, []) → s.fw.activating = none → s.loft.blocks = [] →
      ∃ t, exec (.dieReadmission die []) s = .next t ∧ t.fw.notifications = s.fw.notifications ++ [(0x0F, die)] ∧
        t.fw.readmitting = none ∧ t.fw.extensions = s.fw.extensions + 1 ∧ (∀ n, t.partition n = s.partition n) ∧
        ∀ c, dieOf c = die → t.core c = { wain := (s.core c).wain, since := s.runsFrom c, evictions := (s.core c).evictions }) ∧
    (s.fw.activating = some t0 → t0 + 100000000 ≤ s.gt → s.fw.reached = false → s.fw.activateWaits = 0 →
      ∃ t, exec .activateTimeout s = .next t ∧ t.fw.activeB = !s.fw.activeB ∧ t.fw.activating = none ∧
      (if s.fw.activeB then t.fw.bankB.valid else t.fw.bankA.valid) = false ∧
      t.fw.notifications = s.fw.notifications ++ [(0x0E, 0)]) ∧
    (ns ≤ 20000 → island < 64 → (∀ e ∈ s.fw.recalibrating, e.2 ≤ s.gt) →
      ∃ t, exec (.islandRecalibration island ns) s = .next t ∧ t.fw.recalibrating = [(island, s.gt + ns)] ∧
        (∀ c, islandOf c = island → clockHeld t c = decide (0 < ns) ∧ (c < 384 → (t.core c).since = s.gt + ns)) ∧
        (Sparse.canonical {} s.warps = true → ∀ x ∈ s.warps, x.2.lanes ≠ [] → (t.warp x.1).hangBase = x.2.hangBase +
          if x.2.onCore ∧ islandOf x.2.gcore = island ∧ x.2.parkedSince = none then ns else 0)) ∧
    (island < 64 → 110 * 16 ≤ temp.toInt → temp.toInt < 125 * 16 → 100 ≤ ((monitor s).extractLsb' 32 16).toNat →
      ∃ t, exec (.thermalThrottle island temp) s = .next t ∧ (monitor t).extractLsb' 0 16 = temp ∧
        let last := Sparse.get none s.fw.throttled island
        let step := ∀ x, last = some x → x + 10000 ≤ s.gt
        (step → ((monitor t).extractLsb' 32 16).toNat = ((monitor s).extractLsb' 32 16).toNat - 100 ∧
          Sparse.get none t.fw.throttled island = some s.gt) ∧
        (¬ step → (monitor t).extractLsb' 32 16 = (monitor s).extractLsb' 32 16 ∧ Sparse.get none t.fw.throttled island = last) ∧
        t.fw.notifications = s.fw.notifications ++ if last = none then [(0x0C, island)] else []) ∧
    (8 ≤ lanes → lanes < 16 → 8 ≤ s.net.lanes →
      exec (.hostLaneFailure lanes) s = .next { s with net := { s.net with lanes := 8 } }) ∧
    (hostReach s addr n = true → let r := s.readAt 0 0 (.hbm addr) n
      exec (.cxlMemRead addr n) s = .next (r.1.answer (.read addr r.2.1 r.2.2))) ∧
    (hostReach s addr bytes.length = true →
      exec (.cxlMemWrite addr bytes) s = .next (s.writeAt 0 0 (.hbm addr) bytes)) ∧
    (w.until_ ≠ 0 → w.until_ ≤ s.gt → ∃ t, exec (.injectionDurationEnd dir wave) s = .next t ∧
      t.wave dir wave = ({ w with checked := s.gt } : Wave).ended w.until_ s.gt ∧
      (t.linkDir dir).feccor = (s.linkDir dir).feccor + BitVec.ofNat 64 (s.correctedOn dir wave))

/-! ## Events: links and coherence -/

/-- R394, R396 to R399, R401: received flits, check intervals, withdrawal, training, hand-back, and loss of lock. Two RESTORE_MSGs of a
wavelength are log entry 70 (DEDUCED), the failure that takes a direction DOWN log entry 76 (DEDUCED), and the flit that a receiver takes after
it comes up log entry 107 (DEDUCED). -/
def Obligations.LinkEvents : Prop :=
  ∀ (s : State) (dir wave errors : Nat) (lost : BitVec 8) (bytes : List Byte),
    let x := s.linkDir dir
    let v := s.wave dir wave
    let e := s.intervalErrors dir wave errors v.since
    let tested := s.intervalErrors dir wave errors 0
    let n := resentFlits s dir
    let others := ((List.range 8).filter (fun w => w != wave &&
      ((s.wave dir w).state == .active || (s.wave dir w).state == .restoring))).length
    (dir < 512 → x.down = false →
      (crcOk bytes = true → (parseFlit bytes).type ≠ 0 → ((parseFlit bytes).seq = x.expected ∨ x.resync = true) →
        exec (.flitReceive dir bytes) s = .next (s.setLinkDir dir { x with
          expected := ((parseFlit bytes).seq + 1) % 4096, failedReplays := 0, resync := false })) ∧
      (crcOk bytes = true → ((parseFlit bytes).type = 0 ∨ ((parseFlit bytes).seq ≠ x.expected ∧ x.resync = false)) →
        exec (.flitReceive dir bytes) s = .next s) ∧
      (crcOk bytes = false → x.failedReplays < 8 → ∃ t, exec (.flitReceive dir bytes) s = .next t ∧
        t.linkDir dir = { x with crcerr := x.crcerr + 1, replays := x.replays + BitVec.ofNat 64 n
                                 failedReplays := x.failedReplays + 1, lost := x.lost + BitVec.ofNat 64 n
                                 redLost := if s.activeWaves dir < 8 then x.redLost + BitVec.ofNat 64 n else x.redLost }) ∧
      (crcOk bytes = false → 8 ≤ x.failedReplays →
        ∃ t, exec (.flitReceive dir bytes) s = .next t ∧ (t.linkDir dir).down = true)) ∧
    (dir < 512 → wave < 8 → v.state = .active → (s.linkDir dir).down = false →
      ∃ t, exec (.checkIntervalEnd dir wave errors) s = .next t ∧
        (t.linkDir dir).feccor = (s.linkDir dir).feccor + BitVec.ofNat 64 errors +
          (if e * 2 ^ 12 > (s.linkDir dir).errth ∧ 4 ≤ others then BitVec.ofNat 64 (s.correctedOn dir wave) else 0) ∧
        (t.wave dir wave).state = if e * 2 ^ 12 > (s.linkDir dir).errth ∧ 4 ≤ others then .withdrawing else .active) ∧
    (v.state = .withdrawing → ∃ t, exec (.withdrawMsg dir wave) s = .next t ∧
      t.wave dir wave = { v with state := .training, attempts := 0, checked := s.gt }) ∧
    (dir < 512 → wave < 8 → v.state = .training → tested * 2 ^ 14 ≤ (s.linkDir dir).errth →
      ∃ t, exec (.trainingAttemptEnd dir wave errors) s = .next t ∧
        t.wave dir wave = { v with state := .ready, checked := s.gt }) ∧
    (v.state = .ready → ∃ t, exec (.restoreMsg dir wave) s = .next t ∧
      t.wave dir wave = { v with state := .restoring, checked := s.gt
                                 boundary := if dir % 2 = 1 then none else some (((s.linkDir dir).seq + 1) % 4096) }) ∧
    (v.state = .restoring → ∃ t, exec (.restoreMsg dir wave) s = .next t ∧ (t.wave dir wave).state = .active ∧
      (t.linkDir dir).restored = (s.linkDir dir).restored + 1) ∧
    (dir < 512 → 5 ≤ ((List.range 8).filter (fun i => lost.getLsbD i)).length → (s.linkDir dir).down = false →
      ∃ t, exec (.lossOfLock dir lost) s = .next t ∧ (t.linkDir dir).down = true ∧
        (t.linkDir dir).downevt = (s.linkDir dir).downevt + 1 ∧ ∀ w < 8, (t.wave dir w).state = .training)

/-- R403, R405: what other packages ask of the lines that this package homes or holds. -/
def Obligations.CoherenceEvents : Prop :=
  ∀ (s : State) (line pkg tag : Nat) (keep : Bool) (bytes : List (Nat × Byte)) (e : DirEntry) (r : DirRequest),
    let home := pkgOf (256 * line)
    let quiet := s.net.requests = [] ∧ switchHolds s line = false ∧ s.rangeUncached (256 * line) = false ∧
      ∀ x ∈ s.tables.shadows, x.copy = false
    let other := pkg < 512 ∧ pkg ≠ s.net.pkg
    (quiet → other → pkg ≠ home → needsUs s { kind := .rds, line, pkg } = false →
      ∃ t, exec (.rds line pkg) s = .next t ∧ ∃ x, t.dirEntry? line = some x ∧ (pkg ∈ x.holders ∨ x.owner = pkg)) ∧
    (quiet → other → pkg ≠ home → needsUs s { kind := .rdx, line, pkg } = false →
      ∃ t, exec (.rdx line pkg) s = .next t ∧ t.isExported line = true ∧
        ∃ used, t.dirEntry? line = some { line, state := .modified, owner := pkg, holders := [pkg], used }) ∧
    (quiet → home ≠ s.net.pkg → needsUs s { kind := .homeRead, line, pkg := home } = false →
      ∃ t, exec (.homeRead line) s = .next t ∧ ∀ x, t.dirEntry? line = some x → x.state ≠ .modified) ∧
    (other → s.net.applied.contains (pkg, tag) = true → exec (.homeWrite line pkg tag bytes) s = .next s) ∧
    (other → s.net.applied.contains (pkg, tag) = false →
      ∃ t, exec (.homeWrite line pkg tag bytes) s = .next t ∧ (pkg, tag) ∈ t.net.applied ∧
        (quiet → needsUs s { kind := .homeWrite, line, pkg, bytes } = false → t.dirEntry? line = none)) ∧
    (other → pkg ≠ home → s.dirEntry? line = some e → e.owner = pkg → (e.state = .owned ∨ e.state = .modified) →
      s.net.applied.contains (pkg, tag) = false → exec (.wb line pkg tag keep bytes) s = .next
        ((writeHome { s with net := { s.net with applied := s.net.applied ++ [(pkg, tag)] } } line bytes).dirWriteBack
          line pkg keep)) ∧
    (other → pkg ≠ home → exec (.ev line pkg) s = .next (s.dirDrop line pkg)) ∧
    (s.net.requests = [r] → r.line = line → switchHolds s line = false →
      let b := resolveRequest s r
      let done := fun (i : Instr) => b.net.requests = [r] →
        exec i s = .next { b with net := { b.net with requests := [] } }
      (r.kind = .rds ∨ r.kind = .homeRead → done (.forwardedRequest line)) ∧
      (r.kind = .rdx ∨ r.kind = .homeWrite → done (.invalidation line))) ∧
    (s.dirEntry? line = some e → switchHolds s line = false → exec (.backInvalidation line) s =
      .next (serveLine ((s.preserveLine line).backInvalidate e) line (s.net.requests.length + 1)))

/-- R406, R407, R409: a switch's failure, resends, which go out on a link that leads to the line's switch, the two ends of a rebuild, and
port-down, which kills the gangs whose accesses wait, takes the package out of the switch's entries and drops its requests there. That PORTTO
counts again from the expiry is log entry 72 (DEDUCED). -/
def Obligations.SwitchEvents : Prop :=
  ∀ (s : State) (switch wid lane pkg : Nat) (r : Rebuild),
    (switch < 128 → s.switchFailed switch = false → ∃ t, exec (.switchFailure switch) s = .next t ∧
      t.net.swfail = s.net.swfail + 1 ∧ (t.net.rebuilds.any (fun x => x.failed == switch)) = true) ∧
    (∃ t, exec (.requestResend wid lane) s = .next t ∧ t.net.pendings.length = s.net.pendings.length ∧
      ∀ p ∈ s.net.pendings, p.wid = wid → p.lane = lane → p.since + 8000 * (p.resent + 1) ≤ s.gt →
        { p with resent := p.resent + 1 } ∈ t.net.pendings ∧
          (s.net.pendings.filter (fun p => p.wid == wid && p.lane == lane && p.since + 8000 * (p.resent + 1) ≤ s.gt) = [p] →
            ∀ link, s.routeOf (256 * p.line) = some link →
              (t.linkDir (2 * link)).seq = ((s.linkDir (2 * link)).seq + 1) % 4096)) ∧
    (s.rebuildOf switch = some r → r.phase = .hold → heardFrom s switch = true → entriesOf s switch = [] → s.net.requests = [] →
      exec (.rebuildHoldEnd switch []) s = .next (updRebuild (reportLines s switch []) switch (fun r =>
        { r with phase := .uncached, reported := 0 }))) ∧
    (s.rebuildOf switch = some r → r.phase = .uncached → r.written = [] → s.net.requests = [] →
      exec (.rebuildOpen switch) s = .next ((updRebuild s switch (fun r =>
        { r with phase := .open_, written := [] })).notify 0x09 (switch + 2 ^ 8 * r.reported))) ∧
    (Sparse.mem s.net.portdown switch = true → Sparse.get 0 s.net.portdown switch + s.net.portto ≤ s.gt →
      let waiting := s.net.pendings.filter (fun p => s.rangeHolder (rangeOf (256 * p.line)) == switch)
      let killed := (waiting.map (·.wid)).eraseDups.foldl (fun s wid =>
        if (s.warp wid).isMember && Sparse.mem s.warps wid then s.consume (s.warp wid).grid (s.warp wid).block 0 else s) s
      (waiting = [] → killed = s) ∧ exec (.portDownExpiry { switch, pkg := s.net.pkg }) s = .next (
        let b := forgetPackage killed switch killed.net.pkg
        State.notify { b with net := { b.net with
          pendings := b.net.pendings.filter (fun p => !waiting.contains p)
          portdown := Sparse.insert switch b.gt (Sparse.del b.net.portdown switch)
          expired := b.net.expired.filter (· != switch) ++ [switch] } } 0x07 switch)) ∧
    (switch < 128 → pkg < 512 → pkg ≠ s.net.pkg →
      exec (.portDownExpiry { switch, pkg }) s = .next (serveSwitch (dropRequests (forgetPackage s switch pkg) switch pkg) switch))

/-! ## Partition commands -/

/-- R353 to R356: a command at the head of the queue whose block and payload can be read is performed by its operation, and keeps both as they
were read; its result
fields are written, it leaves the queue, and PSTAT counts it; it stays at the head while it waits, and is dropped with LAST 1 where
its image has an uncorrectable word. What READPART gives is the entry, and SETTEN makes an entry of a payload within its limits. -/
def Obligations.PartitionCommands : Prop :=
  (∀ p ∈ ([(Instr.readpart, 1), (Instr.readten, 2), (Instr.setten, 3), (Instr.mode, 4), (Instr.tenantReset, 5),
      (Instr.segment, 6), (Instr.save, 7), (Instr.restore, 8)] : List (Instr × Nat)),
    ∀ (s s1 s2 b : State) (c : Command) (rest : List Command) (bs payload : List Byte) (status d : Nat),
      s.loft.pcmd = c :: rest → c.taken = none → s.fw.activating = none → s.loft.mode = none → commandRead s c.addr.toNat [64] = some (s1, bs, false) →
      commandOk (parseCommand bs) = true → (parseCommand bs).op = p.2 →
      commandRead s1 (parseCommand bs).data (payloadPieces (parseCommand bs)) = some (s2, payload, false) →
      let kept := keepTaken s2 bs payload
      (runCommand kept (parseCommand bs) payload = (b, .done status d) →
        exec p.1 s = .next (endCommand (writeResult b c.addr.toNat status d) status)) ∧
      (runCommand kept (parseCommand bs) payload = (b, .waits) → exec p.1 s = .next b) ∧
      (runCommand kept (parseCommand bs) payload = (b, .dropped) → exec p.1 s = .next (endCommand b 1)) ∧
      (∀ x : State, x.loft.pcmd = { c with taken := some (bs, payload) } :: rest → x.fw.activating = none → x.loft.mode = none →
        runCommand x (parseCommand bs) payload = (b, .done status d) →
        exec p.1 x = .next (endCommand (writeResult b c.addr.toNat status d) status)) ∧
      ∀ x : State, x.fw.activateWaits = 0 →
        (endCommand x status).loft.pcmd = x.loft.pcmd.drop 1 ∧ (endCommand x status).loft.pstatLast = status ∧
        (endCommand x status).loft.pstatSeq = (x.loft.pstatSeq + 1) % 2 ^ 16) ∧
  (∀ (s : State) (t n : Nat) (bs : List Byte) (p : Partition) (e : Tenant),
    (partitionBytes n p).length = 128 ∧ (tenantBytes e).length = 64 ∧
    (n < 16 → parsePartition (partitionBytes n p) = (n, true, p)) ∧
    (tenantFieldsOk bs = false → ∃ b, setTenantEntry s t bs = (b, .done Status.field 0) ∧ b.loft = s.loft) ∧
    (tenantFieldsOk bs = true → (s.tenant t).defined = true → bitOf (bytesAt bs 11 1) 0 = true →
      ∃ b, setTenantEntry s t bs = (b, .done Status.ok 0) ∧ (b.tenant t).ptroot = bytesAt bs 0 8 ∧
        (b.tenant t).budget = bytesAt bs 12 4 ∧ (b.tenant t).gen = (s.tenant t).gen ∧ (b.tenant t).wdoglim = (s.tenant t).wdoglim))

/-! ## The whole machine -/

/-- R33, R38, R53, R109: a fetch slot whose split still stands runs the instruction that its word, as it was fetched, decodes to, with the
entry set up; one that names an unretired entry runs that entry's. What accesses in flight owe to the core is performed before (log entry
5), which is nothing where nothing is owed; while it cannot be performed the slot is dropped. -/
def Obligations.StepRunsDecoded : Prop :=
  ∀ (s : State) (p : Pick) (rest : List Pick), s.chosen = p :: rest →
    let q := payBefore { s with chosen := rest } p.wid
    let w := q.warp p.wid
    (owing q p.wid = true → step s = .next (dropPick q p)) ∧
    (∀ i : Instr,
      let b := q.updWarp p.wid (fun w => { w with starting := false })
      owing q p.wid = false → p.place = none → pickStands w p = true → (w.starting = true → p.target = true) →
      decodeWord p.word = .ok i →
      step s = exec i { (takeLate b i) with cur := {
        wid := p.wid, pc := p.pc, lanes := p.lanes, word := p.word, late := leftInFlight b i, op := w.wissued.toNat } }) ∧
    (∀ (n : Nat) (e : Entry), owing q p.wid = false → p.place = some n → w.rob[n]? = some e → w.onCore = true → e.wait ≠ .nothing →
      step s = exec e.instr { q with cur := {
        wid := p.wid, pc := e.pc, lanes := e.lanes, word := e.word, place := some n, op := e.op } }) ∧
    ((∀ x ∈ s.warps, ∀ e ∈ x.2.rob, e.owed = none) → q = { s with chosen := rest } ∧ owing q p.wid = false) ∧
    (∀ (v : Warp) (wid : Nat) (x : Split) (bits : BitVec 512), v.line? x.pc = some bits →
      (pickOf v wid x).word = Line.slot bits (slotOf x.pc) ∧ (pickOf v wid x).target = Line.target bits (slotOf x.pc) ∧
      (pickOf v wid x).pc = x.pc ∧ (pickOf v wid x).lanes = x.lanes ∧ (pickOf v wid x).place = none)

/-- R24, R51, R53, R428: a fetched word that is no instruction traps ILLOP in every lane of the split; with no fetch slot filled the
next dated operation of the agenda takes place once its time has come, and without power nothing else does. The order of the
machine's own events is the model's (log entry 3). -/
def Obligations.StepOtherwise : Prop :=
  (∀ (s : State) (p : Pick) (rest : List Pick) (why : Reject),
    let w := s.warp p.wid
    let b : State := { s with chosen := rest }
    let c : Ctx := { wid := p.wid, w, pc := p.pc, lanes := p.lanes, active := p.lanes, word := p.word }
    s.chosen = p :: rest → p.place = none → (∀ x ∈ s.warps, ∀ e ∈ x.2.rob, e.owed = none) → pickStands w p = true → w.rob = [] →
    w.starting = false → w.parkedSince = none → decodeWord p.word = .error why → CanTrap w p.lanes →
    ∃ t, step s = .next t ∧ Trapped (b.updWarp p.wid (fun w => { w with starting := false })) c p.lanes 0x01 0 0 t) ∧
  (∀ (s : State) (e : Event) (rest : List Event),
    let happens := fun (i : Instr) (s : State) => let x := payAll s i; if mustWait x i then .next x else exec i x
    s.chosen = [] →
    (s.schedule = e :: rest → (e.time ≤ s.gt ∨ s.fw.powered = false) → e.op.fields = none →
      (s.fw.powered = true ∨ e.op = .loftReset) → step s = happens e.op { s with schedule := rest }) ∧
    (s.schedule = [] → s.fw.powered = false → step s = .next s) ∧
    (s.fw.powered = true → (s.schedule = [] ∨ s.schedule = e :: rest ∧ s.gt < e.time) →
      step s = happens s.nextEvent.2 s.nextEvent.1) ∧
    ((∀ x ∈ s.warps, ∀ e ∈ x.2.rob, e.owed = none) → ∀ i, happens i s = exec i s))

/-- Log entry 1: memory after reset is in canonical form. -/
def Obligations.ResetInvariant : Prop := State.reset.Inv

/-- Log entry 1: every step keeps memory in canonical form, so that equal memories are equal data. -/
def Obligations.StepKeepsInvariant : Prop :=
  ∀ s t : State, s.Inv → step s = .next t → t.Inv

/-- R7, R213, R356, R412, R417: what a reset leaves by the spec: no warp, no work, empty queues, a booted machine whose host link
is up. GT 0 is that of a part which no switch reaches (log entry 15, the model's choice). -/
def Obligations.ResetState : Prop :=
  State.reset.gt = 0 ∧ State.reset.warps = [] ∧ State.reset.mem.cells = [] ∧ State.reset.loft.grids = [] ∧ State.reset.loft.pcmd = [] ∧
  State.reset.tables.frames = [] ∧ State.reset.fw.booted = true ∧ State.reset.fw.powered = true ∧ State.reset.net.hostUp = true ∧
  (∀ t, t ≠ 0 → (State.reset.tenant t).defined = false) ∧ (State.reset.tenant 0).defined = true ∧
  (∀ c, (State.reset.column c).scrmib = 2 ∧ (State.reset.column c).busy = false) ∧
  (∀ t < 16, ∀ p < 4, State.reset.queue (4 * t + p) = [])
end

