-- ==== Sys2Proof/Laws/Flits.lean ====
section
/-! SUPPORT. Bytes of numbers, and what a flit that was laid out reads as when it is received (R394, R396). -/

namespace Sys2Proof.Machine

@[simp] theorem length_leBytes (n v : Nat) : (leBytes n v).length = n := by
  induction n generalizing v with
  | zero => rfl
  | succ n ih => simp [leBytes, ih]

/-- The bytes of a number that fits read as the number. -/
theorem leNat_leBytes (n v : Nat) (h : v < 256 ^ n) : leNat (leBytes n v) = v := by
  induction n generalizing v with
  | zero => simp at h; simp [leBytes, leNat, h]
  | succ n ih =>
    rw [Nat.pow_succ] at h
    have h' : v / 256 < 256 ^ n := Nat.div_lt_of_lt_mul (by omega)
    simp only [leBytes, leNat, ih _ h', BitVec.toNat_ofNat]
    omega

@[simp] theorem Flit.length_body (f : Flit) : f.body.length = 240 := by simp [Flit.body]

@[simp] theorem Flit.length_bytes (f : Flit) : f.bytes.length = 256 := by simp [Flit.bytes]

/-- The first 240 bytes of a flit are its header and payload. -/
theorem Flit.take_bytes (f : Flit) : f.bytes.take 240 = f.body := by
  unfold Flit.bytes
  rw [List.append_assoc, List.take_append_of_le_length (by simp)]
  exact List.take_of_length_le (by simp)

/-- The CRC of a flit that was laid out holds. -/
theorem Flit.crcOk_bytes (f : Flit) : crcOk f.bytes = true := by
  have h : (f.bytes.drop 240).take 4 = leBytes 4 (crc32 f.body).toNat := by
    unfold Flit.bytes
    rw [List.append_assoc, List.drop_append_of_le_length (by simp), List.drop_of_length_le (by simp), List.nil_append,
      List.take_append_of_le_length (by simp)]
    exact List.take_of_length_le (by simp)
  simp [crcOk, h, Flit.take_bytes, leNat_leBytes _ _ (show (crc32 f.body).toNat < 256 ^ 4 from (crc32 f.body).isLt)]

end Sys2Proof.Machine
end

