-- ==== Sys2Proof/Laws/Masks.lean ====
section
/-! SUPPORT. Laws of sets of lanes. -/

namespace Sys2Proof.LaneMask

theorem foldl_range_has (p : Nat → Bool) (n : Nat) (hn : n ≤ 32) (l : Nat) :
    ((List.range n).foldl (fun (m : LaneMask) l => if p l then m ||| BitVec.ofNat 32 (2 ^ l) else m) 0).getLsbD l =
      (decide (l < n) && p l) := by
  induction n with
  | zero => simp
  | succ n ih =>
    rw [List.range_succ, List.foldl_append]
    simp only [List.foldl_cons, List.foldl_nil]
    have ih := ih (by omega)
    by_cases hp : p n
    · simp only [hp, if_true, BitVec.getLsbD_or, ih, BitVec.getLsbD_ofNat, Nat.testBit_two_pow]
      by_cases h : l = n
      · subst h; simp [hp]; omega
      · have h' : ¬ n = l := fun h' => h h'.symm
        by_cases h2 : l < n
        · simp [h', h2, Nat.lt_succ_of_lt h2]
        · simp [h', h2]; omega
    · simp only [hp, Bool.false_eq_true, if_false, ih]
      by_cases h : l = n
      · subst h; simp [hp]
      · by_cases h2 : l < n
        · simp [h2, Nat.lt_succ_of_lt h2]
        · simp [h2]; omega

/-- Which lanes are in the set of the lanes that satisfy `p`. -/
@[simp] theorem has_ofPred (p : Nat → Bool) (l : Nat) : (ofPred p).has l = (decide (l < 32) && p l) :=
  foldl_range_has p 32 (by omega) l

theorem has_lt {m : LaneMask} {l : Nat} (h : m.has l = true) : l < 32 := BitVec.lt_of_getLsbD h

@[simp] theorem mem_lanes {m : LaneMask} {l : Nat} : l ∈ m.lanes ↔ m.has l = true := by
  simp only [lanes, List.mem_filter, List.mem_range, has]
  exact ⟨fun h => h.2, fun h => ⟨BitVec.lt_of_getLsbD h, h⟩⟩

theorem lanes_nodup (m : LaneMask) : m.lanes.Nodup := List.Nodup.sublist List.filter_sublist List.nodup_range

theorem eq_zero_iff {m : LaneMask} : m = 0 ↔ ∀ l, m.has l = false := by
  constructor
  · rintro rfl l; simp [has]
  · intro h
    apply BitVec.eq_of_getLsbD_eq
    intro i _
    simpa [has] using h i

theorem exists_has {m : LaneMask} (h : m ≠ 0) : ∃ l, m.has l = true := by
  apply Classical.byContradiction
  intro hn
  exact h (eq_zero_iff.mpr (fun l => by cases hh : m.has l <;> simp_all))

theorem lanes_eq_nil {m : LaneMask} : m.lanes = [] ↔ m = 0 := by
  rw [eq_zero_iff]
  constructor
  · intro h l
    cases hh : m.has l with
    | false => rfl
    | true => have := mem_lanes.mpr hh; simp [h] at this
  · intro h
    apply List.eq_nil_iff_forall_not_mem.mpr
    intro l hl
    simp [h l] at hl

theorem lanes_head {m : LaneMask} (h : m ≠ 0) : ∃ ls, m.lanes = m.lowest :: ls := by
  have h' : m.lanes ≠ [] := fun e => h (lanes_eq_nil.mp e)
  cases hl : m.lanes with
  | nil => exact absurd hl h'
  | cons a ls => exact ⟨ls, by simp [lowest, hl]⟩

theorem has_lowest {m : LaneMask} (h : m ≠ 0) : m.has m.lowest = true := by
  obtain ⟨ls, hl⟩ := lanes_head h
  exact mem_lanes.mp (by simp [hl])

@[simp] theorem has_and (a b : LaneMask) (l : Nat) : has (a &&& b) l = (a.has l && b.has l) := by simp [has]
@[simp] theorem has_not (a : LaneMask) (l : Nat) : has (~~~a) l = (decide (l < 32) && !a.has l) := by simp [has]
@[simp] theorem has_zero (l : Nat) : has 0 l = false := by simp [has]

end Sys2Proof.LaneMask
end

