-- ==== Sys2Proof/Laws/Sparse.lean ====
section
/-! SUPPORT. Laws of finite tables: a read after a write, and the canonical form. -/

namespace Sys2Proof.Sparse

variable {β : Type}

theorem get_del_self (d : β) (m : Sparse β) (k : Nat) : get d (del m k) k = d := by
  induction m with
  | nil => rfl
  | cons e m ih =>
    obtain ⟨j, x⟩ := e
    by_cases h : j = k <;> simp_all [del, get]

theorem get_del_other (d : β) (m : Sparse β) {j k : Nat} (h : j ≠ k) : get d (del m k) j = get d m j := by
  induction m with
  | nil => rfl
  | cons e m ih =>
    obtain ⟨i, x⟩ := e
    by_cases h1 : i = k
    · subst h1
      simp_all [del, get, Ne.symm h]
    · by_cases h2 : i = j <;> simp_all [del, get]

theorem get_insert_other (d : β) (m : Sparse β) {j k : Nat} (x : β) (h : j ≠ k) : get d (insert k x m) j = get d m j := by
  induction m with
  | nil => simp [insert, get, Ne.symm h]
  | cons e m ih =>
    obtain ⟨i, y⟩ := e
    by_cases h1 : k < i
    · simp [insert, h1, get, Ne.symm h]
    · simp only [insert, h1, if_false]
      by_cases h2 : i = j <;> simp_all [get]

/-- No entry at `k`. -/
theorem get_insert_self (d : β) (m : Sparse β) (k : Nat) (x : β) (h : ∀ e ∈ m, e.1 ≠ k) : get d (insert k x m) k = x := by
  induction m with
  | nil => simp [insert, get]
  | cons e m ih =>
    obtain ⟨i, y⟩ := e
    have hi : i ≠ k := h (i, y) (by simp)
    by_cases h1 : k < i
    · simp [insert, h1, get]
    · simpa [insert, h1, get, hi] using ih (fun e he => h e (by simp [he]))

theorem del_absent (m : Sparse β) (k : Nat) : ∀ e ∈ del m k, e.1 ≠ k := by
  intro e he
  simp only [del, List.mem_filter] at he
  simpa using he.2

/-- A read of what was just written. -/
theorem get_set_self [DecidableEq β] (d : β) (m : Sparse β) (k : Nat) (x : β) : get d (set d m k x) k = x := by
  unfold set
  split
  · rename_i h; rw [get_del_self, h]
  · exact get_insert_self d _ k x (del_absent m k)

/-- A write leaves every other key alone. -/
theorem get_set_other [DecidableEq β] (d : β) (m : Sparse β) {j k : Nat} (x : β) (h : j ≠ k) :
    get d (set d m k x) j = get d m j := by
  unfold set
  split
  · exact get_del_other d m h
  · rw [get_insert_other d _ x h, get_del_other d m h]

theorem get_set [DecidableEq β] (d : β) (m : Sparse β) (j k : Nat) (x : β) :
    get d (set d m k x) j = if j = k then x else get d m j := by
  split
  · rename_i h; subst h; exact get_set_self d m j x
  · rename_i h; exact get_set_other d m x h

theorem del_insert (m : Sparse β) (k : Nat) (x : β) : del (insert k x m) k = del m k := by
  induction m with
  | nil => simp [insert, del]
  | cons e m ih =>
    obtain ⟨i, y⟩ := e
    by_cases h1 : k < i
    · simp [insert, h1, del]
    · simp only [insert, h1, if_false]
      by_cases h2 : i = k <;> simp_all [del]

theorem del_del (m : Sparse β) (k : Nat) : del (del m k) k = del m k := by
  simp [del, List.filter_filter]

/-- The later of two writes of one key stands. -/
theorem set_set [DecidableEq β] (d : β) (m : Sparse β) (k : Nat) (x y : β) : set d (set d m k x) k y = set d m k y := by
  have h : del (set d m k x) k = del m k := by
    unfold set
    split
    · exact del_del m k
    · rw [del_insert, del_del]
  unfold set at h ⊢
  split <;> simp_all

/-! ## The canonical form -/

theorem rising_mem {b : Nat} {m : Sparse β} (h : risingFrom b m = true) : ∀ e ∈ m, b < e.1 := by
  induction m generalizing b with
  | nil => simp
  | cons e m ih =>
    obtain ⟨i, y⟩ := e
    simp only [risingFrom, Bool.and_eq_true, decide_eq_true_eq] at h
    intro e he
    rcases List.mem_cons.mp he with rfl | he
    · exact h.1
    · exact Nat.lt_trans h.1 (ih h.2 e he)

theorem rising_weaken {a b : Nat} {m : Sparse β} (hab : a ≤ b) (h : risingFrom b m = true) : risingFrom a m = true := by
  cases m with
  | nil => rfl
  | cons e m =>
    simp only [risingFrom, Bool.and_eq_true, decide_eq_true_eq] at h ⊢
    exact ⟨by omega, h.2⟩

theorem rising_filter {b : Nat} {m : Sparse β} (q : Nat × β → Bool) (h : risingFrom b m = true) :
    risingFrom b (m.filter q) = true := by
  induction m generalizing b with
  | nil => rfl
  | cons e m ih =>
    simp only [risingFrom, Bool.and_eq_true, decide_eq_true_eq] at h
    by_cases hq : q e
    · simp only [List.filter_cons, hq, if_true, risingFrom, Bool.and_eq_true, decide_eq_true_eq]
      exact ⟨h.1, ih h.2⟩
    · simpa [List.filter_cons, hq] using rising_weaken (Nat.le_of_lt h.1) (ih h.2)

theorem rising_insert {b k : Nat} {m : Sparse β} (x : β) (hb : b < k) (hk : ∀ e ∈ m, e.1 ≠ k) (h : risingFrom b m = true) :
    risingFrom b (insert k x m) = true := by
  induction m generalizing b with
  | nil => simp [insert, risingFrom, hb]
  | cons e m ih =>
    obtain ⟨i, y⟩ := e
    simp only [risingFrom, Bool.and_eq_true, decide_eq_true_eq] at h
    have hi : i ≠ k := hk (i, y) (by simp)
    by_cases h1 : k < i
    · simp [insert, h1, risingFrom, hb, h.2]
    · simp only [insert, h1, if_false, risingFrom, Bool.and_eq_true, decide_eq_true_eq]
      exact ⟨h.1, ih (by omega) (fun e he => hk e (by simp [he])) h.2⟩

/-- Keys strictly rising, whatever the first. -/
theorem canonical_iff [DecidableEq β] (d : β) (m : Sparse β) :
    canonical d m = true ↔ (∀ e m', m = e :: m' → risingFrom e.1 m' = true) ∧ ∀ e ∈ m, e.2 ≠ d := by
  cases m with
  | nil => simp [canonical]
  | cons e m => simp [canonical]

theorem canonical_filter [DecidableEq β] (d : β) (m : Sparse β) (q : Nat × β → Bool) (h : canonical d m = true) :
    canonical d (m.filter q) = true := by
  induction m with
  | nil => rfl
  | cons e m ih =>
    rw [canonical_iff] at h
    have hr := h.1 e m rfl
    have hm : canonical d m = true := by
      rw [canonical_iff]
      refine ⟨fun e' m' he => ?_, fun e' he => h.2 e' (by simp [he])⟩
      subst he
      simp only [risingFrom, Bool.and_eq_true] at hr
      exact hr.2
    by_cases hq : q e
    · simp only [List.filter_cons, hq, if_true]
      rw [canonical_iff]
      refine ⟨fun e' m' he => ?_, fun e' he => ?_⟩
      · obtain ⟨rfl, rfl⟩ := List.cons.inj he
        exact rising_filter q hr
      · rcases List.mem_cons.mp he with rfl | he
        · exact h.2 _ (by simp)
        · exact h.2 _ (by simp [(List.mem_filter.mp he).1])
    · simpa [List.filter_cons, hq] using ih hm

theorem mem_insert {m : Sparse β} {k : Nat} {x : β} {e : Nat × β} (h : e ∈ insert k x m) : e = (k, x) ∨ e ∈ m := by
  induction m with
  | nil => simpa [insert] using h
  | cons e' m ih =>
    obtain ⟨i, y⟩ := e'
    by_cases h1 : k < i
    · simpa [insert, h1] using h
    · simp only [insert, h1, if_false, List.mem_cons] at h
      rcases h with h | h
      · exact .inr (by simp [h])
      · rcases ih h with h | h
        · exact .inl h
        · exact .inr (by simp [h])

/-- A write keeps the canonical form. -/
theorem canonical_set [DecidableEq β] (d : β) (m : Sparse β) (k : Nat) (x : β) (h : canonical d m = true) :
    canonical d (set d m k x) = true := by
  have hd : canonical d (del m k) = true := canonical_filter d m _ h
  unfold set
  split
  · exact hd
  · rename_i hx
    have ha := del_absent m k
    generalize del m k = m' at hd ha
    rw [canonical_iff] at hd ⊢
    refine ⟨fun e r he => ?_, fun e he => ?_⟩
    · cases m' with
      | nil =>
        simp only [insert, List.cons.injEq] at he
        rw [← he.2]; rfl
      | cons e' m' =>
        obtain ⟨i, y⟩ := e'
        have hr := hd.1 _ _ rfl
        have hi : i ≠ k := ha (i, y) (by simp)
        by_cases h1 : k < i
        · simp only [insert, h1, if_true, List.cons.injEq] at he
          rw [← he.1, ← he.2]
          simp [risingFrom, h1, hr]
        · simp only [insert, h1, if_false, List.cons.injEq] at he
          rw [← he.1, ← he.2]
          exact rising_insert x (by dsimp only; omega) (fun e he => ha e (by simp [he])) hr
    · rcases mem_insert he with rfl | he
      · exact hx
      · exact hd.2 e he

end Sys2Proof.Sparse
end

