-- ==== Sys2Proof/Laws/State.lean ====
section
/-! SUPPORT. One lemma per field per update of the state and of a warp, and the reads after a write. -/

namespace Sys2Proof.Machine

namespace State

@[simp] theorem setWarp_gt (s : State) (wid : Nat) (w : Warp) : (s.setWarp wid w).gt = s.gt := rfl
@[simp] theorem setWarp_cores (s : State) (wid : Nat) (w : Warp) : (s.setWarp wid w).cores = s.cores := rfl
@[simp] theorem setWarp_columns (s : State) (wid : Nat) (w : Warp) : (s.setWarp wid w).columns = s.columns := rfl
@[simp] theorem setWarp_dies (s : State) (wid : Nat) (w : Warp) : (s.setWarp wid w).dies = s.dies := rfl
@[simp] theorem setWarp_mem (s : State) (wid : Nat) (w : Warp) : (s.setWarp wid w).mem = s.mem := rfl
@[simp] theorem setWarp_tables (s : State) (wid : Nat) (w : Warp) : (s.setWarp wid w).tables = s.tables := rfl
@[simp] theorem setWarp_loft (s : State) (wid : Nat) (w : Warp) : (s.setWarp wid w).loft = s.loft := rfl
@[simp] theorem setWarp_net (s : State) (wid : Nat) (w : Warp) : (s.setWarp wid w).net = s.net := rfl
@[simp] theorem setWarp_fw (s : State) (wid : Nat) (w : Warp) : (s.setWarp wid w).fw = s.fw := rfl
@[simp] theorem setWarp_schedule (s : State) (wid : Nat) (w : Warp) : (s.setWarp wid w).schedule = s.schedule := rfl
@[simp] theorem setWarp_chosen (s : State) (wid : Nat) (w : Warp) : (s.setWarp wid w).chosen = s.chosen := rfl
@[simp] theorem setWarp_cur (s : State) (wid : Nat) (w : Warp) : (s.setWarp wid w).cur = s.cur := rfl
@[simp] theorem setWarp_late (s : State) (wid : Nat) (w : Warp) : (s.setWarp wid w).late = s.late := rfl
@[simp] theorem setWarp_freshCount (s : State) (wid : Nat) (w : Warp) : (s.setWarp wid w).freshCount = s.freshCount := rfl
@[simp] theorem setWarp_nextCore (s : State) (wid : Nat) (w : Warp) : (s.setWarp wid w).nextCore = s.nextCore := rfl
@[simp] theorem setWarp_turn (s : State) (wid : Nat) (w : Warp) : (s.setWarp wid w).turn = s.turn := rfl

@[simp] theorem setWarp_runsFrom (s : State) (wid : Nat) (w : Warp) (c : Nat) : (s.setWarp wid w).runsFrom c = s.runsFrom c := rfl
@[simp] theorem updWarp_runsFrom (s : State) (wid : Nat) (f : Warp → Warp) (c : Nat) : (s.updWarp wid f).runsFrom c = s.runsFrom c := rfl

@[simp] theorem updWarp_gt (s : State) (wid : Nat) (f : Warp → Warp) : (s.updWarp wid f).gt = s.gt := rfl
@[simp] theorem updWarp_cores (s : State) (wid : Nat) (f : Warp → Warp) : (s.updWarp wid f).cores = s.cores := rfl
@[simp] theorem updWarp_columns (s : State) (wid : Nat) (f : Warp → Warp) : (s.updWarp wid f).columns = s.columns := rfl
@[simp] theorem updWarp_dies (s : State) (wid : Nat) (f : Warp → Warp) : (s.updWarp wid f).dies = s.dies := rfl
@[simp] theorem updWarp_mem (s : State) (wid : Nat) (f : Warp → Warp) : (s.updWarp wid f).mem = s.mem := rfl
@[simp] theorem updWarp_tables (s : State) (wid : Nat) (f : Warp → Warp) : (s.updWarp wid f).tables = s.tables := rfl
@[simp] theorem updWarp_loft (s : State) (wid : Nat) (f : Warp → Warp) : (s.updWarp wid f).loft = s.loft := rfl
@[simp] theorem updWarp_net (s : State) (wid : Nat) (f : Warp → Warp) : (s.updWarp wid f).net = s.net := rfl
@[simp] theorem updWarp_fw (s : State) (wid : Nat) (f : Warp → Warp) : (s.updWarp wid f).fw = s.fw := rfl
@[simp] theorem updWarp_schedule (s : State) (wid : Nat) (f : Warp → Warp) : (s.updWarp wid f).schedule = s.schedule := rfl
@[simp] theorem updWarp_chosen (s : State) (wid : Nat) (f : Warp → Warp) : (s.updWarp wid f).chosen = s.chosen := rfl
@[simp] theorem updWarp_cur (s : State) (wid : Nat) (f : Warp → Warp) : (s.updWarp wid f).cur = s.cur := rfl
@[simp] theorem updWarp_late (s : State) (wid : Nat) (f : Warp → Warp) : (s.updWarp wid f).late = s.late := rfl
@[simp] theorem updWarp_freshCount (s : State) (wid : Nat) (f : Warp → Warp) : (s.updWarp wid f).freshCount = s.freshCount := rfl
@[simp] theorem updWarp_nextCore (s : State) (wid : Nat) (f : Warp → Warp) : (s.updWarp wid f).nextCore = s.nextCore := rfl
@[simp] theorem updWarp_turn (s : State) (wid : Nat) (f : Warp → Warp) : (s.updWarp wid f).turn = s.turn := rfl

@[simp] theorem setCore_gt (s : State) (c : Nat) (x : Core) : (s.setCore c x).gt = s.gt := rfl
@[simp] theorem setCore_warps (s : State) (c : Nat) (x : Core) : (s.setCore c x).warps = s.warps := rfl
@[simp] theorem setCore_columns (s : State) (c : Nat) (x : Core) : (s.setCore c x).columns = s.columns := rfl
@[simp] theorem setCore_dies (s : State) (c : Nat) (x : Core) : (s.setCore c x).dies = s.dies := rfl
@[simp] theorem setCore_mem (s : State) (c : Nat) (x : Core) : (s.setCore c x).mem = s.mem := rfl
@[simp] theorem setCore_tables (s : State) (c : Nat) (x : Core) : (s.setCore c x).tables = s.tables := rfl
@[simp] theorem setCore_loft (s : State) (c : Nat) (x : Core) : (s.setCore c x).loft = s.loft := rfl
@[simp] theorem setCore_net (s : State) (c : Nat) (x : Core) : (s.setCore c x).net = s.net := rfl
@[simp] theorem setCore_fw (s : State) (c : Nat) (x : Core) : (s.setCore c x).fw = s.fw := rfl
@[simp] theorem setCore_schedule (s : State) (c : Nat) (x : Core) : (s.setCore c x).schedule = s.schedule := rfl
@[simp] theorem setCore_chosen (s : State) (c : Nat) (x : Core) : (s.setCore c x).chosen = s.chosen := rfl
@[simp] theorem setCore_cur (s : State) (c : Nat) (x : Core) : (s.setCore c x).cur = s.cur := rfl
@[simp] theorem setCore_late (s : State) (c : Nat) (x : Core) : (s.setCore c x).late = s.late := rfl
@[simp] theorem setCore_freshCount (s : State) (c : Nat) (x : Core) : (s.setCore c x).freshCount = s.freshCount := rfl
@[simp] theorem setCore_nextCore (s : State) (c : Nat) (x : Core) : (s.setCore c x).nextCore = s.nextCore := rfl
@[simp] theorem setCore_turn (s : State) (c : Nat) (x : Core) : (s.setCore c x).turn = s.turn := rfl

@[simp] theorem updCore_gt (s : State) (c : Nat) (f : Core → Core) : (s.updCore c f).gt = s.gt := rfl
@[simp] theorem updCore_warps (s : State) (c : Nat) (f : Core → Core) : (s.updCore c f).warps = s.warps := rfl
@[simp] theorem updCore_columns (s : State) (c : Nat) (f : Core → Core) : (s.updCore c f).columns = s.columns := rfl
@[simp] theorem updCore_dies (s : State) (c : Nat) (f : Core → Core) : (s.updCore c f).dies = s.dies := rfl
@[simp] theorem updCore_mem (s : State) (c : Nat) (f : Core → Core) : (s.updCore c f).mem = s.mem := rfl
@[simp] theorem updCore_tables (s : State) (c : Nat) (f : Core → Core) : (s.updCore c f).tables = s.tables := rfl
@[simp] theorem updCore_loft (s : State) (c : Nat) (f : Core → Core) : (s.updCore c f).loft = s.loft := rfl
@[simp] theorem updCore_net (s : State) (c : Nat) (f : Core → Core) : (s.updCore c f).net = s.net := rfl
@[simp] theorem updCore_fw (s : State) (c : Nat) (f : Core → Core) : (s.updCore c f).fw = s.fw := rfl
@[simp] theorem updCore_schedule (s : State) (c : Nat) (f : Core → Core) : (s.updCore c f).schedule = s.schedule := rfl
@[simp] theorem updCore_chosen (s : State) (c : Nat) (f : Core → Core) : (s.updCore c f).chosen = s.chosen := rfl
@[simp] theorem updCore_cur (s : State) (c : Nat) (f : Core → Core) : (s.updCore c f).cur = s.cur := rfl
@[simp] theorem updCore_late (s : State) (c : Nat) (f : Core → Core) : (s.updCore c f).late = s.late := rfl
@[simp] theorem updCore_freshCount (s : State) (c : Nat) (f : Core → Core) : (s.updCore c f).freshCount = s.freshCount := rfl
@[simp] theorem updCore_nextCore (s : State) (c : Nat) (f : Core → Core) : (s.updCore c f).nextCore = s.nextCore := rfl
@[simp] theorem updCore_turn (s : State) (c : Nat) (f : Core → Core) : (s.updCore c f).turn = s.turn := rfl

@[simp] theorem setColumn_gt (s : State) (c : Nat) (x : Column) : (s.setColumn c x).gt = s.gt := rfl
@[simp] theorem setColumn_warps (s : State) (c : Nat) (x : Column) : (s.setColumn c x).warps = s.warps := rfl
@[simp] theorem setColumn_cores (s : State) (c : Nat) (x : Column) : (s.setColumn c x).cores = s.cores := rfl
@[simp] theorem setColumn_dies (s : State) (c : Nat) (x : Column) : (s.setColumn c x).dies = s.dies := rfl
@[simp] theorem setColumn_mem (s : State) (c : Nat) (x : Column) : (s.setColumn c x).mem = s.mem := rfl
@[simp] theorem setColumn_tables (s : State) (c : Nat) (x : Column) : (s.setColumn c x).tables = s.tables := rfl
@[simp] theorem setColumn_loft (s : State) (c : Nat) (x : Column) : (s.setColumn c x).loft = s.loft := rfl
@[simp] theorem setColumn_net (s : State) (c : Nat) (x : Column) : (s.setColumn c x).net = s.net := rfl
@[simp] theorem setColumn_fw (s : State) (c : Nat) (x : Column) : (s.setColumn c x).fw = s.fw := rfl
@[simp] theorem setColumn_schedule (s : State) (c : Nat) (x : Column) : (s.setColumn c x).schedule = s.schedule := rfl
@[simp] theorem setColumn_chosen (s : State) (c : Nat) (x : Column) : (s.setColumn c x).chosen = s.chosen := rfl
@[simp] theorem setColumn_cur (s : State) (c : Nat) (x : Column) : (s.setColumn c x).cur = s.cur := rfl
@[simp] theorem setColumn_late (s : State) (c : Nat) (x : Column) : (s.setColumn c x).late = s.late := rfl
@[simp] theorem setColumn_freshCount (s : State) (c : Nat) (x : Column) : (s.setColumn c x).freshCount = s.freshCount := rfl
@[simp] theorem setColumn_nextCore (s : State) (c : Nat) (x : Column) : (s.setColumn c x).nextCore = s.nextCore := rfl
@[simp] theorem setColumn_turn (s : State) (c : Nat) (x : Column) : (s.setColumn c x).turn = s.turn := rfl

@[simp] theorem setDie_gt (s : State) (d : Nat) (x : Die) : (s.setDie d x).gt = s.gt := rfl
@[simp] theorem setDie_warps (s : State) (d : Nat) (x : Die) : (s.setDie d x).warps = s.warps := rfl
@[simp] theorem setDie_cores (s : State) (d : Nat) (x : Die) : (s.setDie d x).cores = s.cores := rfl
@[simp] theorem setDie_columns (s : State) (d : Nat) (x : Die) : (s.setDie d x).columns = s.columns := rfl
@[simp] theorem setDie_mem (s : State) (d : Nat) (x : Die) : (s.setDie d x).mem = s.mem := rfl
@[simp] theorem setDie_tables (s : State) (d : Nat) (x : Die) : (s.setDie d x).tables = s.tables := rfl
@[simp] theorem setDie_loft (s : State) (d : Nat) (x : Die) : (s.setDie d x).loft = s.loft := rfl
@[simp] theorem setDie_net (s : State) (d : Nat) (x : Die) : (s.setDie d x).net = s.net := rfl
@[simp] theorem setDie_fw (s : State) (d : Nat) (x : Die) : (s.setDie d x).fw = s.fw := rfl
@[simp] theorem setDie_schedule (s : State) (d : Nat) (x : Die) : (s.setDie d x).schedule = s.schedule := rfl
@[simp] theorem setDie_chosen (s : State) (d : Nat) (x : Die) : (s.setDie d x).chosen = s.chosen := rfl
@[simp] theorem setDie_cur (s : State) (d : Nat) (x : Die) : (s.setDie d x).cur = s.cur := rfl
@[simp] theorem setDie_late (s : State) (d : Nat) (x : Die) : (s.setDie d x).late = s.late := rfl
@[simp] theorem setDie_freshCount (s : State) (d : Nat) (x : Die) : (s.setDie d x).freshCount = s.freshCount := rfl
@[simp] theorem setDie_nextCore (s : State) (d : Nat) (x : Die) : (s.setDie d x).nextCore = s.nextCore := rfl
@[simp] theorem setDie_turn (s : State) (d : Nat) (x : Die) : (s.setDie d x).turn = s.turn := rfl

@[simp] theorem updDie_gt (s : State) (d : Nat) (f : Die → Die) : (s.updDie d f).gt = s.gt := rfl
@[simp] theorem updDie_warps (s : State) (d : Nat) (f : Die → Die) : (s.updDie d f).warps = s.warps := rfl
@[simp] theorem updDie_cores (s : State) (d : Nat) (f : Die → Die) : (s.updDie d f).cores = s.cores := rfl
@[simp] theorem updDie_columns (s : State) (d : Nat) (f : Die → Die) : (s.updDie d f).columns = s.columns := rfl
@[simp] theorem updDie_mem (s : State) (d : Nat) (f : Die → Die) : (s.updDie d f).mem = s.mem := rfl
@[simp] theorem updDie_tables (s : State) (d : Nat) (f : Die → Die) : (s.updDie d f).tables = s.tables := rfl
@[simp] theorem updDie_loft (s : State) (d : Nat) (f : Die → Die) : (s.updDie d f).loft = s.loft := rfl
@[simp] theorem updDie_net (s : State) (d : Nat) (f : Die → Die) : (s.updDie d f).net = s.net := rfl
@[simp] theorem updDie_fw (s : State) (d : Nat) (f : Die → Die) : (s.updDie d f).fw = s.fw := rfl
@[simp] theorem updDie_schedule (s : State) (d : Nat) (f : Die → Die) : (s.updDie d f).schedule = s.schedule := rfl
@[simp] theorem updDie_chosen (s : State) (d : Nat) (f : Die → Die) : (s.updDie d f).chosen = s.chosen := rfl
@[simp] theorem updDie_cur (s : State) (d : Nat) (f : Die → Die) : (s.updDie d f).cur = s.cur := rfl
@[simp] theorem updDie_late (s : State) (d : Nat) (f : Die → Die) : (s.updDie d f).late = s.late := rfl
@[simp] theorem updDie_freshCount (s : State) (d : Nat) (f : Die → Die) : (s.updDie d f).freshCount = s.freshCount := rfl
@[simp] theorem updDie_nextCore (s : State) (d : Nat) (f : Die → Die) : (s.updDie d f).nextCore = s.nextCore := rfl
@[simp] theorem updDie_turn (s : State) (d : Nat) (f : Die → Die) : (s.updDie d f).turn = s.turn := rfl

@[simp] theorem setFrame_gt (s : State) (fid : Nat) (x : Frame) : (s.setFrame fid x).gt = s.gt := rfl
@[simp] theorem setFrame_warps (s : State) (fid : Nat) (x : Frame) : (s.setFrame fid x).warps = s.warps := rfl
@[simp] theorem setFrame_cores (s : State) (fid : Nat) (x : Frame) : (s.setFrame fid x).cores = s.cores := rfl
@[simp] theorem setFrame_columns (s : State) (fid : Nat) (x : Frame) : (s.setFrame fid x).columns = s.columns := rfl
@[simp] theorem setFrame_dies (s : State) (fid : Nat) (x : Frame) : (s.setFrame fid x).dies = s.dies := rfl
@[simp] theorem setFrame_mem (s : State) (fid : Nat) (x : Frame) : (s.setFrame fid x).mem = s.mem := rfl
@[simp] theorem setFrame_loft (s : State) (fid : Nat) (x : Frame) : (s.setFrame fid x).loft = s.loft := rfl
@[simp] theorem setFrame_net (s : State) (fid : Nat) (x : Frame) : (s.setFrame fid x).net = s.net := rfl
@[simp] theorem setFrame_fw (s : State) (fid : Nat) (x : Frame) : (s.setFrame fid x).fw = s.fw := rfl
@[simp] theorem setFrame_schedule (s : State) (fid : Nat) (x : Frame) : (s.setFrame fid x).schedule = s.schedule := rfl
@[simp] theorem setFrame_chosen (s : State) (fid : Nat) (x : Frame) : (s.setFrame fid x).chosen = s.chosen := rfl
@[simp] theorem setFrame_cur (s : State) (fid : Nat) (x : Frame) : (s.setFrame fid x).cur = s.cur := rfl
@[simp] theorem setFrame_late (s : State) (fid : Nat) (x : Frame) : (s.setFrame fid x).late = s.late := rfl
@[simp] theorem setFrame_freshCount (s : State) (fid : Nat) (x : Frame) : (s.setFrame fid x).freshCount = s.freshCount := rfl
@[simp] theorem setFrame_nextCore (s : State) (fid : Nat) (x : Frame) : (s.setFrame fid x).nextCore = s.nextCore := rfl
@[simp] theorem setFrame_turn (s : State) (fid : Nat) (x : Frame) : (s.setFrame fid x).turn = s.turn := rfl

@[simp] theorem updFrame_gt (s : State) (fid : Nat) (f : Frame → Frame) : (s.updFrame fid f).gt = s.gt := rfl
@[simp] theorem updFrame_warps (s : State) (fid : Nat) (f : Frame → Frame) : (s.updFrame fid f).warps = s.warps := rfl
@[simp] theorem updFrame_cores (s : State) (fid : Nat) (f : Frame → Frame) : (s.updFrame fid f).cores = s.cores := rfl
@[simp] theorem updFrame_columns (s : State) (fid : Nat) (f : Frame → Frame) : (s.updFrame fid f).columns = s.columns := rfl
@[simp] theorem updFrame_dies (s : State) (fid : Nat) (f : Frame → Frame) : (s.updFrame fid f).dies = s.dies := rfl
@[simp] theorem updFrame_mem (s : State) (fid : Nat) (f : Frame → Frame) : (s.updFrame fid f).mem = s.mem := rfl
@[simp] theorem updFrame_loft (s : State) (fid : Nat) (f : Frame → Frame) : (s.updFrame fid f).loft = s.loft := rfl
@[simp] theorem updFrame_net (s : State) (fid : Nat) (f : Frame → Frame) : (s.updFrame fid f).net = s.net := rfl
@[simp] theorem updFrame_fw (s : State) (fid : Nat) (f : Frame → Frame) : (s.updFrame fid f).fw = s.fw := rfl
@[simp] theorem updFrame_schedule (s : State) (fid : Nat) (f : Frame → Frame) : (s.updFrame fid f).schedule = s.schedule := rfl
@[simp] theorem updFrame_chosen (s : State) (fid : Nat) (f : Frame → Frame) : (s.updFrame fid f).chosen = s.chosen := rfl
@[simp] theorem updFrame_cur (s : State) (fid : Nat) (f : Frame → Frame) : (s.updFrame fid f).cur = s.cur := rfl
@[simp] theorem updFrame_late (s : State) (fid : Nat) (f : Frame → Frame) : (s.updFrame fid f).late = s.late := rfl
@[simp] theorem updFrame_freshCount (s : State) (fid : Nat) (f : Frame → Frame) : (s.updFrame fid f).freshCount = s.freshCount := rfl
@[simp] theorem updFrame_nextCore (s : State) (fid : Nat) (f : Frame → Frame) : (s.updFrame fid f).nextCore = s.nextCore := rfl
@[simp] theorem updFrame_turn (s : State) (fid : Nat) (f : Frame → Frame) : (s.updFrame fid f).turn = s.turn := rfl

@[simp] theorem setTenant_gt (s : State) (t : Nat) (x : Tenant) : (s.setTenant t x).gt = s.gt := rfl
@[simp] theorem setTenant_warps (s : State) (t : Nat) (x : Tenant) : (s.setTenant t x).warps = s.warps := rfl
@[simp] theorem setTenant_cores (s : State) (t : Nat) (x : Tenant) : (s.setTenant t x).cores = s.cores := rfl
@[simp] theorem setTenant_columns (s : State) (t : Nat) (x : Tenant) : (s.setTenant t x).columns = s.columns := rfl
@[simp] theorem setTenant_dies (s : State) (t : Nat) (x : Tenant) : (s.setTenant t x).dies = s.dies := rfl
@[simp] theorem setTenant_mem (s : State) (t : Nat) (x : Tenant) : (s.setTenant t x).mem = s.mem := rfl
@[simp] theorem setTenant_tables (s : State) (t : Nat) (x : Tenant) : (s.setTenant t x).tables = s.tables := rfl
@[simp] theorem setTenant_net (s : State) (t : Nat) (x : Tenant) : (s.setTenant t x).net = s.net := rfl
@[simp] theorem setTenant_fw (s : State) (t : Nat) (x : Tenant) : (s.setTenant t x).fw = s.fw := rfl
@[simp] theorem setTenant_schedule (s : State) (t : Nat) (x : Tenant) : (s.setTenant t x).schedule = s.schedule := rfl
@[simp] theorem setTenant_chosen (s : State) (t : Nat) (x : Tenant) : (s.setTenant t x).chosen = s.chosen := rfl
@[simp] theorem setTenant_cur (s : State) (t : Nat) (x : Tenant) : (s.setTenant t x).cur = s.cur := rfl
@[simp] theorem setTenant_late (s : State) (t : Nat) (x : Tenant) : (s.setTenant t x).late = s.late := rfl
@[simp] theorem setTenant_freshCount (s : State) (t : Nat) (x : Tenant) : (s.setTenant t x).freshCount = s.freshCount := rfl
@[simp] theorem setTenant_nextCore (s : State) (t : Nat) (x : Tenant) : (s.setTenant t x).nextCore = s.nextCore := rfl
@[simp] theorem setTenant_turn (s : State) (t : Nat) (x : Tenant) : (s.setTenant t x).turn = s.turn := rfl

@[simp] theorem setPartition_gt (s : State) (p : Nat) (x : Partition) : (s.setPartition p x).gt = s.gt := rfl
@[simp] theorem setPartition_warps (s : State) (p : Nat) (x : Partition) : (s.setPartition p x).warps = s.warps := rfl
@[simp] theorem setPartition_cores (s : State) (p : Nat) (x : Partition) : (s.setPartition p x).cores = s.cores := rfl
@[simp] theorem setPartition_columns (s : State) (p : Nat) (x : Partition) : (s.setPartition p x).columns = s.columns := rfl
@[simp] theorem setPartition_dies (s : State) (p : Nat) (x : Partition) : (s.setPartition p x).dies = s.dies := rfl
@[simp] theorem setPartition_mem (s : State) (p : Nat) (x : Partition) : (s.setPartition p x).mem = s.mem := rfl
@[simp] theorem setPartition_tables (s : State) (p : Nat) (x : Partition) : (s.setPartition p x).tables = s.tables := rfl
@[simp] theorem setPartition_net (s : State) (p : Nat) (x : Partition) : (s.setPartition p x).net = s.net := rfl
@[simp] theorem setPartition_fw (s : State) (p : Nat) (x : Partition) : (s.setPartition p x).fw = s.fw := rfl
@[simp] theorem setPartition_schedule (s : State) (p : Nat) (x : Partition) : (s.setPartition p x).schedule = s.schedule := rfl
@[simp] theorem setPartition_chosen (s : State) (p : Nat) (x : Partition) : (s.setPartition p x).chosen = s.chosen := rfl
@[simp] theorem setPartition_cur (s : State) (p : Nat) (x : Partition) : (s.setPartition p x).cur = s.cur := rfl
@[simp] theorem setPartition_late (s : State) (p : Nat) (x : Partition) : (s.setPartition p x).late = s.late := rfl
@[simp] theorem setPartition_freshCount (s : State) (p : Nat) (x : Partition) : (s.setPartition p x).freshCount = s.freshCount := rfl
@[simp] theorem setPartition_nextCore (s : State) (p : Nat) (x : Partition) : (s.setPartition p x).nextCore = s.nextCore := rfl
@[simp] theorem setPartition_turn (s : State) (p : Nat) (x : Partition) : (s.setPartition p x).turn = s.turn := rfl

@[simp] theorem setGrid_gt (s : State) (g : Nat) (x : Grid) : (s.setGrid g x).gt = s.gt := rfl
@[simp] theorem setGrid_warps (s : State) (g : Nat) (x : Grid) : (s.setGrid g x).warps = s.warps := rfl
@[simp] theorem setGrid_cores (s : State) (g : Nat) (x : Grid) : (s.setGrid g x).cores = s.cores := rfl
@[simp] theorem setGrid_columns (s : State) (g : Nat) (x : Grid) : (s.setGrid g x).columns = s.columns := rfl
@[simp] theorem setGrid_dies (s : State) (g : Nat) (x : Grid) : (s.setGrid g x).dies = s.dies := rfl
@[simp] theorem setGrid_mem (s : State) (g : Nat) (x : Grid) : (s.setGrid g x).mem = s.mem := rfl
@[simp] theorem setGrid_tables (s : State) (g : Nat) (x : Grid) : (s.setGrid g x).tables = s.tables := rfl
@[simp] theorem setGrid_net (s : State) (g : Nat) (x : Grid) : (s.setGrid g x).net = s.net := rfl
@[simp] theorem setGrid_fw (s : State) (g : Nat) (x : Grid) : (s.setGrid g x).fw = s.fw := rfl
@[simp] theorem setGrid_schedule (s : State) (g : Nat) (x : Grid) : (s.setGrid g x).schedule = s.schedule := rfl
@[simp] theorem setGrid_chosen (s : State) (g : Nat) (x : Grid) : (s.setGrid g x).chosen = s.chosen := rfl
@[simp] theorem setGrid_cur (s : State) (g : Nat) (x : Grid) : (s.setGrid g x).cur = s.cur := rfl
@[simp] theorem setGrid_late (s : State) (g : Nat) (x : Grid) : (s.setGrid g x).late = s.late := rfl
@[simp] theorem setGrid_freshCount (s : State) (g : Nat) (x : Grid) : (s.setGrid g x).freshCount = s.freshCount := rfl
@[simp] theorem setGrid_nextCore (s : State) (g : Nat) (x : Grid) : (s.setGrid g x).nextCore = s.nextCore := rfl
@[simp] theorem setGrid_turn (s : State) (g : Nat) (x : Grid) : (s.setGrid g x).turn = s.turn := rfl

@[simp] theorem updGrid_gt (s : State) (g : Nat) (f : Grid → Grid) : (s.updGrid g f).gt = s.gt := rfl
@[simp] theorem updGrid_warps (s : State) (g : Nat) (f : Grid → Grid) : (s.updGrid g f).warps = s.warps := rfl
@[simp] theorem updGrid_cores (s : State) (g : Nat) (f : Grid → Grid) : (s.updGrid g f).cores = s.cores := rfl
@[simp] theorem updGrid_columns (s : State) (g : Nat) (f : Grid → Grid) : (s.updGrid g f).columns = s.columns := rfl
@[simp] theorem updGrid_dies (s : State) (g : Nat) (f : Grid → Grid) : (s.updGrid g f).dies = s.dies := rfl
@[simp] theorem updGrid_mem (s : State) (g : Nat) (f : Grid → Grid) : (s.updGrid g f).mem = s.mem := rfl
@[simp] theorem updGrid_tables (s : State) (g : Nat) (f : Grid → Grid) : (s.updGrid g f).tables = s.tables := rfl
@[simp] theorem updGrid_net (s : State) (g : Nat) (f : Grid → Grid) : (s.updGrid g f).net = s.net := rfl
@[simp] theorem updGrid_fw (s : State) (g : Nat) (f : Grid → Grid) : (s.updGrid g f).fw = s.fw := rfl
@[simp] theorem updGrid_schedule (s : State) (g : Nat) (f : Grid → Grid) : (s.updGrid g f).schedule = s.schedule := rfl
@[simp] theorem updGrid_chosen (s : State) (g : Nat) (f : Grid → Grid) : (s.updGrid g f).chosen = s.chosen := rfl
@[simp] theorem updGrid_cur (s : State) (g : Nat) (f : Grid → Grid) : (s.updGrid g f).cur = s.cur := rfl
@[simp] theorem updGrid_late (s : State) (g : Nat) (f : Grid → Grid) : (s.updGrid g f).late = s.late := rfl
@[simp] theorem updGrid_freshCount (s : State) (g : Nat) (f : Grid → Grid) : (s.updGrid g f).freshCount = s.freshCount := rfl
@[simp] theorem updGrid_nextCore (s : State) (g : Nat) (f : Grid → Grid) : (s.updGrid g f).nextCore = s.nextCore := rfl
@[simp] theorem updGrid_turn (s : State) (g : Nat) (f : Grid → Grid) : (s.updGrid g f).turn = s.turn := rfl

@[simp] theorem setPipeline_gt (s : State) (g : Nat) (x : Pipeline) : (s.setPipeline g x).gt = s.gt := rfl
@[simp] theorem setPipeline_warps (s : State) (g : Nat) (x : Pipeline) : (s.setPipeline g x).warps = s.warps := rfl
@[simp] theorem setPipeline_cores (s : State) (g : Nat) (x : Pipeline) : (s.setPipeline g x).cores = s.cores := rfl
@[simp] theorem setPipeline_columns (s : State) (g : Nat) (x : Pipeline) : (s.setPipeline g x).columns = s.columns := rfl
@[simp] theorem setPipeline_dies (s : State) (g : Nat) (x : Pipeline) : (s.setPipeline g x).dies = s.dies := rfl
@[simp] theorem setPipeline_mem (s : State) (g : Nat) (x : Pipeline) : (s.setPipeline g x).mem = s.mem := rfl
@[simp] theorem setPipeline_tables (s : State) (g : Nat) (x : Pipeline) : (s.setPipeline g x).tables = s.tables := rfl
@[simp] theorem setPipeline_net (s : State) (g : Nat) (x : Pipeline) : (s.setPipeline g x).net = s.net := rfl
@[simp] theorem setPipeline_fw (s : State) (g : Nat) (x : Pipeline) : (s.setPipeline g x).fw = s.fw := rfl
@[simp] theorem setPipeline_schedule (s : State) (g : Nat) (x : Pipeline) : (s.setPipeline g x).schedule = s.schedule := rfl
@[simp] theorem setPipeline_chosen (s : State) (g : Nat) (x : Pipeline) : (s.setPipeline g x).chosen = s.chosen := rfl
@[simp] theorem setPipeline_cur (s : State) (g : Nat) (x : Pipeline) : (s.setPipeline g x).cur = s.cur := rfl
@[simp] theorem setPipeline_late (s : State) (g : Nat) (x : Pipeline) : (s.setPipeline g x).late = s.late := rfl
@[simp] theorem setPipeline_freshCount (s : State) (g : Nat) (x : Pipeline) : (s.setPipeline g x).freshCount = s.freshCount := rfl
@[simp] theorem setPipeline_nextCore (s : State) (g : Nat) (x : Pipeline) : (s.setPipeline g x).nextCore = s.nextCore := rfl
@[simp] theorem setPipeline_turn (s : State) (g : Nat) (x : Pipeline) : (s.setPipeline g x).turn = s.turn := rfl

@[simp] theorem setBudget_gt (s : State) (t : Nat) (x : Budget) : (s.setBudget t x).gt = s.gt := rfl
@[simp] theorem setBudget_warps (s : State) (t : Nat) (x : Budget) : (s.setBudget t x).warps = s.warps := rfl
@[simp] theorem setBudget_cores (s : State) (t : Nat) (x : Budget) : (s.setBudget t x).cores = s.cores := rfl
@[simp] theorem setBudget_columns (s : State) (t : Nat) (x : Budget) : (s.setBudget t x).columns = s.columns := rfl
@[simp] theorem setBudget_dies (s : State) (t : Nat) (x : Budget) : (s.setBudget t x).dies = s.dies := rfl
@[simp] theorem setBudget_mem (s : State) (t : Nat) (x : Budget) : (s.setBudget t x).mem = s.mem := rfl
@[simp] theorem setBudget_tables (s : State) (t : Nat) (x : Budget) : (s.setBudget t x).tables = s.tables := rfl
@[simp] theorem setBudget_net (s : State) (t : Nat) (x : Budget) : (s.setBudget t x).net = s.net := rfl
@[simp] theorem setBudget_fw (s : State) (t : Nat) (x : Budget) : (s.setBudget t x).fw = s.fw := rfl
@[simp] theorem setBudget_schedule (s : State) (t : Nat) (x : Budget) : (s.setBudget t x).schedule = s.schedule := rfl
@[simp] theorem setBudget_chosen (s : State) (t : Nat) (x : Budget) : (s.setBudget t x).chosen = s.chosen := rfl
@[simp] theorem setBudget_cur (s : State) (t : Nat) (x : Budget) : (s.setBudget t x).cur = s.cur := rfl
@[simp] theorem setBudget_late (s : State) (t : Nat) (x : Budget) : (s.setBudget t x).late = s.late := rfl
@[simp] theorem setBudget_freshCount (s : State) (t : Nat) (x : Budget) : (s.setBudget t x).freshCount = s.freshCount := rfl
@[simp] theorem setBudget_nextCore (s : State) (t : Nat) (x : Budget) : (s.setBudget t x).nextCore = s.nextCore := rfl
@[simp] theorem setBudget_turn (s : State) (t : Nat) (x : Budget) : (s.setBudget t x).turn = s.turn := rfl

@[simp] theorem setQueue_gt (s : State) (q : Nat) (x : List Nat) : (s.setQueue q x).gt = s.gt := rfl
@[simp] theorem setQueue_warps (s : State) (q : Nat) (x : List Nat) : (s.setQueue q x).warps = s.warps := rfl
@[simp] theorem setQueue_cores (s : State) (q : Nat) (x : List Nat) : (s.setQueue q x).cores = s.cores := rfl
@[simp] theorem setQueue_columns (s : State) (q : Nat) (x : List Nat) : (s.setQueue q x).columns = s.columns := rfl
@[simp] theorem setQueue_dies (s : State) (q : Nat) (x : List Nat) : (s.setQueue q x).dies = s.dies := rfl
@[simp] theorem setQueue_mem (s : State) (q : Nat) (x : List Nat) : (s.setQueue q x).mem = s.mem := rfl
@[simp] theorem setQueue_tables (s : State) (q : Nat) (x : List Nat) : (s.setQueue q x).tables = s.tables := rfl
@[simp] theorem setQueue_net (s : State) (q : Nat) (x : List Nat) : (s.setQueue q x).net = s.net := rfl
@[simp] theorem setQueue_fw (s : State) (q : Nat) (x : List Nat) : (s.setQueue q x).fw = s.fw := rfl
@[simp] theorem setQueue_schedule (s : State) (q : Nat) (x : List Nat) : (s.setQueue q x).schedule = s.schedule := rfl
@[simp] theorem setQueue_chosen (s : State) (q : Nat) (x : List Nat) : (s.setQueue q x).chosen = s.chosen := rfl
@[simp] theorem setQueue_cur (s : State) (q : Nat) (x : List Nat) : (s.setQueue q x).cur = s.cur := rfl
@[simp] theorem setQueue_late (s : State) (q : Nat) (x : List Nat) : (s.setQueue q x).late = s.late := rfl
@[simp] theorem setQueue_freshCount (s : State) (q : Nat) (x : List Nat) : (s.setQueue q x).freshCount = s.freshCount := rfl
@[simp] theorem setQueue_nextCore (s : State) (q : Nat) (x : List Nat) : (s.setQueue q x).nextCore = s.nextCore := rfl
@[simp] theorem setQueue_turn (s : State) (q : Nat) (x : List Nat) : (s.setQueue q x).turn = s.turn := rfl

@[simp] theorem updBlock_gt (s : State) (g b : Nat) (f : Block → Block) : (s.updBlock g b f).gt = s.gt := rfl
@[simp] theorem updBlock_warps (s : State) (g b : Nat) (f : Block → Block) : (s.updBlock g b f).warps = s.warps := rfl
@[simp] theorem updBlock_cores (s : State) (g b : Nat) (f : Block → Block) : (s.updBlock g b f).cores = s.cores := rfl
@[simp] theorem updBlock_columns (s : State) (g b : Nat) (f : Block → Block) : (s.updBlock g b f).columns = s.columns := rfl
@[simp] theorem updBlock_dies (s : State) (g b : Nat) (f : Block → Block) : (s.updBlock g b f).dies = s.dies := rfl
@[simp] theorem updBlock_mem (s : State) (g b : Nat) (f : Block → Block) : (s.updBlock g b f).mem = s.mem := rfl
@[simp] theorem updBlock_tables (s : State) (g b : Nat) (f : Block → Block) : (s.updBlock g b f).tables = s.tables := rfl
@[simp] theorem updBlock_net (s : State) (g b : Nat) (f : Block → Block) : (s.updBlock g b f).net = s.net := rfl
@[simp] theorem updBlock_fw (s : State) (g b : Nat) (f : Block → Block) : (s.updBlock g b f).fw = s.fw := rfl
@[simp] theorem updBlock_schedule (s : State) (g b : Nat) (f : Block → Block) : (s.updBlock g b f).schedule = s.schedule := rfl
@[simp] theorem updBlock_chosen (s : State) (g b : Nat) (f : Block → Block) : (s.updBlock g b f).chosen = s.chosen := rfl
@[simp] theorem updBlock_cur (s : State) (g b : Nat) (f : Block → Block) : (s.updBlock g b f).cur = s.cur := rfl
@[simp] theorem updBlock_late (s : State) (g b : Nat) (f : Block → Block) : (s.updBlock g b f).late = s.late := rfl
@[simp] theorem updBlock_freshCount (s : State) (g b : Nat) (f : Block → Block) : (s.updBlock g b f).freshCount = s.freshCount := rfl
@[simp] theorem updBlock_nextCore (s : State) (g b : Nat) (f : Block → Block) : (s.updBlock g b f).nextCore = s.nextCore := rfl
@[simp] theorem updBlock_turn (s : State) (g b : Nat) (f : Block → Block) : (s.updBlock g b f).turn = s.turn := rfl

@[simp] theorem setLinkDir_gt (s : State) (d : Nat) (x : LinkDir) : (s.setLinkDir d x).gt = s.gt := rfl
@[simp] theorem setLinkDir_warps (s : State) (d : Nat) (x : LinkDir) : (s.setLinkDir d x).warps = s.warps := rfl
@[simp] theorem setLinkDir_cores (s : State) (d : Nat) (x : LinkDir) : (s.setLinkDir d x).cores = s.cores := rfl
@[simp] theorem setLinkDir_columns (s : State) (d : Nat) (x : LinkDir) : (s.setLinkDir d x).columns = s.columns := rfl
@[simp] theorem setLinkDir_dies (s : State) (d : Nat) (x : LinkDir) : (s.setLinkDir d x).dies = s.dies := rfl
@[simp] theorem setLinkDir_mem (s : State) (d : Nat) (x : LinkDir) : (s.setLinkDir d x).mem = s.mem := rfl
@[simp] theorem setLinkDir_tables (s : State) (d : Nat) (x : LinkDir) : (s.setLinkDir d x).tables = s.tables := rfl
@[simp] theorem setLinkDir_loft (s : State) (d : Nat) (x : LinkDir) : (s.setLinkDir d x).loft = s.loft := rfl
@[simp] theorem setLinkDir_fw (s : State) (d : Nat) (x : LinkDir) : (s.setLinkDir d x).fw = s.fw := rfl
@[simp] theorem setLinkDir_schedule (s : State) (d : Nat) (x : LinkDir) : (s.setLinkDir d x).schedule = s.schedule := rfl
@[simp] theorem setLinkDir_chosen (s : State) (d : Nat) (x : LinkDir) : (s.setLinkDir d x).chosen = s.chosen := rfl
@[simp] theorem setLinkDir_cur (s : State) (d : Nat) (x : LinkDir) : (s.setLinkDir d x).cur = s.cur := rfl
@[simp] theorem setLinkDir_late (s : State) (d : Nat) (x : LinkDir) : (s.setLinkDir d x).late = s.late := rfl
@[simp] theorem setLinkDir_freshCount (s : State) (d : Nat) (x : LinkDir) : (s.setLinkDir d x).freshCount = s.freshCount := rfl
@[simp] theorem setLinkDir_nextCore (s : State) (d : Nat) (x : LinkDir) : (s.setLinkDir d x).nextCore = s.nextCore := rfl
@[simp] theorem setLinkDir_turn (s : State) (d : Nat) (x : LinkDir) : (s.setLinkDir d x).turn = s.turn := rfl

@[simp] theorem notify_gt (s : State) (code arg : Nat) : (s.notify code arg).gt = s.gt := rfl
@[simp] theorem notify_warps (s : State) (code arg : Nat) : (s.notify code arg).warps = s.warps := rfl
@[simp] theorem notify_cores (s : State) (code arg : Nat) : (s.notify code arg).cores = s.cores := rfl
@[simp] theorem notify_columns (s : State) (code arg : Nat) : (s.notify code arg).columns = s.columns := rfl
@[simp] theorem notify_dies (s : State) (code arg : Nat) : (s.notify code arg).dies = s.dies := rfl
@[simp] theorem notify_mem (s : State) (code arg : Nat) : (s.notify code arg).mem = s.mem := rfl
@[simp] theorem notify_tables (s : State) (code arg : Nat) : (s.notify code arg).tables = s.tables := rfl
@[simp] theorem notify_loft (s : State) (code arg : Nat) : (s.notify code arg).loft = s.loft := rfl
@[simp] theorem notify_net (s : State) (code arg : Nat) : (s.notify code arg).net = s.net := rfl
@[simp] theorem notify_schedule (s : State) (code arg : Nat) : (s.notify code arg).schedule = s.schedule := rfl
@[simp] theorem notify_chosen (s : State) (code arg : Nat) : (s.notify code arg).chosen = s.chosen := rfl
@[simp] theorem notify_cur (s : State) (code arg : Nat) : (s.notify code arg).cur = s.cur := rfl
@[simp] theorem notify_late (s : State) (code arg : Nat) : (s.notify code arg).late = s.late := rfl
@[simp] theorem notify_freshCount (s : State) (code arg : Nat) : (s.notify code arg).freshCount = s.freshCount := rfl
@[simp] theorem notify_nextCore (s : State) (code arg : Nat) : (s.notify code arg).nextCore = s.nextCore := rfl
@[simp] theorem notify_turn (s : State) (code arg : Nat) : (s.notify code arg).turn = s.turn := rfl

@[simp] theorem answer_gt (s : State) (r : HostResult) : (s.answer r).gt = s.gt := rfl
@[simp] theorem answer_warps (s : State) (r : HostResult) : (s.answer r).warps = s.warps := rfl
@[simp] theorem answer_cores (s : State) (r : HostResult) : (s.answer r).cores = s.cores := rfl
@[simp] theorem answer_columns (s : State) (r : HostResult) : (s.answer r).columns = s.columns := rfl
@[simp] theorem answer_dies (s : State) (r : HostResult) : (s.answer r).dies = s.dies := rfl
@[simp] theorem answer_mem (s : State) (r : HostResult) : (s.answer r).mem = s.mem := rfl
@[simp] theorem answer_tables (s : State) (r : HostResult) : (s.answer r).tables = s.tables := rfl
@[simp] theorem answer_loft (s : State) (r : HostResult) : (s.answer r).loft = s.loft := rfl
@[simp] theorem answer_net (s : State) (r : HostResult) : (s.answer r).net = s.net := rfl
@[simp] theorem answer_schedule (s : State) (r : HostResult) : (s.answer r).schedule = s.schedule := rfl
@[simp] theorem answer_chosen (s : State) (r : HostResult) : (s.answer r).chosen = s.chosen := rfl
@[simp] theorem answer_cur (s : State) (r : HostResult) : (s.answer r).cur = s.cur := rfl
@[simp] theorem answer_late (s : State) (r : HostResult) : (s.answer r).late = s.late := rfl
@[simp] theorem answer_freshCount (s : State) (r : HostResult) : (s.answer r).freshCount = s.freshCount := rfl
@[simp] theorem answer_nextCore (s : State) (r : HostResult) : (s.answer r).nextCore = s.nextCore := rfl
@[simp] theorem answer_turn (s : State) (r : HostResult) : (s.answer r).turn = s.turn := rfl

@[simp] theorem fresh_gt (s : State) : (s.fresh).gt = s.gt := rfl
@[simp] theorem fresh_warps (s : State) : (s.fresh).warps = s.warps := rfl
@[simp] theorem fresh_cores (s : State) : (s.fresh).cores = s.cores := rfl
@[simp] theorem fresh_columns (s : State) : (s.fresh).columns = s.columns := rfl
@[simp] theorem fresh_dies (s : State) : (s.fresh).dies = s.dies := rfl
@[simp] theorem fresh_mem (s : State) : (s.fresh).mem = s.mem := rfl
@[simp] theorem fresh_tables (s : State) : (s.fresh).tables = s.tables := rfl
@[simp] theorem fresh_loft (s : State) : (s.fresh).loft = s.loft := rfl
@[simp] theorem fresh_net (s : State) : (s.fresh).net = s.net := rfl
@[simp] theorem fresh_fw (s : State) : (s.fresh).fw = s.fw := rfl
@[simp] theorem fresh_schedule (s : State) : (s.fresh).schedule = s.schedule := rfl
@[simp] theorem fresh_chosen (s : State) : (s.fresh).chosen = s.chosen := rfl
@[simp] theorem fresh_cur (s : State) : (s.fresh).cur = s.cur := rfl
@[simp] theorem fresh_late (s : State) : (s.fresh).late = s.late := rfl
@[simp] theorem fresh_nextCore (s : State) : (s.fresh).nextCore = s.nextCore := rfl
@[simp] theorem fresh_turn (s : State) : (s.fresh).turn = s.turn := rfl

@[simp] theorem setByte_gt (s : State) (p : Nat) (b : Byte) : (s.setByte p b).gt = s.gt := rfl
@[simp] theorem setByte_warps (s : State) (p : Nat) (b : Byte) : (s.setByte p b).warps = s.warps := rfl
@[simp] theorem setByte_cores (s : State) (p : Nat) (b : Byte) : (s.setByte p b).cores = s.cores := rfl
@[simp] theorem setByte_columns (s : State) (p : Nat) (b : Byte) : (s.setByte p b).columns = s.columns := rfl
@[simp] theorem setByte_dies (s : State) (p : Nat) (b : Byte) : (s.setByte p b).dies = s.dies := rfl
@[simp] theorem setByte_tables (s : State) (p : Nat) (b : Byte) : (s.setByte p b).tables = s.tables := rfl
@[simp] theorem setByte_loft (s : State) (p : Nat) (b : Byte) : (s.setByte p b).loft = s.loft := rfl
@[simp] theorem setByte_net (s : State) (p : Nat) (b : Byte) : (s.setByte p b).net = s.net := rfl
@[simp] theorem setByte_fw (s : State) (p : Nat) (b : Byte) : (s.setByte p b).fw = s.fw := rfl
@[simp] theorem setByte_schedule (s : State) (p : Nat) (b : Byte) : (s.setByte p b).schedule = s.schedule := rfl
@[simp] theorem setByte_chosen (s : State) (p : Nat) (b : Byte) : (s.setByte p b).chosen = s.chosen := rfl
@[simp] theorem setByte_cur (s : State) (p : Nat) (b : Byte) : (s.setByte p b).cur = s.cur := rfl
@[simp] theorem setByte_late (s : State) (p : Nat) (b : Byte) : (s.setByte p b).late = s.late := rfl
@[simp] theorem setByte_freshCount (s : State) (p : Nat) (b : Byte) : (s.setByte p b).freshCount = s.freshCount := rfl
@[simp] theorem setByte_nextCore (s : State) (p : Nat) (b : Byte) : (s.setByte p b).nextCore = s.nextCore := rfl
@[simp] theorem setByte_turn (s : State) (p : Nat) (b : Byte) : (s.setByte p b).turn = s.turn := rfl

@[simp] theorem setSyndrome_gt (s : State) (p : Nat) (x : Word) : (s.setSyndrome p x).gt = s.gt := rfl
@[simp] theorem setSyndrome_warps (s : State) (p : Nat) (x : Word) : (s.setSyndrome p x).warps = s.warps := rfl
@[simp] theorem setSyndrome_cores (s : State) (p : Nat) (x : Word) : (s.setSyndrome p x).cores = s.cores := rfl
@[simp] theorem setSyndrome_columns (s : State) (p : Nat) (x : Word) : (s.setSyndrome p x).columns = s.columns := rfl
@[simp] theorem setSyndrome_dies (s : State) (p : Nat) (x : Word) : (s.setSyndrome p x).dies = s.dies := rfl
@[simp] theorem setSyndrome_tables (s : State) (p : Nat) (x : Word) : (s.setSyndrome p x).tables = s.tables := rfl
@[simp] theorem setSyndrome_loft (s : State) (p : Nat) (x : Word) : (s.setSyndrome p x).loft = s.loft := rfl
@[simp] theorem setSyndrome_net (s : State) (p : Nat) (x : Word) : (s.setSyndrome p x).net = s.net := rfl
@[simp] theorem setSyndrome_fw (s : State) (p : Nat) (x : Word) : (s.setSyndrome p x).fw = s.fw := rfl
@[simp] theorem setSyndrome_schedule (s : State) (p : Nat) (x : Word) : (s.setSyndrome p x).schedule = s.schedule := rfl
@[simp] theorem setSyndrome_chosen (s : State) (p : Nat) (x : Word) : (s.setSyndrome p x).chosen = s.chosen := rfl
@[simp] theorem setSyndrome_cur (s : State) (p : Nat) (x : Word) : (s.setSyndrome p x).cur = s.cur := rfl
@[simp] theorem setSyndrome_late (s : State) (p : Nat) (x : Word) : (s.setSyndrome p x).late = s.late := rfl
@[simp] theorem setSyndrome_freshCount (s : State) (p : Nat) (x : Word) : (s.setSyndrome p x).freshCount = s.freshCount := rfl
@[simp] theorem setSyndrome_nextCore (s : State) (p : Nat) (x : Word) : (s.setSyndrome p x).nextCore = s.nextCore := rfl
@[simp] theorem setSyndrome_turn (s : State) (p : Nat) (x : Word) : (s.setSyndrome p x).turn = s.turn := rfl

@[simp] theorem setFull_gt (s : State) (p : Nat) (b : Bool) : (s.setFull p b).gt = s.gt := rfl
@[simp] theorem setFull_warps (s : State) (p : Nat) (b : Bool) : (s.setFull p b).warps = s.warps := rfl
@[simp] theorem setFull_cores (s : State) (p : Nat) (b : Bool) : (s.setFull p b).cores = s.cores := rfl
@[simp] theorem setFull_columns (s : State) (p : Nat) (b : Bool) : (s.setFull p b).columns = s.columns := rfl
@[simp] theorem setFull_dies (s : State) (p : Nat) (b : Bool) : (s.setFull p b).dies = s.dies := rfl
@[simp] theorem setFull_tables (s : State) (p : Nat) (b : Bool) : (s.setFull p b).tables = s.tables := rfl
@[simp] theorem setFull_loft (s : State) (p : Nat) (b : Bool) : (s.setFull p b).loft = s.loft := rfl
@[simp] theorem setFull_net (s : State) (p : Nat) (b : Bool) : (s.setFull p b).net = s.net := rfl
@[simp] theorem setFull_fw (s : State) (p : Nat) (b : Bool) : (s.setFull p b).fw = s.fw := rfl
@[simp] theorem setFull_schedule (s : State) (p : Nat) (b : Bool) : (s.setFull p b).schedule = s.schedule := rfl
@[simp] theorem setFull_chosen (s : State) (p : Nat) (b : Bool) : (s.setFull p b).chosen = s.chosen := rfl
@[simp] theorem setFull_cur (s : State) (p : Nat) (b : Bool) : (s.setFull p b).cur = s.cur := rfl
@[simp] theorem setFull_late (s : State) (p : Nat) (b : Bool) : (s.setFull p b).late = s.late := rfl
@[simp] theorem setFull_freshCount (s : State) (p : Nat) (b : Bool) : (s.setFull p b).freshCount = s.freshCount := rfl
@[simp] theorem setFull_nextCore (s : State) (p : Nat) (b : Bool) : (s.setFull p b).nextCore = s.nextCore := rfl
@[simp] theorem setFull_turn (s : State) (p : Nat) (b : Bool) : (s.setFull p b).turn = s.turn := rfl

@[simp] theorem setMask_gt (s : State) (p : Nat) (b : Bool) : (s.setMask p b).gt = s.gt := rfl
@[simp] theorem setMask_warps (s : State) (p : Nat) (b : Bool) : (s.setMask p b).warps = s.warps := rfl
@[simp] theorem setMask_cores (s : State) (p : Nat) (b : Bool) : (s.setMask p b).cores = s.cores := rfl
@[simp] theorem setMask_columns (s : State) (p : Nat) (b : Bool) : (s.setMask p b).columns = s.columns := rfl
@[simp] theorem setMask_dies (s : State) (p : Nat) (b : Bool) : (s.setMask p b).dies = s.dies := rfl
@[simp] theorem setMask_tables (s : State) (p : Nat) (b : Bool) : (s.setMask p b).tables = s.tables := rfl
@[simp] theorem setMask_loft (s : State) (p : Nat) (b : Bool) : (s.setMask p b).loft = s.loft := rfl
@[simp] theorem setMask_net (s : State) (p : Nat) (b : Bool) : (s.setMask p b).net = s.net := rfl
@[simp] theorem setMask_fw (s : State) (p : Nat) (b : Bool) : (s.setMask p b).fw = s.fw := rfl
@[simp] theorem setMask_schedule (s : State) (p : Nat) (b : Bool) : (s.setMask p b).schedule = s.schedule := rfl
@[simp] theorem setMask_chosen (s : State) (p : Nat) (b : Bool) : (s.setMask p b).chosen = s.chosen := rfl
@[simp] theorem setMask_cur (s : State) (p : Nat) (b : Bool) : (s.setMask p b).cur = s.cur := rfl
@[simp] theorem setMask_late (s : State) (p : Nat) (b : Bool) : (s.setMask p b).late = s.late := rfl
@[simp] theorem setMask_freshCount (s : State) (p : Nat) (b : Bool) : (s.setMask p b).freshCount = s.freshCount := rfl
@[simp] theorem setMask_nextCore (s : State) (p : Nat) (b : Bool) : (s.setMask p b).nextCore = s.nextCore := rfl
@[simp] theorem setMask_turn (s : State) (p : Nat) (b : Bool) : (s.setMask p b).turn = s.turn := rfl

theorem warp_setWarp (s : State) (i j : Nat) (w : Warp) : (s.setWarp i w).warp j = if j = i then w else s.warp j :=
  Sparse.get_set _ _ _ _ _
@[simp] theorem warp_setWarp_self (s : State) (i : Nat) (w : Warp) : (s.setWarp i w).warp i = w := Sparse.get_set_self _ _ _ _
theorem warp_setWarp_other (s : State) {i j : Nat} (w : Warp) (h : j ≠ i) : (s.setWarp i w).warp j = s.warp j :=
  Sparse.get_set_other _ _ _ h
@[simp] theorem setWarp_setWarp (s : State) (i : Nat) (w x : Warp) : (s.setWarp i w).setWarp i x = s.setWarp i x := by
  simp [setWarp, Sparse.set_set]
@[simp] theorem warp_updWarp_self (s : State) (i : Nat) (f : Warp → Warp) : (s.updWarp i f).warp i = f (s.warp i) :=
  warp_setWarp_self _ _ _
@[simp] theorem core_setCore_self (s : State) (i : Nat) (x : Core) : (s.setCore i x).core i = x := Sparse.get_set_self _ _ _ _
@[simp] theorem column_setColumn_self (s : State) (i : Nat) (x : Column) : (s.setColumn i x).column i = x :=
  Sparse.get_set_self _ _ _ _
@[simp] theorem die_setDie_self (s : State) (i : Nat) (x : Die) : (s.setDie i x).die i = x := Sparse.get_set_self _ _ _ _
@[simp] theorem frame_setFrame_self (s : State) (i : Nat) (x : Frame) : (s.setFrame i x).frame i = x :=
  Sparse.get_set_self _ _ _ _
@[simp] theorem tenant_setTenant_self (s : State) (i : Nat) (x : Tenant) : (s.setTenant i x).tenant i = x :=
  Sparse.get_set_self _ _ _ _
@[simp] theorem partition_setPartition_self (s : State) (i : Nat) (x : Partition) : (s.setPartition i x).partition i = x :=
  Sparse.get_set_self _ _ _ _
@[simp] theorem grid_setGrid_self (s : State) (i : Nat) (x : Grid) : (s.setGrid i x).grid i = x := Sparse.get_set_self _ _ _ _
@[simp] theorem budget_setBudget_self (s : State) (i : Nat) (x : Budget) : (s.setBudget i x).budget i = x :=
  Sparse.get_set_self _ _ _ _
@[simp] theorem linkDir_setLinkDir_self (s : State) (i : Nat) (x : LinkDir) : (s.setLinkDir i x).linkDir i = x :=
  Sparse.get_set_self _ _ _ _
theorem byteAt_setByte (s : State) (p q : Nat) (b : Byte) : (s.setByte p b).byteAt q = if q = p then b else s.byteAt q :=
  Sparse.get_set _ _ _ _ _
theorem setByte_wf (s : State) (p : Nat) (b : Byte) (h : Memory.wf s.mem = true) : Memory.wf (s.setByte p b).mem = true :=
  Sparse.canonical_set _ _ _ _ h

end State

namespace Warp

@[simp] theorem setLane_v (w : Warp) (l : Nat) (x : Lane) : (w.setLane l x).v = w.v := rfl
@[simp] theorem setLane_k (w : Warp) (l : Nat) (x : Lane) : (w.setLane l x).k = w.k := rfl
@[simp] theorem setLane_p (w : Warp) (l : Nat) (x : Lane) : (w.setLane l x).p = w.p := rfl
@[simp] theorem setLane_acc (w : Warp) (l : Nat) (x : Lane) : (w.setLane l x).acc = w.acc := rfl
@[simp] theorem setLane_pf (w : Warp) (l : Nat) (x : Lane) : (w.setLane l x).pf = w.pf := rfl
@[simp] theorem setLane_cv (w : Warp) (l : Nat) (x : Lane) : (w.setLane l x).cv = w.cv := rfl
@[simp] theorem setLane_om (w : Warp) (l : Nat) (x : Lane) : (w.setLane l x).om = w.om := rfl
@[simp] theorem setLane_bd (w : Warp) (l : Nat) (x : Lane) : (w.setLane l x).bd = w.bd := rfl
@[simp] theorem setLane_tvec (w : Warp) (l : Nat) (x : Lane) : (w.setLane l x).tvec = w.tvec := rfl
@[simp] theorem setLane_fpflags (w : Warp) (l : Nat) (x : Lane) : (w.setLane l x).fpflags = w.fpflags := rfl
@[simp] theorem setLane_fptrapen (w : Warp) (l : Nat) (x : Lane) : (w.setLane l x).fptrapen = w.fptrapen := rfl
@[simp] theorem setLane_feLimit (w : Warp) (l : Nat) (x : Lane) : (w.setLane l x).feLimit = w.feLimit := rfl
@[simp] theorem setLane_gtwake (w : Warp) (l : Nat) (x : Lane) : (w.setLane l x).gtwake = w.gtwake := rfl
@[simp] theorem setLane_prio (w : Warp) (l : Nat) (x : Lane) : (w.setLane l x).prio = w.prio := rfl
@[simp] theorem setLane_ext (w : Warp) (l : Nat) (x : Lane) : (w.setLane l x).ext = w.ext := rfl
@[simp] theorem setLane_wsel (w : Warp) (l : Nat) (x : Lane) : (w.setLane l x).wsel = w.wsel := rfl
@[simp] theorem setLane_nf (w : Warp) (l : Nat) (x : Lane) : (w.setLane l x).nf = w.nf := rfl
@[simp] theorem setLane_na (w : Warp) (l : Nat) (x : Lane) : (w.setLane l x).na = w.na := rfl
@[simp] theorem setLane_rob (w : Warp) (l : Nat) (x : Lane) : (w.setLane l x).rob = w.rob := rfl
@[simp] theorem setLane_pauses (w : Warp) (l : Nat) (x : Lane) : (w.setLane l x).pauses = w.pauses := rfl
@[simp] theorem setLane_secondary (w : Warp) (l : Nat) (x : Lane) : (w.setLane l x).secondary = w.secondary := rfl
@[simp] theorem setLane_waitCount (w : Warp) (l : Nat) (x : Lane) : (w.setLane l x).waitCount = w.waitCount := rfl
@[simp] theorem setLane_lastIssue (w : Warp) (l : Nat) (x : Lane) : (w.setLane l x).lastIssue = w.lastIssue := rfl
@[simp] theorem setLane_yielded (w : Warp) (l : Nat) (x : Lane) : (w.setLane l x).yielded = w.yielded := rfl
@[simp] theorem setLane_yieldWarp (w : Warp) (l : Nat) (x : Lane) : (w.setLane l x).yieldWarp = w.yieldWarp := rfl
@[simp] theorem setLane_lines (w : Warp) (l : Nat) (x : Lane) : (w.setLane l x).lines = w.lines := rfl
@[simp] theorem setLane_hangBase (w : Warp) (l : Nat) (x : Lane) : (w.setLane l x).hangBase = w.hangBase := rfl
@[simp] theorem setLane_parkedSince (w : Warp) (l : Nat) (x : Lane) : (w.setLane l x).parkedSince = w.parkedSince := rfl
@[simp] theorem setLane_gwct (w : Warp) (l : Nat) (x : Lane) : (w.setLane l x).gwct = w.gwct := rfl
@[simp] theorem setLane_scStamp (w : Warp) (l : Nat) (x : Lane) : (w.setLane l x).scStamp = w.scStamp := rfl
@[simp] theorem setLane_wretired (w : Warp) (l : Nat) (x : Lane) : (w.setLane l x).wretired = w.wretired := rfl
@[simp] theorem setLane_wissued (w : Warp) (l : Nat) (x : Lane) : (w.setLane l x).wissued = w.wissued := rfl
@[simp] theorem setLane_wstall (w : Warp) (l : Nat) (x : Lane) : (w.setLane l x).wstall = w.wstall := rfl
@[simp] theorem setLane_barwait (w : Warp) (l : Nat) (x : Lane) : (w.setLane l x).barwait = w.barwait := rfl
@[simp] theorem setLane_records (w : Warp) (l : Nat) (x : Lane) : (w.setLane l x).records = w.records := rfl
@[simp] theorem setLane_lost (w : Warp) (l : Nat) (x : Lane) : (w.setLane l x).lost = w.lost := rfl
@[simp] theorem setLane_seq (w : Warp) (l : Nat) (x : Lane) : (w.setLane l x).seq = w.seq := rfl
@[simp] theorem setLane_entered (w : Warp) (l : Nat) (x : Lane) : (w.setLane l x).entered = w.entered := rfl
@[simp] theorem setLane_grid (w : Warp) (l : Nat) (x : Lane) : (w.setLane l x).grid = w.grid := rfl
@[simp] theorem setLane_block (w : Warp) (l : Nat) (x : Lane) : (w.setLane l x).block = w.block := rfl
@[simp] theorem setLane_warpNo (w : Warp) (l : Nat) (x : Lane) : (w.setLane l x).warpNo = w.warpNo := rfl
@[simp] theorem setLane_tenant (w : Warp) (l : Nat) (x : Lane) : (w.setLane l x).tenant = w.tenant := rfl
@[simp] theorem setLane_gen (w : Warp) (l : Nat) (x : Lane) : (w.setLane l x).gen = w.gen := rfl
@[simp] theorem setLane_spTenant (w : Warp) (l : Nat) (x : Lane) : (w.setLane l x).spTenant = w.spTenant := rfl
@[simp] theorem setLane_spPkg (w : Warp) (l : Nat) (x : Lane) : (w.setLane l x).spPkg = w.spPkg := rfl
@[simp] theorem setLane_gcore (w : Warp) (l : Nat) (x : Lane) : (w.setLane l x).gcore = w.gcore := rfl
@[simp] theorem setLane_slot (w : Warp) (l : Nat) (x : Lane) : (w.setLane l x).slot = w.slot := rfl
@[simp] theorem setLane_residence (w : Warp) (l : Nat) (x : Lane) : (w.setLane l x).residence = w.residence := rfl
@[simp] theorem setLane_notes (w : Warp) (l : Nat) (x : Lane) : (w.setLane l x).notes = w.notes := rfl
@[simp] theorem setLane_starting (w : Warp) (l : Nat) (x : Lane) : (w.setLane l x).starting = w.starting := rfl

@[simp] theorem updLane_v (w : Warp) (l : Nat) (f : Lane → Lane) : (w.updLane l f).v = w.v := rfl
@[simp] theorem updLane_k (w : Warp) (l : Nat) (f : Lane → Lane) : (w.updLane l f).k = w.k := rfl
@[simp] theorem updLane_p (w : Warp) (l : Nat) (f : Lane → Lane) : (w.updLane l f).p = w.p := rfl
@[simp] theorem updLane_acc (w : Warp) (l : Nat) (f : Lane → Lane) : (w.updLane l f).acc = w.acc := rfl
@[simp] theorem updLane_pf (w : Warp) (l : Nat) (f : Lane → Lane) : (w.updLane l f).pf = w.pf := rfl
@[simp] theorem updLane_cv (w : Warp) (l : Nat) (f : Lane → Lane) : (w.updLane l f).cv = w.cv := rfl
@[simp] theorem updLane_om (w : Warp) (l : Nat) (f : Lane → Lane) : (w.updLane l f).om = w.om := rfl
@[simp] theorem updLane_bd (w : Warp) (l : Nat) (f : Lane → Lane) : (w.updLane l f).bd = w.bd := rfl
@[simp] theorem updLane_tvec (w : Warp) (l : Nat) (f : Lane → Lane) : (w.updLane l f).tvec = w.tvec := rfl
@[simp] theorem updLane_fpflags (w : Warp) (l : Nat) (f : Lane → Lane) : (w.updLane l f).fpflags = w.fpflags := rfl
@[simp] theorem updLane_fptrapen (w : Warp) (l : Nat) (f : Lane → Lane) : (w.updLane l f).fptrapen = w.fptrapen := rfl
@[simp] theorem updLane_feLimit (w : Warp) (l : Nat) (f : Lane → Lane) : (w.updLane l f).feLimit = w.feLimit := rfl
@[simp] theorem updLane_gtwake (w : Warp) (l : Nat) (f : Lane → Lane) : (w.updLane l f).gtwake = w.gtwake := rfl
@[simp] theorem updLane_prio (w : Warp) (l : Nat) (f : Lane → Lane) : (w.updLane l f).prio = w.prio := rfl
@[simp] theorem updLane_ext (w : Warp) (l : Nat) (f : Lane → Lane) : (w.updLane l f).ext = w.ext := rfl
@[simp] theorem updLane_wsel (w : Warp) (l : Nat) (f : Lane → Lane) : (w.updLane l f).wsel = w.wsel := rfl
@[simp] theorem updLane_nf (w : Warp) (l : Nat) (f : Lane → Lane) : (w.updLane l f).nf = w.nf := rfl
@[simp] theorem updLane_na (w : Warp) (l : Nat) (f : Lane → Lane) : (w.updLane l f).na = w.na := rfl
@[simp] theorem updLane_rob (w : Warp) (l : Nat) (f : Lane → Lane) : (w.updLane l f).rob = w.rob := rfl
@[simp] theorem updLane_pauses (w : Warp) (l : Nat) (f : Lane → Lane) : (w.updLane l f).pauses = w.pauses := rfl
@[simp] theorem updLane_secondary (w : Warp) (l : Nat) (f : Lane → Lane) : (w.updLane l f).secondary = w.secondary := rfl
@[simp] theorem updLane_waitCount (w : Warp) (l : Nat) (f : Lane → Lane) : (w.updLane l f).waitCount = w.waitCount := rfl
@[simp] theorem updLane_lastIssue (w : Warp) (l : Nat) (f : Lane → Lane) : (w.updLane l f).lastIssue = w.lastIssue := rfl
@[simp] theorem updLane_yielded (w : Warp) (l : Nat) (f : Lane → Lane) : (w.updLane l f).yielded = w.yielded := rfl
@[simp] theorem updLane_yieldWarp (w : Warp) (l : Nat) (f : Lane → Lane) : (w.updLane l f).yieldWarp = w.yieldWarp := rfl
@[simp] theorem updLane_lines (w : Warp) (l : Nat) (f : Lane → Lane) : (w.updLane l f).lines = w.lines := rfl
@[simp] theorem updLane_hangBase (w : Warp) (l : Nat) (f : Lane → Lane) : (w.updLane l f).hangBase = w.hangBase := rfl
@[simp] theorem updLane_parkedSince (w : Warp) (l : Nat) (f : Lane → Lane) : (w.updLane l f).parkedSince = w.parkedSince := rfl
@[simp] theorem updLane_gwct (w : Warp) (l : Nat) (f : Lane → Lane) : (w.updLane l f).gwct = w.gwct := rfl
@[simp] theorem updLane_scStamp (w : Warp) (l : Nat) (f : Lane → Lane) : (w.updLane l f).scStamp = w.scStamp := rfl
@[simp] theorem updLane_wretired (w : Warp) (l : Nat) (f : Lane → Lane) : (w.updLane l f).wretired = w.wretired := rfl
@[simp] theorem updLane_wissued (w : Warp) (l : Nat) (f : Lane → Lane) : (w.updLane l f).wissued = w.wissued := rfl
@[simp] theorem updLane_wstall (w : Warp) (l : Nat) (f : Lane → Lane) : (w.updLane l f).wstall = w.wstall := rfl
@[simp] theorem updLane_barwait (w : Warp) (l : Nat) (f : Lane → Lane) : (w.updLane l f).barwait = w.barwait := rfl
@[simp] theorem updLane_records (w : Warp) (l : Nat) (f : Lane → Lane) : (w.updLane l f).records = w.records := rfl
@[simp] theorem updLane_lost (w : Warp) (l : Nat) (f : Lane → Lane) : (w.updLane l f).lost = w.lost := rfl
@[simp] theorem updLane_seq (w : Warp) (l : Nat) (f : Lane → Lane) : (w.updLane l f).seq = w.seq := rfl
@[simp] theorem updLane_entered (w : Warp) (l : Nat) (f : Lane → Lane) : (w.updLane l f).entered = w.entered := rfl
@[simp] theorem updLane_grid (w : Warp) (l : Nat) (f : Lane → Lane) : (w.updLane l f).grid = w.grid := rfl
@[simp] theorem updLane_block (w : Warp) (l : Nat) (f : Lane → Lane) : (w.updLane l f).block = w.block := rfl
@[simp] theorem updLane_warpNo (w : Warp) (l : Nat) (f : Lane → Lane) : (w.updLane l f).warpNo = w.warpNo := rfl
@[simp] theorem updLane_tenant (w : Warp) (l : Nat) (f : Lane → Lane) : (w.updLane l f).tenant = w.tenant := rfl
@[simp] theorem updLane_gen (w : Warp) (l : Nat) (f : Lane → Lane) : (w.updLane l f).gen = w.gen := rfl
@[simp] theorem updLane_spTenant (w : Warp) (l : Nat) (f : Lane → Lane) : (w.updLane l f).spTenant = w.spTenant := rfl
@[simp] theorem updLane_spPkg (w : Warp) (l : Nat) (f : Lane → Lane) : (w.updLane l f).spPkg = w.spPkg := rfl
@[simp] theorem updLane_gcore (w : Warp) (l : Nat) (f : Lane → Lane) : (w.updLane l f).gcore = w.gcore := rfl
@[simp] theorem updLane_slot (w : Warp) (l : Nat) (f : Lane → Lane) : (w.updLane l f).slot = w.slot := rfl
@[simp] theorem updLane_residence (w : Warp) (l : Nat) (f : Lane → Lane) : (w.updLane l f).residence = w.residence := rfl
@[simp] theorem updLane_notes (w : Warp) (l : Nat) (f : Lane → Lane) : (w.updLane l f).notes = w.notes := rfl
@[simp] theorem updLane_starting (w : Warp) (l : Nat) (f : Lane → Lane) : (w.updLane l f).starting = w.starting := rfl

@[simp] theorem setV_k (w : Warp) (l n : Nat) (x : Word) : (w.setV l n x).k = w.k := rfl
@[simp] theorem setV_p (w : Warp) (l n : Nat) (x : Word) : (w.setV l n x).p = w.p := rfl
@[simp] theorem setV_acc (w : Warp) (l n : Nat) (x : Word) : (w.setV l n x).acc = w.acc := rfl
@[simp] theorem setV_pf (w : Warp) (l n : Nat) (x : Word) : (w.setV l n x).pf = w.pf := rfl
@[simp] theorem setV_cv (w : Warp) (l n : Nat) (x : Word) : (w.setV l n x).cv = w.cv := rfl
@[simp] theorem setV_om (w : Warp) (l n : Nat) (x : Word) : (w.setV l n x).om = w.om := rfl
@[simp] theorem setV_bd (w : Warp) (l n : Nat) (x : Word) : (w.setV l n x).bd = w.bd := rfl
@[simp] theorem setV_tvec (w : Warp) (l n : Nat) (x : Word) : (w.setV l n x).tvec = w.tvec := rfl
@[simp] theorem setV_fpflags (w : Warp) (l n : Nat) (x : Word) : (w.setV l n x).fpflags = w.fpflags := rfl
@[simp] theorem setV_fptrapen (w : Warp) (l n : Nat) (x : Word) : (w.setV l n x).fptrapen = w.fptrapen := rfl
@[simp] theorem setV_feLimit (w : Warp) (l n : Nat) (x : Word) : (w.setV l n x).feLimit = w.feLimit := rfl
@[simp] theorem setV_gtwake (w : Warp) (l n : Nat) (x : Word) : (w.setV l n x).gtwake = w.gtwake := rfl
@[simp] theorem setV_prio (w : Warp) (l n : Nat) (x : Word) : (w.setV l n x).prio = w.prio := rfl
@[simp] theorem setV_ext (w : Warp) (l n : Nat) (x : Word) : (w.setV l n x).ext = w.ext := rfl
@[simp] theorem setV_wsel (w : Warp) (l n : Nat) (x : Word) : (w.setV l n x).wsel = w.wsel := rfl
@[simp] theorem setV_nf (w : Warp) (l n : Nat) (x : Word) : (w.setV l n x).nf = w.nf := rfl
@[simp] theorem setV_na (w : Warp) (l n : Nat) (x : Word) : (w.setV l n x).na = w.na := rfl
@[simp] theorem setV_lanes (w : Warp) (l n : Nat) (x : Word) : (w.setV l n x).lanes = w.lanes := rfl
@[simp] theorem setV_rob (w : Warp) (l n : Nat) (x : Word) : (w.setV l n x).rob = w.rob := rfl
@[simp] theorem setV_pauses (w : Warp) (l n : Nat) (x : Word) : (w.setV l n x).pauses = w.pauses := rfl
@[simp] theorem setV_secondary (w : Warp) (l n : Nat) (x : Word) : (w.setV l n x).secondary = w.secondary := rfl
@[simp] theorem setV_waitCount (w : Warp) (l n : Nat) (x : Word) : (w.setV l n x).waitCount = w.waitCount := rfl
@[simp] theorem setV_lastIssue (w : Warp) (l n : Nat) (x : Word) : (w.setV l n x).lastIssue = w.lastIssue := rfl
@[simp] theorem setV_yielded (w : Warp) (l n : Nat) (x : Word) : (w.setV l n x).yielded = w.yielded := rfl
@[simp] theorem setV_yieldWarp (w : Warp) (l n : Nat) (x : Word) : (w.setV l n x).yieldWarp = w.yieldWarp := rfl
@[simp] theorem setV_lines (w : Warp) (l n : Nat) (x : Word) : (w.setV l n x).lines = w.lines := rfl
@[simp] theorem setV_hangBase (w : Warp) (l n : Nat) (x : Word) : (w.setV l n x).hangBase = w.hangBase := rfl
@[simp] theorem setV_parkedSince (w : Warp) (l n : Nat) (x : Word) : (w.setV l n x).parkedSince = w.parkedSince := rfl
@[simp] theorem setV_gwct (w : Warp) (l n : Nat) (x : Word) : (w.setV l n x).gwct = w.gwct := rfl
@[simp] theorem setV_scStamp (w : Warp) (l n : Nat) (x : Word) : (w.setV l n x).scStamp = w.scStamp := rfl
@[simp] theorem setV_wretired (w : Warp) (l n : Nat) (x : Word) : (w.setV l n x).wretired = w.wretired := rfl
@[simp] theorem setV_wissued (w : Warp) (l n : Nat) (x : Word) : (w.setV l n x).wissued = w.wissued := rfl
@[simp] theorem setV_wstall (w : Warp) (l n : Nat) (x : Word) : (w.setV l n x).wstall = w.wstall := rfl
@[simp] theorem setV_barwait (w : Warp) (l n : Nat) (x : Word) : (w.setV l n x).barwait = w.barwait := rfl
@[simp] theorem setV_records (w : Warp) (l n : Nat) (x : Word) : (w.setV l n x).records = w.records := rfl
@[simp] theorem setV_lost (w : Warp) (l n : Nat) (x : Word) : (w.setV l n x).lost = w.lost := rfl
@[simp] theorem setV_seq (w : Warp) (l n : Nat) (x : Word) : (w.setV l n x).seq = w.seq := rfl
@[simp] theorem setV_entered (w : Warp) (l n : Nat) (x : Word) : (w.setV l n x).entered = w.entered := rfl
@[simp] theorem setV_grid (w : Warp) (l n : Nat) (x : Word) : (w.setV l n x).grid = w.grid := rfl
@[simp] theorem setV_block (w : Warp) (l n : Nat) (x : Word) : (w.setV l n x).block = w.block := rfl
@[simp] theorem setV_warpNo (w : Warp) (l n : Nat) (x : Word) : (w.setV l n x).warpNo = w.warpNo := rfl
@[simp] theorem setV_tenant (w : Warp) (l n : Nat) (x : Word) : (w.setV l n x).tenant = w.tenant := rfl
@[simp] theorem setV_gen (w : Warp) (l n : Nat) (x : Word) : (w.setV l n x).gen = w.gen := rfl
@[simp] theorem setV_spTenant (w : Warp) (l n : Nat) (x : Word) : (w.setV l n x).spTenant = w.spTenant := rfl
@[simp] theorem setV_spPkg (w : Warp) (l n : Nat) (x : Word) : (w.setV l n x).spPkg = w.spPkg := rfl
@[simp] theorem setV_gcore (w : Warp) (l n : Nat) (x : Word) : (w.setV l n x).gcore = w.gcore := rfl
@[simp] theorem setV_slot (w : Warp) (l n : Nat) (x : Word) : (w.setV l n x).slot = w.slot := rfl
@[simp] theorem setV_residence (w : Warp) (l n : Nat) (x : Word) : (w.setV l n x).residence = w.residence := rfl
@[simp] theorem setV_notes (w : Warp) (l n : Nat) (x : Word) : (w.setV l n x).notes = w.notes := rfl
@[simp] theorem setV_starting (w : Warp) (l n : Nat) (x : Word) : (w.setV l n x).starting = w.starting := rfl

@[simp] theorem setK_v (w : Warp) (n : Nat) (x : DWord) : (w.setK n x).v = w.v := rfl
@[simp] theorem setK_p (w : Warp) (n : Nat) (x : DWord) : (w.setK n x).p = w.p := rfl
@[simp] theorem setK_acc (w : Warp) (n : Nat) (x : DWord) : (w.setK n x).acc = w.acc := rfl
@[simp] theorem setK_pf (w : Warp) (n : Nat) (x : DWord) : (w.setK n x).pf = w.pf := rfl
@[simp] theorem setK_cv (w : Warp) (n : Nat) (x : DWord) : (w.setK n x).cv = w.cv := rfl
@[simp] theorem setK_om (w : Warp) (n : Nat) (x : DWord) : (w.setK n x).om = w.om := rfl
@[simp] theorem setK_bd (w : Warp) (n : Nat) (x : DWord) : (w.setK n x).bd = w.bd := rfl
@[simp] theorem setK_tvec (w : Warp) (n : Nat) (x : DWord) : (w.setK n x).tvec = w.tvec := rfl
@[simp] theorem setK_fpflags (w : Warp) (n : Nat) (x : DWord) : (w.setK n x).fpflags = w.fpflags := rfl
@[simp] theorem setK_fptrapen (w : Warp) (n : Nat) (x : DWord) : (w.setK n x).fptrapen = w.fptrapen := rfl
@[simp] theorem setK_feLimit (w : Warp) (n : Nat) (x : DWord) : (w.setK n x).feLimit = w.feLimit := rfl
@[simp] theorem setK_gtwake (w : Warp) (n : Nat) (x : DWord) : (w.setK n x).gtwake = w.gtwake := rfl
@[simp] theorem setK_prio (w : Warp) (n : Nat) (x : DWord) : (w.setK n x).prio = w.prio := rfl
@[simp] theorem setK_ext (w : Warp) (n : Nat) (x : DWord) : (w.setK n x).ext = w.ext := rfl
@[simp] theorem setK_wsel (w : Warp) (n : Nat) (x : DWord) : (w.setK n x).wsel = w.wsel := rfl
@[simp] theorem setK_nf (w : Warp) (n : Nat) (x : DWord) : (w.setK n x).nf = w.nf := rfl
@[simp] theorem setK_na (w : Warp) (n : Nat) (x : DWord) : (w.setK n x).na = w.na := rfl
@[simp] theorem setK_lanes (w : Warp) (n : Nat) (x : DWord) : (w.setK n x).lanes = w.lanes := rfl
@[simp] theorem setK_rob (w : Warp) (n : Nat) (x : DWord) : (w.setK n x).rob = w.rob := rfl
@[simp] theorem setK_pauses (w : Warp) (n : Nat) (x : DWord) : (w.setK n x).pauses = w.pauses := rfl
@[simp] theorem setK_secondary (w : Warp) (n : Nat) (x : DWord) : (w.setK n x).secondary = w.secondary := rfl
@[simp] theorem setK_waitCount (w : Warp) (n : Nat) (x : DWord) : (w.setK n x).waitCount = w.waitCount := rfl
@[simp] theorem setK_lastIssue (w : Warp) (n : Nat) (x : DWord) : (w.setK n x).lastIssue = w.lastIssue := rfl
@[simp] theorem setK_yielded (w : Warp) (n : Nat) (x : DWord) : (w.setK n x).yielded = w.yielded := rfl
@[simp] theorem setK_yieldWarp (w : Warp) (n : Nat) (x : DWord) : (w.setK n x).yieldWarp = w.yieldWarp := rfl
@[simp] theorem setK_lines (w : Warp) (n : Nat) (x : DWord) : (w.setK n x).lines = w.lines := rfl
@[simp] theorem setK_hangBase (w : Warp) (n : Nat) (x : DWord) : (w.setK n x).hangBase = w.hangBase := rfl
@[simp] theorem setK_parkedSince (w : Warp) (n : Nat) (x : DWord) : (w.setK n x).parkedSince = w.parkedSince := rfl
@[simp] theorem setK_gwct (w : Warp) (n : Nat) (x : DWord) : (w.setK n x).gwct = w.gwct := rfl
@[simp] theorem setK_scStamp (w : Warp) (n : Nat) (x : DWord) : (w.setK n x).scStamp = w.scStamp := rfl
@[simp] theorem setK_wretired (w : Warp) (n : Nat) (x : DWord) : (w.setK n x).wretired = w.wretired := rfl
@[simp] theorem setK_wissued (w : Warp) (n : Nat) (x : DWord) : (w.setK n x).wissued = w.wissued := rfl
@[simp] theorem setK_wstall (w : Warp) (n : Nat) (x : DWord) : (w.setK n x).wstall = w.wstall := rfl
@[simp] theorem setK_barwait (w : Warp) (n : Nat) (x : DWord) : (w.setK n x).barwait = w.barwait := rfl
@[simp] theorem setK_records (w : Warp) (n : Nat) (x : DWord) : (w.setK n x).records = w.records := rfl
@[simp] theorem setK_lost (w : Warp) (n : Nat) (x : DWord) : (w.setK n x).lost = w.lost := rfl
@[simp] theorem setK_seq (w : Warp) (n : Nat) (x : DWord) : (w.setK n x).seq = w.seq := rfl
@[simp] theorem setK_entered (w : Warp) (n : Nat) (x : DWord) : (w.setK n x).entered = w.entered := rfl
@[simp] theorem setK_grid (w : Warp) (n : Nat) (x : DWord) : (w.setK n x).grid = w.grid := rfl
@[simp] theorem setK_block (w : Warp) (n : Nat) (x : DWord) : (w.setK n x).block = w.block := rfl
@[simp] theorem setK_warpNo (w : Warp) (n : Nat) (x : DWord) : (w.setK n x).warpNo = w.warpNo := rfl
@[simp] theorem setK_tenant (w : Warp) (n : Nat) (x : DWord) : (w.setK n x).tenant = w.tenant := rfl
@[simp] theorem setK_gen (w : Warp) (n : Nat) (x : DWord) : (w.setK n x).gen = w.gen := rfl
@[simp] theorem setK_spTenant (w : Warp) (n : Nat) (x : DWord) : (w.setK n x).spTenant = w.spTenant := rfl
@[simp] theorem setK_spPkg (w : Warp) (n : Nat) (x : DWord) : (w.setK n x).spPkg = w.spPkg := rfl
@[simp] theorem setK_gcore (w : Warp) (n : Nat) (x : DWord) : (w.setK n x).gcore = w.gcore := rfl
@[simp] theorem setK_slot (w : Warp) (n : Nat) (x : DWord) : (w.setK n x).slot = w.slot := rfl
@[simp] theorem setK_residence (w : Warp) (n : Nat) (x : DWord) : (w.setK n x).residence = w.residence := rfl
@[simp] theorem setK_notes (w : Warp) (n : Nat) (x : DWord) : (w.setK n x).notes = w.notes := rfl
@[simp] theorem setK_starting (w : Warp) (n : Nat) (x : DWord) : (w.setK n x).starting = w.starting := rfl

@[simp] theorem setP_v (w : Warp) (l n : Nat) (b : Bool) : (w.setP l n b).v = w.v := by unfold setP; split <;> rfl
@[simp] theorem setP_k (w : Warp) (l n : Nat) (b : Bool) : (w.setP l n b).k = w.k := by unfold setP; split <;> rfl
@[simp] theorem setP_acc (w : Warp) (l n : Nat) (b : Bool) : (w.setP l n b).acc = w.acc := by unfold setP; split <;> rfl
@[simp] theorem setP_pf (w : Warp) (l n : Nat) (b : Bool) : (w.setP l n b).pf = w.pf := by unfold setP; split <;> rfl
@[simp] theorem setP_cv (w : Warp) (l n : Nat) (b : Bool) : (w.setP l n b).cv = w.cv := by unfold setP; split <;> rfl
@[simp] theorem setP_om (w : Warp) (l n : Nat) (b : Bool) : (w.setP l n b).om = w.om := by unfold setP; split <;> rfl
@[simp] theorem setP_bd (w : Warp) (l n : Nat) (b : Bool) : (w.setP l n b).bd = w.bd := by unfold setP; split <;> rfl
@[simp] theorem setP_tvec (w : Warp) (l n : Nat) (b : Bool) : (w.setP l n b).tvec = w.tvec := by unfold setP; split <;> rfl
@[simp] theorem setP_fpflags (w : Warp) (l n : Nat) (b : Bool) : (w.setP l n b).fpflags = w.fpflags := by unfold setP; split <;> rfl
@[simp] theorem setP_fptrapen (w : Warp) (l n : Nat) (b : Bool) : (w.setP l n b).fptrapen = w.fptrapen := by unfold setP; split <;> rfl
@[simp] theorem setP_feLimit (w : Warp) (l n : Nat) (b : Bool) : (w.setP l n b).feLimit = w.feLimit := by unfold setP; split <;> rfl
@[simp] theorem setP_gtwake (w : Warp) (l n : Nat) (b : Bool) : (w.setP l n b).gtwake = w.gtwake := by unfold setP; split <;> rfl
@[simp] theorem setP_prio (w : Warp) (l n : Nat) (b : Bool) : (w.setP l n b).prio = w.prio := by unfold setP; split <;> rfl
@[simp] theorem setP_ext (w : Warp) (l n : Nat) (b : Bool) : (w.setP l n b).ext = w.ext := by unfold setP; split <;> rfl
@[simp] theorem setP_wsel (w : Warp) (l n : Nat) (b : Bool) : (w.setP l n b).wsel = w.wsel := by unfold setP; split <;> rfl
@[simp] theorem setP_nf (w : Warp) (l n : Nat) (b : Bool) : (w.setP l n b).nf = w.nf := by unfold setP; split <;> rfl
@[simp] theorem setP_na (w : Warp) (l n : Nat) (b : Bool) : (w.setP l n b).na = w.na := by unfold setP; split <;> rfl
@[simp] theorem setP_lanes (w : Warp) (l n : Nat) (b : Bool) : (w.setP l n b).lanes = w.lanes := by unfold setP; split <;> rfl
@[simp] theorem setP_rob (w : Warp) (l n : Nat) (b : Bool) : (w.setP l n b).rob = w.rob := by unfold setP; split <;> rfl
@[simp] theorem setP_pauses (w : Warp) (l n : Nat) (b : Bool) : (w.setP l n b).pauses = w.pauses := by unfold setP; split <;> rfl
@[simp] theorem setP_secondary (w : Warp) (l n : Nat) (b : Bool) : (w.setP l n b).secondary = w.secondary := by unfold setP; split <;> rfl
@[simp] theorem setP_waitCount (w : Warp) (l n : Nat) (b : Bool) : (w.setP l n b).waitCount = w.waitCount := by unfold setP; split <;> rfl
@[simp] theorem setP_lastIssue (w : Warp) (l n : Nat) (b : Bool) : (w.setP l n b).lastIssue = w.lastIssue := by unfold setP; split <;> rfl
@[simp] theorem setP_yielded (w : Warp) (l n : Nat) (b : Bool) : (w.setP l n b).yielded = w.yielded := by unfold setP; split <;> rfl
@[simp] theorem setP_yieldWarp (w : Warp) (l n : Nat) (b : Bool) : (w.setP l n b).yieldWarp = w.yieldWarp := by unfold setP; split <;> rfl
@[simp] theorem setP_lines (w : Warp) (l n : Nat) (b : Bool) : (w.setP l n b).lines = w.lines := by unfold setP; split <;> rfl
@[simp] theorem setP_hangBase (w : Warp) (l n : Nat) (b : Bool) : (w.setP l n b).hangBase = w.hangBase := by unfold setP; split <;> rfl
@[simp] theorem setP_parkedSince (w : Warp) (l n : Nat) (b : Bool) : (w.setP l n b).parkedSince = w.parkedSince := by unfold setP; split <;> rfl
@[simp] theorem setP_gwct (w : Warp) (l n : Nat) (b : Bool) : (w.setP l n b).gwct = w.gwct := by unfold setP; split <;> rfl
@[simp] theorem setP_scStamp (w : Warp) (l n : Nat) (b : Bool) : (w.setP l n b).scStamp = w.scStamp := by unfold setP; split <;> rfl
@[simp] theorem setP_wretired (w : Warp) (l n : Nat) (b : Bool) : (w.setP l n b).wretired = w.wretired := by unfold setP; split <;> rfl
@[simp] theorem setP_wissued (w : Warp) (l n : Nat) (b : Bool) : (w.setP l n b).wissued = w.wissued := by unfold setP; split <;> rfl
@[simp] theorem setP_wstall (w : Warp) (l n : Nat) (b : Bool) : (w.setP l n b).wstall = w.wstall := by unfold setP; split <;> rfl
@[simp] theorem setP_barwait (w : Warp) (l n : Nat) (b : Bool) : (w.setP l n b).barwait = w.barwait := by unfold setP; split <;> rfl
@[simp] theorem setP_records (w : Warp) (l n : Nat) (b : Bool) : (w.setP l n b).records = w.records := by unfold setP; split <;> rfl
@[simp] theorem setP_lost (w : Warp) (l n : Nat) (b : Bool) : (w.setP l n b).lost = w.lost := by unfold setP; split <;> rfl
@[simp] theorem setP_seq (w : Warp) (l n : Nat) (b : Bool) : (w.setP l n b).seq = w.seq := by unfold setP; split <;> rfl
@[simp] theorem setP_entered (w : Warp) (l n : Nat) (b : Bool) : (w.setP l n b).entered = w.entered := by unfold setP; split <;> rfl
@[simp] theorem setP_grid (w : Warp) (l n : Nat) (b : Bool) : (w.setP l n b).grid = w.grid := by unfold setP; split <;> rfl
@[simp] theorem setP_block (w : Warp) (l n : Nat) (b : Bool) : (w.setP l n b).block = w.block := by unfold setP; split <;> rfl
@[simp] theorem setP_warpNo (w : Warp) (l n : Nat) (b : Bool) : (w.setP l n b).warpNo = w.warpNo := by unfold setP; split <;> rfl
@[simp] theorem setP_tenant (w : Warp) (l n : Nat) (b : Bool) : (w.setP l n b).tenant = w.tenant := by unfold setP; split <;> rfl
@[simp] theorem setP_gen (w : Warp) (l n : Nat) (b : Bool) : (w.setP l n b).gen = w.gen := by unfold setP; split <;> rfl
@[simp] theorem setP_spTenant (w : Warp) (l n : Nat) (b : Bool) : (w.setP l n b).spTenant = w.spTenant := by unfold setP; split <;> rfl
@[simp] theorem setP_spPkg (w : Warp) (l n : Nat) (b : Bool) : (w.setP l n b).spPkg = w.spPkg := by unfold setP; split <;> rfl
@[simp] theorem setP_gcore (w : Warp) (l n : Nat) (b : Bool) : (w.setP l n b).gcore = w.gcore := by unfold setP; split <;> rfl
@[simp] theorem setP_slot (w : Warp) (l n : Nat) (b : Bool) : (w.setP l n b).slot = w.slot := by unfold setP; split <;> rfl
@[simp] theorem setP_residence (w : Warp) (l n : Nat) (b : Bool) : (w.setP l n b).residence = w.residence := by unfold setP; split <;> rfl
@[simp] theorem setP_notes (w : Warp) (l n : Nat) (b : Bool) : (w.setP l n b).notes = w.notes := by unfold setP; split <;> rfl
@[simp] theorem setP_starting (w : Warp) (l n : Nat) (b : Bool) : (w.setP l n b).starting = w.starting := by unfold setP; split <;> rfl

theorem lane_setLane (w : Warp) (i j : Nat) (x : Lane) : (w.setLane i x).lane j = if j = i then x else w.lane j :=
  Sparse.get_set _ _ _ _ _
theorem lane_updLane (w : Warp) (i j : Nat) (f : Lane → Lane) : (w.updLane i f).lane j = if j = i then f (w.lane i) else w.lane j :=
  Sparse.get_set _ _ _ _ _
theorem getK_setK (w : Warp) (i j : Nat) (x : DWord) : (w.setK i x).getK j = if j = i then x else w.getK j :=
  Sparse.get_set _ _ _ _ _

/-- A write of one register of one lane leaves every other register of every lane alone (R77). -/
theorem getV_setV (w : Warp) {l n i j : Nat} (x : Word) (hn : n < 128) (hj : j < 128) :
    (w.setV l n x).getV i j = if i = l ∧ j = n then x else w.getV i j := by
  have h := Sparse.get_set 0 w.v (128 * i + j) (128 * l + n) x
  have e : (128 * i + j = 128 * l + n) ↔ (i = l ∧ j = n) := by omega
  simpa only [getV, setV, e] using h

/-- A write of one predicate; p7 reads true whatever is written (R46). -/
theorem getP_setP (w : Warp) {l n i j : Nat} (b : Bool) (hn : n < 8) (hj : j < 8) :
    (w.setP l n b).getP i j = if i = l ∧ j = n ∧ n ≠ 7 then b else w.getP i j := by
  unfold setP getP
  by_cases h7 : n = 7
  · simp [h7]
  · have h := Sparse.get_set false w.p (8 * i + j) (8 * l + n) b
    have e : (8 * i + j = 8 * l + n) ↔ (i = l ∧ j = n) := by omega
    by_cases hj7 : j = 7
    · have : ¬ (7 = n) := fun h => h7 h.symm
      simp [h7, hj7, this]
    · simp only [beq_iff_eq, h7, hj7, if_false, ne_eq, not_false_eq_true, and_true]
      simpa only [e] using h

end Warp

end Sys2Proof.Machine
end

