-- ==== Sys2Proof/Laws/Memory.lean ====
section
/-! SUPPORT. Spec lemmas of the memory operations: each keeps the canonical form of memory, a read after a write gives what was
written, and a write leaves every other byte alone. -/

namespace Sys2Proof.Machine

namespace State

/-- The cells are untouched. -/
theorem wf_of_cells {s t : State} (h : t.mem.cells = s.mem.cells) (hw : Memory.wf s.mem = true) : Memory.wf t.mem = true := by
  simpa only [Memory.wf, h] using hw

@[simp] theorem setSyndrome_cells (s : State) (p : Nat) (x : Word) : (s.setSyndrome p x).mem.cells = s.mem.cells := rfl
@[simp] theorem setFull_cells (s : State) (p : Nat) (b : Bool) : (s.setFull p b).mem.cells = s.mem.cells := rfl
@[simp] theorem setMask_cells (s : State) (p : Nat) (b : Bool) : (s.setMask p b).mem.cells = s.mem.cells := rfl
@[simp] theorem countCorrected_mem (s : State) (p : Nat) : (s.countCorrected p).mem = s.mem := rfl
@[simp] theorem countUncorrectable_mem (s : State) (p : Nat) : (s.countUncorrectable p).mem = s.mem := rfl
@[simp] theorem byteAt_countCorrected (s : State) (p q : Nat) : (s.countCorrected p).byteAt q = s.byteAt q := rfl
@[simp] theorem byteAt_setSyndrome (s : State) (p q : Nat) (x : Word) : (s.setSyndrome p x).byteAt q = s.byteAt q := rfl
@[simp] theorem byteAt_setFull (s : State) (p q : Nat) (b : Bool) : (s.setFull p b).byteAt q = s.byteAt q := rfl
@[simp] theorem byteAt_setMask (s : State) (p q : Nat) (b : Bool) : (s.setMask p b).byteAt q = s.byteAt q := rfl

/-! ## Several bytes -/

/-- Little-endian bytes give back the number, as far as they reach. -/
theorem leNat_leBytes (n v : Nat) : leNat (leBytes n v) = v % 256 ^ n := by
  induction n generalizing v with
  | zero => simp [leBytes, leNat, Nat.mod_one]
  | succ n ih =>
    rw [leBytes, leNat, ih, BitVec.toNat_ofNat, Nat.pow_succ' (m := 256), Nat.mod_mul]

theorem setBytes_wf (s : State) (p : Nat) (bs : List Byte) (h : Memory.wf s.mem = true) :
    Memory.wf (s.setBytes p bs).mem = true := by
  induction bs generalizing s p with
  | nil => exact h
  | cons b bs ih => exact ih _ _ (setByte_wf s p b h)

/-- What `setBytes` does to every byte. -/
theorem byteAt_setBytes (s : State) (p q : Nat) (bs : List Byte) :
    (s.setBytes p bs).byteAt q = if p ≤ q ∧ q < p + bs.length then bs.getD (q - p) 0 else s.byteAt q := by
  induction bs generalizing s p with
  | nil =>
    rw [if_neg (by simp only [List.length_nil]; omega)]; rfl
  | cons b bs ih =>
    rw [setBytes, ih, byteAt_setByte]
    simp only [List.length_cons]
    by_cases h1 : p + 1 ≤ q ∧ q < p + 1 + bs.length
    · have hq : q - p = q - (p + 1) + 1 := by omega
      rw [if_pos h1, if_pos (by omega), hq]; simp
    · rw [if_neg h1]
      by_cases h2 : q = p
      · rw [if_pos h2, if_pos (by omega), h2, Nat.sub_self]; simp
      · rw [if_neg h2, if_neg (by omega)]

/-- A read of the bytes just written. -/
theorem rawBytes_setBytes (s : State) (p : Nat) (bs : List Byte) : (s.setBytes p bs).rawBytes p bs.length = bs := by
  apply List.ext_getElem (by simp [rawBytes])
  intro i h1 h2
  have h : i < bs.length := h2
  simp [rawBytes, byteAt_setBytes, h]

theorem setBytes_ecc (s : State) (p : Nat) (bs : List Byte) : (s.setBytes p bs).mem.ecc = s.mem.ecc := by
  induction bs generalizing s p with
  | nil => rfl
  | cons b bs ih => exact ih _ _

/-! ## Words with check bits -/

theorem readyWord_wf (s : State) (p : Nat) (h : Memory.wf s.mem = true) : Memory.wf (s.readyWord p).mem = true := by
  unfold readyWord
  split
  · exact h
  · exact wf_of_cells (setSyndrome_cells _ _ _) (setBytes_wf _ _ _ (by simpa using h))
  · exact h

/-- Once it is ready for a partial write, a word is clean or uncorrectable (R220). -/
theorem readyWord_class (s : State) (p : Nat) :
    eccClass ((s.readyWord p).syndrome p) = .clean ∨ eccClass ((s.readyWord p).syndrome p) = .uncorrectable := by
  unfold readyWord
  split
  · exact .inl ‹_›
  · left; simp only [syndrome, setSyndrome, Sparse.get_set_self]; rfl
  · exact .inr ‹_›

theorem syndrome_setBytes (s : State) (p q : Nat) (bs : List Byte) : (s.setBytes p bs).syndrome q = s.syndrome q := by
  simp only [syndrome, setBytes_ecc]

theorem writeWordPart_wf (s : State) (p : Nat) (bs : List Byte) (h : Memory.wf s.mem = true) :
    Memory.wf (s.writeWordPart p bs).mem = true := by
  unfold writeWordPart
  split
  · exact setBytes_wf s p bs h
  · exact setBytes_wf _ p bs (readyWord_wf s p h)

/-- A write within one word leaves the bytes outside it alone, and where the word is clean those that it does not write. -/
theorem byteAt_writeWordPart (s : State) (p q : Nat) (bs : List Byte) (hc : eccClass (s.syndrome p) = .clean) :
    (s.writeWordPart p bs).byteAt q = if p ≤ q ∧ q < p + bs.length then bs.getD (q - p) 0 else s.byteAt q := by
  unfold writeWordPart
  split
  · rw [byteAt_setSyndrome, byteAt_setBytes]
  · rw [show s.readyWord p = s by simp only [readyWord, hc]]; exact byteAt_setBytes s p q bs

/-- A read of the part of a word that has just been written gives it, whatever the word's class was (R220). -/
theorem readWordPart_writeWordPart (s : State) (p : Nat) (bs : List Byte) (h : bs.length ≠ 32) :
    ((s.writeWordPart p bs).readWordPart p bs.length).2.1 = bs := by
  have hs : (s.writeWordPart p bs).syndrome p = (s.readyWord p).syndrome p := by
    rw [writeWordPart, if_neg h, syndrome_setBytes]
  have hb : (s.writeWordPart p bs).rawBytes p bs.length = bs := by
    rw [writeWordPart, if_neg h, rawBytes_setBytes]
  unfold readWordPart
  rw [hs]
  rcases readyWord_class s p with hc | hc <;> rw [hc] <;> exact hb

/-- A word of a table reads as it was written. -/
theorem raw64_setRaw64 (s : State) (p : Nat) (x : DWord) : (s.setRaw64 p x).raw64 p = x := by
  have h := readWordPart_writeWordPart s p (leBytes 8 x.toNat) (by simp [leBytes])
  rw [show (leBytes 8 x.toNat).length = 8 from rfl] at h
  rw [raw64, setRaw64, h, leWord, leNat_leBytes, Nat.mod_eq_of_lt (by have := x.isLt; omega), BitVec.ofNat_toNat, BitVec.setWidth_eq]

theorem writeFrom_wf (s : State) (p : Nat) (bs : List Byte) (n : Nat) (h : Memory.wf s.mem = true) :
    Memory.wf (s.writeFrom p bs n).mem = true := by
  induction n generalizing s p bs with
  | zero => exact h
  | succ n ih =>
    unfold writeFrom
    split
    · exact h
    · exact ih _ _ _ (writeWordPart_wf _ _ _ h)

/-- A write keeps the canonical form of memory. -/
theorem writeBytes_wf (s : State) (p : Nat) (bs : List Byte) (h : Memory.wf s.mem = true) :
    Memory.wf (s.writeBytes p bs).mem = true := writeFrom_wf s p bs _ h

theorem readWordPart_mem (s : State) (p n : Nat) : (s.readWordPart p n).1.mem = s.mem := by
  unfold readWordPart
  split <;> rfl

theorem readFrom_mem (s : State) (p n fuel : Nat) : (s.readFrom p n fuel).1.mem = s.mem := by
  induction fuel generalizing s p n with
  | zero => rfl
  | succ fuel ih =>
    unfold readFrom
    split
    · rfl
    · exact (ih _ _ _).trans (readWordPart_mem s p _)

/-- A read changes no memory: only the error counters may move (R220). -/
theorem readBytes_mem (s : State) (p n : Nat) : (s.readBytes p n).1.mem = s.mem := readFrom_mem s p n _

theorem readBytes_wf (s : State) (p n : Nat) (h : Memory.wf s.mem = true) : Memory.wf (s.readBytes p n).1.mem = true := by
  rw [readBytes_mem]; exact h

/-! ## Clearing, poison, masks -/

theorem clearBytes_wf (s : State) (p n : Nat) (h : Memory.wf s.mem = true) : Memory.wf (s.clearBytes p n).mem = true :=
  Sparse.canonical_filter _ _ _ h

theorem poison_cells (s : State) (p n : Nat) : (s.poison p n).mem.cells = s.mem.cells := by
  unfold poison
  generalize List.range _ = l
  induction l generalizing s with
  | nil => rfl
  | cons i l ih => exact ih _

theorem poison_wf (s : State) (p n : Nat) (h : Memory.wf s.mem = true) : Memory.wf (s.poison p n).mem = true :=
  wf_of_cells (poison_cells s p n) h

theorem setMasks_cells (s : State) (p n : Nat) (b : Bool) : (s.setMasks p n b).mem.cells = s.mem.cells := by
  unfold setMasks
  generalize List.range n = l
  induction l generalizing s with
  | nil => rfl
  | cons i l ih => exact ih _

theorem setMasks_wf (s : State) (p n : Nat) (b : Bool) (h : Memory.wf s.mem = true) : Memory.wf (s.setMasks p n b).mem = true :=
  wf_of_cells (setMasks_cells s p n b) h

theorem reset_wf : Memory.wf State.reset.mem = true := rfl

end State

end Sys2Proof.Machine
end

