-- ==== Sys2Proof/Laws/Retire.lean ====
section
/-! SUPPORT. What the retirement of an entry does whose lanes of Active have all completed: the lemmas that a claim about an
instruction cites instead of unfolding `retire`. -/

namespace Sys2Proof.Machine

/-! ## Register writes of one lane -/

theorem afterV_cons (r : RegWrite) (ws : List RegWrite) (n : Nat) (x : Word) :
    afterV (r :: ws) n x = afterV ws n (match r with | .v m y => if m = n then y else x | _ => x) := by
  cases r <;> rfl

theorem afterP_cons (r : RegWrite) (ws : List RegWrite) (n : Nat) (x : Bool) :
    afterP (r :: ws) n x = afterP ws n (match r with | .p m y => if m = n ∧ m ≠ 7 then y else x | _ => x) := by
  cases r <;> rfl

theorem afterK_cons (r : RegWrite) (ws : List RegWrite) (n : Nat) (x : DWord) :
    afterK (r :: ws) n x = afterK ws n (match r with | .k m y => if m = n then y else x | _ => x) := by
  cases r <;> rfl

theorem inRange_tail {r : RegWrite} {ws : List RegWrite} (h : inRange (r :: ws)) : inRange ws :=
  fun r' hr => h r' (by simp [hr])

/-- One lane's writes touch v and p registers alone. -/
theorem writeLane_rest (w : Warp) (l : Nat) (ws : List RegWrite) :
    w.writeLane l ws = { w with v := (w.writeLane l ws).v, p := (w.writeLane l ws).p } := by
  induction ws generalizing w with
  | nil => rfl
  | cons r ws ih =>
    show Warp.writeLane _ l ws = { w with v := (Warp.writeLane _ l ws).v, p := (Warp.writeLane _ l ws).p }
    cases r with
    | v n x => rw [ih]; rfl
    | k n x => exact ih w
    | p n b =>
      rw [ih]
      simp only [Warp.setP]
      split <;> rfl

theorem writeLane_v (w : Warp) (l : Nat) (ws : List RegWrite) (h : inRange ws) {i j : Nat} (hj : j < 128) :
    (w.writeLane l ws).getV i j = if i = l then afterV ws j (w.getV i j) else w.getV i j := by
  induction ws generalizing w with
  | nil => simp [Warp.writeLane, afterV]
  | cons r ws ih =>
    have h1 := h r (by simp)
    have h2 := inRange_tail h
    show (Warp.writeLane _ l ws).getV i j = _
    rw [ih _ h2, afterV_cons]
    cases r with
    | v n x =>
      simp only at h1
      rw [Warp.getV_setV _ _ h1 hj]
      by_cases hi : i = l <;> by_cases hn : j = n
      · simp [hi, hn]
      · have : ¬ n = j := fun e => hn e.symm
        simp [hi, hn, this]
      · simp [hi]
      · simp [hi]
    | k n x => rfl
    | p n b => simp [Warp.getV]

theorem writeLane_p (w : Warp) (l : Nat) (ws : List RegWrite) (h : inRange ws) {i j : Nat} (hj : j < 8) :
    (w.writeLane l ws).getP i j = if i = l then afterP ws j (w.getP i j) else w.getP i j := by
  induction ws generalizing w with
  | nil => simp [Warp.writeLane, afterP]
  | cons r ws ih =>
    have h1 := h r (by simp)
    have h2 := inRange_tail h
    show (Warp.writeLane _ l ws).getP i j = _
    rw [ih _ h2, afterP_cons]
    cases r with
    | v n x => simp [Warp.getP]
    | k n x => rfl
    | p n b =>
      simp only at h1
      rw [Warp.getP_setP _ _ h1 hj]
      by_cases hi : i = l <;> by_cases hn : j = n
      · subst hn; simp [hi]
      · have : ¬ n = j := fun e => hn e.symm
        simp [hi, hn, this]
      · simp [hi]
      · simp [hi]

/-- The k writes of the lane that makes them touch k registers alone. -/
theorem writeK_rest (w : Warp) (ws : List RegWrite) : w.writeK ws = { w with k := (w.writeK ws).k } := by
  induction ws generalizing w with
  | nil => rfl
  | cons r ws ih =>
    show Warp.writeK _ ws = { w with k := (Warp.writeK _ ws).k }
    cases r with
    | v n x => exact ih w
    | k n x => rw [ih]; rfl
    | p n b => exact ih w

theorem writeK_k (w : Warp) (ws : List RegWrite) (n : Nat) : (w.writeK ws).getK n = afterK ws n (w.getK n) := by
  induction ws generalizing w with
  | nil => rfl
  | cons r ws ih =>
    show (Warp.writeK _ ws).getK n = _
    rw [ih, afterK_cons]
    cases r with
    | v m x => rfl
    | k m x =>
      simp only [Warp.getK_setK]
      by_cases h : n = m
      · simp [h]
      · have : ¬ m = n := fun e => h e.symm
        simp [h, this]
    | p m b => rfl

/-! ## Every lane of a list -/

/-- The writes of each lane of a list. -/
def writeLanes (w : Warp) (ls : List Nat) (ws : Nat → List RegWrite) : Warp := ls.foldl (fun w l => w.writeLane l (ws l)) w

theorem writeLanes_rest (w : Warp) (ls : List Nat) (ws : Nat → List RegWrite) :
    writeLanes w ls ws = { w with v := (writeLanes w ls ws).v, p := (writeLanes w ls ws).p } := by
  induction ls generalizing w with
  | nil => rfl
  | cons l ls ih =>
    have h1 := writeLane_rest w l (ws l)
    have h2 := ih (w.writeLane l (ws l))
    show writeLanes (w.writeLane l (ws l)) ls ws = { w with
      v := (writeLanes (w.writeLane l (ws l)) ls ws).v, p := (writeLanes (w.writeLane l (ws l)) ls ws).p }
    generalize w.writeLane l (ws l) = w1 at h1 h2
    generalize writeLanes w1 ls ws = w2 at h2
    exact h2.trans (by rw [h1])

theorem writeLanes_v (w : Warp) (ls : List Nat) (ws : Nat → List RegWrite) (hn : ls.Nodup) (h : ∀ l ∈ ls, inRange (ws l))
    {i j : Nat} (hj : j < 128) :
    (writeLanes w ls ws).getV i j = if i ∈ ls then afterV (ws i) j (w.getV i j) else w.getV i j := by
  induction ls generalizing w with
  | nil => simp [writeLanes]
  | cons l ls ih =>
    obtain ⟨h1, h2⟩ := List.nodup_cons.mp hn
    show (writeLanes _ ls ws).getV i j = _
    rw [ih _ h2 (fun l hl => h l (by simp [hl])), writeLane_v _ _ _ (h l (by simp)) hj]
    by_cases hi : i = l
    · subst hi; simp [h1]
    · simp [hi]

theorem writeLanes_p (w : Warp) (ls : List Nat) (ws : Nat → List RegWrite) (hn : ls.Nodup) (h : ∀ l ∈ ls, inRange (ws l))
    {i j : Nat} (hj : j < 8) :
    (writeLanes w ls ws).getP i j = if i ∈ ls then afterP (ws i) j (w.getP i j) else w.getP i j := by
  induction ls generalizing w with
  | nil => simp [writeLanes]
  | cons l ls ih =>
    obtain ⟨h1, h2⟩ := List.nodup_cons.mp hn
    show (writeLanes _ ls ws).getP i j = _
    rw [ih _ h2 (fun l hl => h l (by simp [hl])), writeLane_p _ _ _ (h l (by simp)) hj]
    by_cases hi : i = l
    · subst hi; simp [h1]
    · simp [hi]

/-- The outcomes of an entry whose lanes have all completed. -/
abbrev doneOuts (m : LaneMask) (ws : Nat → List RegWrite) (dest : Nat → Option DWord) : List (Nat × LaneOutcome) :=
  m.lanes.map (fun l => (l, .done (ws l) (dest l)))

theorem writeDone_done (w : Warp) (m : LaneMask) (ws : Nat → List RegWrite) (dest : Nat → Option DWord) :
    w.writeDone (doneOuts m ws dest) =
      if m = 0 then w else (writeLanes w m.lanes ws).writeK (ws m.lowest) := by
  by_cases h : m = 0
  · subst h
    have e : LaneMask.lanes 0 = [] := LaneMask.lanes_eq_nil.mpr rfl
    rw [if_pos rfl, doneOuts, e]
    rfl
  · obtain ⟨ls, hl⟩ := LaneMask.lanes_head h
    simp only [Warp.writeDone, doneOuts, hl, List.map_cons, List.findSome?_cons, List.foldl_cons, List.foldl_map, h, if_false]
    rfl

/-! ## Lanes that go on -/

theorem setLanes_lane (w : Warp) (ls : List Nat) (g : Nat → Lane → Lane) (hn : ls.Nodup) (i : Nat) :
    (ls.foldl (fun w l => w.updLane l (g l)) w).lane i = if i ∈ ls then g i (w.lane i) else w.lane i := by
  induction ls generalizing w with
  | nil => simp
  | cons l ls ih =>
    obtain ⟨h1, h2⟩ := List.nodup_cons.mp hn
    rw [List.foldl_cons, ih _ h2, Warp.lane_updLane]
    by_cases hi : i = l
    · subst hi; simp [h1]
    · simp [hi]

theorem setLanes_rest (w : Warp) (ls : List Nat) (g : Nat → Lane → Lane) :
    ls.foldl (fun w l => w.updLane l (g l)) w = { w with lanes := (ls.foldl (fun w l => w.updLane l (g l)) w).lanes } := by
  induction ls generalizing w with
  | nil => rfl
  | cons l ls ih => rw [List.foldl_cons, ih]; rfl

/-- Where a lane stands after an entry of which it was a lane. -/
def landAt (pc : DWord) (dest : Option DWord) (x : Lane) : Lane := { x with pc := dest.getD (nextPc pc), status := .running }

theorem advance_done (w : Warp) (pc : DWord) (lanes active : LaneMask) (ws : Nat → List RegWrite) (dest : Nat → Option DWord)
    (once : Bool) :
    w.advance pc lanes active (doneOuts active ws dest) once =
      active.lanes.foldl (fun w l => w.updLane l (landAt pc (dest l)))
        ((lanes &&& ~~~active).lanes.foldl (fun w l => w.updLane l (landAt pc none)) w) := by
  have hg : (fun (w : Warp) (l : Nat) => match dest l with
      | none => w.updLane l (fun x => { x with pc := nextPc pc, status := .running })
      | some t => w.updLane l (fun x => { x with pc := t, status := .running })) =
      fun w l => w.updLane l (landAt pc (dest l)) := by
    funext w l
    cases dest l <;> rfl
  rw [← hg]
  simp only [Warp.advance, doneOuts, List.foldl_map]
  congr 1
  funext w l
  cases dest l <;> rfl

theorem advance_lane (w : Warp) (pc : DWord) (lanes active : LaneMask) (ws : Nat → List RegWrite) (dest : Nat → Option DWord)
    (once : Bool) (i : Nat) :
    (w.advance pc lanes active (doneOuts active ws dest) once).lane i =
      if active.has i then landAt pc (dest i) (w.lane i) else if lanes.has i then landAt pc none (w.lane i) else w.lane i := by
  rw [advance_done, setLanes_lane _ _ _ (LaneMask.lanes_nodup _), setLanes_lane _ _ _ (LaneMask.lanes_nodup _)]
  by_cases ha : active.has i
  · simp [ha]
  · by_cases hl : lanes.has i
    · simp [ha, hl, LaneMask.has_lt hl]
    · simp [ha, hl]

theorem advance_rest (w : Warp) (pc : DWord) (lanes active : LaneMask) (ws : Nat → List RegWrite) (dest : Nat → Option DWord)
    (once : Bool) :
    w.advance pc lanes active (doneOuts active ws dest) once =
      { w with lanes := (w.advance pc lanes active (doneOuts active ws dest) once).lanes } := by
  rw [advance_done, setLanes_rest, setLanes_rest w]

/-! ## Retirement -/

/-- No trap is delivered for completed lanes. -/
theorem trapsOf_done (m : LaneMask) (ws : Nat → List RegWrite) (dest : Nat → Option DWord) : trapsOf (doneOuts m ws dest) = [] := by
  simp [trapsOf, doneOuts, List.filterMap_map]

theorem deliverAll_nil (s : State) (wid : Nat) (pc : DWord) (word : BitVec 96) : s.deliverAll wid pc word [] = s := by
  have : ∀ (l : List Nat) (s : State), l.foldl (fun s c =>
      s.deliver wid pc word c (((([] : List (Nat × TrapLane)).filter (fun t => t.1 == c)).map (·.2)))) s = s := by
    intro l
    induction l with
    | nil => intro s; rfl
    | cons a l ih => intro s; exact ih s
  exact this _ s

/-- A warp with a running lane is not over, and its lanes are not all parked. -/
theorem goes_on {s : State} {wid l : Nat} (hl : l < 32) (hr : ((s.warp wid).lane l).status = .running)
    (hp : (s.warp wid).parkedSince = none) : (s.settleParked wid).endWarp wid = s := by
  have hlive : (s.warp wid).live.has l = true := by simp [Warp.live, hl, hr]
  have h0 : (s.warp wid).live ≠ 0 := fun e => by rw [e] at hlive; simp [LaneMask.has] at hlive
  have hall : ((s.warp wid).live.lanes.all (fun l => ((s.warp wid).lane l).status == .parked)) = false := by
    rw [List.all_eq_false]
    exact ⟨l, LaneMask.mem_lanes.mpr hlive, by simp [hr]⟩
  have hs : s.settleParked wid = s := by
    unfold State.settleParked
    simp only [hp, hall, Bool.and_false]
  rw [hs]
  have h1 : (s.warp wid).isOver = false := by
    have : ((s.warp wid).live == 0) = false := beq_eq_false_iff_ne.mpr h0
    simp only [Warp.isOver, this, Bool.false_and]
  simp only [State.endWarp, h1, Bool.not_false, Bool.true_or, if_true]

/-- What an instruction does to its own warp beside register writes leaves registers, lanes and parking alone. -/
structure Own (g : Warp → Warp) : Prop where
  comm : ∀ (w : Warp) (v : Sparse Word) (k : Sparse DWord) (p : Sparse Bool) (ls : Sparse Lane) (n : DWord),
    g { w with v := v, k := k, p := p, lanes := ls, wissued := n } =
      { g w with v := v, k := k, p := p, lanes := ls, wissued := n }
  parked : ∀ w, (g w).parkedSince = w.parkedSince
  issued : ∀ w, (g w).wissued = w.wissued
  retired : ∀ w, (g w).wretired = w.wretired

theorem Own.id : Own id := ⟨fun _ _ _ _ _ _ => rfl, fun _ => rfl, fun _ => rfl, fun _ => rfl⟩

/-- Retirement of an entry whose lanes have all completed. -/
theorem retire_done {b : State} {c : Ctx} {ws : Nat → List RegWrite} {dest : Nat → Option DWord} {flags : FpFlags}
    {own : Warp → Warp} (ho : Own (fun w => own (w.raise flags)))
    (hne : c.lanes ≠ 0) (hp : (b.warp c.wid).parkedSince = none)
    (hw : ∀ l, c.active.has l = true → inRange (ws l)) :
    Completed b c ws (fun l => (dest l).getD (nextPc c.pc)) (fun w => own (w.raise flags))
      ((b.countIssue c.wid).retire c.wid c.pc c.word c.lanes c.active (doneOuts c.active ws dest) flags own) := by
  generalize hg : (fun w : Warp => own (w.raise flags)) = g at ho ⊢
  -- the warp before its own effects
  generalize hw0 : ({ b.warp c.wid with wissued := (b.warp c.wid).wissued + 1 } : Warp) = w0
  generalize hw1 : (w0.writeDone (doneOuts c.active ws dest)).advance c.pc c.lanes c.active (doneOuts c.active ws dest)
    (actsOnce c.word) = w1
  have hr1 : w1 = { w0 with v := w1.v, k := w1.k, p := w1.p, lanes := w1.lanes } := by
    rw [← hw1, advance_rest, writeDone_done]
    split
    · rfl
    · rw [writeK_rest, writeLanes_rest]
  have hg1 : g w1 = { g (b.warp c.wid) with
      v := w1.v, k := w1.k, p := w1.p, lanes := w1.lanes, wissued := (b.warp c.wid).wissued + 1 } := by
    have : w1 = { b.warp c.wid with
        v := w1.v, k := w1.k, p := w1.p, lanes := w1.lanes, wissued := (b.warp c.wid).wissued + 1 } := by
      rw [hr1, ← hw0]
    conv => lhs; rw [this]
    rw [ho.comm]
  have hlane : ∀ i, w1.lane i = if c.active.has i then landAt c.pc (dest i) ((b.warp c.wid).lane i)
      else if c.lanes.has i then landAt c.pc none ((b.warp c.wid).lane i) else (b.warp c.wid).lane i := by
    intro i
    rw [← hw1, advance_lane]
    have : ∀ i, (w0.writeDone (doneOuts c.active ws dest)).lane i = (b.warp c.wid).lane i := by
      intro i
      rw [writeDone_done, ← hw0]
      split
      · rfl
      · rw [writeK_rest, writeLanes_rest]; rfl
    rw [this]
  generalize hw2 : ({ g w1 with wretired := (g w1).wretired + 1, hangBase := b.runsFrom (b.warp c.wid).gcore } : Warp) = w2
  have hw2' : w2 = { g (b.warp c.wid) with
      v := w1.v, k := w1.k, p := w1.p, lanes := w1.lanes, wissued := (b.warp c.wid).wissued + 1
      wretired := (b.warp c.wid).wretired + 1, hangBase := b.runsFrom (b.warp c.wid).gcore } := by
    rw [← hw2, hg1]
    simp [ho.retired]
  have ht : (b.countIssue c.wid).retire c.wid c.pc c.word c.lanes c.active (doneOuts c.active ws dest) flags own =
      b.setWarp c.wid w2 := by
    have h1 : ((b.countIssue c.wid).updWarp c.wid (fun w =>
        let w := own (((w.writeDone (doneOuts c.active ws dest)).advance c.pc c.lanes c.active
          (doneOuts c.active ws dest) (actsOnce c.word)).raise flags)
        { w with wretired := w.wretired + 1, hangBase := (b.countIssue c.wid).runsFrom ((b.countIssue c.wid).warp c.wid).gcore })) = b.setWarp c.wid w2 := by
      have e : (b.countIssue c.wid).warp c.wid = w0 := by
        rw [← hw0]; simp [State.countIssue]
      have e2 : own (w1.raise flags) = g w1 := congrFun hg w1
      rw [State.updWarp, e]
      simp only [hw1, e2]
      rw [← hw2, ← hw0]
      simp [State.countIssue, State.updWarp]
    obtain ⟨l, hl⟩ := LaneMask.exists_has hne
    have hrun : (w2.lane l).status = .running := by
      have : w2.lane l = w1.lane l := by rw [hw2']; rfl
      rw [this, hlane]
      by_cases ha : c.active.has l <;> simp [ha, hl, landAt]
    have hpark : w2.parkedSince = none := by
      rw [hw2']
      show (g (b.warp c.wid)).parkedSince = none
      rw [ho.parked, hp]
    unfold State.retire
    simp only [trapsOf_done, deliverAll_nil]
    rw [h1]
    exact goes_on (LaneMask.has_lt hl) (by simpa using hrun) (by simpa using hpark)
  rw [ht]
  have hv1 : ∀ i j, j < 128 → w1.getV i j =
      if c.active.has i then afterV (ws i) j ((b.warp c.wid).getV i j) else (b.warp c.wid).getV i j := by
    intro i j hj
    have e : w1.getV i j = (w0.writeDone (doneOuts c.active ws dest)).getV i j := by rw [← hw1, advance_rest]; rfl
    rw [e, writeDone_done]
    by_cases h0 : c.active = 0
    · rw [if_pos h0, h0, ← hw0, LaneMask.has_zero]; rfl
    · simp only [h0, if_false]
      have e2 : ((writeLanes w0 c.active.lanes ws).writeK (ws c.active.lowest)).getV i j =
          (writeLanes w0 c.active.lanes ws).getV i j := by rw [writeK_rest]; rfl
      rw [e2, writeLanes_v _ _ _ (LaneMask.lanes_nodup _) (fun l hl => hw l (LaneMask.mem_lanes.mp hl)) hj]
      simp [← hw0, Warp.getV]
  have hp1 : ∀ i j, j < 8 → w1.getP i j =
      if c.active.has i then afterP (ws i) j ((b.warp c.wid).getP i j) else (b.warp c.wid).getP i j := by
    intro i j hj
    have e : w1.getP i j = (w0.writeDone (doneOuts c.active ws dest)).getP i j := by rw [← hw1, advance_rest]; rfl
    rw [e, writeDone_done]
    by_cases h0 : c.active = 0
    · rw [if_pos h0, h0, ← hw0, LaneMask.has_zero]; rfl
    · simp only [h0, if_false]
      have e2 : ((writeLanes w0 c.active.lanes ws).writeK (ws c.active.lowest)).getP i j =
          (writeLanes w0 c.active.lanes ws).getP i j := by rw [writeK_rest]; rfl
      rw [e2, writeLanes_p _ _ _ (LaneMask.lanes_nodup _) (fun l hl => hw l (LaneMask.mem_lanes.mp hl)) hj]
      simp [← hw0, Warp.getP]
  have hk1 : ∀ n, w1.getK n =
      if c.active = 0 then (b.warp c.wid).getK n else afterK (ws c.active.lowest) n ((b.warp c.wid).getK n) := by
    intro n
    have e : w1.getK n = (w0.writeDone (doneOuts c.active ws dest)).getK n := by rw [← hw1, advance_rest]; rfl
    rw [e, writeDone_done]
    by_cases h0 : c.active = 0
    · rw [if_pos h0, if_pos h0, ← hw0]; rfl
    · simp only [h0, if_false]
      have e2 : (writeLanes w0 c.active.lanes ws).getK n = (b.warp c.wid).getK n := by
        rw [writeLanes_rest, ← hw0]; rfl
      rw [writeK_k, e2]
  refine ⟨by simp, fun i j _ hj => ?_, fun i j _ hj => ?_, fun n => ?_, fun i _ => ?_, ?_⟩
  · rw [State.warp_setWarp_self, ← hv1 i j hj, hw2']; rfl
  · rw [State.warp_setWarp_self, ← hp1 i j hj, hw2']; rfl
  · rw [State.warp_setWarp_self, ← hk1 n, hw2']; rfl
  · have : w2.lane i = w1.lane i := by rw [hw2']; rfl
    rw [State.warp_setWarp_self, this, hlane]
    rfl
  · rw [State.warp_setWarp_self, hw2']

end Sys2Proof.Machine
end

