-- ==== Sys2Proof/Laws/Ops.lean ====
section
/-! SUPPORT. Spec lemmas of the shared operations that perform an instruction: `finish`, `perform`, `performLanes`, `performFp`,
`performWarp`, and of the destinations of a lane. -/

namespace Sys2Proof.Machine

/-! ## Destinations -/

theorem inRange_nil : inRange [] := fun _ h => by simp at h

theorem inRange_append {a b : List RegWrite} (ha : inRange a) (hb : inRange b) : inRange (a ++ b) := fun r hr => by
  rcases List.mem_append.mp hr with h | h
  · exact ha r h
  · exact hb r h

theorem inRange_dst32 (o : Opnd) (x : Word) : inRange (dst32 o x) := by
  intro r hr
  cases o <;> simp only [dst32, List.mem_singleton, List.not_mem_nil] at hr
  · subst hr; exact Fin.isLt _
  · subst hr; trivial

theorem inRange_dstP (o : Opnd) (b : Bool) : inRange (dstP o b) := by
  intro r hr
  cases o <;> simp only [dstP, List.mem_singleton, List.not_mem_nil] at hr
  subst hr; exact Fin.isLt _

/-- A v code that is aligned to a group of `n` leaves room for the group. -/
theorem inRange_dst64 (o : Opnd) (x : DWord) (h : ∀ n, o = .v n → n.val % 2 = 0) : inRange (dst64 o x) := by
  intro r hr
  cases o with
  | v n =>
    have := h n rfl
    have := n.isLt
    simp only [dst64, List.mem_cons, List.not_mem_nil, or_false] at hr
    rcases hr with rfl | rfl <;> simp only <;> omega
  | k n => simp only [dst64, List.mem_singleton] at hr; subst hr; trivial
  | _ => simp [dst64] at hr

theorem inRange_dst128 (o : Opnd) (x : BitVec 128) (h : ∀ n, o = .v n → n.val % 4 = 0) : inRange (dst128 o x) := by
  intro r hr
  cases o with
  | v n =>
    have := h n rfl
    have := n.isLt
    simp only [dst128, List.mem_cons, List.not_mem_nil, or_false] at hr
    rcases hr with rfl | rfl | rfl | rfl <;> simp only <;> omega
  | k n =>
    simp only [dst128, List.mem_cons, List.not_mem_nil, or_false] at hr
    rcases hr with rfl | rfl <;> trivial
  | _ => simp [dst128] at hr

/-! ## What a split that is ready satisfies -/

/-- A check that finds nothing: neither this cause nor a later one. -/
theorem no_cause {α : Type} {p : Prop} [Decidable p] {a : α} {x : Option α} (h : (if p then some a else x) = none) :
    ¬ p ∧ x = none := by
  by_cases hp : p <;> simp_all

theorem Issuing.rowFields {i : Instr} {f : Fields} {s : State} (h : Issuing i f s) {r : Row} {g : Fields} (hr : i.row = some r)
    (hf : i.fields = some g) :
    i.reject = none ∧ stateIllop s (s.ctx f) i = false ∧ privilegeFails s (s.ctx f) i r g = false ∧ alignedOk r.sig g = true ∧
      (touchesExtended r.sig g && !(s.ctx f).w.ext) = false ∧
      (unallocated (s.ctx f).w g.dst || unallocated (s.ctx f).w g.sa || unallocated (s.ctx f).w g.sb) = false := by
  have hl := h.legal
  simp only [decodeCause, hr, hf] at hl
  obtain ⟨illop, hl⟩ := no_cause hl
  obtain ⟨privilege, hl⟩ := no_cause hl
  obtain ⟨align, hl⟩ := no_cause hl
  obtain ⟨bound, hl⟩ := no_cause hl
  have alloc := (no_cause hl).1
  simp only [Bool.or_eq_true, not_or, Bool.not_eq_true] at illop
  exact ⟨Option.isNone_iff_eq_none.mp (by simpa using illop.1), illop.2, by simpa using privilege, by simpa using align,
    by simpa using bound, by simpa using alloc⟩

/-- The destination of a ready instruction is aligned to its group (R48). -/
theorem Issuing.dst_aligned {i : Instr} {f : Fields} {s : State} (h : Issuing i f s) {r : Row} {g : Fields}
    (hr : i.row = some r) (hf : i.fields = some g) : r.sig.dst.aligned g.dst = true := by
  have := (h.rowFields hr hf).2.2.2.1
  simp only [alignedOk, Bool.and_eq_true] at this
  exact this.1.1.1

/-- A v destination of an aligned field starts its group at a multiple of the group's size. -/
theorem aligned_v {c : FieldClass} {o : Opnd} (h : c.aligned o = true) : ∀ n, o = .v n → n.val % c.vGroup = 0 := by
  rintro n rfl
  simpa [FieldClass.aligned] using h

/-! ## The operations -/

/-- `finish` on a body whose lanes have all completed. -/
theorem finish_done {i : Instr} {c : Ctx} {r : Result} {ws : Nat → List RegWrite} {dest : Nat → Option DWord}
    (ho : Own (fun w => r.onWarp (w.raise r.flags))) (hne : c.lanes ≠ 0) (hp : (r.s.warp c.wid).parkedSince = none)
    (hw : ∀ l, c.active.has l = true → inRange (ws l)) (houts : r.outs = doneOuts c.active ws dest)
    (hh : r.hole = none) (hc : r.consumed = none) (ha : r.again = false) (hwt : r.wait = .nothing) :
    ∃ t, finish i c r = .next t ∧
      Completed r.s c ws (fun l => (dest l).getD (nextPc c.pc)) (fun w => r.onWarp (w.raise r.flags)) t := by
  refine ⟨_, ?_, retire_done ho hne hp hw⟩
  simp only [finish, hh, hc, ha, hwt, houts, if_true, Bool.false_eq_true, if_false]

/-- Nothing that an instruction must consider stands before it. -/
theorem atOnce_of {s : State} (first : (s.warp s.cur.wid).rob = []) (now : s.cur.late = false) : atOnce s = true := by
  simp [atOnce, first, now]

/-- With no unretired entry before it the instruction is its body. -/
theorem perform_first {i : Instr} {f : Fields} {s : State} {body : Ctx → Result} (hi : Issuing i f s) :
    perform i f s body = finish i (s.ctx f) (body (s.ctx f)) := by
  simp only [perform, atOnce_of hi.first hi.now, hi.legal, Bool.not_true, Bool.false_eq_true, if_false]

/-- `perform` on a body whose lanes have all completed. -/
theorem perform_done {i : Instr} {f : Fields} {s : State} {body : Ctx → Result} {ws : Nat → List RegWrite}
    {dest : Nat → Option DWord} (hi : Issuing i f s)
    (ho : Own (fun w => (body (s.ctx f)).onWarp (w.raise (body (s.ctx f)).flags)))
    (hp : ((body (s.ctx f)).s.warp (s.ctx f).wid).parkedSince = none)
    (hw : ∀ l, (s.ctx f).active.has l = true → inRange (ws l))
    (houts : (body (s.ctx f)).outs = doneOuts (s.ctx f).active ws dest) (hh : (body (s.ctx f)).hole = none)
    (hc : (body (s.ctx f)).consumed = none) (ha : (body (s.ctx f)).again = false)
    (hwt : (body (s.ctx f)).wait = .nothing) :
    ∃ t, perform i f s body = .next t ∧
      Completed (body (s.ctx f)).s (s.ctx f) ws (fun l => (dest l).getD (nextPc (s.ctx f).pc))
        (fun w => (body (s.ctx f)).onWarp (w.raise (body (s.ctx f)).flags)) t := by
  obtain ⟨t, h1, h2⟩ := finish_done (i := i) ho hi.split hp hw houts hh hc ha hwt
  exact ⟨t, by rw [perform_first hi, h1], h2⟩

theorem raise_zero (w : Warp) : w.raise 0 = w := by
  simp [Warp.raise]

theorem Own.raise (flags : FpFlags) : Own (fun w => w.raise flags) :=
  ⟨fun _ _ _ _ _ _ => rfl, fun _ => rfl, fun _ => rfl, fun _ => rfl⟩

/-- An instruction that only computes register writes lane by lane. -/
theorem performLanes_done {i : Instr} {f : Fields} {s : State} {lane : Ctx → Nat → List RegWrite} (hi : Issuing i f s)
    (hw : ∀ l, (s.ctx f).active.has l = true → inRange (lane (s.ctx f) l)) :
    ∃ t, performLanes i f s lane = .next t ∧ CompletedNext s (s.ctx f) (lane (s.ctx f)) id t := by
  have h := perform_done (dest := fun _ => none) (ws := lane (s.ctx f))
    (body := fun c => { s := s, outs := c.active.lanes.map (fun l => (l, .done (lane c l) none)) }) hi
    (by simp only [raise_zero]; exact Own.id) hi.unparked hw rfl rfl rfl rfl rfl
  simp only [id, raise_zero] at h
  exact h

/-- A floating-point instruction none of whose lanes raises an enabled flag. -/
theorem performFp_done {i : Instr} {f : Fields} {s : State} {lane : Ctx → Nat → List RegWrite × FpFlags} (hi : Issuing i f s)
    (hw : ∀ l, (s.ctx f).active.has l = true → inRange (lane (s.ctx f) l).1)
    (he : ∀ l, (s.ctx f).active.has l = true → (lane (s.ctx f) l).2 &&& (s.ctx f).w.enabledFlags = 0) :
    ∃ t, performFp i f s lane = .next t ∧ CompletedNext s (s.ctx f) (fun l => (lane (s.ctx f) l).1)
      (fun w => w.raise (fpRaised (s.ctx f).w ((s.ctx f).active.lanes.map (lane (s.ctx f))))) t := by
  have houts : ((s.ctx f).active.lanes.map (fun l => (l, lane (s.ctx f) l))).map
      (fun r => (r.1, fpOutcome (s.ctx f).w r.2)) =
      doneOuts (s.ctx f).active (fun l => (lane (s.ctx f) l).1) (fun _ => none) := by
    rw [List.map_map]
    apply List.map_congr_left
    intro l hl
    have := he l (LaneMask.mem_lanes.mp hl)
    simp only [Function.comp, fpOutcome, this, if_true]
  have hflags : ((s.ctx f).active.lanes.map (fun l => (l, lane (s.ctx f) l))).map (·.2) =
      (s.ctx f).active.lanes.map (lane (s.ctx f)) := by
    rw [List.map_map]; rfl
  obtain ⟨t, h1, h2⟩ := finish_done (i := i) (c := s.ctx f) (ws := fun l => (lane (s.ctx f) l).1) (dest := fun _ => none)
    (r := { s := s, outs := doneOuts (s.ctx f).active (fun l => (lane (s.ctx f) l).1) (fun _ => none),
            flags := fpRaised (s.ctx f).w ((s.ctx f).active.lanes.map (lane (s.ctx f))) })
    (Own.raise _) hi.split hi.unparked hw rfl rfl rfl rfl rfl
  refine ⟨t, ?_, h2⟩
  simp only [performFp, perform_first hi, houts, hflags]
  exact h1

theorem getLsbD_foldl_or {α : Type} (g : α → FpFlags) (xs : List α) (a : FpFlags) (i : Nat) :
    (xs.foldl (fun a x => a ||| g x) a).getLsbD i = true ↔ a.getLsbD i = true ∨ ∃ x ∈ xs, (g x).getLsbD i = true := by
  induction xs generalizing a with
  | nil => simp
  | cons x xs ih => rw [List.foldl_cons, ih]; simp [or_assoc]

/-- The flags that an untrapped entry raises are those of its lanes. -/
theorem fpRaised_untrapped {c : Ctx} {r : Nat → List RegWrite × FpFlags} (h : Untrapped c r) (i : Nat) :
    (fpRaised c.w (c.active.lanes.map r)).getLsbD i = true ↔ ∃ l, c.active.has l = true ∧ (r l).2.getLsbD i = true := by
  have e : fpRaised c.w (c.active.lanes.map r) = c.active.lanes.foldl (fun a l => a ||| (r l).2) 0 := by
    rw [fpRaised, List.foldl_map]
    have key : ∀ (ls : List Nat) (a : FpFlags), (∀ l ∈ ls, (r l).2 &&& c.w.enabledFlags = 0) →
        ls.foldl (fun a l => if (r l).2 &&& c.w.enabledFlags = 0 then a ||| (r l).2 else a) a =
          ls.foldl (fun a l => a ||| (r l).2) a := by
      intro ls
      induction ls with
      | nil => intro a _; rfl
      | cons l ls ih =>
        intro a hl
        rw [List.foldl_cons, List.foldl_cons, if_pos (hl l (by simp)), ih _ (fun l hm => hl l (by simp [hm]))]
    exact key _ _ (fun l hl => h l (LaneMask.mem_lanes.mp hl))
  rw [e, getLsbD_foldl_or]
  simp [LaneMask.mem_lanes]

/-- A floating-point instruction of which no lane traps completes with its lanes' writes and flags. -/
theorem performFp_completes {i : Instr} {f : Fields} {s : State} {lane : Ctx → Nat → List RegWrite × FpFlags}
    (hi : Issuing i f s) (hw : ∀ l, (s.ctx f).active.has l = true → inRange (lane (s.ctx f) l).1)
    (hu : Untrapped (s.ctx f) (lane (s.ctx f))) :
    ∃ t, performFp i f s lane = .next t ∧ CompletedFp s (s.ctx f) (lane (s.ctx f)) t := by
  obtain ⟨t, h1, h2⟩ := performFp_done hi hw hu
  exact ⟨t, h1, _, fpRaised_untrapped hu, h2⟩

/-- A warp instruction with a lane in Active is its body. -/
theorem performWarp_active {i : Instr} {f : Fields} {s : State} {body : Ctx → Result} (hi : Issuing i f s)
    (h : (s.ctx f).active ≠ 0) : performWarp i f s body = perform i f s body := by
  simp only [performWarp, perform_first hi, h, if_false]

/-- A decode-time cause (R53) is a trap of the whole split. -/
theorem perform_illegal {i : Instr} {f : Fields} {s : State} {body : Ctx → Result} {cause : Nat}
    (h : decodeCause s (s.ctx f) i = some cause) (first : (s.ctx f).w.rob = []) (now : s.cur.late = false) :
    perform i f s body = .next ((s.countIssue (s.ctx f).wid).trapSplit (s.ctx f).wid (s.ctx f).pc (s.ctx f).word
      (s.ctx f).lanes cause) := by
  simp only [perform, atOnce_of first now, h, Bool.not_true, Bool.false_eq_true, if_false]

/-- Active is a part of the split (R40). -/
theorem active_sub (s : State) (f : Fields) (l : Nat) (h : (s.ctx f).active.has l = true) : (s.ctx f).lanes.has l = true := by
  have : (s.ctx f).active = activeMask (s.ctx f).w (s.ctx f).lanes f := rfl
  rw [this] at h
  simp only [activeMask, LaneMask.has_ofPred, Bool.and_eq_true] at h
  exact h.2.1

end Sys2Proof.Machine
end

