-- ==== Sys2Proof/Laws/PerInstr.lean ====
section
/-! SUPPORT. The family Encodable, one lemma per constructor: a well-formed instruction has a row and its fields, and the row's
opcode names it (R50). -/

namespace Sys2Proof.Laws.Encodable

/-- An instruction that can stand in a word is the one that its own opcode and fields name. -/
def Statement (i : Instr) : Prop :=
  i.WellFormed → ∃ r f, i.row = some r ∧ i.fields = some f ∧ Instr.ofOpcode r.opc.toNat f = some i

/-- An event stands in no word. -/
theorem of_event {i : Instr} (h : i.fields = none) : Statement i := fun hw => by
  unfold Instr.WellFormed Instr.reject at hw
  rw [h] at hw
  cases hr : i.row <;> simp [hr] at hw

/-- A row that asks for a modifier has it. -/
theorem legal_of_wf {i : Instr} {r : Row} {f : Fields} (hr : i.row = some r) (hf : i.fields = some f) (hw : i.WellFormed) :
    r.legal = true := by
  unfold Instr.WellFormed Instr.reject at hw
  rw [hr, hf] at hw
  by_cases h : r.legal = true
  · exact h
  · simp only [h, Bool.not_false, if_true] at hw
    repeat' split at hw
    all_goals simp at hw

theorem nop (f : Fields) : Statement (.nop f) := fun _ => ⟨_, _, rfl, rfl, rfl⟩
theorem mov (f : Fields) : Statement (.mov f) := fun _ => ⟨_, _, rfl, rfl, rfl⟩
theorem movi (f : Fields) : Statement (.movi f) := fun _ => ⟨_, _, rfl, rfl, rfl⟩
theorem movk (f : Fields) : Statement (.movk f) := fun _ => ⟨_, _, rfl, rfl, rfl⟩
theorem movs (f : Fields) : Statement (.movs f) := fun _ => ⟨_, _, rfl, rfl, rfl⟩
theorem sel (f : Fields) : Statement (.sel f) := fun _ => ⟨_, _, rfl, rfl, rfl⟩
theorem iadd (f : Fields) : Statement (.iadd f) := fun _ => ⟨_, _, rfl, rfl, rfl⟩
theorem isub (f : Fields) : Statement (.isub f) := fun _ => ⟨_, _, rfl, rfl, rfl⟩
theorem iaddc (f : Fields) : Statement (.iaddc f) := fun _ => ⟨_, _, rfl, rfl, rfl⟩
theorem imul (f : Fields) : Statement (.imul f) := fun _ => ⟨_, _, rfl, rfl, rfl⟩
theorem imulh (f : Fields) : Statement (.imulh f) := fun _ => ⟨_, _, rfl, rfl, rfl⟩
theorem imad (f : Fields) : Statement (.imad f) := fun _ => ⟨_, _, rfl, rfl, rfl⟩
theorem imal (f : Fields) : Statement (.imal f) := fun _ => ⟨_, _, rfl, rfl, rfl⟩
theorem idiv (f : Fields) : Statement (.idiv f) := fun _ => ⟨_, _, rfl, rfl, rfl⟩
theorem irem (f : Fields) : Statement (.irem f) := fun _ => ⟨_, _, rfl, rfl, rfl⟩
theorem imin (f : Fields) : Statement (.imin f) := fun _ => ⟨_, _, rfl, rfl, rfl⟩
theorem imax (f : Fields) : Statement (.imax f) := fun _ => ⟨_, _, rfl, rfl, rfl⟩
theorem iabs (f : Fields) : Statement (.iabs f) := fun _ => ⟨_, _, rfl, rfl, rfl⟩
theorem ineg (f : Fields) : Statement (.ineg f) := fun _ => ⟨_, _, rfl, rfl, rfl⟩
theorem iadd64 (f : Fields) : Statement (.iadd64 f) := fun _ => ⟨_, _, rfl, rfl, rfl⟩
theorem isub64 (f : Fields) : Statement (.isub64 f) := fun _ => ⟨_, _, rfl, rfl, rfl⟩
theorem lea (f : Fields) : Statement (.lea f) := fun _ => ⟨_, _, rfl, rfl, rfl⟩
theorem and (f : Fields) : Statement (.and f) := fun _ => ⟨_, _, rfl, rfl, rfl⟩
theorem or (f : Fields) : Statement (.or f) := fun _ => ⟨_, _, rfl, rfl, rfl⟩
theorem xor (f : Fields) : Statement (.xor f) := fun _ => ⟨_, _, rfl, rfl, rfl⟩
theorem andn (f : Fields) : Statement (.andn f) := fun _ => ⟨_, _, rfl, rfl, rfl⟩
theorem not (f : Fields) : Statement (.not f) := fun _ => ⟨_, _, rfl, rfl, rfl⟩
theorem shl (f : Fields) : Statement (.shl f) := fun _ => ⟨_, _, rfl, rfl, rfl⟩
theorem shr (f : Fields) : Statement (.shr f) := fun _ => ⟨_, _, rfl, rfl, rfl⟩
theorem sha (f : Fields) : Statement (.sha f) := fun _ => ⟨_, _, rfl, rfl, rfl⟩
theorem rotl (f : Fields) : Statement (.rotl f) := fun _ => ⟨_, _, rfl, rfl, rfl⟩
theorem fshf (f : Fields) : Statement (.fshf f) := fun _ => ⟨_, _, rfl, rfl, rfl⟩
theorem bfe (f : Fields) : Statement (.bfe f) := fun _ => ⟨_, _, rfl, rfl, rfl⟩
theorem bfi (f : Fields) : Statement (.bfi f) := fun _ => ⟨_, _, rfl, rfl, rfl⟩
theorem popc (f : Fields) : Statement (.popc f) := fun _ => ⟨_, _, rfl, rfl, rfl⟩
theorem clz (f : Fields) : Statement (.clz f) := fun _ => ⟨_, _, rfl, rfl, rfl⟩
theorem ctz (f : Fields) : Statement (.ctz f) := fun _ => ⟨_, _, rfl, rfl, rfl⟩
theorem brev (f : Fields) : Statement (.brev f) := fun _ => ⟨_, _, rfl, rfl, rfl⟩
theorem bmix (f : Fields) : Statement (.bmix f) := fun _ => ⟨_, _, rfl, rfl, rfl⟩
theorem icmp (f : Fields) : Statement (.icmp f) := fun _ => ⟨_, _, rfl, rfl, rfl⟩
theorem icmp64 (f : Fields) : Statement (.icmp64 f) := fun _ => ⟨_, _, rfl, rfl, rfl⟩
theorem ptab (f : Fields) : Statement (.ptab f) := fun _ => ⟨_, _, rfl, rfl, rfl⟩
theorem pmovGet (f : Fields) : Statement (.pmovGet f) := fun hw => by
  have h : f.mod0 = false := by
    have := legal_of_wf (i := .pmovGet f) rfl rfl hw
    simp at this
    simp [this]
  refine ⟨_, _, rfl, rfl, ?_⟩
  show some (if f.mod0 then Instr.pmovSet f else .pmovGet f) = _
  rw [h]
  rfl
theorem pmovSet (f : Fields) : Statement (.pmovSet f) := fun hw => by
  have h : f.mod0 = true := by
    have := legal_of_wf (i := .pmovSet f) rfl rfl hw
    simp at this
    simp [this]
  refine ⟨_, _, rfl, rfl, ?_⟩
  show some (if f.mod0 then Instr.pmovSet f else .pmovGet f) = _
  rw [h]
  rfl
theorem lpoll (f : Fields) : Statement (.lpoll f) := fun _ => ⟨_, _, rfl, rfl, rfl⟩
theorem lxch (f : Fields) : Statement (.lxch f) := fun _ => ⟨_, _, rfl, rfl, rfl⟩
theorem lfold (f : Fields) : Statement (.lfold f) := fun _ => ⟨_, _, rfl, rfl, rfl⟩
theorem lgrp (f : Fields) : Statement (.lgrp f) := fun _ => ⟨_, _, rfl, rfl, rfl⟩
theorem fadd (f : Fields) : Statement (.fadd f) := fun _ => ⟨_, _, rfl, rfl, rfl⟩
theorem fsub (f : Fields) : Statement (.fsub f) := fun _ => ⟨_, _, rfl, rfl, rfl⟩
theorem fmul (f : Fields) : Statement (.fmul f) := fun _ => ⟨_, _, rfl, rfl, rfl⟩
theorem ffma (f : Fields) : Statement (.ffma f) := fun _ => ⟨_, _, rfl, rfl, rfl⟩
theorem fmin (f : Fields) : Statement (.fmin f) := fun _ => ⟨_, _, rfl, rfl, rfl⟩
theorem fmax (f : Fields) : Statement (.fmax f) := fun _ => ⟨_, _, rfl, rfl, rfl⟩
theorem fcmp (f : Fields) : Statement (.fcmp f) := fun _ => ⟨_, _, rfl, rfl, rfl⟩
theorem fclass (f : Fields) : Statement (.fclass f) := fun _ => ⟨_, _, rfl, rfl, rfl⟩
theorem fdiv (f : Fields) : Statement (.fdiv f) := fun _ => ⟨_, _, rfl, rfl, rfl⟩
theorem fsqrt (f : Fields) : Statement (.fsqrt f) := fun _ => ⟨_, _, rfl, rfl, rfl⟩
theorem frcp (f : Fields) : Statement (.frcp f) := fun _ => ⟨_, _, rfl, rfl, rfl⟩
theorem frsq (f : Fields) : Statement (.frsq f) := fun _ => ⟨_, _, rfl, rfl, rfl⟩
theorem fex2 (f : Fields) : Statement (.fex2 f) := fun _ => ⟨_, _, rfl, rfl, rfl⟩
theorem flg2 (f : Fields) : Statement (.flg2 f) := fun _ => ⟨_, _, rfl, rfl, rfl⟩
theorem fsin (f : Fields) : Statement (.fsin f) := fun _ => ⟨_, _, rfl, rfl, rfl⟩
theorem fcos (f : Fields) : Statement (.fcos f) := fun _ => ⟨_, _, rfl, rfl, rfl⟩
theorem ftanh (f : Fields) : Statement (.ftanh f) := fun _ => ⟨_, _, rfl, rfl, rfl⟩
theorem fsgm (f : Fields) : Statement (.fsgm f) := fun _ => ⟨_, _, rfl, rfl, rfl⟩
theorem hadd2 (f : Fields) : Statement (.hadd2 f) := fun _ => ⟨_, _, rfl, rfl, rfl⟩
theorem hmul2 (f : Fields) : Statement (.hmul2 f) := fun _ => ⟨_, _, rfl, rfl, rfl⟩
theorem hfma2 (f : Fields) : Statement (.hfma2 f) := fun _ => ⟨_, _, rfl, rfl, rfl⟩
theorem badd2 (f : Fields) : Statement (.badd2 f) := fun _ => ⟨_, _, rfl, rfl, rfl⟩
theorem bmul2 (f : Fields) : Statement (.bmul2 f) := fun _ => ⟨_, _, rfl, rfl, rfl⟩
theorem bfma2 (f : Fields) : Statement (.bfma2 f) := fun _ => ⟨_, _, rfl, rfl, rfl⟩
theorem dadd (f : Fields) : Statement (.dadd f) := fun _ => ⟨_, _, rfl, rfl, rfl⟩
theorem dmul (f : Fields) : Statement (.dmul f) := fun _ => ⟨_, _, rfl, rfl, rfl⟩
theorem dfma (f : Fields) : Statement (.dfma f) := fun _ => ⟨_, _, rfl, rfl, rfl⟩
theorem cvt (f : Fields) : Statement (.cvt f) := fun _ => ⟨_, _, rfl, rfl, rfl⟩
theorem f2i (f : Fields) : Statement (.f2i f) := fun _ => ⟨_, _, rfl, rfl, rfl⟩
theorem i2f (f : Fields) : Statement (.i2f f) := fun _ => ⟨_, _, rfl, rfl, rfl⟩
theorem pack8 (f : Fields) : Statement (.pack8 f) := fun _ => ⟨_, _, rfl, rfl, rfl⟩
theorem unpk8 (f : Fields) : Statement (.unpk8 f) := fun _ => ⟨_, _, rfl, rfl, rfl⟩
theorem tos24 (f : Fields) : Statement (.tos24 f) := fun _ => ⟨_, _, rfl, rfl, rfl⟩
theorem froms24 (f : Fields) : Statement (.froms24 f) := fun _ => ⟨_, _, rfl, rfl, rfl⟩
theorem pack16 (f : Fields) : Statement (.pack16 f) := fun _ => ⟨_, _, rfl, rfl, rfl⟩
theorem packi8 (f : Fields) : Statement (.packi8 f) := fun _ => ⟨_, _, rfl, rfl, rfl⟩
theorem omset (f : Fields) : Statement (.omset f) := fun _ => ⟨_, _, rfl, rfl, rfl⟩
theorem omld (f : Fields) : Statement (.omld f) := fun _ => ⟨_, _, rfl, rfl, rfl⟩
theorem gidx (f : Fields) : Statement (.gidx f) := fun _ => ⟨_, _, rfl, rfl, rfl⟩
theorem cvdecl (f : Fields) : Statement (.cvdecl f) := fun _ => ⟨_, _, rfl, rfl, rfl⟩
theorem cvsign (f : Fields) : Statement (.cvsign f) := fun _ => ⟨_, _, rfl, rfl, rfl⟩
theorem mma8 (f : Fields) : Statement (.mma8 f) := fun _ => ⟨_, _, rfl, rfl, rfl⟩
theorem mmah (f : Fields) : Statement (.mmah f) := fun _ => ⟨_, _, rfl, rfl, rfl⟩
theorem mmab (f : Fields) : Statement (.mmab f) := fun _ => ⟨_, _, rfl, rfl, rfl⟩
theorem mmai (f : Fields) : Statement (.mmai f) := fun _ => ⟨_, _, rfl, rfl, rfl⟩
theorem sacc (f : Fields) : Statement (.sacc f) := fun _ => ⟨_, _, rfl, rfl, rfl⟩
theorem iacc (f : Fields) : Statement (.iacc f) := fun _ => ⟨_, _, rfl, rfl, rfl⟩
theorem accz (f : Fields) : Statement (.accz f) := fun _ => ⟨_, _, rfl, rfl, rfl⟩
theorem accld (f : Fields) : Statement (.accld f) := fun _ => ⟨_, _, rfl, rfl, rfl⟩
theorem accst (f : Fields) : Statement (.accst f) := fun _ => ⟨_, _, rfl, rfl, rfl⟩
theorem accmov (f : Fields) : Statement (.accmov f) := fun _ => ⟨_, _, rfl, rfl, rfl⟩
theorem drain (f : Fields) : Statement (.drain f) := fun _ => ⟨_, _, rfl, rfl, rfl⟩
theorem draina (f : Fields) : Statement (.draina f) := fun _ => ⟨_, _, rfl, rfl, rfl⟩
theorem ld (f : Fields) : Statement (.ld f) := fun _ => ⟨_, _, rfl, rfl, rfl⟩
theorem st (f : Fields) : Statement (.st f) := fun _ => ⟨_, _, rfl, rfl, rfl⟩
theorem ldfe (f : Fields) : Statement (.ldfe f) := fun _ => ⟨_, _, rfl, rfl, rfl⟩
theorem stfe (f : Fields) : Statement (.stfe f) := fun _ => ⟨_, _, rfl, rfl, rfl⟩
theorem feclr (f : Fields) : Statement (.feclr f) := fun _ => ⟨_, _, rfl, rfl, rfl⟩
theorem atom (f : Fields) : Statement (.atom f) := fun _ => ⟨_, _, rfl, rfl, rfl⟩
theorem acas (f : Fields) : Statement (.acas f) := fun _ => ⟨_, _, rfl, rfl, rfl⟩
theorem red (f : Fields) : Statement (.red f) := fun _ => ⟨_, _, rfl, rfl, rfl⟩
theorem fence (f : Fields) : Statement (.fence f) := fun _ => ⟨_, _, rfl, rfl, rfl⟩
theorem pref (f : Fields) : Statement (.pref f) := fun _ => ⟨_, _, rfl, rfl, rfl⟩
theorem bra (f : Fields) : Statement (.bra f) := fun _ => ⟨_, _, rfl, rfl, rfl⟩
theorem brx (f : Fields) : Statement (.brx f) := fun _ => ⟨_, _, rfl, rfl, rfl⟩
theorem call (f : Fields) : Statement (.call f) := fun _ => ⟨_, _, rfl, rfl, rfl⟩
theorem callx (f : Fields) : Statement (.callx f) := fun _ => ⟨_, _, rfl, rfl, rfl⟩
theorem ret (f : Fields) : Statement (.ret f) := fun _ => ⟨_, _, rfl, rfl, rfl⟩
theorem exit (f : Fields) : Statement (.exit f) := fun _ => ⟨_, _, rfl, rfl, rfl⟩
theorem wsync (f : Fields) : Statement (.wsync f) := fun _ => ⟨_, _, rfl, rfl, rfl⟩
theorem yield (f : Fields) : Statement (.yield f) := fun _ => ⟨_, _, rfl, rfl, rfl⟩
theorem sleep (f : Fields) : Statement (.sleep f) := fun _ => ⟨_, _, rfl, rfl, rfl⟩
theorem rgacq (f : Fields) : Statement (.rgacq f) := fun _ => ⟨_, _, rfl, rfl, rfl⟩
theorem rgrel (f : Fields) : Statement (.rgrel f) := fun _ => ⟨_, _, rfl, rfl, rfl⟩
theorem role (f : Fields) : Statement (.role f) := fun _ => ⟨_, _, rfl, rfl, rfl⟩
theorem brk (f : Fields) : Statement (.brk f) := fun _ => ⟨_, _, rfl, rfl, rfl⟩
theorem trap (f : Fields) : Statement (.trap f) := fun _ => ⟨_, _, rfl, rfl, rfl⟩
theorem kick (f : Fields) : Statement (.kick f) := fun hw => by
  have h : f.mod5 = false := by
    have := legal_of_wf (i := .kick f) rfl rfl hw
    simp at this
    simp [this]
  refine ⟨_, _, rfl, rfl, ?_⟩
  show some (if f.mod5 then Instr.kickDie f else .kick f) = _
  rw [h]
  rfl
theorem kickDie (f : Fields) : Statement (.kickDie f) := fun hw => by
  have h : f.mod5 = true := by
    have := legal_of_wf (i := .kickDie f) rfl rfl hw
    simp at this
    simp [this]
  refine ⟨_, _, rfl, rfl, ?_⟩
  show some (if f.mod5 then Instr.kickDie f else .kick f) = _
  rw [h]
  rfl
theorem wainst (f : Fields) : Statement (.wainst f) := fun _ => ⟨_, _, rfl, rfl, rfl⟩
theorem qpush (f : Fields) : Statement (.qpush f) := fun _ => ⟨_, _, rfl, rfl, rfl⟩
theorem qpop (f : Fields) : Statement (.qpop f) := fun _ => ⟨_, _, rfl, rfl, rfl⟩
theorem qpeek (f : Fields) : Statement (.qpeek f) := fun _ => ⟨_, _, rfl, rfl, rfl⟩
theorem qclose (f : Fields) : Statement (.qclose f) := fun _ => ⟨_, _, rfl, rfl, rfl⟩
theorem lnch (f : Fields) : Statement (.lnch f) := fun _ => ⟨_, _, rfl, rfl, rfl⟩
theorem shadow (f : Fields) : Statement (.shadow f) := fun _ => ⟨_, _, rfl, rfl, rfl⟩
theorem publish (f : Fields) : Statement (.publish f) := fun _ => ⟨_, _, rfl, rfl, rfl⟩
theorem bara (f : Fields) : Statement (.bara f) := fun _ => ⟨_, _, rfl, rfl, rfl⟩
theorem barw (f : Fields) : Statement (.barw f) := fun _ => ⟨_, _, rfl, rfl, rfl⟩
theorem bars (f : Fields) : Statement (.bars f) := fun _ => ⟨_, _, rfl, rfl, rfl⟩
theorem barq (f : Fields) : Statement (.barq f) := fun _ => ⟨_, _, rfl, rfl, rfl⟩
theorem bcinit (f : Fields) : Statement (.bcinit f) := fun _ => ⟨_, _, rfl, rfl, rfl⟩
theorem bcadd (f : Fields) : Statement (.bcadd f) := fun _ => ⟨_, _, rfl, rfl, rfl⟩
theorem bcwait (f : Fields) : Statement (.bcwait f) := fun _ => ⟨_, _, rfl, rfl, rfl⟩
theorem cntrd (f : Fields) : Statement (.cntrd f) := fun _ => ⟨_, _, rfl, rfl, rfl⟩
theorem gtrd (f : Fields) : Statement (.gtrd f) := fun _ => ⟨_, _, rfl, rfl, rfl⟩
theorem tcinv (f : Fields) : Statement (.tcinv f) := fun _ => ⟨_, _, rfl, rfl, rfl⟩
theorem tcrcl (f : Fields) : Statement (.tcrcl f) := fun _ => ⟨_, _, rfl, rfl, rfl⟩
theorem place (f : Fields) : Statement (.place f) := fun _ => ⟨_, _, rfl, rfl, rfl⟩
theorem repl (f : Fields) : Statement (.repl f) := fun _ => ⟨_, _, rfl, rfl, rfl⟩
theorem probe (f : Fields) : Statement (.probe f) := fun hw => by
  have h : f.mod5 = false := by
    have := legal_of_wf (i := .probe f) rfl rfl hw
    simp at this
    simp [this]
  refine ⟨_, _, rfl, rfl, ?_⟩
  show some (if f.mod5 then Instr.probeF f else .probe f) = _
  rw [h]
  rfl
theorem probeF (f : Fields) : Statement (.probeF f) := fun hw => by
  have h : f.mod5 = true := by
    have := legal_of_wf (i := .probeF f) rfl rfl hw
    simp at this
    simp [this]
  refine ⟨_, _, rfl, rfl, ?_⟩
  show some (if f.mod5 then Instr.probeF f else .probe f) = _
  rw [h]
  rfl
theorem sysrd (f : Fields) : Statement (.sysrd f) := fun _ => ⟨_, _, rfl, rfl, rfl⟩
theorem syswr (f : Fields) : Statement (.syswr f) := fun _ => ⟨_, _, rfl, rfl, rfl⟩
theorem eret (f : Fields) : Statement (.eret f) := fun _ => ⟨_, _, rfl, rfl, rfl⟩
theorem trqpop (f : Fields) : Statement (.trqpop f) := fun _ => ⟨_, _, rfl, rfl, rfl⟩
theorem bndset (f : Fields) : Statement (.bndset f) := fun _ => ⟨_, _, rfl, rfl, rfl⟩
theorem bndrd (f : Fields) : Statement (.bndrd f) := fun _ => ⟨_, _, rfl, rfl, rfl⟩
theorem diagst (f : Fields) : Statement (.diagst f) := fun _ => ⟨_, _, rfl, rfl, rfl⟩
theorem diagld (f : Fields) : Statement (.diagld f) := fun _ => ⟨_, _, rfl, rfl, rfl⟩
theorem wdog (f : Fields) : Statement (.wdog f) := fun _ => ⟨_, _, rfl, rfl, rfl⟩
theorem halt (f : Fields) : Statement (.halt f) := fun _ => ⟨_, _, rfl, rfl, rfl⟩
theorem idle (f : Fields) : Statement (.idle f) := fun _ => ⟨_, _, rfl, rfl, rfl⟩
theorem splitResize (col : Nat) (val : DWord) : Statement (.splitResize col val) := of_event rfl
theorem resizeComplete (col : Nat) : Statement (.resizeComplete col) := of_event rfl
theorem elastClear (die : Nat) (val : DWord) : Statement (.elastClear die val) := of_event rfl
theorem lcfgWrite (dir : Nat) (val : DWord) : Statement (.lcfgWrite dir val) := of_event rfl
theorem issueOpportunity (core : Nat) : Statement (.issueOpportunity core) := of_event rfl
theorem loadDataReturn (wid : Nat) : Statement (.loadDataReturn wid) := of_event rfl
theorem entryRetire (wid : Nat) : Statement (.entryRetire wid) := of_event rfl
theorem translationWalk (wid lane : Nat) : Statement (.translationWalk wid lane) := of_event rfl
theorem watchdog (wid : Nat) : Statement (.watchdog wid) := of_event rfl
theorem feTimeout (wid lane : Nat) : Statement (.feTimeout wid lane) := of_event rfl
theorem ldfeServe (granule : Nat) : Statement (.ldfeServe granule) := of_event rfl
theorem bcwaitReturn (wid : Nat) : Statement (.bcwaitReturn wid) := of_event rfl
theorem barrierPhaseComplete (bar : Nat) : Statement (.barrierPhaseComplete bar) := of_event rfl
theorem sleepWake (wid : Nat) : Statement (.sleepWake wid) := of_event rfl
theorem idleWake (wid : Nat) : Statement (.idleWake wid) := of_event rfl
theorem rgacqGrant (core : Nat) : Statement (.rgacqGrant core) := of_event rfl
theorem kickQueueFree (engine : Nat) : Statement (.kickQueueFree engine) := of_event rfl
theorem gleanerQueueFree (silo : Nat) : Statement (.gleanerQueueFree silo) := of_event rfl
theorem launchRecordEnqueue (record : BitVec 2048) : Statement (.launchRecordEnqueue record) := of_event rfl
theorem pipelineDescriptor (record : BitVec 2048) : Statement (.pipelineDescriptor record) := of_event rfl
theorem gangPlacement (queue quad base : Nat) : Statement (.gangPlacement queue quad base) := of_event rfl
theorem coresidentPlacement (queue : Nat) (places : List (Nat × Nat)) : Statement (.coresidentPlacement queue places) := of_event rfl
theorem stageLaunch (pipe stage quad base : Nat) : Statement (.stageLaunch pipe stage quad base) := of_event rfl
theorem allocationClearDone (col unit : Nat) : Statement (.allocationClearDone col unit) := of_event rfl
theorem sliceEnd (queue : Nat) : Statement (.sliceEnd queue) := of_event rfl
theorem partialEviction (core queue : Nat) : Statement (.partialEviction core queue) := of_event rfl
theorem contextRestore (wid : Nat) : Statement (.contextRestore wid) := of_event rfl
theorem saveBoundExpiry (wid : Nat) : Statement (.saveBoundExpiry wid) := of_event rfl
theorem fatalDieError (die : Nat) : Statement (.fatalDieError die) := of_event rfl
theorem sectorFill (fid sector : Nat) : Statement (.sectorFill fid sector) := of_event rfl
theorem gleanerPolicyMove (tenant vpn : Nat) (target : Option Nat) : Statement (.gleanerPolicyMove tenant vpn target) := of_event rfl
theorem moveSwitch (tenant vpn : Nat) : Statement (.moveSwitch tenant vpn) := of_event rfl
theorem evictionSwitch (tenant vpn : Nat) : Statement (.evictionSwitch tenant vpn) := of_event rfl
theorem forwardingFree (fid : Nat) : Statement (.forwardingFree fid) := of_event rfl
theorem replicaSwitch (tenant vpn : Nat) : Statement (.replicaSwitch tenant vpn) := of_event rfl
theorem replicaCollapse (tenant vpn : Nat) : Statement (.replicaCollapse tenant vpn) := of_event rfl
theorem wainRequest (core serial : Nat) : Statement (.wainRequest core serial) := of_event rfl
theorem wainRequestComplete (core serial : Nat) : Statement (.wainRequestComplete core serial) := of_event rfl
theorem dieEngineRequest (die engine serial : Nat) : Statement (.dieEngineRequest die engine serial) := of_event rfl
theorem drainaAddition (n : Nat) : Statement (.drainaAddition n) := of_event rfl
theorem ordGroupApply (line : Nat) : Statement (.ordGroupApply line) := of_event rfl
theorem quote (nonce : BitVec 256) : Statement (.quote nonce) := of_event rfl
theorem extend (digest : BitVec 384) : Statement (.extend digest) := of_event rfl
theorem update (header : BitVec 2048) (image : List Byte) : Statement (.update header image) := of_event rfl
theorem dieReadmission (die : Nat) (lost : List Nat) : Statement (.dieReadmission die lost) := of_event rfl
theorem load (header : BitVec 2048) (image : List Byte) : Statement (.load header image) := of_event rfl
theorem islandRecalibration (island ns : Nat) : Statement (.islandRecalibration island ns) := of_event rfl
theorem thermalThrottle (island : Nat) (temp : BitVec 16) : Statement (.thermalThrottle island temp) := of_event rfl
theorem thermalShutdown (island : Nat) (temp : BitVec 16) : Statement (.thermalShutdown island temp) := of_event rfl
theorem flitReceive (dir : Nat) (bytes : List Byte) : Statement (.flitReceive dir bytes) := of_event rfl
theorem checkIntervalEnd (dir wave errors : Nat) : Statement (.checkIntervalEnd dir wave errors) := of_event rfl
theorem withdrawMsg (dir wave : Nat) : Statement (.withdrawMsg dir wave) := of_event rfl
theorem trainingAttemptEnd (dir wave errors : Nat) : Statement (.trainingAttemptEnd dir wave errors) := of_event rfl
theorem restoreMsg (dir wave : Nat) : Statement (.restoreMsg dir wave) := of_event rfl
theorem lossOfLock (dir : Nat) (lost : BitVec 8) : Statement (.lossOfLock dir lost) := of_event rfl
theorem rds (line pkg : Nat) : Statement (.rds line pkg) := of_event rfl
theorem rdx (line pkg : Nat) : Statement (.rdx line pkg) := of_event rfl
theorem wb (line pkg tag : Nat) (keep : Bool) (bytes : List (Nat × Byte)) : Statement (.wb line pkg tag keep bytes) := of_event rfl
theorem ev (line pkg : Nat) : Statement (.ev line pkg) := of_event rfl
theorem homeRead (line : Nat) : Statement (.homeRead line) := of_event rfl
theorem homeWrite (line pkg tag : Nat) (bytes : List (Nat × Byte)) : Statement (.homeWrite line pkg tag bytes) := of_event rfl
theorem forwardedRequest (line : Nat) : Statement (.forwardedRequest line) := of_event rfl
theorem invalidation (line : Nat) : Statement (.invalidation line) := of_event rfl
theorem backInvalidation (line : Nat) : Statement (.backInvalidation line) := of_event rfl
theorem switchFailure (switch : Nat) : Statement (.switchFailure switch) := of_event rfl
theorem requestResend (wid lane : Nat) : Statement (.requestResend wid lane) := of_event rfl
theorem rebuildHoldEnd (switch : Nat) (bytes : List (Nat × Nat × Byte)) : Statement (.rebuildHoldEnd switch bytes) := of_event rfl
theorem rebuildOpen (switch : Nat) : Statement (.rebuildOpen switch) := of_event rfl
theorem portDownExpiry (port : Port) : Statement (.portDownExpiry port) := of_event rfl
theorem cxlMemRead (addr n : Nat) : Statement (.cxlMemRead addr n) := of_event rfl
theorem cxlMemWrite (addr : Nat) (bytes : List Byte) : Statement (.cxlMemWrite addr bytes) := of_event rfl
theorem hostLaneFailure (lanes : Nat) : Statement (.hostLaneFailure lanes) := of_event rfl
theorem injectionDurationEnd (dir wave : Nat) : Statement (.injectionDurationEnd dir wave) := of_event rfl
theorem tokensReachZero (tenant : Nat) : Statement (.tokensReachZero tenant) := of_event rfl
theorem pcmdQueueFree : Statement .pcmdQueueFree := of_event rfl
theorem periodBoundary : Statement .periodBoundary := of_event rfl
theorem readpart : Statement .readpart := of_event rfl
theorem readten : Statement .readten := of_event rfl
theorem setten : Statement .setten := of_event rfl
theorem mode : Statement .mode := of_event rfl
theorem tenantReset : Statement .tenantReset := of_event rfl
theorem segment : Statement .segment := of_event rfl
theorem save : Statement .save := of_event rfl
theorem restore : Statement .restore := of_event rfl
theorem cert : Statement .cert := of_event rfl
theorem activate : Statement .activate := of_event rfl
theorem activateTimeout : Statement .activateTimeout := of_event rfl
theorem hostReset : Statement .hostReset := of_event rfl
theorem loftReset : Statement .loftReset := of_event rfl
theorem powerLoss : Statement .powerLoss := of_event rfl

end Sys2Proof.Laws.Encodable
end

