-- ==== Sys2Proof/Tests/Slice0.lean ====
section
/-! SUPPORT. Tests: the encoding, one form of every instruction on a small machine, and a witness for the hypotheses of each
statement. -/

namespace Sys2Proof.Tests

set_option Elab.async false

open Sys2Proof.Machine

/-! ## A small machine -/

/-- A map of one row of four bytes at the start of the scratchpad. -/
def someMap : BitVec 256 := BitVec.ofNat 256 (scratchBase + 4 * 2 ^ 64 + 2 ^ 96 + 4 * 2 ^ 112)

/-- A warp of one lane in grid 1, with k0 at the scratchpad, a convergence register of that lane, and a handler. -/
def oneLane : Warp :=
  { lanes := [(0, { pc := 0, status := .running })], k := [(0, BitVec.ofNat 64 scratchBase)], cv := [(0, cvOf 1 1)]
    om := [(0, someMap), (1, someMap)], nf := 4, na := 8, ext := true, tvec := 0x1000, grid := 1
    lines := [(0, Line.make [] 31)] }

/-- The block of that warp: one unit of scratch on core 0. -/
def oneBlock : Block := { grid := 1, block := 0, gang := 0, gangid := 0, gcore := 0, unit := 4095, units := 1 }

/-- The launch record of its grid: one block of one warp, a unit of scratch, EXT, one CORE barrier. -/
def oneRecord : BitVec 2048 :=
  BitVec.ofNat 2048 (2 ^ 64 * (1 + 2 ^ 16 + 2 ^ 32) + 2 ^ 128 * (4096 + 2 ^ 24 + 2 ^ 29 + 2 ^ 34) + 2 ^ 192 * 2 ^ 18)

/-- A machine with a warp, whose split of one lane stands to issue. -/
def machineOf (w : Warp) : State :=
  { State.reset with
    warps := [(1, w)]
    loft := { State.reset.loft with
      blocks := [oneBlock], grids := [(1, { record := oneRecord, state := .running })]
      barriers := [{ id := 0, scope := 1, grid := 1, owner := 0, index := 0 }]
      pipelines := [(3, { stages := [] })], nextWid := 2, nextGrid := 4, nextBarrier := 1 }
    cur := { wid := 1, pc := 0, lanes := 1, word := 0 } }

def machine : State := machineOf oneLane

/-- The same with the lane in its handler. -/
def inHandler : State :=
  machineOf { oneLane with lanes := [(0, { pc := 0, status := .running, tag := some { cause := 0x10, pc := 0 } })] }

/-- The same with the page of tenant 0 at virtual address 0 mapped to DRAM at 0x10000. -/
def paged : State :=
  ((((machine.setRaw64 0 0x1001).setRaw64 0x1000 0x2001).setRaw64 0x2000 0x3001).setRaw64 0x3000 0x4001).setRaw64 0x4000 0x39
    |>.setRaw64 0x4008 0x10000

/-- `Issuing`, computed. -/
def issues (i : Instr) (s : State) : Bool :=
  match i.fields with
  | some f =>
    let c := s.ctx f
    c.w.onCore && c.lanes != 0 && (List.range 32).all (fun l => !c.lanes.has l || (c.w.lane l).status == .running) &&
      c.w.parkedSince == none && decodeCause s c i == none && c.w.rob == [] && s.cur.late == false
  | none => false

theorem issuing_of_issues {i : Instr} {f : Fields} {s : State} (hf : i.fields = some f) (h : issues i s = true) :
    Issuing i f s := by
  simp only [issues, hf, Bool.and_eq_true, beq_iff_eq, bne_iff_ne, List.all_eq_true, Bool.or_eq_true, Bool.not_eq_true',
    List.mem_range] at h
  obtain ⟨⟨⟨⟨⟨⟨h1, h2⟩, h3⟩, h4⟩, h5⟩, h6⟩, h7⟩ := h
  exact ⟨h1, h2, fun l hl hm => by rcases h3 l hl with h | h <;> simp_all, h4, h5, h6, h7⟩

/-- Every one of some instructions stands ready to issue on `s`. -/
def AllIssue (s : State) (is : List Instr) : Prop := ∀ i ∈ is, ∃ f, i.fields = some f ∧ Issuing i f s

theorem allIssue_of {s : State} {is : List Instr} (h : is.all (issues · s) = true) : AllIssue s is := fun i hi => by
  have hs := List.all_eq_true.mp h i hi
  cases hf : i.fields with
  | none => simp [issues, hf] at hs
  | some f => exact ⟨f, rfl, issuing_of_issues hf hs⟩

def isNext (o : Host.Outcome State Fault Refusal) : Bool :=
  match o with
  | .next _ => true
  | _ => false

/-- A fact about the machine that an outcome holds. -/
def onNext (o : Host.Outcome State Fault Refusal) (p : State → Bool) : Bool :=
  match o with
  | .next t => p t
  | _ => false

/-- A fact about what a check that passed gives. -/
def okAnd {ε α : Type} (x : Except ε α) (p : α → Bool) : Bool :=
  match x with
  | .ok a => p a
  | .error _ => false

theorem ok_of {ε α : Type} {x : Except ε α} (p : α → Bool) (h : okAnd x p = true) : ∃ a, x = .ok a ∧ p a = true := by
  cases x with
  | ok a => exact ⟨a, rfl, h⟩
  | error _ => simp [okAnd] at h

/-- What an option that is there holds. -/
def someAnd {α : Type} (x : Option α) (p : α → Bool) : Bool :=
  match x with
  | some a => p a
  | none => false

theorem some_of {α : Type} {x : Option α} (p : α → Bool) (h : someAnd x p = true) : ∃ a, x = some a ∧ p a = true := by
  cases x with
  | some a => exact ⟨a, rfl, h⟩
  | none => simp [someAnd] at h

/-! ## One form of every instruction -/

def sumSamples : List Instr := [
  .iadd { dst := .v 4, sa := .v 8, sb := .v 12 }, .isub { dst := .v 4, sa := .v 8, sb := .v 12 }]

def carrySamples : List Instr := [
  .iaddc { dst := .v 4, sa := .v 8, sb := .v 12, sc := .p 4 }]

def productSamples : List Instr := [
  .imul { dst := .v 4, sa := .v 8, sb := .v 12 }, .imulh { dst := .v 4, sa := .v 8, sb := .v 12 },
  .imad { dst := .v 4, sa := .v 8, sb := .v 12, sc := .v 16 }, .imal { dst := .v 4, sa := .v 8, sb := .v 12, sc := .v 16 }]

def quotientSamples : List Instr := [
  .idiv { dst := .v 4, sa := .v 8, sb := .v 12 }, .irem { dst := .v 4, sa := .v 8, sb := .v 12 }]

def selectSamples : List Instr := [
  .imin { dst := .v 4, sa := .v 8, sb := .v 12 }, .imax { dst := .v 4, sa := .v 8, sb := .v 12 },
  .iabs { dst := .v 4, sa := .v 8 }, .ineg { dst := .v 4, sa := .v 8 }, .iadd64 { dst := .v 4, sa := .v 8, sb := .v 12 },
  .isub64 { dst := .v 4, sa := .v 8, sb := .v 12 }, .lea { dst := .v 4, sa := .v 8, sb := .v 12 }]

def logicSamples : List Instr := [
  .and { dst := .v 4, sa := .v 8, sb := .v 12 }, .or { dst := .v 4, sa := .v 8, sb := .v 12 },
  .xor { dst := .v 4, sa := .v 8, sb := .v 12 }, .andn { dst := .v 4, sa := .v 8, sb := .v 12 },
  .not { dst := .v 4, sa := .v 8 }, .shl { dst := .v 4, sa := .v 8, sb := .v 12 },
  .shr { dst := .v 4, sa := .v 8, sb := .v 12 }, .sha { dst := .v 4, sa := .v 8, sb := .v 12 },
  .rotl { dst := .v 4, sa := .v 8, sb := .v 12 }, .fshf { dst := .v 4, sa := .v 8, sb := .v 12, sc := .v 16 },
  .popc { dst := .v 4, sa := .v 8 }, .clz { dst := .v 4, sa := .v 8 }, .ctz { dst := .v 4, sa := .v 8 },
  .brev { dst := .v 4, sa := .v 8 }]

def bitFieldSamples : List Instr := [
  .bfe { dst := .v 4, sa := .v 8, sb := .v 12 }, .bfi { dst := .v 4, sa := .v 8, sb := .v 12, sc := .v 16 },
  .bmix { dst := .v 4, sa := .v 8, sb := .v 12, sc := .v 16 }]

def predicateSamples : List Instr := [
  .icmp { dst := .p 1, sa := .v 8, sb := .v 12 }, .icmp64 { dst := .p 1, sa := .v 8, sb := .v 12 },
  .ptab { dst := .p 1, sa := .p 2, sb := .p 3, sc := .p 4 }, .pmovGet { dst := .v 4 },
  .pmovSet { sa := .v 8, mod := 1, imm := 1 }, .nop {}, .mov { dst := .v 4, sa := .v 8, mod := 2 },
  .movi { dst := .v 4, sb := .imm }, .movk { dst := .v 4, sa := .k 0 }, .movs { dst := .v 4, sa := .special 0 },
  .sel { dst := .v 4, sa := .v 8, sb := .v 12, sc := .p 4, mod := 2 }]

def laneSamples : List Instr := [
  .lpoll { dst := .p 1, sa := .p 2 }, .lxch { dst := .v 4, sa := .v 8, sb := .v 12 }, .lfold { dst := .v 4, sa := .v 8 },
  .lgrp { dst := .v 4, sa := .v 8, mod := 2 }]

def readSamples : List Instr := [
  .gtrd { dst := .v 4 }, .sysrd { dst := .v 4 }, .cntrd { dst := .v 4, imm := 1281 }, .bndrd { dst := .v 4 },
  .pref { sa := .k 0 }]

def floatSamples : List Instr := [
  .fadd { dst := .v 4, sa := .v 8, sb := .v 12 }, .fsub { dst := .v 4, sa := .v 8, sb := .v 12 },
  .fmul { dst := .v 4, sa := .v 8, sb := .v 12 }, .ffma { dst := .v 4, sa := .v 8, sb := .v 12, sc := .v 16 },
  .fdiv { dst := .v 4, sa := .v 8, sb := .v 12 }, .fsqrt { dst := .v 4, sa := .v 8 },
  .hadd2 { dst := .v 4, sa := .v 8, sb := .v 12 }, .hmul2 { dst := .v 4, sa := .v 8, sb := .v 12 },
  .hfma2 { dst := .v 4, sa := .v 8, sb := .v 12, sc := .v 16 }, .badd2 { dst := .v 4, sa := .v 8, sb := .v 12 },
  .bmul2 { dst := .v 4, sa := .v 8, sb := .v 12 }, .bfma2 { dst := .v 4, sa := .v 8, sb := .v 12, sc := .v 16 },
  .dadd { dst := .v 4, sa := .v 8, sb := .v 12 }, .dmul { dst := .v 4, sa := .v 8, sb := .v 12 },
  .dfma { dst := .v 4, sa := .v 8, sb := .v 12, sc := .v 16 }]

def compareSamples : List Instr := [
  .fmin { dst := .v 4, sa := .v 8, sb := .v 12 }, .fmax { dst := .v 4, sa := .v 8, sb := .v 12 },
  .fcmp { dst := .p 1, sa := .v 8, sb := .v 12 }, .fclass { dst := .p 1, sa := .v 8 }]

def approxSamples : List Instr := [
  .frcp { dst := .v 4, sa := .v 8 }, .frsq { dst := .v 4, sa := .v 8 }, .fex2 { dst := .v 4, sa := .v 8 },
  .flg2 { dst := .v 4, sa := .v 8 }, .fsin { dst := .v 4, sa := .v 8 }, .fcos { dst := .v 4, sa := .v 8 },
  .ftanh { dst := .v 4, sa := .v 8 }, .fsgm { dst := .v 4, sa := .v 8 }]

def convertSamples : List Instr := [
  .cvt { dst := .v 4, sa := .v 8, aux := 1 }, .f2i { dst := .v 4, sa := .v 8 }, .i2f { dst := .v 4, sa := .v 8 },
  .pack8 { dst := .v 4, sa := .v 8 }, .packi8 { dst := .v 4, sa := .v 8 }, .pack16 { dst := .v 4, sa := .v 8, sb := .v 12 },
  .tos24 { dst := .v 4, sa := .v 8 }, .froms24 { dst := .v 4, sa := .v 8 }, .unpk8 { dst := .v 4, sa := .v 8 }]

def mapSamples : List Instr := [
  .omset { sa := .maps 0 0, sb := .k 4 }, .omld { sa := .maps 0 0, sb := .k 2 }, .gidx { sa := .maps 0 0, sb := .v 12 },
  .cvdecl { dst := .cv 0 }, .cvsign { dst := .cv 0 }, .accz { dst := .acc 0, sc := .cv 0 },
  .accmov { dst := .acc 0, sb := .acc 0, sc := .cv 0 }, .iacc { dst := .acc 0, sb := .pf 0, sc := .cv 0 }]

def stepSamples : List Instr := [
  .mma8 { dst := .pf 0, sa := .maps 0 0, sc := .cv 0 }, .mmah { dst := .pf 0, sa := .maps 0 0, sc := .cv 0 },
  .mmab { dst := .pf 0, sa := .maps 0 0, sc := .cv 0 }, .mmai { dst := .pf 0, sa := .maps 0 0, sc := .cv 0 }]

def tileSamples : List Instr := [
  .sacc { dst := .acc 0, sa := .maps 0 0, sb := .pf 0, sc := .cv 0 },
  .accld { dst := .acc 0, sa := .maps 0 0, sc := .cv 0 }, .accst { sa := .maps 0 0, sb := .acc 0, sc := .cv 0 },
  .drain { sa := .maps 0 0, sb := .acc 0, sc := .cv 0 }, .draina { sa := .maps 0 0, sb := .acc 0, sc := .cv 0 }]

def memorySamples : List Instr := [
  .ld { dst := .v 4, sa := .k 0 }, .st { sa := .k 0, sb := .v 12 },
  .atom { dst := .v 4, sa := .k 0, sb := .v 12, mod := 2 }, .red { sa := .k 0, sb := .v 12, mod := 2 },
  .acas { dst := .v 4, sa := .k 0, sb := .v 12, sc := .v 16, mod := 2 }]

def fullSamples : List Instr := [
  .ldfe { dst := .v 4, sa := .k 0, mod := 2 }, .stfe { sa := .k 0, sb := .v 12, mod := 2 },
  .feclr { sa := .k 0, sb := .v 12 }]

def countSamples : List Instr := [
  .bcinit { sa := .k 0, sb := .v 12 }, .bcadd { sa := .k 0, sb := .v 12 }, .bcwait { sa := .k 0 }]

def fenceSamples : List Instr := [
  .fence {}]

def transferSamples : List Instr := [
  .bra {}, .brx { sa := .k 0 }, .call {}, .callx { sa := .k 0 }, .ret {}, .exit {}]

def waitSamples : List Instr := [
  .wsync { sb := .k 2 }, .sleep { sb := .k 2 }, .yield {}, .rgacq {}, .rgrel {}, .role { sb := .imm }]

def trapSamples : List Instr := [
  .brk {}, .trap {}, .eret {}]

def kickSamples : List Instr := [
  .kick { sa := .k 0, sb := .v 12 }, .kickDie { sa := .k 0, sb := .v 12, mod := 0x20 }, .wainst { dst := .v 4 }]

def queueSamples : List Instr := [
  .qpush { dst := .p 1, sa := .k 0, sb := .k 2 }, .qpop { dst := .p 1, sa := .k 0, sb := .k 2 },
  .qpeek { dst := .p 1, sa := .k 0, sb := .k 2 }, .qclose { sb := .k 2 }, .lnch { dst := .v 4, sa := .k 0 }]

def shadowSamples : List Instr := [
  .shadow { sa := .k 0, sb := .k 2 }, .publish { sa := .k 0, sb := .k 2 }]

def barrierSamples : List Instr := [
  .bara { dst := .v 4, sb := .k 2, aux := 1 }, .bars { sb := .k 2, aux := 1 }, .barw { sa := .k 0, sb := .k 2, aux := 1 },
  .barq { dst := .v 4, sb := .k 2, aux := 1 }, .tcinv { sa := .k 0, sb := .k 2 }, .tcrcl { sa := .k 0, sb := .k 2 }]

def pageSamples : List Instr := [
  .place { dst := .p 1, sa := .k 0 }, .repl { dst := .p 1, sa := .k 0 }, .probe { dst := .v 4, sa := .k 0 },
  .probeF { dst := .v 4, sa := .zero, sb := .v 12, mod := 0x20 }]

def systemSamples : List Instr := [
  .syswr { sa := .k 0 }]

def recordSamples : List Instr := [
  .trqpop { dst := .p 1, sa := .k 0 }, .bndset { sa := .k 0 }, .wdog { dst := .v 4, sa := .k 0, sb := .v 12 },
  .diagst { sa := .k 0, sb := .v 12 }, .diagld { dst := .v 4, sa := .k 0 }]

def haltSamples : List Instr := [
  .halt { sa := .k 0 }, .idle {}]

/-- One form of every instruction. -/
def samples : List Instr :=
  sumSamples ++ carrySamples ++ productSamples ++ quotientSamples ++ selectSamples ++ logicSamples ++
  bitFieldSamples ++ predicateSamples ++ laneSamples ++ readSamples ++ floatSamples ++ compareSamples ++
  approxSamples ++ convertSamples ++ mapSamples ++ stepSamples ++ tileSamples ++ memorySamples ++
  fullSamples ++ countSamples ++ fenceSamples ++ transferSamples ++ waitSamples ++ trapSamples ++
  kickSamples ++ queueSamples ++ shadowSamples ++ barrierSamples ++ pageSamples ++ systemSamples ++
  recordSamples ++ haltSamples

theorem test_samples_well_formed : samples.all (fun i => i.reject == none) = true := by decide +kernel

theorem test_scalar_samples_complete :
    (sumSamples ++ carrySamples ++ productSamples ++ quotientSamples ++ selectSamples ++ logicSamples ++ bitFieldSamples ++
      predicateSamples ++ laneSamples ++ readSamples ++ floatSamples ++ compareSamples ++ approxSamples ++ convertSamples).all
      (fun i => isNext (exec i machine)) = true := by decide +kernel

theorem test_system_samples_complete :
    (memorySamples ++ fullSamples ++ countSamples ++ fenceSamples ++ transferSamples ++ waitSamples ++ trapSamples ++
      kickSamples ++ queueSamples ++ shadowSamples ++ barrierSamples ++ pageSamples ++ systemSamples ++ recordSamples ++
      haltSamples).all (fun i => isNext (exec i machine)) = true := by decide +kernel

/-! ## Decoding: the words that the spec works out -/

/-- A word from its bits [31:0], [63:32] and [95:64]. -/
def wordOf3 (a b c : Word) : BitVec 96 := c ++ (b ++ a)

theorem test_decode_nop : (decodeWord (wordOf3 0xFFFFDC00#32 0x00003FFF#32 0x00000000#32)).toOption =
    some (.nop {}) := by decide +kernel
theorem test_decode_iadd : (decodeWord (wordOf3 0x00009C10#32 0x00003FFC#32 0x00000040#32)).toOption =
    some (.iadd { dst := .v 2, sa := .v 0, sb := .imm, imm := 0x40 }) := by decide +kernel
theorem test_decode_iadd_guarded : (decodeWord (wordOf3 0x0000AC10#32 0x00003FFC#32 0x00000040#32)).toOption =
    some (.iadd { neg := true, pred := 3, dst := .v 2, sa := .v 0, sb := .imm, imm := 0x40 }) := by decide +kernel
theorem test_decode_ld : (decodeWord (wordOf3 0xC1021D80#32 0x04143FFF#32 0x00000040#32)).toOption =
    some (.ld { dst := .v 8, sa := .v 4, mod := 0x0A, aux := 0x04, imm := 0x40 }) := by decide +kernel
theorem test_decode_bra : (decodeWord (wordOf3 0xFFFFC600#32 0x00003FFF#32 0xFFFFFFF3#32)).toOption =
    some (.bra { pred := 1, imm := 0xFFFFFFF3 }) := by decide +kernel
theorem test_decode_ffma : (decodeWord (wordOf3 0x8040DC83#32 0x00020000#32 0x00000000#32)).toOption =
    some (.ffma { dst := .v 3, sa := .v 1, sb := .v 2, sc := .v 0, mod := 1 }) := by decide +kernel
theorem test_decode_pack8 : (decodeWord (wordOf3 0xC4051CC3#32 0x01003FFF#32 0x00000000#32)).toOption =
    some (.pack8 { dst := .v 20, sa := .v 16, aux := 1 }) := by decide +kernel
theorem test_decode_mma8 : (decodeWord (wordOf3 0xC4381D08#32 0x0000393F#32 0x00000000#32)).toOption =
    some (.mma8 { dst := .pf 0, sa := .maps 0 1, sc := .cv 0 }) := by decide +kernel
theorem test_decode_sacc : (decodeWord (wordOf3 0x00B41D10#32 0x00003938#32 0x00001800#32)).toOption =
    some (.sacc { dst := .acc 0, sa := .maps 2 0, sb := .pf 0, sc := .cv 0, imm := 0x1800 }) := by decide +kernel
theorem test_decode_atom : (decodeWord (wordOf3 0x06870588#32 0x40443FC6#32 0x00000000#32)).toOption =
    some (.atom { pred := 1, dst := .v 28, sa := .v 26, sb := .v 24, mod := 0x22, aux := 0x40 }) := by decide +kernel
theorem test_decode_acas : (decodeWord (wordOf3 0x20821D89#32 0x04980103#32 0x00000000#32)).toOption =
    some (.acas { dst := .v 8, sa := .k 2, sb := .v 12, sc := .v 4, mod := 0x4C, aux := 0x04 }) := by decide +kernel
theorem test_decode_kick : (decodeWord (wordOf3 0x843FCE80#32 0x00003FC7#32 0x00004100#32)).toOption =
    some (.kick { pred := 3, sa := .v 16, sb := .v 30, imm := 0x4100 }) := by decide +kernel
theorem test_decode_publish : (decodeWord (wordOf3 0x613FDE99#32 0x04003FE1#32 0x00000000#32)).toOption =
    some (.publish { sa := .k 4, sb := .k 5, aux := 0x04 }) := by decide +kernel
theorem test_decode_bars : (decodeWord (wordOf3 0x3FFFDF02#32 0x02003FFC#32 0x00000000#32)).toOption =
    some (.bars { sb := .imm, aux := 0x02 }) := by decide +kernel
theorem test_decode_gtrd : (decodeWord (wordOf3 0xFFC19F11#32 0x00003FFF#32 0x00000000#32)).toOption =
    some (.gtrd { dst := .v 6 }) := by decide +kernel
theorem test_decode_eret : (decodeWord (wordOf3 0xFFFFDF82#32 0x00023FFF#32 0x00000000#32)).toOption =
    some (.eret { mod := 1 }) := by decide +kernel
theorem test_decode_trqpop : (decodeWord (wordOf3 0xE2705F83#32 0x00003FFF#32 0x00000000#32)).toOption =
    some (.trqpop { dst := .p 1, sa := .k 9 }) := by decide +kernel

/-- The first bytes of a padding line, in memory order. -/
theorem test_decode_bytes : decode [0x00, 0xDC, 0xFF, 0xFF, 0xFF, 0x3F, 0, 0, 0, 0, 0, 0] = .ok (.nop {}, []) := by rfl

/-- The padding line of the spec has PARITY 0x2449. -/
theorem test_line_parity :
    Line.parityOf ((Line.make (List.replicate 5 (wordOf3 0xFFFFDC00 0x3FFF 0)) 1)) = 0x2449 := by decide +kernel

/-! ## Ill-formed words and terms, one for each check -/

theorem test_reject_guard : (Instr.nop { neg := true }).reject = some .guard := by decide +kernel
theorem test_reject_operand_class : (Instr.nop { dst := .v 1 }).reject = some .operandClass := by decide +kernel
theorem test_reject_unassigned_bit : (Instr.nop { aux := 1 }).reject = some .unassignedBit := by decide +kernel
theorem test_reject_modifier : (Instr.mov { dst := .v 4, sa := .v 8, mod := 7 }).reject = some .modifier := by decide +kernel
theorem test_reject_event : Instr.powerLoss.reject = some .unassignedOpcode := by decide +kernel
theorem test_refuse_opcode : decodeWord (wordOf3 0xFFFFDC06 0x3FFF 0) = .error .unassignedOpcode := by rfl
theorem test_refuse_operand_code : decodeWord (wordOf3 0x3FFFDC00 0x3FFB 0) = .error .operandCode := by rfl
theorem test_refuse_guard : decodeWord (wordOf3 0xFFFFFC00 0x3FFF 0) = .error .guard := by rfl
theorem test_refuse_ordering : decodeWord (wordOf3 0xC1021D80 0x041C3FFF 0x40) = .error .modifier := by rfl
theorem test_refuse_aux : decodeWord (wordOf3 0xC4051CC3 0x02003FFF 0) = .error .unassignedBit := by rfl
theorem test_refuse_truncated : decode [0x00, 0xDC] = .error .truncated := by rfl

/-! ## Results, by hand from the rules -/

/-- v8, v12 and v16 hold three words. -/
def with3 (a b c : Word) : State := machineOf { oneLane with v := [(8, a), (12, b), (16, c)] }

/-- What v4 holds after an instruction. -/
def v4After (i : Instr) (a b c : Word) (x : Word) : Bool := onNext (exec i (with3 a b c)) (fun t => (t.warp 1).getV 0 4 == x)

/-- What v4 and v5 hold after an instruction. -/
def v45After (i : Instr) (a b c : Word) (x : DWord) : Bool :=
  onNext (exec i (with3 a b c)) (fun t => (t.warp 1).getV 0 5 ++ (t.warp 1).getV 0 4 == x)

theorem test_iadd_wraps : v4After (.iadd { dst := .v 4, sa := .v 8, sb := .v 12 }) 0xFFFFFFFF 2 0 1 = true := by decide +kernel
theorem test_iadd_saturates : v4After (.iadd { dst := .v 4, sa := .v 8, sb := .v 12, mod := 0x40 }) 0x7FFFFFFF 1 0 0x7FFFFFFF = true := by decide +kernel
theorem test_isub_borrows : v4After (.isub { dst := .v 4, sa := .v 8, sb := .v 12 }) 0 1 0 0xFFFFFFFF = true := by decide +kernel
theorem test_imulh_signed : v4After (.imulh { dst := .v 4, sa := .v 8, sb := .v 12 }) 0xFFFFFFFE 3 0 0xFFFFFFFF = true := by decide +kernel
theorem test_imad : v4After (.imad { dst := .v 4, sa := .v 8, sb := .v 12, sc := .v 16 }) 0x10001 0x10000 5 0x10005 = true := by decide +kernel
theorem test_idiv_toward_zero : v4After (.idiv { dst := .v 4, sa := .v 8, sb := .v 12 }) 0xFFFFFFF9 2 0 0xFFFFFFFD = true := by decide +kernel
theorem test_idiv_by_zero : v4After (.idiv { dst := .v 4, sa := .v 8, sb := .v 12 }) 7 0 0 0xFFFFFFFF = true := by decide +kernel
theorem test_idiv_least : v4After (.idiv { dst := .v 4, sa := .v 8, sb := .v 12 }) 0x80000000 0xFFFFFFFF 0 0x80000000 = true := by decide +kernel
theorem test_irem_sign : v4After (.irem { dst := .v 4, sa := .v 8, sb := .v 12 }) 0xFFFFFFF9 2 0 0xFFFFFFFF = true := by decide +kernel
theorem test_irem_unsigned : v4After (.irem { dst := .v 4, sa := .v 8, sb := .v 12, mod := 0x20 }) 0x80000000 0xFFFFFFFF 0 0x80000000 = true := by decide +kernel
theorem test_imin_signed : v4After (.imin { dst := .v 4, sa := .v 8, sb := .v 12 }) 0xFFFFFFFF 1 0 0xFFFFFFFF = true := by decide +kernel
theorem test_sha_beyond : v4After (.sha { dst := .v 4, sa := .v 8, sb := .v 12 }) 0x80000000 40 0 0xFFFFFFFF = true := by decide +kernel
theorem test_shl_beyond : v4After (.shl { dst := .v 4, sa := .v 8, sb := .v 12 }) 1 32 0 0 = true := by decide +kernel
theorem test_rotl : v4After (.rotl { dst := .v 4, sa := .v 8, sb := .v 12 }) 0x80000001 33 0 3 = true := by decide +kernel
theorem test_bfe_unsigned : v4After (.bfe { dst := .v 4, sa := .v 8, sb := .v 12, mod := 0x20 }) 0x12345678 0x808 0 0x56 = true := by decide +kernel
theorem test_bfe_signed : v4After (.bfe { dst := .v 4, sa := .v 8, sb := .v 12 }) 0x0000F000 0x408 0 0 = true := by decide +kernel
theorem test_bfi : v4After (.bfi { dst := .v 4, sa := .v 8, sb := .v 12, sc := .v 16 }) 0xAB 0x808 0x11111111 0x1111AB11 = true := by decide +kernel
theorem test_popc : v4After (.popc { dst := .v 4, sa := .v 8 }) 0xF0F0000F 0 0 12 = true := by decide +kernel
theorem test_clz : v4After (.clz { dst := .v 4, sa := .v 8 }) 0x00010000 0 0 15 = true := by decide +kernel
theorem test_ctz_of_zero : v4After (.ctz { dst := .v 4, sa := .v 8 }) 0 0 0 32 = true := by decide +kernel
theorem test_brev : v4After (.brev { dst := .v 4, sa := .v 8 }) 0x00000003 0 0 0xC0000000 = true := by decide +kernel
theorem test_fadd : v4After (.fadd { dst := .v 4, sa := .v 8, sb := .v 12 }) 0x3F800000 0x40000000 0 0x40400000 = true := by decide +kernel
theorem test_fadd_ties_to_even : v4After (.fadd { dst := .v 4, sa := .v 8, sb := .v 12 }) 0x3F800000 0x33800000 0 0x3F800000 = true := by decide +kernel
theorem test_fsub_zero : v4After (.fsub { dst := .v 4, sa := .v 8, sb := .v 12 }) 0x3F800000 0x3F800000 0 0 = true := by decide +kernel
theorem test_fdiv_third : v4After (.fdiv { dst := .v 4, sa := .v 8, sb := .v 12 }) 0x3F800000 0x40400000 0 0x3EAAAAAB = true := by decide +kernel
theorem test_fsqrt_two : v4After (.fsqrt { dst := .v 4, sa := .v 8 }) 0x40000000 0 0 0x3FB504F3 = true := by decide +kernel
theorem test_fmul_overflow : v4After (.fmul { dst := .v 4, sa := .v 8, sb := .v 12 }) 0x7F7FFFFF 0x40000000 0 0x7F800000 = true := by decide +kernel
theorem test_ffma : v4After (.ffma { dst := .v 4, sa := .v 8, sb := .v 12, sc := .v 16 }) 0x40000000 0x40400000 0x3F800000 0x40E00000 = true := by decide +kernel
theorem test_fmin_nan : v4After (.fmin { dst := .v 4, sa := .v 8, sb := .v 12 }) 0x7FC00000 0x3F800000 0 0x3F800000 = true := by decide +kernel
theorem test_hadd2 : v4After (.hadd2 { dst := .v 4, sa := .v 8, sb := .v 12 }) 0x3C003C00 0x40003C00 0 0x42004000 = true := by decide +kernel
theorem test_badd2 : v4After (.badd2 { dst := .v 4, sa := .v 8, sb := .v 12 }) 0x3F803F80 0x40003F80 0 0x40404000 = true := by decide +kernel
theorem test_f2i_ties_to_even : v4After (.f2i { dst := .v 4, sa := .v 8 }) 0xBFC00000 0 0 0xFFFFFFFE = true := by decide +kernel
theorem test_i2f_rounds : v4After (.i2f { dst := .v 4, sa := .v 8 }) 16777217 0 0 0x4B800000 = true := by decide +kernel
theorem test_tos24 : v4After (.tos24 { dst := .v 4, sa := .v 8 }) 0x3F800000 0 0 0x3F8000 = true := by decide +kernel
theorem test_froms24 : v4After (.froms24 { dst := .v 4, sa := .v 8 }) 0x7FC000 0 0 0x7FC00000 = true := by decide +kernel
theorem test_pack16 : v4After (.pack16 { dst := .v 4, sa := .v 8, sb := .v 12 }) 0x3F800000 0x40000000 0 0x40003C00 = true := by decide +kernel
theorem test_frcp_one : v4After (.frcp { dst := .v 4, sa := .v 8 }) 0 0 0 0x7F800000 = true := by decide +kernel
theorem test_iadd64_carries : v45After (.iadd64 { dst := .v 4, sa := .v 8, sb := .v 12 }) 0xFFFFFFFF 1 0 0x100000000 = true := by
  decide +kernel
theorem test_dadd : v45After (.dadd { dst := .v 4, sa := .v 8, sb := .v 12 }) 0 0 0 0 = true := by decide +kernel
theorem test_imal : v45After (.imal { dst := .v 4, sa := .v 8, sb := .v 12, sc := .v 16 }) 0xFFFFFFFF 2 1 0xFFFFFFFFFFFFFFFF = true := by
  decide +kernel
theorem test_iaddc_carries : onNext (exec (.iaddc { dst := .v 4, sa := .v 8, sb := .v 12, sc := .zero, aux := 9 })
    (with3 0xFFFFFFFF 1 0)) (fun t => (t.warp 1).getV 0 4 == 0 && (t.warp 1).getP 0 1) = true := by decide +kernel
theorem test_icmp_signed : onNext (exec (.icmp { dst := .p 1, sa := .v 8, sb := .v 12, aux := 2 }) (with3 0xFFFFFFFF 0 0))
    (fun t => (t.warp 1).getP 0 1) = true := by decide +kernel
theorem test_guard_false : onNext (exec (.movi { pred := 3, dst := .v 4, sb := .imm, imm := 9 }) machine)
    (fun t => (t.warp 1).getV 0 4 == 0 && ((t.warp 1).lane 0).pc == 1) = true := by decide +kernel

/-- The byte of the scratchpad at offset 0. -/
def scratch0 : Nat := 2 ^ 49 + 4095 * 4096

theorem test_st_little_endian : onNext (exec (.st { sa := .k 0, sb := .v 12, mod := 2 }) (with3 0 0x11223344 0))
    (fun t => t.rawBytes scratch0 5 == [0x44, 0x33, 0x22, 0x11, 0]) = true := by decide +kernel
theorem test_ld_sign_extends : onNext (exec (.ld { dst := .v 4, sa := .k 0 }) (machine.setByte scratch0 0x80))
    (fun t => (t.warp 1).getV 0 4 == 0xFFFFFF80) = true := by decide +kernel
theorem test_atom_adds : onNext (exec (.atom { dst := .v 4, sa := .k 0, sb := .v 12, mod := 2 })
    ((with3 0 5 0).setByte scratch0 3)) (fun t => (t.warp 1).getV 0 4 == 3 && t.byteAt scratch0 == 8) = true := by decide +kernel
theorem test_acas_fails : onNext (exec (.acas { dst := .v 4, sa := .k 0, sb := .v 12, sc := .v 16, mod := 2 })
    ((with3 0 5 1).setByte scratch0 3)) (fun t => (t.warp 1).getV 0 4 == 3 && t.byteAt scratch0 == 3) = true := by decide +kernel
theorem test_st_misaligned : onNext (exec (.st { sa := .k 0, sb := .v 12, mod := 2, imm := 2 }) (with3 0 1 0))
    (fun t => ((t.warp 1).lane 0).pc == 0x1000 && ((t.warp 1).lane 0).trapCause == 6 && t.byteAt (scratch0 + 2) == 0) = true := by
  decide +kernel
theorem test_bra_to_slot : onNext (exec (.bra { imm := 3 }) machine) (fun t => ((t.warp 1).lane 0).pc == 3) = true := by
  decide +kernel
theorem test_call_links : onNext (exec (.call { imm := 2 }) machine)
    (fun t => ((t.warp 1).lane 0).pc == 2 && (t.warp 1).getV 0 62 == 1) = true := by decide +kernel
theorem test_exit_ends : onNext (exec (.exit {}) machine) (fun t => ((t.warp 1).lane 0).status == .exited) = true := by
  decide +kernel
theorem test_brk_enters : onNext (exec (.brk {}) machine)
    (fun t => ((t.warp 1).lane 0).pc == 0x1000 && ((t.warp 1).lane 0).trapCause == 0x10 && (t.warp 1).records.length == 1) = true := by
  decide +kernel
theorem test_eret_next : onNext (exec (.eret { mod := 1 }) inHandler)
    (fun t => ((t.warp 1).lane 0).pc == 1 && ((t.warp 1).lane 0).tag == none) = true := by decide +kernel
theorem test_syswr_tvec : onNext (exec (.syswr { sa := .k 0 }) machine) (fun t => (t.warp 1).tvec == 0xFFFFFF0000000000) = true := by
  decide +kernel
theorem test_bcinit : onNext (exec (.bcinit { sa := .k 0, sb := .v 12 }) (with3 0 7 0))
    (fun t => t.rawBytes scratch0 2 == [7, 0]) = true := by decide +kernel
theorem test_stfe_fills : onNext (exec (.stfe { sa := .k 0, sb := .v 12, mod := 2 }) machine) (fun t => t.isFull scratch0) = true := by
  decide +kernel

/-! ## A step -/

theorem test_step_runs : onNext (step (State.reset.withFetchWord 96 0x3FFFFFFFDC00))
    (fun t => ((t.warp 1).lane 0).pc == 1 && (t.warp 1).wretired == 1) = true := by decide +kernel
theorem test_step_illegal_word : onNext (step ((State.reset.withFetchWord 96 0x3FFFFFFFDC06).updWarp 1 (fun w => { w with tvec := 0x1000 })))
    (fun t => ((t.warp 1).lane 0).trapCause == 1 && ((t.warp 1).lane 31).pc == 0x1000) = true := by decide +kernel
theorem test_decode_table_word : decodeTableWord 96 0x3FFFFFFFDC00 = some (.nop {}) := by decide +kernel


/-! ## Witnesses: for each statement, a state and operands that meet its hypotheses -/

theorem witness_DecodeOfEncode : (Instr.iadd { dst := .v 4, sa := .v 8, sb := .v 12 }).WellFormed := by
  show Instr.reject _ = none
  decide +kernel

theorem witness_EncodeOfDecode : decodeWord (wordOf3 0xFFFFDC00 0x3FFF 0) = .ok (.nop {}) := by rfl

theorem witness_DecodeBytes :
    (Instr.nop {}).WellFormed ∧ Instr.ofOpcode ((wordOf3 0xFFFFDC06 0x3FFF 0).extractLsb' 0 10).toNat {} = none :=
  ⟨by show Instr.reject _ = none; decide +kernel, by rfl⟩

theorem witness_SumResults : AllIssue machine sumSamples := allIssue_of (by decide +kernel)
theorem witness_AddWithCarry : AllIssue machine carrySamples := allIssue_of (by decide +kernel)
theorem witness_ProductResults : AllIssue machine productSamples := allIssue_of (by decide +kernel)
theorem witness_QuotientResults : AllIssue machine quotientSamples := allIssue_of (by decide +kernel)
theorem witness_SelectAndWideResults : AllIssue machine selectSamples := allIssue_of (by decide +kernel)
theorem witness_LogicShiftAndCountResults : AllIssue machine logicSamples := allIssue_of (by decide +kernel)
theorem witness_BitFieldAndByteMixResults : AllIssue machine bitFieldSamples := allIssue_of (by decide +kernel)
theorem witness_PredicateAndMoveResults : AllIssue machine predicateSamples := allIssue_of (by decide +kernel)
theorem witness_LaneOperationResults : AllIssue machine laneSamples := allIssue_of (by decide +kernel)
theorem witness_RegisterReadResults : AllIssue machine readSamples := allIssue_of (by decide +kernel)

/-- With no flag enabled nothing traps. -/
theorem untrapped (f : Fields) (r : Nat → List RegWrite × FpFlags) : Untrapped (machine.ctx f) r := fun l _ => by
  have : (machine.ctx f).w.enabledFlags = 0 := by rfl
  rw [this]; simp

theorem witness_FloatArithmeticResults :
    AllIssue machine floatSamples ∧ ∀ f r, Untrapped (machine.ctx f) r := ⟨allIssue_of (by decide +kernel), untrapped⟩
theorem witness_NanAndRounding :
    (FpVal.ofBits .fp32 0x7FC00000).isNan = true ∧ (FpVal.ofBits .fp32 0).isNan = false ∧ (FpVal.ofBits .fp32 0x7F800000).isNan = false := by
  decide +kernel
theorem witness_FloatSelectAndCompareResults :
    AllIssue machine compareSamples ∧ ∀ f r, Untrapped (machine.ctx f) r := ⟨allIssue_of (by decide +kernel), untrapped⟩
theorem witness_ApproximateFunctionResults :
    (AllIssue machine approxSamples ∧ ∀ f r, Untrapped (machine.ctx f) r) ∧
    (FpVal.ofBits .fp32 (0x7F800001 : Word).toNat).isNan = true ∧
    (∀ x ∈ ([0xC0800000, 0x40400000, 0x43000000, 0xC3160000, 0x47800001] : List Word), ∃ n m e,
      FpVal.ofBits .fp32 x.toNat = .num n m e ∧ m ≠ 0) := by
  refine ⟨⟨allIssue_of (by decide +kernel), untrapped⟩, by decide +kernel, fun x hx => ?_⟩
  simp only [List.mem_cons, List.not_mem_nil, or_false] at hx
  rcases hx with rfl | rfl | rfl | rfl | rfl <;> exact ⟨_, _, _, rfl, by decide⟩
/-- R169: a root and a logarithm of a negative power of two. -/
theorem test_negative_roots :
    Approx.apply .rsq 0xC0800000 = (0x7FC00000, FpFlags.nv) ∧ Approx.apply .lg2 0xC0000000 = (0x7FC00000, FpFlags.nv) := ⟨rfl, rfl⟩
theorem witness_ConversionResults :
    AllIssue machine convertSamples ∧ ∀ f r, Untrapped (machine.ctx f) r := ⟨allIssue_of (by decide +kernel), untrapped⟩

/-! ### Matrix -/

/-- `Convened`, computed. -/
def convenes (c : Ctx) (f : Fields) : Bool :=
  tileReady c.w c.pc c.lanes (cvNo f.sc) && c.active == cvMembers (c.w.getCv (cvNo f.sc)) && c.active != 0

theorem convened {c : Ctx} {f : Fields} (h : convenes c f = true) : Convened c f := by
  simp only [convenes, Bool.and_eq_true, beq_iff_eq, bne_iff_ne] at h
  exact ⟨h.1.1, h.1.2, h.2⟩

theorem witness_MapAndTileMoveResults :
    AllIssue machine mapSamples ∧
    (let f : Fields := { dst := .acc 0, sb := .acc 0, sc := .cv 0 }; Convened (machine.ctx f) f ∧ (machine.ctx f).active ≠ 0) ∧
    (let f : Fields := { sa := .maps 0 0, sb := .k 0 }; let c := machine.ctx f
      (c.w.getK 0).toNat % 32 = 0 ∧ ∃ s' places b bytes,
        settle c none none (checkSpans machine c.agent c.low .read [{ va := c.w.getK 0, len := 32 }]) = .ok (s', places) ∧
        readPlaces s' c.w.tenant (s'.classOf c.w) places = (b, bytes, none) ∧ (b.warp c.wid).parkedSince = none) := by
  refine ⟨allIssue_of (by decide +kernel), ⟨convened (by decide +kernel), by decide +kernel⟩, by decide +kernel, ?_⟩
  obtain ⟨⟨s', places⟩, h1, h2⟩ := ok_of (x := settle (machine.ctx { sa := .maps 0 0, sb := .k 0 }) none none
      (checkSpans machine (machine.ctx { sa := .maps 0 0, sb := .k 0 }).agent 0 .read
        [{ va := BitVec.ofNat 64 scratchBase, len := 32 }]))
    (fun a => (readPlaces a.1 0 (a.1.classOf oneLane) a.2).2.2 == none &&
      ((readPlaces a.1 0 (a.1.classOf oneLane) a.2).1.warp 1).parkedSince == none) (by decide +kernel)
  simp only [Bool.and_eq_true, beq_iff_eq] at h2
  exact ⟨s', places, _, _, h1, Prod.ext rfl (Prod.ext rfl h2.1), h2.2⟩

/-- The operands of a product step. -/
def stepFields : Fields := { dst := .pf 0, sa := .maps 0 1, sc := .cv 0 }

theorem witness_ProductStepResults :
    AllIssue machine stepSamples ∧ Convened (machine.ctx stepFields) stepFields ∧
    (let c := machine.ctx stepFields; let rows := mapSpans someMap 1 128
      ∃ s0 places s1 xs s2 ys,
        settle c (misaligned 1 (rows ++ rows)) none (checkSpans machine c.agent c.low .read ((rows ++ rows).map (·.span))) =
          .ok (s0, places) ∧
        readRows c s0 (s0.classOf c.w) 1 128 none rows = .ok (s1, xs) ∧
        readRows c s1 (s1.classOf c.w) 1 128 none rows = .ok (s2, ys) ∧
        (s2.warp c.wid).parkedSince = none ∧ ∀ fl : FpFlags, fl &&& c.w.enabledFlags = 0) := by
  refine ⟨allIssue_of (by decide +kernel), convened (by decide +kernel), ?_⟩
  let c := machine.ctx stepFields
  let rows := mapSpans someMap 1 128
  obtain ⟨⟨s0, places⟩, h1, h⟩ := ok_of
    (x := settle c (misaligned 1 (rows ++ rows)) none (checkSpans machine c.agent c.low .read ((rows ++ rows).map (·.span))))
    (fun a => okAnd (readRows c a.1 (a.1.classOf c.w) 1 128 none rows) (fun b =>
      okAnd (readRows c b.1 (b.1.classOf c.w) 1 128 none rows) (fun d => (d.1.warp c.wid).parkedSince == none)))
    (by decide +kernel)
  obtain ⟨⟨s1, xs⟩, h2, h⟩ := ok_of _ h
  obtain ⟨⟨s2, ys⟩, h3, h4⟩ := ok_of _ h
  exact ⟨s0, places, s1, xs, s2, ys, h1, h2, h3, eq_of_beq h4, fun fl => by
    show fl &&& (0 : FpFlags) = 0
    simp⟩

theorem witness_TileMemoryResults :
    AllIssue machine tileSamples ∧
    (let f : Fields := { dst := .acc 0, sa := .maps 0 0, sb := .pf 0, sc := .cv 0 }; let c := machine.ctx f
      Convened c f ∧ ∃ b rows, readRows c machine (machine.classOf c.w) 3 1 none (mapSpans someMap 3 1) = .ok (b, rows) ∧
        (b.warp c.wid).parkedSince = none) ∧
    (let f : Fields := { sa := .maps 0 0, sb := .acc 0, sc := .cv 0 }; let c := machine.ctx f
      Convened c f ∧
      (∀ k ∈ [AccKind.write, .engineWrite], ∃ s' places, settle c (misaligned 4 (mapSpans someMap 4 64)) none
        (checkSpans machine c.agent c.low k ((mapSpans someMap 4 64).map (·.span))) = .ok (s', places)) ∧
      boundTraps c.w (drainBound f someMap) 0 = false) := by
  refine ⟨allIssue_of (by decide +kernel), ⟨convened (by decide +kernel), ?_⟩, convened (by decide +kernel), ?_, by decide +kernel⟩
  · obtain ⟨⟨b, rows⟩, h1, h2⟩ := ok_of
      (x := readRows (machine.ctx { dst := .acc 0, sa := .maps 0 0, sb := .pf 0, sc := .cv 0 }) machine (machine.classOf oneLane)
        3 1 none (mapSpans someMap 3 1))
      (fun a => (a.1.warp 1).parkedSince == none) (by decide +kernel)
    exact ⟨b, rows, h1, eq_of_beq h2⟩
  · intro k hk
    obtain ⟨⟨s', places⟩, h, _⟩ := ok_of
      (x := settle (machine.ctx { sa := .maps 0 0, sb := .acc 0, sc := .cv 0 }) (misaligned 4 (mapSpans someMap 4 64)) none
        (checkSpans machine (machine.ctx { sa := .maps 0 0, sb := .acc 0, sc := .cv 0 }).agent 0 k
          ((mapSpans someMap 4 64).map (·.span))))
      (fun _ => true) (by
        simp only [List.mem_cons, List.not_mem_nil, or_false] at hk
        rcases hk with rfl | rfl <;> decide +kernel)
    exact ⟨s', places, h⟩

/-! ### Memory -/

/-- The operands of an access of size .W to the scratchpad. -/
def wordAt0 : Fields := { dst := .v 4, sa := .k 0, mod := 2 }

theorem has_one {l : Nat} (h : LaneMask.has 1 l = true) : l = 0 := by
  have hl : l < 32 := by
    by_cases h' : l < 32
    · exact h'
    · simp [LaneMask.has, BitVec.getLsbD_of_ge _ _ (Nat.le_of_not_lt h')] at h
  revert h
  revert l
  decide

/-- One lane at the start of the scratchpad. -/
theorem scratchReady {f : Fields} {s : State} {n : Nat} (ha : (s.ctx f).active = 1)
    (h : ((s.ctx f).w.addr 0 f).toNat % n = 0 ∧ (scratchAt s f 0).map Loc.phys = some scratch0 ∧
      eccClass (s.syndrome scratch0) = .clean) : ScratchReady s f n (fun _ => scratch0) := fun l hl => by
  rw [ha] at hl
  rw [has_one hl]
  exact h

theorem witness_ScratchLoadResults : AllIssue machine [.ld wordAt0] ∧ ScratchReady machine wordAt0 4 (fun _ => scratch0) :=
  ⟨allIssue_of (by decide +kernel), scratchReady (by decide +kernel) (by decide +kernel)⟩

/-- The operands of a store of size .W to the scratchpad. -/
def storeAt0 : Fields := { sa := .k 0, sb := .v 12, mod := 2 }

theorem witness_ScratchStoreResults : AllIssue machine [.st storeAt0] ∧ storeAt0.ordering = 0 ∧
    ScratchReady machine storeAt0 4 (fun _ => scratch0) ∧ boundTraps oneLane (storeBound storeAt0) 1 = false :=
  ⟨allIssue_of (by decide +kernel), by decide +kernel, scratchReady (by decide +kernel) (by decide +kernel), by decide +kernel⟩

/-- The lanes whose access has its place. -/
def foundPlaces (xs : List (Nat × LaneAccess)) : List (Nat × State.Place) :=
  xs.filterMap (fun x => match x.2 with | .at p => some (x.1, p) | _ => none)

theorem witness_AccessesInLaneOrder : AllIssue machine memorySamples ∧ machine.storesComplete 1 = true ∧
    ∀ k ∈ [AccKind.read, .write, .rmw], ∃ s' ps, PlacesFound machine storeAt0 k 4 s' ps ∧ ps.length = 1 ∧
      (s'.warp 1).parkedSince = none ∧
      ∃ b ws, inOrder (fun s _ p => ((s.readAt 0 0 p 4).1, [], (s.readAt 0 0 p 4).2.2)) s' ps = (b, ws, false) := by
  refine ⟨allIssue_of (by decide +kernel), by decide +kernel, fun k hk => ?_⟩
  have h : (checkLanes machine (machine.ctx storeAt0) k 4 storeAt0 [0]).2 =
        (foundPlaces (checkLanes machine (machine.ctx storeAt0) k 4 storeAt0 [0]).2).map (fun x => (x.1, LaneAccess.at x.2)) ∧
      (foundPlaces (checkLanes machine (machine.ctx storeAt0) k 4 storeAt0 [0]).2).length = 1 ∧
      ((checkLanes machine (machine.ctx storeAt0) k 4 storeAt0 [0]).1.warp 1).parkedSince = none ∧
      (inOrder (fun s _ p => ((s.readAt 0 0 p 4).1, [], (s.readAt 0 0 p 4).2.2))
        (checkLanes machine (machine.ctx storeAt0) k 4 storeAt0 [0]).1
        (foundPlaces (checkLanes machine (machine.ctx storeAt0) k 4 storeAt0 [0]).2)).2.2 = false := by
    simp only [List.mem_cons, List.not_mem_nil, or_false] at hk
    rcases hk with rfl | rfl | rfl <;> decide +kernel
  exact ⟨_, _, Prod.ext rfl h.1, h.2.1, h.2.2.1, _, _, Prod.ext rfl (Prod.ext rfl h.2.2.2)⟩

/-- The machine with the granule at the start of the scratchpad full. -/
def filled : State := machine.setFull scratch0 true

theorem witness_FullEmptyResults :
    AllIssue filled fullSamples ∧ ScratchReady filled wordAt0 4 (fun _ => scratch0) ∧
    (∀ l, (filled.ctx wordAt0).active.has l = true →
      filled.isFull scratch0 = true ∧ ∀ r ∈ filled.mem.feQueue, r.granule ≠ scratch0 / 16) ∧
    (∀ l l', (filled.ctx wordAt0).active.has l = true → (filled.ctx wordAt0).active.has l' = true → l ≠ l' →
      scratch0 / 16 ≠ scratch0 / 16) ∧
    filled.storesComplete 1 = true ∧
    granulesOf filled (filled.ctx storeAt0).agent (BitVec.ofNat 64 scratchBase) 16 = some [scratch0] := by
  have ha : (filled.ctx wordAt0).active = 1 := by decide +kernel
  refine ⟨allIssue_of (by decide +kernel), scratchReady ha (by decide +kernel), fun _ _ => ⟨by decide +kernel, by
    intro r hr; cases hr⟩, fun l l' h h' hne => ?_, by decide +kernel, by decide +kernel⟩
  rw [ha] at h h'
  exact absurd ((has_one h).trans (has_one h').symm) hne

theorem witness_ByteCountResults :
    AllIssue machine countSamples ∧ ScratchReady machine { sa := .k 0, sb := .v 12 } 16 (fun _ => scratch0) ∧
    machine.storesComplete 1 = true ∧ (BitVec.ofNat 64 (leNat (machine.rawBytes scratch0 8)) : DWord).toInt ≤ 0 :=
  ⟨allIssue_of (by decide +kernel), scratchReady (by decide +kernel) (by decide +kernel), by decide +kernel, by decide +kernel⟩

/-- The same machine with a store of the warp still on its way. -/
def storing : State := machineOf { oneLane with gwct := 5 }

theorem witness_FenceResults : AllIssue machine fenceSamples ∧ machine.storesComplete 1 = true ∧
    AllIssue storing fenceSamples ∧ storing.storesComplete 1 = false ∧ (storing.ctx {}).active ≠ 0 :=
  ⟨allIssue_of (by decide +kernel), by decide +kernel, allIssue_of (by decide +kernel), by decide +kernel, by decide +kernel⟩

/-! ### Control, traps, waits -/

theorem targetsPass_of {s : State} {c : Ctx} {tgt : Bool} {goal : Nat → DWord}
    (h : (checkTargets s c.wid tgt (goals c goal)).2 = (goals c goal).map (fun g => (g.1, g.2, Transfer.ok)) ∧
      ((checkTargets s c.wid tgt (goals c goal)).1.warp 1).parkedSince = none) :
    ∃ b, TargetsPass s c tgt goal b ∧ (b.warp 1).parkedSince = none := ⟨_, Prod.ext rfl h.1, h.2⟩

theorem witness_TransferResults :
    AllIssue machine transferSamples ∧
    (let f : Fields := { imm := 3 }; (∃ b, TargetsPass machine (machine.ctx f) true (fun _ => 3) b ∧ (b.warp 1).parkedSince = none) ∧
      isPc 3 = true ∧ ∃ x, (machine.warp 1).lines.find? (fun y => y.1 == lineOf 3) = some x ∧ Line.target x.2 (slotOf 3) = true) ∧
    ((machine.ctx {}).w.live = (machine.ctx {}).active) := by
  refine ⟨allIssue_of (by decide +kernel), ⟨targetsPass_of (by decide +kernel), by decide, ((0 : DWord), Line.make [] 31), by decide +kernel, by decide +kernel⟩,
    by decide +kernel⟩

/-- A machine whose warp has a second lane, which waits in no WSYNC. -/
def twoLanes : State :=
  machineOf { oneLane with lanes := [(0, { pc := 0, status := .running }), (1, { pc := 5, status := .running })] }

theorem witness_WaitAndBlockResults : AllIssue machine waitSamples ∧
    ((1 : Word) &&& (machine.warp 1).live &&& ~~~(1 ||| wsyncLanes (machine.warp 1) 1) = 0) ∧
    ((releaseWsync machine 1 1).warp 1).parkedSince = none ∧ (machine.warp 1).pauses = [] ∧
    AllIssue twoLanes waitSamples ∧ (3 : Word) &&& (twoLanes.warp 1).live &&& ~~~(1 ||| wsyncLanes (twoLanes.warp 1) 3) ≠ 0 ∧
    machine.extHeld 0 + ((machine.core 0).extQueue.takeWhile (· != 1)).length < 8 :=
  ⟨allIssue_of (by decide +kernel), by decide +kernel, by decide +kernel, by rfl, allIssue_of (by decide +kernel), by decide +kernel,
    by decide +kernel⟩

/-- The lane can trap. -/
theorem canTrap (f : Fields) : CanTrap (machine.ctx f).w 1 :=
  ⟨by decide, by show validTvec oneLane.tvec = true; decide +kernel, fun l h => by rw [has_one h]; rfl, by
    show 0 < 16; decide⟩

/-- A pair that starts at an odd register. -/
def oddPair : Fields := { dst := .v 5, sa := .v 8, sb := .v 12 }

theorem witness_TrapEntry :
    AllIssue machine [.brk {}, .trap { imm := 7 }] ∧ (machine.ctx {}).active = 1 ∧ CanTrap (machine.ctx {}).w 1 ∧
    decodeCause machine (machine.ctx oddPair) (.iadd64 oddPair) = some 0x03 ∧ (machine.ctx oddPair).lanes = 1 :=
  ⟨allIssue_of (by decide +kernel), by decide +kernel, canTrap _, by decide +kernel, by decide +kernel⟩

theorem witness_ExceptionReturn :
    AllIssue inHandler [.eret { mod := 1 }] ∧ ∃ b, TargetsPass inHandler (inHandler.ctx { mod := 1 }) false (fun _ => 1) b ∧ (b.warp 1).parkedSince = none :=
  ⟨allIssue_of (by decide +kernel), targetsPass_of (by decide +kernel)⟩

/-- The machine of a warp of tenant 1. -/
def userMachine : State := machineOf { oneLane with tenant := 1 }

/-- A word at the second byte of the scratchpad. -/
def oddStore : Fields := { sa := .k 0, sb := .v 12, mod := 2, imm := 1 }

theorem witness_ForbiddenForms :
    ([Instr.tcrcl { sa := .k 0, sb := .k 2 }, .diagst { sa := .k 0, sb := .k 2 }, .diagld { dst := .v 4, sa := .k 0 },
      .wdog { dst := .v 4, sa := .k 0, sb := .k 2 }, .halt { sa := .k 0 }].all (fun i => i.reject == none)) = true ∧
    (userMachine.ctx {}).w.supervisor = false ∧
    AllIssue machine [.st oddStore] ∧ (machine.ctx oddStore).active = 1 ∧ CanTrap (machine.ctx oddStore).w 1 ∧
    oddStore.ordering = 0 ∧
    (∀ l, LaneMask.has 1 l = true → (machine.ctx oddStore).w.addr l oddStore = BitVec.ofNat 64 (scratchBase + 1)) ∧
    (BitVec.ofNat 64 (scratchBase + 1) : DWord).toNat % 2 ^ oddStore.size ≠ 0 :=
  ⟨by decide +kernel, by decide +kernel, allIssue_of (by decide +kernel), by decide +kernel, canTrap _, by decide +kernel,
    fun l h => by rw [has_one h]; decide +kernel, by decide +kernel⟩

/-- A guard that is false in every lane. -/
def guarded : Fields := { pred := 3, dst := .v 4, sa := .v 8, sb := .v 12 }

theorem witness_EmptyActiveDoesNothing :
    AllIssue machine [.iadd guarded] ∧ (machine.ctx guarded).active = 0 ∧
    (let f : Fields := { pred := 3, dst := .acc 0, sc := .cv 0 };
      AllIssue machine [.accz f] ∧ (machine.ctx f).active = 0 ∧
        tileReady (machine.ctx f).w (machine.ctx f).pc (machine.ctx f).lanes (cvNo f.sc) = true) :=
  ⟨allIssue_of (by decide +kernel), by decide +kernel, allIssue_of (by decide +kernel), by decide +kernel⟩

/-! ### Queues, barriers, pages -/

theorem witness_KickResults :
    AllIssue machine kickSamples ∧
    (∀ l, LaneMask.has 1 l = true → machine.kickTrap oneLane (BitVec.ofNat 64 scratchBase) 64 = none) ∧
    (machine.engine 0).queue.length + 1 ≤ 16 ∧ (machine.partOf 0).engs.getLsbD 0 = true ∧ (machine.ctx {}).active ≠ 0 ∧
    machine.block? 1 0 = some oneBlock :=
  ⟨allIssue_of (by decide +kernel), fun _ _ => by decide +kernel, by decide +kernel, by decide +kernel, by decide +kernel,
    by decide +kernel⟩

/-- A pipeline 3 of one stage, of which grid 1 is a launch with one item claimed. -/
def piped : State :=
  { machine with loft := { machine.loft with
      pipelines := [(3, { stages := [{ record := oneRecord, qcap := 8, inmax := 1, outmax := 1, qmin := 1, qmax := 1,
                                       items := [List.replicate 64 7], quads := [0] }] })]
      grids := [(1, { record := oneRecord, state := .running, pipe := some 3, claimed := [List.replicate 64 9] })] } }

/-- The operands of QPUSH, QPOP and QPEEK with the implicit handle. -/
def itemAt0 : Fields := { dst := .p 1, sa := .k 0, sb := .zero }

/-- The same with the handle of pipeline 3 in k2. -/
def pushing : State :=
  { machineOf { oneLane with k := [(0, BitVec.ofNat 64 scratchBase), (2, 3)] } with loft := piped.loft }

/-- That machine whose queue holds `n` items, open or closed. -/
def queueOf (n : Nat) (closed : Bool) : State :=
  pushing.setPipeline 3 { stages := [{ record := oneRecord, qcap := 8, inmax := 1, outmax := 1, qmin := 1, qmax := 1, quads := [0]
                                       items := List.replicate n (List.replicate 64 7), closed }] }

/-- Grid 1 is a launch of the first of two stages, with `n` slots reserved in the second one's queue. -/
def chained (n : Nat) : State :=
  let st : Stage := { record := oneRecord, qcap := 8, inmax := 1, outmax := 1, qmin := 1, qmax := 1, items := [], quads := [0] }
  let s := piped.setPipeline 3 { stages := [st, st] }
  s.updGrid 1 (fun g => { g with reserved := n })

theorem witness_QueueResults :
    AllIssue piped [.qpush itemAt0, .qpop itemAt0, .qpeek itemAt0, .qclose { sb := .k 2 }, .lnch { dst := .v 4, sa := .k 0 }] ∧
    piped.storesComplete 1 = true ∧ (piped.ctx itemAt0).active ≠ 0 ∧ explicitPipe piped 0 3 = some 3 ∧
    (piped.grid 1).pipe.isSome = true ∧ (piped.grid 1).claimed = List.replicate 64 9 :: [] ∧
    ∀ k ∈ [AccKind.read, .write], ∃ s' ps, PlacesFound piped itemAt0 k 64 s' ps ∧
      ∃ b ws, outcomesInOrder (fun s _ p => popLane (piped.ctx itemAt0) itemAt0 true s p) s' ps = (b, completedLanes ws, false) ∧
        (b.warp 1).parkedSince = none := by
  refine ⟨allIssue_of (by decide +kernel), by decide +kernel, by decide +kernel, by decide +kernel, by decide +kernel, by rfl,
    fun k hk => ?_⟩
  have h : (checkLanes piped (piped.ctx itemAt0) k 64 itemAt0 [0]).2 =
        (foundPlaces (checkLanes piped (piped.ctx itemAt0) k 64 itemAt0 [0]).2).map (fun x => (x.1, LaneAccess.at x.2)) ∧
      ((outcomesInOrder (fun s _ p => popLane (piped.ctx itemAt0) itemAt0 true s p)
        (checkLanes piped (piped.ctx itemAt0) k 64 itemAt0 [0]).1
        (foundPlaces (checkLanes piped (piped.ctx itemAt0) k 64 itemAt0 [0]).2)).2 =
          (completedLanes [(0, [.p 1 true])], false)) ∧
      ((outcomesInOrder (fun s _ p => popLane (piped.ctx itemAt0) itemAt0 true s p)
        (checkLanes piped (piped.ctx itemAt0) k 64 itemAt0 [0]).1
        (foundPlaces (checkLanes piped (piped.ctx itemAt0) k 64 itemAt0 [0]).2)).1.warp 1).parkedSince = none := by
    simp only [List.mem_cons, List.not_mem_nil, or_false] at hk
    rcases hk with rfl | rfl <;> decide +kernel
  exact ⟨_, _, Prod.ext rfl h.1, _, _, Prod.ext rfl h.2.1, h.2.2⟩

/-- The queues that a push finds: none, one without room, one that is closed, and those of an explicit and of the implicit handle. -/
theorem witness_QueueResults_room :
    pushQueue machine oneLane .zero = none ∧ pushQueue pushing (pushing.warp 1) (.k 2) = some (3, 0, false) ∧
    (pushing.pipeline 3).stages[0]?.any (fun st => !st.closed && decide (pushing.queueItems 3 0 st < st.qcap)) = true ∧
    (let s := queueOf 8 false; (s.pipeline 3).stages[0]?.any (fun st => !st.closed && decide (st.qcap ≤ s.queueItems 3 0 st)) = true) ∧
    ((queueOf 1 true).pipeline 3).stages[0]?.any (fun st => st.closed) = true ∧
    (∀ n ∈ [0, 1], pushQueue (chained n) oneLane .zero = some (3, 1, true) ∧ ((chained n).grid oneLane.grid).reserved = n ∧
      ((chained n).pipeline 3).stages[1]?.any (fun st => !st.closed) = true) := by decide +kernel

theorem witness_QueueResults_implicit :
    AllIssue machine [.qclose { sb := .zero }] ∧ CanTrap (machine.ctx { sb := .zero }).w 1 ∧
    (machine.ctx { sb := .zero }).active = 1 := ⟨allIssue_of (by decide +kernel), canTrap _, by decide +kernel⟩

/-- The lanes with register writes in a list of outcomes. -/
def writesIn (outs : List (Nat × LaneOutcome)) : List (Nat × List RegWrite) :=
  outs.filterMap (fun x => match x.2 with | .done ws none => some (x.1, ws) | _ => none)

/-- The operands of QPUSH with that handle. -/
def pushAt0 : Fields := { dst := .p 1, sa := .k 0, sb := .k 2 }

/-- QPUSH of a lane, and LNCH of a lane. -/
def pushAct (f : Fields) (c : Ctx) (s : State) (_ : Nat) (p : State.Place) : State × LaneOutcome × Bool :=
  let r := s.readAt c.w.tenant (s.classOf c.w) p 64
  let o := pushLane r.1 c.w f r.2.1
  if r.2.2 then (r.1, .done [] none, true) else (o.1, o.2, false)

def launchAct (f : Fields) (c : Ctx) (s : State) (_ : Nat) (p : State.Place) : State × LaneOutcome × Bool :=
  let r := s.readSectors c.w.tenant (s.classOf c.w) p 4
  let o := acceptRecord r.1 (if c.w.tenant = 0 then .supervisor else .user c.w.tenant) (leWord 2048 r.2.1)
  if r.2.2 then (r.1, .done [] none, true)
  else (o.1, .done (dst64 f.dst (BitVec.ofNat 64 (o.2.1 * 2 ^ 32 + o.2.2))) none, false)

theorem found_of {s : State} {f : Fields} {k : AccKind} {n : Nat} (hl : (s.ctx f).active.lanes = [0])
    (h : (checkLanes s (s.ctx f) k n f [0]).2 =
      (foundPlaces (checkLanes s (s.ctx f) k n f [0]).2).map (fun x => (x.1, LaneAccess.at x.2))) :
    PlacesFound s f k n (checkLanes s (s.ctx f) k n f [0]).1 (foundPlaces (checkLanes s (s.ctx f) k n f [0]).2) := by
  unfold PlacesFound
  rw [hl]
  exact Prod.ext rfl h

/-- The outcomes of QPUSH and of LNCH on that machine. -/
def pushed : State × List (Nat × LaneOutcome) × Bool :=
  let r := checkLanes pushing (pushing.ctx pushAt0) .read 64 pushAt0 [0]
  outcomesInOrder (pushAct pushAt0 (pushing.ctx pushAt0)) r.1 (foundPlaces r.2)

def launchAt0 : Fields := { dst := .v 4, sa := .k 0 }

def launched : State × List (Nat × LaneOutcome) × Bool :=
  let r := checkLanes pushing (pushing.ctx launchAt0) .read 256 launchAt0 [0]
  outcomesInOrder (launchAct launchAt0 (pushing.ctx launchAt0)) r.1 (foundPlaces r.2)

theorem witness_QueueResults_push :
    AllIssue pushing [.qpush pushAt0, .lnch launchAt0] ∧ pushing.storesComplete 1 = true ∧
    (∃ s' ps, PlacesFound pushing pushAt0 .read 64 s' ps ∧
      outcomesInOrder (pushAct pushAt0 (pushing.ctx pushAt0)) s' ps = pushed ∧
      pushed.2 = (completedLanes [(0, [.p 1 true])], false) ∧ (pushed.1.warp 1).parkedSince = none) ∧
    (∃ s' ps, PlacesFound pushing launchAt0 .read 256 s' ps ∧
      outcomesInOrder (launchAct launchAt0 (pushing.ctx launchAt0)) s' ps = launched ∧
      launched.2 = (completedLanes (writesIn launched.2.1), false) ∧ (launched.1.warp 1).parkedSince = none) :=
  ⟨allIssue_of (by decide +kernel), by decide +kernel,
    ⟨_, _, found_of (by decide +kernel) (by decide +kernel), rfl, by decide +kernel, by decide +kernel⟩,
    ⟨_, _, found_of (by decide +kernel) (by decide +kernel), rfl, by decide +kernel, by decide +kernel⟩⟩

/-- A range of no page at address 0. -/
def noPages : Fields := { sa := .k 8, sb := .k 2 }

theorem witness_ShadowPublishResults :
    AllIssue machine shadowSamples ∧ (machine.ctx noPages).active ≠ 0 ∧ ((machine.ctx noPages).w.addr 0 noPages).toNat % 4096 = 0 ∧
    shadowRangeTrap machine 0 0 [] = none ∧ anyMig machine 0 [] = false ∧
    (∃ b, giveShadows machine 0 0 false [] = .ok b ∧ (b.warp 1).parkedSince = none) ∧
    machine.storesComplete 1 = true ∧ machine.publishable 0 [] = true ∧
    (∃ b h, machine.publishPages 0 [] = (b, h) ∧ (b.warp 1).parkedSince = none) :=
  ⟨allIssue_of (by decide +kernel), by decide +kernel, by decide +kernel, by rfl, by rfl, ⟨machine, rfl, by rfl⟩, by decide +kernel,
    by rfl, ⟨machine, _, rfl, by rfl⟩⟩

/-- `paged` with the page open to its tenant, 4096 in k2, and some shadows. -/
def sharing (w0 : DWord) (shadows : List Shadow) : State :=
  { paged.setRaw64 0x4000 w0 with
    warps := [(1, { oneLane with k := [(2, 4096)] })], tables := { frames := [(5, { state := .mapped })], shadows } }

/-- The shadow of page 0. -/
def oneShadow : Shadow := { tenant := 0, vpn := 0, fid := 7, copy := false, filled := 0 }

theorem witness_ShadowPublishResults_page :
    (let s := sharing 0x31 [];
      let c := s.ctx noPages;
      AllIssue s [.shadow noPages] ∧ c.active ≠ 0 ∧ c.w.addr 0 noPages = 0 ∧ c.w.src64 0 noPages.sb 0 = 4096 ∧
        s.leafOf 0 0 = some (0x4000, 0x31, 0x10000) ∧ Leaf.mig 0x31 = false ∧ Leaf.kind 0x31 = 0 ∧ Leaf.shr 0x31 = false ∧
        Leaf.sup 0x31 = false ∧ Leaf.w 0x31 = true ∧ s.ownsChannel 0 0x10000 = true ∧ s.shadowOf 0 0 = none ∧
        s.framesOf 0 < (s.tenant 0).frameq ∧ (s.takeFrom (s.ownedCols 0 (dieOf 0))).isSome = true ∧ noPages.mod5 = false ∧
        s.net.directory = []) ∧
    (∀ w0 ∈ [0x31, Leaf.withTarget 0x31 1 5],
      let s := sharing w0 [oneShadow];
      AllIssue s [.publish noPages] ∧ s.leafOf 0 0 = some (0x4000, w0, 0x10000) ∧ Leaf.mig w0 = false ∧
        (Leaf.kind w0 = 0 ∨ Leaf.kind w0 = 1 ∧ Leaf.target w0 ≠ oneShadow.fid) ∧ s.shadowOf 0 0 = some oneShadow ∧
        s.storesComplete 1 = true ∧ s.forwardsOn 0x10000 < 64 ∧ pkgOf 0x10000 = s.net.pkg) := by
  refine ⟨⟨allIssue_of (by decide +kernel), by decide +kernel⟩, fun w0 h => ?_⟩
  simp only [List.mem_cons, List.not_mem_nil, or_false] at h
  rcases h with rfl | rfl <;> exact ⟨allIssue_of (by decide +kernel), by decide +kernel⟩

/-- CORE barrier 0. -/
def coreBarrier : Fields := { sb := .imm, aux := 1 }

/-- The barrier of the small machine. -/
def oneBarrier : Barrier := { id := 0, scope := 1, grid := 1, owner := 0, index := 0 }

theorem witness_BarrierAndInvalidateResults :
    AllIssue machine barrierSamples ∧ AllIssue machine [.bars coreBarrier] ∧ (machine.ctx coreBarrier).active ≠ 0 ∧
    namedBarrier machine (machine.ctx coreBarrier) coreBarrier = some oneBarrier ∧ oneBarrier.broken = false ∧
    (let s0 := machine.completePhase 0;
      s0.barrier? 0 = some oneBarrier ∧ (s0.warp 1).notes = [] ∧ s0.storesComplete 1 = true) ∧
    oneBarrier.arr.contains 1 = false ∧
    (let s0 := machine.completePhase 0;
      let arrived := ((dropNote s0 (machine.ctx coreBarrier) oneBarrier).updBarrier 0 (fun x => { x with arr := x.arr ++ [1] }))
        |>.completePhase 0;
      (arrived.warp 1).parkedSince = none ∧ (arrived.barrier? 0).any (fun x => State.phasePassed x.phase 0) = true) ∧
    ((machine.ctx noPages).w.addr 0 noPages).toNat + 4096 ≤ 2 ^ 56 ∧ machine.leftThrough 0 (fun _ => true) = [] ∧
    (let q := recallRange machine 0 0 1;
      anyMig machine 0 [0] = false ∧ addendsThrough q 0 0 1 = false ∧ ((endHorizon q 0 0).warp 1).parkedSince = none) :=
  ⟨allIssue_of (by decide +kernel), allIssue_of (by decide +kernel), by decide +kernel⟩

/-- The operands of PLACE.NEAR of the page at address 0. -/
def placeAt0 : Fields := { dst := .p 1, sa := .k 8 }

/-- `paged` with that page's mapping in the core's translation cache. -/
def cached : State :=
  match paged.completeWalk 0 0 0 with
  | .handed b => b
  | _ => paged

theorem witness_PlaceAndProbeResults :
    AllIssue cached (.place placeAt0 :: .repl placeAt0 :: [.probe { dst := .v 4, sa := .k 8 },
      .probeF { dst := .v 4, sa := .zero, sb := .v 12, mod := 0x20 }]) ∧
    (let q := placeLanes (cached.ctx placeAt0) (.place placeAt0) placeAt0 { s := cached } [0];
      q.outs = completedLanes (writesIn q.outs) ∧ (writesIn q.outs).length = 1 ∧ (q.s.warp 1).parkedSince = none) ∧
    ((cached.ctx placeAt0).w.addr 0 placeAt0).toNat < 2 ^ 56 ∧ ((cached.checkWalk 0 0).warp 1).parkedSince = none ∧
    (let q := cached.checkWalk 0 0;
      q.leafOf 0 0 = some (0x4000, 0x800000039, 0x10000) ∧ (q.die 0).gleaner.length < 64 ∧
        requestAnswer q (gleanerReq cached (cached.ctx placeAt0) (.place placeAt0) placeAt0 0) 0x800000039 = .work) ∧
    (cached.ctx placeAt0).w.supervisor = true :=
  ⟨allIssue_of (by decide +kernel), by decide +kernel, by decide +kernel, by decide +kernel, by decide +kernel, by decide +kernel⟩

/-! ### System instructions -/

theorem witness_SystemWriteResults :
    AllIssue machine [.syswr { sa := .v 8 }, .syswr { sa := .v 8, imm := 8 }, .syswr { sa := .v 8, imm := 0x120 },
      .syswr { sa := .v 8, imm := 0x200 }, .syswr { sa := .v 8, imm := 0x303 }, .syswr { sa := .v 8, imm := 0x522 }] ∧
    (machine.ctx {}).active ≠ 0 ∧ machine.storesComplete 1 = true :=
  ⟨allIssue_of (by decide +kernel), by decide +kernel, by decide +kernel⟩

/-- The operands of DIAGLD.BIN at the start of the scratchpad. -/
def diagAt0 : Fields := { dst := .v 4, sa := .k 0 }

theorem witness_RecordAndDiagnosticResults :
    AllIssue machine recordSamples ∧ (machine.ctx diagAt0).active ≠ 0 ∧
    (∃ s' p, checkLane machine (machine.ctx diagAt0) .write 64 (BitVec.ofNat 64 scratchBase) 0 = (s', .at p) ∧
      (s'.warp 1).parkedSince = none) ∧
    (machine.ctx diagAt0).w.records = [] ∧ badBounds 0 = false ∧
    badBounds (BitVec.ofNat 128 0x3F800000) = true ∧ CanTrap (machine.ctx diagAt0).w 1 ∧ (machine.tenant 0).defined = true ∧
    (∃ s' p x, diagLane machine (machine.ctx diagAt0) 0 0 (BitVec.ofNat 64 scratchBase) = (s', .at p, some x) ∧
      (s'.warp 1).parkedSince = none) ∧
    (∃ ws, (diagLoads (machine.ctx diagAt0) diagAt0 { s := machine } [0]).outs = completedLanes ws ∧
      ws.map (·.1) = (machine.ctx diagAt0).active.lanes) ∧
    ((diagLoads (machine.ctx diagAt0) diagAt0 { s := machine } [0]).s.warp 1).parkedSince = none := by
  have hp : (checkLane machine (machine.ctx diagAt0) .write 64 (BitVec.ofNat 64 scratchBase) 0).2 =
      .at (.scratch (scratchLoc 0 4095 0)) := by decide +kernel
  have hd : (diagLane machine (machine.ctx diagAt0) 0 0 (BitVec.ofNat 64 scratchBase)).2 =
      (.at (.scratch (scratchLoc 0 4095 0)), some scratch0) := by decide +kernel
  exact ⟨allIssue_of (by decide +kernel), by decide +kernel, ⟨_, _, Prod.ext rfl hp, by decide +kernel⟩, by rfl, by decide +kernel,
    by decide +kernel, canTrap _, by decide +kernel, ⟨_, _, _, Prod.ext rfl hd, by decide +kernel⟩,
    ⟨[(0, dst64 (.v 4) (diagWord machine scratch0))], by rfl, by decide +kernel⟩, by decide +kernel⟩

theorem witness_HaltAndIdleResults :
    AllIssue machine haltSamples ∧ (machine.ctx {}).active ≠ 0 ∧ heldGrid machine 3 = false ∧ heldGrid machine 1 = true ∧
    heldGrid (machine.setGrid 2 { record := oneRecord }) 2 = true ∧
    ((((machine.setGrid 2 { record := oneRecord }).endGrid 2 4).notify 0x10 2).warp 1).parkedSince = none :=
  ⟨allIssue_of (by decide +kernel), by decide +kernel, by decide +kernel, by decide +kernel, by decide +kernel, by decide +kernel⟩

/-! ### Events -/

/-- An entry of the lane that has its outcome. -/
def oneEntry (i : Instr) (w : Wait) (moved : Bool := false) : Entry :=
  { pc := 0, lanes := 1, active := 1, instr := i, word := 0, outs := [(0, .done [] none)], wait := w, moved }

/-- The machine with an entry in the reorder buffer. -/
def waitingOn (e : Entry) : State := machineOf { oneLane with rob := [e] }

/-- The machine with lanes that wait on after their SLEEP, IDLE or WSYNC has retired. -/
def pausedOf (e : Entry) : State := machineOf { oneLane with pauses := [e] }

/-- The operands of IADD and ISUB. -/
def sumFields : Fields := { dst := .v 4, sa := .v 8, sb := .v 12 }

theorem witness_RetirementEvents :
    (∀ e ∈ [oneEntry (.nop {}) .nothing, oneEntry (.nop {}) .nothing true, oneEntry (.fence {}) (.fence 0), oneEntry (.nop {}) .turn,
        oneEntry (.idle {}) (.idle 0 0), oneEntry (.rgacq {}) .extBlock, oneEntry (.sleep {}) (.sleep 0),
        oneEntry (.wsync {}) (.wsync 1)],
      e.outs = e.active.lanes.map (fun l => (l, .done [] none)) ∧ e.lanes = 1 ∧ e.active = 1 ∧
        ((waitingOn e).warp 1).parkedSince = none ∧ (waitingOn e).head? 1 = some e) ∧
    (∀ r ∈ ([] : List RegWrite), False) ∧
    (let s := waitingOn (oneEntry (.fence {}) (.fence 0));
      0 ≤ s.gt ∧ s.addendsOf 1 = false ∧ s.tables.moves = []) ∧
    ((waitingOn (oneEntry (.nop {}) .nothing)).core 0).extQueue.contains 1 = false ∧
    (((waitingOn (oneEntry (.nop {}) .nothing true)).warp 1).lane 0).status = .running ∧
    (let s := waitingOn (oneEntry (.nop {}) .turn);
      s.late = [] ∧ s.mayPerform 1 0 (.nop {}) 1 = true ∧ s.entryWhere 1 (completedBehind s 1) = none) ∧
    (let s := (waitingOn (oneEntry (.rgacq {}) .extBlock)).updCore 0 (fun x => { x with extQueue := [1] });
      s.head? 1 = some (oneEntry (.rgacq {}) .extBlock) ∧ (s.core 0).extQueue = 1 :: [] ∧ ([] : List Nat).contains 1 = false ∧ s.extHeld 0 < 8) ∧
    (let e := oneEntry (.sleep {}) (.sleep 0);
      ((pausedOf e).warp 1).onCore = true ∧ ((pausedOf e).warp 1).pauses.filter (sleepOver (pausedOf e).gt) = [e] ∧
        ((pausedOf e).warp 1).rob = []) ∧
    (let e := oneEntry (.idle {}) (.idle 0 0);
      ((pausedOf e).warp 1).onCore = true ∧
        ((pausedOf e).warp 1).pauses.filter (idleOver (pausedOf e) ((pausedOf e).warp 1)) = [e]) :=
  ⟨by decide +kernel, fun _ h => by simp at h, by decide +kernel⟩

theorem witness_RetirementEvents_behind :
    (let s := waitingOn (oneEntry (.nop {}) .nothing true);
      let w := s.warp 1;
      s.cur.wid = 1 ∧ w.rob ≠ [] ∧ s.cur.place = none ∧ s.cur.late = false ∧ (s.core w.gcore).extQueue.contains s.cur.wid = false ∧
        (∀ i ∈ [Instr.iadd sumFields, Instr.isub sumFields], decodeCause s (s.ctxOf sumFields (w.ahead w.rob)) i = none ∧
          ∀ e ∈ w.rob, e.feeds (s.ctxOf sumFields (w.ahead w.rob)).lanes i = false)) ∧
    sumFields.mod6 = false := by decide +kernel

/-- An entry whose lane has no outcome yet. -/
def openEntry (i : Instr) (w : Wait) : Entry := { oneEntry i w with outs := [] }

/-- A machine on which LDFE waits at the granule at the start of the scratchpad, empty or full. -/
def granuleWait (full : Bool) : State :=
  let s := waitingOn (openEntry (.ldfe wordAt0) .full);
  { s with gt := 2000000, mem := { feQueue := [{ wid := 1, lane := 0, granule := scratch0 / 16, since := 0 }]
                                   full := if full then [(scratch0 / 16, true)] else [] } }

/-- A lane that waits for a translation. -/
def parkedLane : State := machineOf { oneLane with lanes := [(0, { pc := 0, status := .parked })] }

theorem witness_WaitOutcomeEvents :
    (let e := { openEntry (.ld wordAt0) .loadData with moved := true };
      let s := waitingOn e;
      s.head? 1 = some e ∧ s.late = [] ∧ owedWhere s (owesTo 1 s) = [] ∧
        sureResult (loadLanes (s.entryCtx 1 e) (s.atEntry 1 0 e) wordAt0) = true) ∧
    (let f : Fields := { sa := .k 0 };
      let e := openEntry (.bcwait f) .byteCount;
      let s := waitingOn e;
      s.head? 1 = some e ∧ (bcwaitLanes (s.entryCtx 1 e) f { s } e.undecided).consumed = none) ∧
    (let e := openEntry (.ldfe wordAt0) .full;
      let s := granuleWait false;
      let r : FeRequest := { wid := 1, lane := 0, granule := scratch0 / 16, since := 0 };
      s.head? 1 = some e ∧ s.mem.feQueue.find? (fun x => x.wid == 1 && x.lane == 0) = some r ∧ waitsFull 0 e = true ∧
        (s.warp 1).feLimit ≠ 0 ∧ r.since + (s.warp 1).feLimit.toNat ≤ s.gt) ∧
    (let s := granuleWait true;
      s.isFull (16 * (scratch0 / 16)) = true ∧
        (serveFull { s with mem := { s.mem with feQueue := [] } } 1 wordAt0 scratch0).2.2 = false) ∧
    (let f : Fields := { sa := .k 0, sb := .v 12 };
      let e := openEntry (.kick f) .kickQueue;
      let s := waitingOn e;
      s.head? 1 = some e ∧ e.moved = false ∧ e.instr.fields = some f ∧
        s.waiters (fun x v => x.wait == .kickQueue && kickEngine x.instr v == kickEngine e.instr (s.warp 1)) = [1]) ∧
    (let e := oneEntry (.syswr { sa := .v 8, imm := 0x200 }) (.pcmd 64);
      let s := waitingOn e;
      s.head? 1 = some e ∧ s.loft.pcmd.length < 16 ∧ s.waiters waitsForPcmd = [1]) ∧
    (serveGleaner machine 0).waiters (waitsForSilo (serveGleaner machine 0) 0) = [] ∧
    (let e := openEntry (.place placeAt0) .gleaner;
      let q := serveGleaner (waitingOn e) 0;
      q.waiters (waitsForSilo q 0) = [1] ∧ q.head? 1 = some e ∧ e.moved = false ∧ waitsForSilo q 0 e (q.warp 1) = true ∧
        e.instr.fields = some placeAt0) ∧
    (let x := machine.tenant 0; x.limitFrom ≤ machine.gt ∧ x.wdoglim ≠ 0 ∧ oneLane.parkedSince = none ∧ struckLanes oneLane ≠ []) ∧
    ((parkedLane.warp 1).lane 0).status = .parked ∧ (parkedLane.warp 1).onCore = true ∧
    (let s := machine.updBarrier 0 (fun x => { x with arr := [1] });
      let x := { oneBarrier with arr := [1] };
      s.barrier? 0 = some x ∧ podBroken s x = false ∧ s.phaseReady x = true ∧
        ((s.completePhases 0 1).barrier? 0).any (fun z => !(s.completePhases 0 1).phaseReady z) = true) := by decide +kernel

/-- A walk that handed a mapping out, and one that ended in PERMISSION. -/
def isHanded (x : State.WalkResult) : Bool :=
  match x with
  | .handed _ => true
  | _ => false

def isPermission (x : State.WalkResult) : Bool :=
  match x with
  | .permission => true
  | _ => false

theorem handed_of {x : State.WalkResult} (h : isHanded x = true) : ∃ b, x = .handed b := by
  cases x <;> simp_all [isHanded]

theorem permission_of {x : State.WalkResult} (h : isPermission x = true) : x = .permission := by
  cases x <;> simp_all [isPermission]

/-- The walk of that lane ends without a mapping, with a page, and at a channel that the tenant does not own. -/
theorem witness_WaitOutcomeEvents_walks :
    parkedLane.completeWalk 0 0 0 = .noMapping ∧
    (∃ b, State.completeWalk { paged with warps := parkedLane.warps } 0 0 0 = .handed b) ∧
    State.completeWalk { paged with
      warps := parkedLane.warps, loft := { paged.loft with partitions := [(0, { chans := 0 })] } } 0 0 0 = .permission :=
  ⟨by rfl, handed_of (by decide +kernel), permission_of (by decide +kernel)⟩

/-- Grid 2 stands at the head of queue 0. -/
def queued (r : BitVec 2048) : State :=
  { machine with loft := { machine.loft with
      grids := [(1, { record := oneRecord, state := .running }), (2, { record := r })], queues := [(0, [2])] } }

/-- The record with CORESIDENT. -/
def wholeRecord : BitVec 2048 := oneRecord ||| BitVec.ofNat 2048 (2 ^ 194)

/-- A clearing of two units at the start of column 0's last but one. -/
def clearing : State := { machine with loft := { machine.loft with clearing := [(0, 1, 2)] } }

theorem witness_PlacementEvents :
    (Rec.kind oneRecord ≠ 1 ∧ gridStatus machine .supervisor oneRecord = 0 ∧
      queueEntries machine (Rec.tenant oneRecord) (Rec.prio oneRecord) < 64) ∧
    (Rec.kind (0 : BitVec 2048) ≠ 1 ∧ gridStatus machine .supervisor 0 ≠ 0) ∧
    (let o := (queued oneRecord).openPods;
      o.placingGrid 0 = some 2 ∧ o.servedNow 0 = true ∧ o.mayPlace 2 = true ∧ o.placedWhole 2 = false ∧
        o.gangFits 2 1 0 = true ∧ (o.takeGang 2).isSome = true) ∧
    (let o := (queued wholeRecord).openPods;
      o.placingGrid 0 = some 2 ∧ o.servedNow 0 = true ∧ o.mayPlace 2 = true ∧ o.placedWhole 2 = true ∧
        (gangsToPlace (o.grid 2)).length = 1 ∧
        ([(1, 0)].all (fun p => baseAllowed (Rec.g (o.grid 2).record) p.2 && (o.workQuads 2).contains p.1)) = true ∧
        (placeWhole o 2 [(1, 0)]).isSome = true) ∧
    (let s := piped;
      let x := retain s { record := oneRecord, enqgt := s.gt, gen := 0, tenant := 0, pipe := some 3, stage := 0 };
      ((s.pipeline 3).stages[0]?).any (fun st => !st.ended && !st.items.isEmpty) = true ∧
        (s.pipeline 3).stages[1]? = none ∧
        (s.loft.grids.find? (fun (e : Nat × Grid) =>
          e.2.pipe == some 3 && e.2.stage == 0 && !e.2.relaunch.isEmpty && e.2.state != .retired)) = none ∧
        x.1.mayPlace x.2 = true ∧ x.1.gangFits x.2 0 0 = true) ∧
    clearing.loft.clearing.find? (fun c => c.1 == 0 && c.2.1 == 1) = some (0, 1, 2) ∧
    (let s := machineOf { oneLane with residence := .saved };
      isSaved (s.warp 1) = true ∧ s.restorable (s.restoreSet 1) = true ∧ s.loft.mode = none) ∧
    (∀ b ∈ machine.loft.blocks, b.alive = true → dieOf b.gcore ≠ 7) := by decide +kernel

/-- The head of queue 0 finds no room: it needs 16 accumulators on each core of the one quad, where core 0 has a warp of
tenant 1. -/
def crowded : State :=
  let r : BitVec 2048 := BitVec.ofNat 2048 (2 ^ 64 * (4 + 2 ^ 16 + 2 ^ 32) + 2 ^ 128 * (2 ^ 24 + 4 * 2 ^ 29 + 16 * 2 ^ 35))
  let s := queued r
  { s with
    warps := [(1, { oneLane with tenant := 1 })]
    loft := { s.loft with partitions := [(0, { quads := 1 })], budgets := [(0, { tokens := 100 })], blocks := [] } }

/-- The small machine while the island of core 0 recalibrates. -/
def recalibrating : State := { machine with fw := { machine.fw with recalibrating := [(islandOf 0, 5)] } }

/-- The warps of core 0. -/
def onCore0 (s : State) : List Nat := s.warpsWhere (fun w => w.onCore && w.gcore == 0)

theorem witness_ScheduleEvents :
    clockHeld recalibrating 0 = true ∧ clockHeld machine 9 = false ∧
    machine.warpsWhere (fun w => w.onCore && w.gcore == 9) = [] ∧
    (let x := fetchWarps ((onCore0 machine).foldl settleWsync machine) (onCore0 machine);
      let b := advanceCore x.1 0 [1];
      clockHeld machine 0 = false ∧ onCore0 machine = [1] ∧ x.2 = none ∧ (x.1.warp 1).onCore = true ∧ (b.warp 1).onCore = true ∧
        chooseWarp b ([1].filter (fun wid => !(b.readySplits wid).isEmpty)) = some 1) ∧
    (let s := machineOf { oneLane with lanes := [(0, { pc := 0, status := .waiting })] };
      let x := fetchWarps ((onCore0 s).foldl settleWsync s) (onCore0 s);
      let b := advanceCore x.1 0 [1];
      onCore0 s = [1] ∧ x.2 = none ∧ chooseWarp b ([1].filter (fun wid => !(b.readySplits wid).isEmpty)) = none) ∧
    (machine.budget 1).tokens ≤ 0 ∧ machine.loft.overdue = [] ∧ State.reset.loft.pipelines = [] ∧ State.reset.loft.overdue = [] :=
  ⟨by decide +kernel, by decide +kernel⟩

theorem witness_ScheduleEvents_room :
    ∃ x, wanting crowded 0 = some (x, 2) ∧ crowded.holdsBudget 0 = true ∧ sliceTenant x 2 = some 1 ∧ sliceQuad x 2 1 = some 0 ∧
      (evictionCores x 2).contains 0 = true ∧ (∀ c ∈ evictionCores x 2, (crowded.core 0).evictions ≤ (crowded.core c).evictions) ∧
      (setVictims x 2 (coreSet x 2 0)).flatMap (·.2) = [1] := by
  obtain ⟨⟨x, g⟩, h1, h2⟩ := some_of (x := wanting crowded 0)
    (fun a => decide (a.2 = 2 ∧ crowded.holdsBudget 0 = true ∧ sliceTenant a.1 2 = some 1 ∧ sliceQuad a.1 2 1 = some 0 ∧
      (evictionCores a.1 2).contains 0 = true ∧
      (∀ c ∈ evictionCores a.1 2, (crowded.core 0).evictions ≤ (crowded.core c).evictions) ∧
      (setVictims a.1 2 (coreSet a.1 2 0)).flatMap (·.2) = [1]))
    (by decide +kernel)
  obtain ⟨rfl, h⟩ := of_decide_eq_true h2
  exact ⟨x, h1, h⟩

/-- An addition waiting at its home, without a ticket or with ticket 0. -/
def adding (ticket : Option Nat) : State :=
  { machine with mem := { machine.mem with
      addends := [{ wid := 1, tenant := 0, loc := scratchLoc 0 4095 0, fid := none, value := 1, ticket, group := 1 }] } }

/-- Frame 5 as it is said. -/
def framed (f : Frame) : State := { paged with tables := { paged.tables with frames := [(5, f)] } }

/-- A move of page 0 of tenant 0 in progress, whose entry still has the words that the move wrote. -/
def moving (k : MoveKind) (src : Option Nat) : State :=
  let s := framed { state := if src.isSome then .draining else .filling }
  { s.setRaw64 0x4000 0x139 with tables := { s.tables with
      moves := [{ kind := k, tenant := 0, vpn := 0, word0 := 0x139, word1 := 0x10000, src, dst := [6] }]
      replicas := [(0, { tenant := 0, vpn := 0, master := 5, frames := [6] })] } }

/-- `paged` with the page in frame 5. -/
def inFrame : State := (framed { state := .mapped, backing := 0x10000 }).setRaw64 0x4000 (Leaf.withTarget 0x39 1 5)

/-- The machine whose column 0 grows from 2 to 3 MiB, with some frames in use. -/
def resizing (frames : Sparse Frame) : State :=
  { machine.setColumn 0 { scrmib := 3, oldmib := 2, busy := true } with tables := { frames } }

theorem witness_HomeEvents :
    (let s := adding none;
      (s.mem.addends[0]?).any (fun a => decide (a.ticket = none ∧ a.fid = none ∧ a.loc.phys % 4 = 0 ∧
        eccClass (s.syndrome a.loc.phys) = .clean)) = true ∧
      ((s.mem.addends[0]?).bind (applyAddend { s with mem := { s.mem with addends := s.mem.addends.eraseIdx 0 } })).isSome = true) ∧
    ((dueGroup (adding (some 0)) (scratch0 / 256)).isSome = true ∧ ∀ a ∈ (adding (some 0)).mem.addends, a.fid = none) ∧
    (let s := framed { state := .mapped, backing := 0x10000 };
      (s.frame 5).state = .mapped ∧ (s.frame 5).role = .page ∧ (s.frame 5).valid.getLsbD 0 = false ∧
        (s.frame 5).backing % 64 = 0 ∧ eccClass (s.syndrome 0x10000) = .clean ∧ eccClass (s.syndrome 0x10020) = .clean ∧ pkgOf 0x10000 = s.net.pkg) ∧
    (((framed { state := .forwarding }).frame 5).state = .forwarding ∧
      ((framed { state := .forwarding }).frame 5).horizon ≤ (framed { state := .forwarding }).gt) ∧
    (∀ k ∈ [MoveKind.place, .evict, .replicate, .collapse], ∀ src ∈ [none, some 5],
      ((moving k src).moveOf 0 0).any (fun m => decide (m.kind = k ∧ m.src = src ∧ m.dst = [6] ∧ m.horizon ≤ (moving k src).gt ∧
        (moving k src).entryKept m = some 0x4000 ∧ m.src.any (moving k src).linesHeld = false ∧ (moving k src).linesHeld 5 = false ∧ ((moving k src).setOf 0 0).isSome = true)) = true) ∧
    (paged.leafOf 0 0 = some (0x4000, 0x39, 0x10000) ∧ paged.moveOf 0 0 = none ∧ Leaf.mig 0x39 = false ∧ Leaf.shd 0x39 = false ∧
      Leaf.pin 0x39 = false ∧ Leaf.shr 0x39 = false ∧ Leaf.kind 0x39 = 0 ∧ paged.ownsColumn 0 0 = true ∧
      paged.ownsChannel 0 0x10000 = true ∧ paged.framesOf 0 < (paged.tenant 0).frameq ∧ paged.forwardsOn 0x10000 < 64 ∧
      paged.takeFrom [0] = some 0) ∧
    (inFrame.leafOf 0 0 = some (0x4000, Leaf.withTarget 0x39 1 5, 0x10000) ∧ inFrame.moveOf 0 0 = none ∧
      Leaf.kind (Leaf.withTarget 0x39 1 5) = 1 ∧ Leaf.mig (Leaf.withTarget 0x39 1 5) = false ∧
      inFrame.backingHeld (inFrame.frame 5).backing = false) :=
  ⟨by decide +kernel, by decide +kernel, by decide +kernel⟩

/-- Where no frame is in use none is pinned. -/
theorem no_pin (fids : List Nat) : machine.pinnedIn fids = false := by
  unfold State.pinnedIn
  rw [List.any_eq_false]
  intro fid _
  rw [show machine.frame fid = {} from rfl]
  simp

theorem witness_HomeEvents_resize :
    (([2, 9, 1, 3] : List DWord).all (fun x => !x.getLsbD 30) = true ∧ (machine.column 0).scrmib = 2 ∧ (machine.column 0).busy = false ∧
      machine.cutsBlock 1 1 = false ∧ machine.cutsBlock 1 3 = false) ∧
    machine.pinnedIn (State.grownFrames 1 2 1) = false ∧ machine.pinnedIn (State.grownFrames 1 2 3) = false ∧
    ((resizing []).column 0).busy = true ∧ (∀ n, ((resizing []).frame n).state = .free) ∧
    (let s := resizing [(3328, { state := .draining })];
      (s.column 0).busy = true ∧ (s.frame 3328).state ≠ .free ∧ 3328 ∈ State.grownFrames 0 2 3) :=
  ⟨by decide +kernel, no_pin _, no_pin _, by rfl, fun _ => rfl, by rfl, by decide +kernel,
    List.mem_map.mpr ⟨0, by simp, by rfl⟩⟩

/-- A request of 64 bytes from the scratchpad to itself, or from an address beyond the space. -/
def oneRequest (checked : Bool) (pos : Nat) (todo : List Nat) (src : DWord := BitVec.ofNat 64 (scratchBase + 64)) : Request :=
  { wid := 1, grid := 1, block := 0, pc := 0, offset := 0, src, pos, checked, todo
    dst := BitVec.ofNat 64 (scratchBase + 128), sstride := 64, dstride := 64, rowb := 64, rows := 1, mode := 0, bcaddr := 0
    serial := 9 }

/-- The machine with that request in progress at the wain of core 0. -/
def copying (r : Request) : State := machine.updCore 0 (fun x => { x with wain := { x.wain with progress := [r] } })

theorem witness_SplitAndEngineEvents :
    machine.cutsBlock 0 1 = false ∧ (machine.column 0).busy = false ∧ (machine.engine (384 + 8 * 7 + 7)).progress = [] ∧
    (∀ r ∈ [oneRequest false 0 [], oneRequest true 0 [0], oneRequest true 64 []],
      ((copying r).engine 0).progress.find? (fun x => x.serial == 9) = some r ∧
        ∀ x ∈ ((copying r).engine 0).progress, x.kick = r.kick → x.offset < r.offset → x.checked = true) ∧
    (∃ b, (copying (oneRequest false 0 [])).checkRequest (oneRequest false 0 []) = .passed b) ∧
    (∃ b cause, (copying (oneRequest false 0 [] 1)).checkRequest (oneRequest false 0 [] 1) = .faulted b cause) ∧
    ((oneRequest true 0 [0]).pos < (oneRequest true 0 [0]).total ∧
      ∃ b, (copying (oneRequest true 0 [0])).copyPiece 0 (oneRequest true 0 [0]) = .passed b) ∧
    (oneRequest true 64 []).total ≤ (oneRequest true 64 []).pos ∧ (oneRequest true 64 []).pub = false :=
  ⟨by decide +kernel, by decide +kernel, by rfl, by decide +kernel, ⟨_, by rfl⟩, ⟨_, _, by rfl⟩, ⟨by decide +kernel, _, by rfl⟩,
    by decide +kernel⟩

/-- The machine with other firmware state. -/
def withFw (f : Firmware) : State := { machine with fw := f }

theorem witness_ResetAndPowerEvents :
    bootable (withFw { bankA := { valid := true } }).fw.svnFloor { valid := true } = true ∧
    (withFw { bankA := { valid := true } }).fw.powered = true ∧ 125 * 16 ≤ (2000 : BitVec 16).toInt :=
  ⟨by decide +kernel, by rfl, by decide⟩

theorem witness_HostCommandEvents :
    (let s := withFw { bankB := { valid := true } };
      s.fw.powered = true ∧ s.fw.booted = true ∧ s.fw.recovery = false ∧ s.fw.activateWaits = 0 ∧ s.fw.activating = none ∧
        s.fw.bankB.valid = true ∧ s.loft.pcmd = []) ∧
    (withFw { activating := some 0 }).fw.activating ≠ none ∧
    (let s : State := { machine with loft := { machine.loft with pcmd := [{ addr := 0 }] } }; s.loft.pcmd ≠ [] ∧ s.fw.activateWaits = 0) ∧
    (withFw {}).fw.bankB.valid = false ∧
    (let s := withFw { booted := false }; s.fw.powered = true ∧ s.fw.booted = false) ∧
    (let s := withFw { booted := false, recovery := true }; s.fw.powered = true ∧ s.fw.recovery = true) :=
  ⟨⟨rfl, rfl, rfl, rfl, rfl, rfl, rfl⟩, by simp [withFw], by decide +kernel, rfl, ⟨rfl, rfl⟩, ⟨rfl, rfl⟩⟩

/-- A machine with one wavelength of direction `d` in the state `x`. -/
def oneWave (d : Nat) (x : Wave) : State := { machine with gt := 9, net := { dirs := [(d, { waves := [(0, x)] })] } }

theorem witness_PackageEvents :
    (State.reset.ready = true ∧ State.reset.fw.readmitting = none ∧ State.reset.fw.activating = none ∧ State.reset.warps = [] ∧
      State.reset.loft.blocks = []) ∧
    (let s : State := { State.reset with fw := { State.reset.fw with activating := some 0, readmitting := some (0, []) } };
      s.ready = true ∧ s.fw.activating = some 0 ∧ s.fw.nextDie = 0 ∧ s.gt < 0 + 100000000 ∧ s.fw.readmitting = some (0, [])) ∧
    (let s : State := { withFw { activating := some 0 } with gt := 100000000 };
      s.fw.activating = some 0 ∧ 0 + 100000000 ≤ s.gt ∧ s.fw.reached = false ∧ s.fw.activateWaits = 0) ∧
    (∀ e ∈ (withFw {}).fw.recalibrating, e.2 ≤ (withFw {}).gt) ∧ Sparse.canonical {} machine.warps = true ∧ oneLane.lanes ≠ [] ∧
    (let s := withFw { islands := [(3, some (1500 * 2 ^ 32))] };
      110 * 16 ≤ (1760 : BitVec 16).toInt ∧ (1760 : BitVec 16).toInt < 125 * 16 ∧
        100 ≤ ((islandMonitor s 3).extractLsb' 32 16).toNat ∧ (Sparse.get none s.fw.throttled 3).all (fun x => x + 10000 ≤ s.gt) = true) ∧
    (let s := withFw { throttled := [(3, some 5)] };
      (Sparse.get none s.fw.throttled 3).all (fun x => x + 10000 ≤ s.gt) = false) ∧
    8 ≤ machine.net.lanes ∧ hostReach machine 64 64 = true ∧
    ((oneWave 2 { rate := 4, until_ := 9 }).wave 2 0).until_ ≠ 0 ∧
    ((oneWave 2 { rate := 4, until_ := 9 }).wave 2 0).until_ ≤ (oneWave 2 { rate := 4, until_ := 9 }).gt :=
  ⟨⟨rfl, rfl, rfl, rfl, rfl⟩, ⟨rfl, rfl, rfl, by decide, rfl⟩, ⟨by rfl, by decide, by rfl, by rfl⟩, fun _ h => (List.not_mem_nil h).elim,
    by decide +kernel, by decide +kernel, by decide +kernel, by decide +kernel, by decide, by decide +kernel, by decide +kernel,
    by decide +kernel⟩

theorem witness_LinkEvents :
    (machine.linkDir 1).down = false ∧ (machine.linkDir 1).expected = 0 ∧ (machine.linkDir 1).failedReplays < 8 ∧
    (machine.linkDir 1).resync = false ∧
    (∀ f ∈ [({ seq := 0 } : Flit), { seq := 5 }, { type := 0 }],
      crcOk f.bytes = true ∧ (parseFlit f.bytes).type = f.type ∧ (parseFlit f.bytes).seq = f.seq) ∧
    crcOk [] = false ∧
    (let s : State := { machine with net := { dirs := [(1, { failedReplays := 8 })] } };
      (s.linkDir 1).down = false ∧ 8 ≤ (s.linkDir 1).failedReplays) ∧
    (∀ x ∈ [WaveState.active, .withdrawing, .training, .ready, .restoring],
      ((oneWave 2 { state := x }).wave 2 0).state = x ∧ ((oneWave 2 { state := x }).linkDir 2).down = false) ∧
    (oneWave 2 { state := .training }).intervalErrors 2 0 0 0 * 2 ^ 14 ≤ ((oneWave 2 { state := .training }).linkDir 2).errth ∧
    5 ≤ ((List.range 8).filter (fun i => (0x1F : BitVec 8).getLsbD i)).length :=
  ⟨by rfl, by rfl, by decide, by rfl, fun f h => ⟨f.crcOk_bytes, by
    revert f
    decide +kernel⟩, by rfl, by decide +kernel⟩

/-- The machine with an entry of a directory, and a request of package 1, for line 7 of this package. -/
def directed (es : List DirEntry) (rs : List DirRequest) : State :=
  { machine with net := { directory := es, requests := rs, applied := [(1, 5)] } }

theorem witness_CoherenceEvents :
    (let s := directed [] [];
      s.net.requests = [] ∧ switchHolds s 7 = false ∧ s.rangeUncached (256 * 7) = false ∧ 1 ≠ s.net.pkg ∧ 1 ≠ pkgOf (256 * 7) ∧
        (∀ k ∈ [DirKind.rds, .rdx, .homeWrite], needsUs s { kind := k, line := 7, pkg := 1 } = false) ∧ s.tables.shadows = []) ∧
    (let s := directed [] []; let line := 2 ^ 33;
      switchHolds s line = false ∧ s.rangeUncached (256 * line) = false ∧ pkgOf (256 * line) ≠ s.net.pkg ∧
        needsUs s { kind := .homeRead, line, pkg := pkgOf (256 * line) } = false) ∧
    (directed [] []).net.applied.contains (1, 5) = true ∧ (directed [] []).net.applied.contains (1, 6) = false ∧
    (∀ x ∈ [DirState.owned, .modified],
      (directed [{ line := 7, state := x, owner := 1 }] []).dirEntry? 7 = some { line := 7, state := x, owner := 1 }) ∧
    (∀ k ∈ [DirKind.rds, .homeRead, .rdx, .homeWrite],
      let r : DirRequest := { kind := k, line := 7, pkg := 1 };
      let s := directed [] [r];
      s.net.requests = [r] ∧ switchHolds s 7 = false ∧ (resolveRequest s r).net.requests = [r]) ∧
    (let s := directed [{ line := 7, state := .shared }] [];
      s.dirEntry? 7 = some { line := 7, state := .shared } ∧ switchHolds s 7 = false) :=
  ⟨by decide +kernel, by decide +kernel, by decide +kernel, by decide +kernel, by decide +kernel, by decide +kernel,
    by decide +kernel⟩

/-- The machine whose range 9 is in a phase of its rebuild. -/
def rebuilding (p : RebuildPhase) : State := { machine with net := { rebuilds := [{ failed := 9, holder := 10, phase := p }] } }

theorem witness_SwitchEvents :
    machine.switchFailed 9 = false ∧
    (let s : State := { machine with gt := 8000, net := { pendings := [{ wid := 1, lane := 0, line := 7, since := 0 }] } };
      (s.routeOf (256 * 7)).isSome = true ∧
        ∀ p ∈ s.net.pendings, p.wid = 1 ∧ p.lane = 0 ∧ p.since + 8000 * (p.resent + 1) ≤ s.gt) ∧
    (∀ x ∈ [RebuildPhase.hold, .uncached], (rebuilding x).rebuildOf 9 = some { failed := 9, holder := 10, phase := x } ∧
      heardFrom (rebuilding x) 9 = true ∧ entriesOf (rebuilding x) 9 = [] ∧ (rebuilding x).net.requests = []) ∧
    (let s : State := { machine with gt := 1000000, net := { portdown := [(9, 0)] } };
      Sparse.mem s.net.portdown 9 = true ∧ Sparse.get 0 s.net.portdown 9 + s.net.portto ≤ s.gt ∧ s.net.pendings = []) ∧
    machine.net.pkg = 0 :=
  ⟨by decide +kernel, by decide +kernel, by decide +kernel, by decide +kernel, by rfl⟩

/-- A command of operation `op` with argument 1 and DATA 0x400 at the head of the command queue. -/
def commanded (op : Nat) : State :=
  let s := (paged.setRaw64 0x10000 (BitVec.ofNat 64 op)).setRaw64 0x10010 0x400 |>.setRaw64 0x10008 1
  { s with loft := { s.loft with pcmd := [{ addr := 0 }], tenants := s.loft.tenants ++ [(1, { defined := true })] } }

/-- How the command at the head of the queue ends. -/
def endOf (s : State) : Option CommandEnd :=
  match commandRead s 0 [64] with
  | some (s1, bs, _) =>
    match commandRead s1 (parseCommand bs).data (payloadPieces (parseCommand bs)) with
    | some (s2, payload, _) => some (runCommand (keepTaken s2 bs payload) (parseCommand bs) payload).2
    | none => none
  | none => none

/-- Does the command at the head of the queue end so? -/
def endsAs (s : State) (e : CommandEnd) : Bool := (endOf s).any (· == e)

/-- A SEGMENT whose grantee, tenant 2, holds a translation of a page that moves. -/
def segmentWaits : State :=
  ((commanded 6).setRaw64 0x4000 0x179).updCore 0 (fun c => { c with
    tcache := [{ tenant := 2, gen := 0, vpn := 0, word0 := 0x79, word1 := 0x10000, acc := 1, leaseEnd := 9 }] })

/-- A tenant entry within its limits. -/
def oneEntryBytes : List Byte := ((List.replicate 64 (0 : Byte)).set 11 1).set 17 1

theorem witness_PartitionCommands :
    (∀ op ∈ [1, 2, 3, 4, 5, 6, 7, 8], ∃ s1 bs s2 payload,
      (commanded op).loft.pcmd = { addr := 0 } :: [] ∧ ({ addr := 0 } : Command).taken = none ∧ (commanded op).fw.activating = none ∧ (commanded op).loft.mode = none ∧
      commandRead (commanded op) (0 : DWord).toNat [64] = some (s1, bs, false) ∧ commandOk (parseCommand bs) = true ∧
      (parseCommand bs).op = op ∧
      commandRead s1 (parseCommand bs).data (payloadPieces (parseCommand bs)) = some (s2, payload, false)) := by
  intro op hop
  have hs : (commanded op).loft.pcmd = { addr := 0 } :: [] ∧ (commanded op).fw.activating = none ∧ (commanded op).loft.mode = none := by
    simp only [List.mem_cons, List.not_mem_nil, or_false] at hop
    rcases hop with rfl | rfl | rfl | rfl | rfl | rfl | rfl | rfl <;> decide +kernel
  obtain ⟨⟨s1, bs, bad⟩, h1, h⟩ := some_of (x := commandRead (commanded op) 0 [64]) (fun a =>
      !a.2.2 && commandOk (parseCommand a.2.1) && (parseCommand a.2.1).op == op &&
        someAnd (commandRead a.1 (parseCommand a.2.1).data (payloadPieces (parseCommand a.2.1))) (fun b => !b.2.2))
    (by
      simp only [List.mem_cons, List.not_mem_nil, or_false] at hop
      rcases hop with rfl | rfl | rfl | rfl | rfl | rfl | rfl | rfl <;> decide +kernel)
  simp only [Bool.and_eq_true, Bool.not_eq_true', beq_iff_eq] at h
  obtain ⟨⟨⟨rfl, h3⟩, h4⟩, h⟩ := h
  obtain ⟨⟨s2, payload, bad2⟩, h5, h⟩ := some_of _ h
  simp only [Bool.not_eq_true'] at h
  subst h
  exact ⟨s1, bs, s2, payload, hs.1, rfl, hs.2.1, hs.2.2, h1, h3, h4, h5⟩

/-- Is the command at the head of the queue performed? -/
def isPerformed (op : Nat) : Bool := (endOf (commanded op)).any (fun e => match e with | .done _ _ => true | _ => false)

theorem witness_PartitionCommands_read : isPerformed 1 = true := by decide +kernel
theorem witness_PartitionCommands_readten : isPerformed 2 = true := by decide +kernel
theorem witness_PartitionCommands_setten : isPerformed 3 = true := by decide +kernel
theorem witness_PartitionCommands_mode : isPerformed 4 = true := by decide +kernel
theorem witness_PartitionCommands_reset :
    endsAs { commanded 5 with loft := { (commanded 5).loft with tenants := [(1, { defined := true, ptroot := 0x100000 })] } }
      (.done Status.ok 0) = true := by decide +kernel
theorem witness_PartitionCommands_segment : isPerformed 6 = true := by decide +kernel

/-- A READPART that stands at the head with what was read of it. -/
theorem witness_PartitionCommands_taken :
    (let c : Command := { addr := 0 };
      let bs : List Byte := (List.replicate 64 0).set 0 1;
      let s : State := { machine with loft := { machine.loft with pcmd := [{ c with taken := some (bs, []) }] } };
      s.loft.pcmd = { c with taken := some (bs, []) } :: [] ∧ s.fw.activating = none ∧ s.loft.mode = none ∧
        commandOk (parseCommand bs) = true ∧ (parseCommand bs).op = 1 ∧
        (match (runCommand s (parseCommand bs) []).2 with | .done _ _ => true | _ => false) = true) := by decide +kernel

theorem witness_PartitionCommands_waits : endsAs segmentWaits .waits = true := by decide +kernel

theorem witness_PartitionCommands_fields :
    endsAs ((commanded 8).setSyndrome 0x10400 3) .dropped = true ∧
    (commanded 1).fw.activateWaits = 0 ∧ tenantFieldsOk (List.replicate 64 0xFF) = false ∧
    tenantFieldsOk oneEntryBytes = true ∧ (machine.tenant 0).defined = true ∧ bitOf (bytesAt oneEntryBytes 11 1) 0 = true := by
  exact ⟨by decide +kernel, by decide +kernel, by decide +kernel, by decide +kernel, by rfl, by decide +kernel⟩

/-! ### The whole machine -/

/-- The machine whose warp stands at a word. -/
def atWord (w : BitVec 96) : State :=
  let s := machineOf { oneLane with lines := [(0, Line.make [w] 31)] }
  { s with chosen := [{ wid := 1, pc := 0, lanes := 1, word := w }] }

/-- The word of NOP. -/
def nopWord : BitVec 96 := wordOf3 0xFFFFDC00 0x3FFF 0

/-- The pick that stands at a word, and one that names the entry at the head. -/
def newPick (w : BitVec 96) : Pick := { wid := 1, pc := 0, lanes := 1, word := w }
def oldPick : Pick := { newPick 0 with place := some 0 }

/-- An older store of lane 0 that warp 2 on the same core is owed, and that cannot be performed yet. -/
def owingTo : State :=
  { waitingOn { oneEntry (.st storeAt0) .turn with owed := some 1 } with
    warps := [(1, { oneLane with rob := [{ oneEntry (.st storeAt0) .turn with owed := some 1 }] }), (2, oneLane)] }

theorem witness_StepRunsDecoded :
    (let s := atWord nopWord;
      s.chosen = newPick nopWord :: [] ∧ (newPick nopWord).place = none ∧ payBefore { s with chosen := [] } 1 = { s with chosen := [] } ∧
        owing { s with chosen := [] } 1 = false ∧ pickStands (s.warp 1) (newPick nopWord) = true ∧ (s.warp 1).starting = false ∧
        (s.warp 1).line? 0 = some (Line.make [nopWord] 31) ∧ decodeWord nopWord = .ok (.nop {})) ∧
    owing (payBefore owingTo 2) 2 = true ∧
    (let e := oneEntry (.nop {}) .turn;
      let s : State := { waitingOn e with chosen := [oldPick] };
      payBefore { s with chosen := [] } 1 = { s with chosen := [] } ∧ oldPick.place = some 0 ∧ (s.warp 1).rob[0]? = some e ∧
        (s.warp 1).onCore = true ∧ e.wait ≠ .nothing ∧ owing { s with chosen := [] } 1 = false ∧ ∀ x ∈ s.warps, ∀ e ∈ x.2.rob, e.owed = none) :=
  ⟨⟨by rfl, by rfl, by rfl, by decide +kernel, by decide +kernel, by rfl, by decide +kernel, witness_EncodeOfDecode⟩,
    by decide +kernel, by rfl, by decide +kernel⟩

/-- The word of an opcode that no row has. -/
def noWord : BitVec 96 := wordOf3 0xFFFFDC06 0x3FFF 0

theorem witness_StepOtherwise :
    (let s := atWord noWord;
      s.chosen = newPick noWord :: [] ∧ (newPick noWord).place = none ∧ (∀ x ∈ s.warps, ∀ e ∈ x.2.rob, e.owed = none) ∧
        pickStands (s.warp 1) (newPick noWord) = true ∧ (s.warp 1).rob = [] ∧ (s.warp 1).starting = false ∧ (s.warp 1).parkedSince = none ∧
        decodeWord noWord = .error .unassignedOpcode ∧ CanTrap (s.warp 1) 1) ∧
    (let s : State := { machine with schedule := [{ time := 0, op := .powerLoss }] };
      s.chosen = [] ∧ (0 : Nat) ≤ s.gt ∧ (Instr.powerLoss).fields = none ∧ s.fw.powered = true) ∧
    (withFw { powered := false }).schedule = [] ∧ (withFw { powered := false }).fw.powered = false ∧
    machine.schedule = [] ∧ machine.fw.powered = true :=
  ⟨⟨by rfl, by rfl, by decide +kernel, by decide +kernel, by decide +kernel, by rfl, by rfl, test_refuse_opcode,
      ⟨by decide, by decide +kernel, fun l h => by rw [has_one h]; decide +kernel, by decide +kernel⟩⟩,
    ⟨by rfl, by decide, by rfl, by rfl⟩, by rfl, by rfl, by rfl, by rfl⟩

theorem witness_StepKeepsInvariant : (atWord nopWord).Inv ∧ isNext (step (atWord nopWord)) = true :=
  ⟨by show Memory.wf _ = true; decide +kernel, by decide +kernel⟩

end Sys2Proof.Tests
end

section
/-! # Proofs: integer arithmetic, logic, bit fields and BMIX (R124 to R128)

Each of these instructions computes register writes lane by lane from the sources of the lane. One lemma says that such an
instruction completes with the writes of its lanes; what is left of a statement is that a value function of the model has the
value, or the bits, that the spec gives, one lemma per value function. -/

namespace Sys2Proof.Machine

/-! ## Instructions that only write registers -/

/-- An instruction whose arm performs it lane by lane completes with the writes `ws` that its lanes compute. -/
theorem exec_lanes_completes {i : Instr} {f : Fields} {s : State} {lane : Ctx → Nat → List RegWrite}
    {ws : Nat → List RegWrite} (hx : exec i s = performLanes i f s lane) (hi : Issuing i f s)
    (hws : ∀ l, lane (s.ctx f) l = ws l) (hr : ∀ l, inRange (ws l)) :
    ∃ t, exec i s = .next t ∧ CompletedNext s (s.ctx f) ws id t := by
  obtain rfl : lane (s.ctx f) = ws := funext hws
  rw [hx]
  exact performLanes_done hi (fun l _ => hr l)

/-- An instruction whose arm computes `g` of the three 32-bit sources writes `g` of them to its destination. -/
theorem exec_lanes3_completes {i : Instr} {f : Fields} {s : State} (g : Word → Word → Word → Word)
    (hx : exec i s = performLanes i f s (lanes3 f g)) (hi : Issuing i f s) :
    ∃ t, exec i s = .next t ∧
      CompletedNext s (s.ctx f) (fun l => dst32 f.dst (g (srcA s f l) (srcB s f l) (srcC s f l))) id t :=
  exec_lanes_completes hx hi (fun _ => rfl) (fun _ => inRange_dst32 _ _)

/-- Instruction `i`, whenever it is ready to issue, completes with `r` of its three sources in its destination. -/
def Computes (i : Fields → Instr) (r : Fields → Word → Word → Word → Word) : Prop :=
  ∀ (s : State) (f : Fields), Issuing (i f) f s → ∃ t, exec (i f) s = .next t ∧
    CompletedNext s (s.ctx f) (fun l => dst32 f.dst (r f (srcA s f l) (srcB s f l) (srcC s f l))) id t

/-- The arm of `i` computes `g`, whose values are those of `r`. -/
theorem computes_of {i : Fields → Instr} {r : Fields → Word → Word → Word → Word} (g : Fields → Word → Word → Word → Word)
    (hx : ∀ f s, exec (i f) s = performLanes (i f) f s (lanes3 f (g f))) (hg : ∀ f a b c, g f a b c = r f a b c) :
    Computes i r := by
  obtain rfl : g = r := by
    funext f a b c
    exact hg f a b c
  exact fun s f hi => exec_lanes3_completes (g f) (hx f s) hi

/-! ## Numbers behind words -/

/-- `{hi:lo}` as a number (R126, R128). -/
theorem toNat_append_word (hi lo : Word) : (hi ++ lo : DWord).toNat = hi.toNat * 2 ^ 32 + lo.toNat := by
  rw [BitVec.toNat_append, ← Nat.shiftLeft_add_eq_or_of_lt lo.isLt, Nat.shiftLeft_eq]

/-- A bit field as a number. -/
theorem toNat_extract {n : Nat} (x : BitVec n) (lo len : Nat) : (x.extractLsb' lo len).toNat = x.toNat / 2 ^ lo % 2 ^ len := by
  rw [BitVec.extractLsb'_toNat, Nat.shiftRight_eq_div_pow]

/-- A bit field as the word of a number. -/
theorem extract_eq_ofNat {n : Nat} (x : BitVec n) (lo len : Nat) : x.extractLsb' lo len = BitVec.ofNat len (x.toNat / 2 ^ lo) :=
  BitVec.eq_of_toNat_eq (by rw [toNat_extract, BitVec.toNat_ofNat])

theorem shiftCount_eq (b : Word) : shiftCount b = b.toNat % 256 := by
  rw [shiftCount, toNat_extract, Nat.pow_zero, Nat.div_one, show 2 ^ 8 = 256 from rfl]

theorem shiftCount_mod (b : Word) : shiftCount b % 32 = b.toNat % 32 := by
  rw [shiftCount_eq]
  omega

/-! ## Sum with carry and quotient (R124, R125) -/

theorem carryIn_eq (a b : Word) (c : Bool) :
    a + b + (if c then 1 else 0) = BitVec.ofNat 32 (a.toNat + b.toNat + if c then 1 else 0) := by
  cases c <;> simp [BitVec.ofNat_add]

/-- The carry in of IADDC: SC = 0xFE reads as 0 (R125). -/
theorem carrySource_eq (s : State) (f : Fields) (l : Nat) :
    (if f.sc = .zero then 0 else if srcPC s f l then 1 else 0) = if srcPC s f l then 1 else 0 := by
  by_cases hz : f.sc = .zero
  · simp [hz, srcPC, Warp.srcP]
  · rw [if_neg hz]

theorem div32_eq (unsigned : Bool) (a b : Word) :
    div32 unsigned a b = if b = 0 then 0xFFFFFFFF
      else if unsigned then BitVec.ofNat 32 (a.toNat / b.toNat) else BitVec.ofInt 32 (a.toInt.tdiv b.toInt) := by
  have hu : a.udiv b = BitVec.ofNat 32 (a.toNat / b.toNat) := BitVec.udiv_def
  have hs : a.sdiv b = BitVec.ofInt 32 (a.toInt.tdiv b.toInt) :=
    BitVec.eq_of_toInt_eq (by rw [BitVec.toInt_sdiv, BitVec.toInt_ofInt])
  rw [div32, hu, hs]
  rfl

theorem rem32_eq (unsigned : Bool) (a b : Word) :
    rem32 unsigned a b = if b = 0 then a
      else if unsigned then BitVec.ofNat 32 (a.toNat % b.toNat) else BitVec.ofInt 32 (a.toInt.tmod b.toInt) := by
  have hu : a.umod b = BitVec.ofNat 32 (a.toNat % b.toNat) := BitVec.umod_def
  have hs : a.srem b = BitVec.ofInt 32 (a.toInt.tmod b.toInt) := by
    rw [← BitVec.toInt_srem, BitVec.ofInt_toInt]
  rw [rem32, hu, hs]

/-- Settles O6: the writes of a lane are the low half of the exact sum and, where AUX[3] asks for it, its carry out. -/
theorem addWithCarry : Obligations.AddWithCarry := by
  unfold Obligations.AddWithCarry
  intro s f hi
  have hx : exec (.iaddc f) s = execIaddc f s := rfl
  refine exec_lanes_completes (hx.trans (by rw [execIaddc])) hi (fun l => ?_) (fun l => inRange_append (inRange_dst32 _ _) ?_)
  · simp only [carrySource_eq]
    exact congrArg (fun x => dst32 f.dst x ++ _) (carryIn_eq _ _ _)
  · split
    · intro r hr
      obtain rfl := List.mem_singleton.mp hr
      exact BitVec.isLt _
    · exact inRange_nil

/-- Settles O8, by the values of the quotient and of the remainder. -/
theorem quotientResults : Obligations.QuotientResults := by
  unfold Obligations.QuotientResults
  intro s f
  constructor
  · intro hi
    simpa only [div32_eq] using exec_lanes3_completes (fun a b _ => div32 f.mod5 a b) rfl hi
  · intro hi
    simpa only [rem32_eq] using exec_lanes3_completes (fun a b _ => rem32 f.mod5 a b) rfl hi

/-! ## Shifts (R126) -/

theorem shl_eq (a b : Word) : a <<< shiftCount b = if b.toNat % 256 ≥ 32 then 0 else a <<< (b.toNat % 256) := by
  rw [shiftCount_eq]
  split
  · exact BitVec.shiftLeft_eq_zero ‹_›
  · rfl

theorem shr_eq (a b : Word) : a >>> shiftCount b = if b.toNat % 256 ≥ 32 then 0 else a >>> (b.toNat % 256) := by
  rw [shiftCount_eq]
  split
  · exact BitVec.ushiftRight_eq_zero ‹_›
  · rfl

/-- A shift by the width or more leaves copies of the sign. -/
theorem sshiftRight_of_le (a : Word) {n : Nat} (h : 32 ≤ n) : a.sshiftRight n = if a.msb then 0xFFFFFFFF else 0 := by
  have hones : (0xFFFFFFFF : Word) = BitVec.allOnes 32 := rfl
  apply BitVec.eq_of_getLsbD_eq
  intro i hi
  have hn : ¬ n + i < 32 := by omega
  rw [BitVec.getLsbD_sshiftRight, if_neg hn, decide_eq_false (Nat.not_le.mpr hi), Bool.not_false, Bool.true_and]
  cases a.msb with
  | false => exact BitVec.getLsbD_zero.symm
  | true => rw [if_pos rfl, hones, BitVec.getLsbD_allOnes, decide_eq_true hi]

theorem sha_eq (a b : Word) : a.sshiftRight (shiftCount b) =
    if b.toNat % 256 ≥ 32 then (if a.msb then 0xFFFFFFFF else 0) else a.sshiftRight (b.toNat % 256) := by
  rw [shiftCount_eq]
  split
  · exact sshiftRight_of_le a ‹_›
  · rfl

theorem rotl_eq (a b : Word) :
    a.rotateLeft (shiftCount b % 32) = (a <<< (b.toNat % 32)) ||| (a >>> (32 - b.toNat % 32)) := by
  rw [BitVec.rotateLeft_def, Nat.mod_mod, shiftCount_mod]

theorem funnelShift_eq (left : Bool) (lo hi : Word) (b : Word) : funnelShift left lo hi (shiftCount b) =
    if left then BitVec.ofNat 32 ((hi.toNat * 2 ^ 32 + lo.toNat) * 2 ^ (b.toNat % 32) / 2 ^ 32)
    else BitVec.ofNat 32 ((hi.toNat * 2 ^ 32 + lo.toNat) / 2 ^ (b.toNat % 32)) := by
  rw [funnelShift, shiftCount_mod, ← toNat_append_word]
  generalize (hi ++ lo : DWord) = x
  cases left with
  | true =>
    apply BitVec.eq_of_toNat_eq
    calc ((x <<< (b.toNat % 32)).extractLsb' 32 32).toNat
        = x.toNat * 2 ^ (b.toNat % 32) % (2 ^ 32 * 2 ^ 32) / 2 ^ 32 % 2 ^ 32 := by
          rw [toNat_extract, BitVec.toNat_shiftLeft, Nat.shiftLeft_eq, Nat.pow_add]
      _ = x.toNat * 2 ^ (b.toNat % 32) / 2 ^ 32 % 2 ^ 32 := by rw [Nat.mod_mul_right_div_self, Nat.mod_mod]
  | false =>
    apply BitVec.eq_of_toNat_eq
    show ((x >>> (b.toNat % 32)).setWidth 32).toNat = _
    rw [BitVec.toNat_setWidth, BitVec.toNat_ushiftRight, Nat.shiftRight_eq_div_pow]
    rfl

/-! ## Counts and BREV (R126) -/

theorem popCount_eq (a : Word) : popCount a = (List.range 32).countP (fun i => a.getLsbD i) :=
  List.countP_eq_length_filter.symm

/-- The first number below `n` that satisfies `p`, or `n`: below it none does, and it does if it is less than `n`. -/
theorem find_range_spec (p : Nat → Bool) (n : Nat) :
    let k := ((List.range n).find? p).getD n
    k ≤ n ∧ (∀ i < k, p i = false) ∧ (k < n → p k = true) := by
  cases h : (List.range n).find? p with
  | none =>
    have hnone := List.find?_range_eq_none.mp h
    exact ⟨Nat.le_refl n, fun i hi => by simpa using hnone i hi, fun hlt => absurd hlt (Nat.lt_irrefl n)⟩
  | some k =>
    obtain ⟨hp, hk, hlow⟩ := List.find?_range_eq_some.mp h
    exact ⟨(List.mem_range.mp hk).le, fun i hi => by simpa using hlow i hi, fun _ => hp⟩

theorem leadingZeros_spec (a : Word) : leadingZeros a ≤ 32 ∧ (∀ i < leadingZeros a, a.getLsbD (31 - i) = false) ∧
    (leadingZeros a < 32 → a.getLsbD (31 - leadingZeros a) = true) :=
  find_range_spec (fun i => a.getLsbD (31 - i)) 32

theorem trailingZeros_spec (a : Word) : trailingZeros a ≤ 32 ∧ (∀ i < trailingZeros a, a.getLsbD i = false) ∧
    (trailingZeros a < 32 → a.getLsbD (trailingZeros a) = true) :=
  find_range_spec (fun i => a.getLsbD i) 32

/-- The bits of a word that is given by a predicate. -/
theorem getLsbD_ofPred (p : Nat → Bool) {i : Nat} (hi : i < 32) : (LaneMask.ofPred p).getLsbD i = p i := by
  have h := LaneMask.has_ofPred p i
  rwa [decide_eq_true hi, Bool.true_and] at h

theorem getLsbD_reverseBits (a : Word) {i : Nat} (hi : i < 32) : (reverseBits a).getLsbD i = a.getLsbD (31 - i) :=
  getLsbD_ofPred _ hi

/-- Settles O10: the arms compute the values of R126, each by the lemma about its value function. -/
theorem logicShiftAndCountResults : Obligations.LogicShiftAndCountResults := by
  unfold Obligations.LogicShiftAndCountResults
  refine ⟨?listed, fun s f => ⟨fun hi => ?popc, fun hi => ?clz, fun hi => ?ctz, fun hi => ?brev⟩⟩
  case listed =>
    show ∀ p : (Fields → Instr) × (Fields → Word → Word → Word → Word), p ∈ _ → Computes p.1 p.2
    simp only [List.forall_mem_cons, List.not_mem_nil, false_implies, implies_true, and_true]
    exact ⟨computes_of (fun _ a b _ => a &&& b) (fun _ _ => rfl) (fun _ _ _ _ => rfl),
      computes_of (fun _ a b _ => a ||| b) (fun _ _ => rfl) (fun _ _ _ _ => rfl),
      computes_of (fun _ a b _ => a ^^^ b) (fun _ _ => rfl) (fun _ _ _ _ => rfl),
      computes_of (fun _ a b _ => a &&& ~~~b) (fun _ _ => rfl) (fun _ _ _ _ => rfl),
      computes_of (fun _ a _ _ => ~~~a) (fun _ _ => rfl) (fun _ _ _ _ => rfl),
      computes_of (fun _ a b _ => a <<< shiftCount b) (fun _ _ => rfl) (fun _ a b _ => shl_eq a b),
      computes_of (fun _ a b _ => a >>> shiftCount b) (fun _ _ => rfl) (fun _ a b _ => shr_eq a b),
      computes_of (fun _ a b _ => a.sshiftRight (shiftCount b)) (fun _ _ => rfl) (fun _ a b _ => sha_eq a b),
      computes_of (fun _ a b _ => a.rotateLeft (shiftCount b % 32)) (fun _ _ => rfl) (fun _ a b _ => rotl_eq a b),
      computes_of (fun f a b c => funnelShift f.mod0 a c (shiftCount b)) (fun _ _ => rfl)
        (fun f a b c => funnelShift_eq f.mod0 a c b)⟩
  case popc => simpa only [popCount_eq] using exec_lanes3_completes (fun a _ _ => BitVec.ofNat 32 (popCount a)) rfl hi
  case clz =>
    exact ⟨fun l => leadingZeros (srcA s f l), fun l => leadingZeros_spec _,
      exec_lanes3_completes (fun a _ _ => BitVec.ofNat 32 (leadingZeros a)) rfl hi⟩
  case ctz =>
    exact ⟨fun l => trailingZeros (srcA s f l), fun l => trailingZeros_spec _,
      exec_lanes3_completes (fun a _ _ => BitVec.ofNat 32 (trailingZeros a)) rfl hi⟩
  case brev =>
    exact ⟨fun l => reverseBits (srcA s f l), fun l _ => getLsbD_reverseBits _,
      exec_lanes3_completes (fun a _ _ => reverseBits a) rfl hi⟩

/-! ## Bit fields (R127) -/

/-- The position in a control word of a bit field (R127). -/
def fieldPos (ctl : Word) : Nat := ctl.toNat % 256

/-- The length in a control word of a bit field (R127). -/
def fieldLen (ctl : Word) : Nat := min (ctl.toNat / 256 % 256) 32

theorem extract_fieldPos (ctl : Word) : (ctl.extractLsb' 0 8).toNat = fieldPos ctl := shiftCount_eq ctl

theorem extract_fieldLen (ctl : Word) : min (ctl.extractLsb' 8 8).toNat 32 = fieldLen ctl :=
  congrArg (min · 32) (toNat_extract ctl 8 8)

theorem fieldLen_le (ctl : Word) : fieldLen ctl ≤ 32 := Nat.min_le_right _ _

theorem bitExtract_len_zero (unsigned : Bool) (a : Word) {ctl : Word} (h : fieldLen ctl = 0) : bitExtract unsigned a ctl = 0 := by
  rw [bitExtract, extract_fieldLen]
  exact if_pos h

/-- Bit `i` of the field of BFE: past bit 31 it reads A[31], or 0 with .U (R127). -/
def fieldBit (unsigned : Bool) (a : Word) (pos i : Nat) : Bool :=
  if pos + i ≤ 31 then a.getLsbD (pos + i) else if unsigned then false else a.getLsbD 31

theorem getLsbD_bitExtract (unsigned : Bool) (a ctl : Word) {i : Nat} (h0 : fieldLen ctl ≠ 0) (h32 : i < 32) :
    (bitExtract unsigned a ctl).getLsbD i =
      if i < fieldLen ctl then fieldBit unsigned a (fieldPos ctl) i
      else if unsigned then false else fieldBit unsigned a (fieldPos ctl) (fieldLen ctl - 1) := by
  rw [bitExtract, extract_fieldLen, extract_fieldPos]
  simp only [h0, if_false]
  rw [getLsbD_ofPred _ h32]
  cases unsigned <;> rfl

/-- A bit of BFE above its field extends the highest bit of the field. -/
theorem getLsbD_bitExtract_above (unsigned : Bool) (a ctl : Word) {i : Nat} (h0 : fieldLen ctl ≠ 0)
    (hi : fieldLen ctl ≤ i) (h32 : i < 32) :
    (bitExtract unsigned a ctl).getLsbD i =
      if unsigned then false else (bitExtract unsigned a ctl).getLsbD (fieldLen ctl - 1) := by
  have htop : fieldLen ctl - 1 < fieldLen ctl := Nat.sub_one_lt h0
  have htop32 : fieldLen ctl - 1 < 32 := htop.trans_le (fieldLen_le ctl)
  rw [getLsbD_bitExtract unsigned a ctl h0 h32, getLsbD_bitExtract unsigned a ctl h0 htop32, if_neg (Nat.not_lt.mpr hi),
    if_pos htop]

/-- The mask of BFI: `len` ones from bit `pos` on. -/
theorem getLsbD_fieldMask (pos len : Nat) {i : Nat} (hi : i < 32) :
    (BitVec.ofNat 32 ((2 ^ min len (32 - pos) - 1) * 2 ^ pos)).getLsbD i = decide (pos ≤ i ∧ i < pos + len) := by
  rw [BitVec.getLsbD_ofNat, Nat.testBit_mul_two_pow, Nat.testBit_two_pow_sub_one, decide_eq_true hi, Bool.true_and,
    ← Bool.decide_and]
  exact decide_eq_decide.mpr (by omega)

/-- Choosing bits by a mask. -/
theorem getLsbD_select (x y m : Word) {i : Nat} (hi : i < 32) :
    ((y &&& ~~~m) ||| (x &&& m)).getLsbD i = if m.getLsbD i then x.getLsbD i else y.getLsbD i := by
  rw [BitVec.getLsbD_or, BitVec.getLsbD_and, BitVec.getLsbD_and, BitVec.getLsbD_not, decide_eq_true hi]
  cases m.getLsbD i <;> simp

/-- The bits of BFI: those of the base outside the field, those of the inserted value in it. -/
theorem getLsbD_bitInsert {ins ctl base : Word} {i : Nat} (hi : i < 32) :
    (bitInsert ins ctl base).getLsbD i =
      if fieldLen ctl = 0 ∨ fieldPos ctl ≥ 32 then base.getLsbD i
      else if fieldPos ctl ≤ i ∧ i < fieldPos ctl + fieldLen ctl then ins.getLsbD (i - fieldPos ctl)
      else base.getLsbD i := by
  rw [bitInsert, extract_fieldLen, extract_fieldPos]
  by_cases hout : fieldLen ctl = 0 ∨ fieldPos ctl ≥ 32
  · simp only [hout, if_true]
  · simp only [hout, if_false]
    rw [getLsbD_select _ _ _ hi, getLsbD_fieldMask _ _ hi]
    by_cases hin : fieldPos ctl ≤ i ∧ i < fieldPos ctl + fieldLen ctl
    · have hlow : ¬ i < fieldPos ctl := Nat.not_lt.mpr hin.1
      rw [decide_eq_true hin, if_pos rfl, if_pos hin, BitVec.getLsbD_shiftLeft]
      simp only [hi, hlow, decide_true, decide_false, Bool.not_false, Bool.true_and]
    · simp only [hin, decide_false, Bool.false_eq_true, if_false]

/-! ## BMIX (R128) -/

/-- One of the eight bytes of `{C:A}`. -/
theorem pairByte_eq (a c : Word) (i : Nat) :
    (c ++ a : DWord).extractLsb' (8 * i) 8 = BitVec.ofNat 8 ((c.toNat * 2 ^ 32 + a.toNat) / 2 ^ (8 * i)) := by
  rw [extract_eq_ofNat, toNat_append_word]

/-- A byte of BMIX, for its selector `s` and the byte `x` that the selector's index names. -/
theorem mixByte_eq {a c sel : Word} {n s : Nat} {x : Byte} (hs : sel.toNat / 2 ^ (5 * n) % 32 = s)
    (hx : BitVec.ofNat 8 ((c.toNat * 2 ^ 32 + a.toNat) / 2 ^ (8 * (s % 8))) = x) :
    mixByte a c sel n =
      if s / 8 = 0 then x else if s / 8 = 1 then 0 else if s / 8 = 2 then (if x.getLsbD 7 then 0xFF else 0) else ~~~x := by
  have hsel : (sel.extractLsb' (5 * n) 5).toNat = s := (toNat_extract sel (5 * n) 5).trans hs
  have hbyte : (c ++ a : DWord).extractLsb' (8 * (s % 8)) 8 = x := (pairByte_eq a c (s % 8)).trans hx
  have hop : s / 8 < 4 := by omega
  rw [mixByte, hsel]
  simp only [hbyte]
  generalize s / 8 = op at hop
  match op, hop with
  | 0, _ => rfl
  | 1, _ => rfl
  | 2, _ => rfl
  | 3, _ => rfl

/-- Byte `n` of BMIX is the byte that its selector forms. -/
theorem byteMix_byte (a c sel : Word) {n : Nat} (hn : n < 4) : (byteMix a c sel).extractLsb' (8 * n) 8 = mixByte a c sel n := by
  have low {w : Nat} (x : Byte) (y : BitVec w) {m : Nat} (h : 8 * m + 8 ≤ w) :
      (x ++ y).extractLsb' (8 * m) 8 = y.extractLsb' (8 * m) 8 := BitVec.extractLsb'_append_eq_of_add_le h
  rw [byteMix]
  match n, hn with
  | 0, _ => rw [low _ _ (by decide), low _ _ (by decide), BitVec.extractLsb'_append_eq_right]
  | 1, _ => rw [low _ _ (by decide), low _ _ (by decide), BitVec.extractLsb'_append_eq_left]
  | 2, _ => rw [low _ _ (by decide), BitVec.extractLsb'_append_eq_left]
  | 3, _ => rw [BitVec.extractLsb'_append_eq_left]

/-- Settles O11, by the bits of BFE and BFI and the bytes of BMIX. -/
theorem bitFieldAndByteMixResults : Obligations.BitFieldAndByteMixResults := by
  unfold Obligations.BitFieldAndByteMixResults
  refine ⟨fun s f => ⟨fun hi => ?bfe, fun hi => ?bfi⟩, fun s f hi => ?bmix⟩
  case bfe =>
    exact ⟨fun l => bitExtract f.mod5 (srcA s f l) (srcB s f l),
      fun l => ⟨bitExtract_len_zero _ _, fun h0 =>
        ⟨fun i hi => (getLsbD_bitExtract _ _ _ h0 (hi.trans_le (fieldLen_le _))).trans (if_pos hi),
          fun i hi h32 => getLsbD_bitExtract_above _ _ _ h0 hi h32⟩⟩,
      exec_lanes3_completes (fun a b _ => bitExtract f.mod5 a b) rfl hi⟩
  case bfi =>
    exact ⟨fun l => bitInsert (srcA s f l) (srcB s f l) (srcC s f l), fun l i hi => getLsbD_bitInsert hi,
      exec_lanes3_completes bitInsert rfl hi⟩
  case bmix =>
    exact ⟨fun l => byteMix (srcA s f l) (srcC s f l) (srcB s f l),
      fun l n hn => (byteMix_byte _ _ _ hn).trans (mixByte_eq rfl rfl),
      exec_lanes3_completes (fun a b c => byteMix a c b) rfl hi⟩

end Sys2Proof.Machine
end

section
/-! # Proofs: the encoding (R30, R31, R39 to R51) -/

namespace Sys2Proof

/-! ## Operand codes (R45) -/

/-- Maps have no code of their own class: format X packs them into SA (R42). -/
def Opnd.isMaps : Opnd → Bool
  | .maps _ _ => true
  | _ => false

theorem Opnd.code_ofCode : ∀ (c : BitVec 8) (o : Opnd), Opnd.ofCode c = some o → o.code = c := by decide

theorem Opnd.ofCode_code {o : Opnd} (h : o.isMaps = false) : Opnd.ofCode o.code = some o := by
  cases o with
  | v n => revert n; decide
  | k n => revert n; decide
  | special n => revert n; decide
  | p n => revert n; decide
  | acc n => revert n; decide
  | pf n => revert n; decide
  | cv n => revert n; decide
  | imm => rfl
  | zero => rfl
  | none => rfl
  | maps a b => cases h

theorem Opnd.ofMaps_code (a b : Fin 16) : Opnd.ofMaps (Opnd.maps a b).code = .maps a b := by
  revert a b; decide

theorem Opnd.code_ofMaps : ∀ c : BitVec 8, (Opnd.ofMaps c).code = c := by decide

/-! ## The family Encodable -/

theorem encodable (i : Instr) : Laws.Encodable.Statement i := by
  cases i with
  | nop f => exact Laws.Encodable.nop f
  | mov f => exact Laws.Encodable.mov f
  | movi f => exact Laws.Encodable.movi f
  | movk f => exact Laws.Encodable.movk f
  | movs f => exact Laws.Encodable.movs f
  | sel f => exact Laws.Encodable.sel f
  | iadd f => exact Laws.Encodable.iadd f
  | isub f => exact Laws.Encodable.isub f
  | iaddc f => exact Laws.Encodable.iaddc f
  | imul f => exact Laws.Encodable.imul f
  | imulh f => exact Laws.Encodable.imulh f
  | imad f => exact Laws.Encodable.imad f
  | imal f => exact Laws.Encodable.imal f
  | idiv f => exact Laws.Encodable.idiv f
  | irem f => exact Laws.Encodable.irem f
  | imin f => exact Laws.Encodable.imin f
  | imax f => exact Laws.Encodable.imax f
  | iabs f => exact Laws.Encodable.iabs f
  | ineg f => exact Laws.Encodable.ineg f
  | iadd64 f => exact Laws.Encodable.iadd64 f
  | isub64 f => exact Laws.Encodable.isub64 f
  | lea f => exact Laws.Encodable.lea f
  | and f => exact Laws.Encodable.and f
  | or f => exact Laws.Encodable.or f
  | xor f => exact Laws.Encodable.xor f
  | andn f => exact Laws.Encodable.andn f
  | not f => exact Laws.Encodable.not f
  | shl f => exact Laws.Encodable.shl f
  | shr f => exact Laws.Encodable.shr f
  | sha f => exact Laws.Encodable.sha f
  | rotl f => exact Laws.Encodable.rotl f
  | fshf f => exact Laws.Encodable.fshf f
  | bfe f => exact Laws.Encodable.bfe f
  | bfi f => exact Laws.Encodable.bfi f
  | popc f => exact Laws.Encodable.popc f
  | clz f => exact Laws.Encodable.clz f
  | ctz f => exact Laws.Encodable.ctz f
  | brev f => exact Laws.Encodable.brev f
  | bmix f => exact Laws.Encodable.bmix f
  | icmp f => exact Laws.Encodable.icmp f
  | icmp64 f => exact Laws.Encodable.icmp64 f
  | ptab f => exact Laws.Encodable.ptab f
  | pmovGet f => exact Laws.Encodable.pmovGet f
  | pmovSet f => exact Laws.Encodable.pmovSet f
  | lpoll f => exact Laws.Encodable.lpoll f
  | lxch f => exact Laws.Encodable.lxch f
  | lfold f => exact Laws.Encodable.lfold f
  | lgrp f => exact Laws.Encodable.lgrp f
  | fadd f => exact Laws.Encodable.fadd f
  | fsub f => exact Laws.Encodable.fsub f
  | fmul f => exact Laws.Encodable.fmul f
  | ffma f => exact Laws.Encodable.ffma f
  | fmin f => exact Laws.Encodable.fmin f
  | fmax f => exact Laws.Encodable.fmax f
  | fcmp f => exact Laws.Encodable.fcmp f
  | fclass f => exact Laws.Encodable.fclass f
  | fdiv f => exact Laws.Encodable.fdiv f
  | fsqrt f => exact Laws.Encodable.fsqrt f
  | frcp f => exact Laws.Encodable.frcp f
  | frsq f => exact Laws.Encodable.frsq f
  | fex2 f => exact Laws.Encodable.fex2 f
  | flg2 f => exact Laws.Encodable.flg2 f
  | fsin f => exact Laws.Encodable.fsin f
  | fcos f => exact Laws.Encodable.fcos f
  | ftanh f => exact Laws.Encodable.ftanh f
  | fsgm f => exact Laws.Encodable.fsgm f
  | hadd2 f => exact Laws.Encodable.hadd2 f
  | hmul2 f => exact Laws.Encodable.hmul2 f
  | hfma2 f => exact Laws.Encodable.hfma2 f
  | badd2 f => exact Laws.Encodable.badd2 f
  | bmul2 f => exact Laws.Encodable.bmul2 f
  | bfma2 f => exact Laws.Encodable.bfma2 f
  | dadd f => exact Laws.Encodable.dadd f
  | dmul f => exact Laws.Encodable.dmul f
  | dfma f => exact Laws.Encodable.dfma f
  | cvt f => exact Laws.Encodable.cvt f
  | f2i f => exact Laws.Encodable.f2i f
  | i2f f => exact Laws.Encodable.i2f f
  | pack8 f => exact Laws.Encodable.pack8 f
  | unpk8 f => exact Laws.Encodable.unpk8 f
  | tos24 f => exact Laws.Encodable.tos24 f
  | froms24 f => exact Laws.Encodable.froms24 f
  | pack16 f => exact Laws.Encodable.pack16 f
  | packi8 f => exact Laws.Encodable.packi8 f
  | omset f => exact Laws.Encodable.omset f
  | omld f => exact Laws.Encodable.omld f
  | gidx f => exact Laws.Encodable.gidx f
  | cvdecl f => exact Laws.Encodable.cvdecl f
  | cvsign f => exact Laws.Encodable.cvsign f
  | mma8 f => exact Laws.Encodable.mma8 f
  | mmah f => exact Laws.Encodable.mmah f
  | mmab f => exact Laws.Encodable.mmab f
  | mmai f => exact Laws.Encodable.mmai f
  | sacc f => exact Laws.Encodable.sacc f
  | iacc f => exact Laws.Encodable.iacc f
  | accz f => exact Laws.Encodable.accz f
  | accld f => exact Laws.Encodable.accld f
  | accst f => exact Laws.Encodable.accst f
  | accmov f => exact Laws.Encodable.accmov f
  | drain f => exact Laws.Encodable.drain f
  | draina f => exact Laws.Encodable.draina f
  | ld f => exact Laws.Encodable.ld f
  | st f => exact Laws.Encodable.st f
  | ldfe f => exact Laws.Encodable.ldfe f
  | stfe f => exact Laws.Encodable.stfe f
  | feclr f => exact Laws.Encodable.feclr f
  | atom f => exact Laws.Encodable.atom f
  | acas f => exact Laws.Encodable.acas f
  | red f => exact Laws.Encodable.red f
  | fence f => exact Laws.Encodable.fence f
  | pref f => exact Laws.Encodable.pref f
  | bra f => exact Laws.Encodable.bra f
  | brx f => exact Laws.Encodable.brx f
  | call f => exact Laws.Encodable.call f
  | callx f => exact Laws.Encodable.callx f
  | ret f => exact Laws.Encodable.ret f
  | exit f => exact Laws.Encodable.exit f
  | wsync f => exact Laws.Encodable.wsync f
  | yield f => exact Laws.Encodable.yield f
  | sleep f => exact Laws.Encodable.sleep f
  | rgacq f => exact Laws.Encodable.rgacq f
  | rgrel f => exact Laws.Encodable.rgrel f
  | role f => exact Laws.Encodable.role f
  | brk f => exact Laws.Encodable.brk f
  | trap f => exact Laws.Encodable.trap f
  | kick f => exact Laws.Encodable.kick f
  | kickDie f => exact Laws.Encodable.kickDie f
  | wainst f => exact Laws.Encodable.wainst f
  | qpush f => exact Laws.Encodable.qpush f
  | qpop f => exact Laws.Encodable.qpop f
  | qpeek f => exact Laws.Encodable.qpeek f
  | qclose f => exact Laws.Encodable.qclose f
  | lnch f => exact Laws.Encodable.lnch f
  | shadow f => exact Laws.Encodable.shadow f
  | publish f => exact Laws.Encodable.publish f
  | bara f => exact Laws.Encodable.bara f
  | barw f => exact Laws.Encodable.barw f
  | bars f => exact Laws.Encodable.bars f
  | barq f => exact Laws.Encodable.barq f
  | bcinit f => exact Laws.Encodable.bcinit f
  | bcadd f => exact Laws.Encodable.bcadd f
  | bcwait f => exact Laws.Encodable.bcwait f
  | cntrd f => exact Laws.Encodable.cntrd f
  | gtrd f => exact Laws.Encodable.gtrd f
  | tcinv f => exact Laws.Encodable.tcinv f
  | tcrcl f => exact Laws.Encodable.tcrcl f
  | place f => exact Laws.Encodable.place f
  | repl f => exact Laws.Encodable.repl f
  | probe f => exact Laws.Encodable.probe f
  | probeF f => exact Laws.Encodable.probeF f
  | sysrd f => exact Laws.Encodable.sysrd f
  | syswr f => exact Laws.Encodable.syswr f
  | eret f => exact Laws.Encodable.eret f
  | trqpop f => exact Laws.Encodable.trqpop f
  | bndset f => exact Laws.Encodable.bndset f
  | bndrd f => exact Laws.Encodable.bndrd f
  | diagst f => exact Laws.Encodable.diagst f
  | diagld f => exact Laws.Encodable.diagld f
  | wdog f => exact Laws.Encodable.wdog f
  | halt f => exact Laws.Encodable.halt f
  | idle f => exact Laws.Encodable.idle f
  | _ => exact Laws.Encodable.of_event rfl

theorem ofOpcode_isNone (opc : Nat) (f g : Fields) : (Instr.ofOpcode opc f).isNone = (Instr.ofOpcode opc g).isNone := by
  unfold Instr.ofOpcode
  split <;> rfl

/-- An opcode names an instruction that holds the fields and has that opcode. -/
theorem ofOpcode_row {opc : Nat} {f : Fields} {i : Instr} (h : Instr.ofOpcode opc f = some i) :
    i.fields = some f ∧ ∀ r, i.row = some r → r.opc.toNat = opc := by
  unfold Instr.ofOpcode at h
  split at h <;> (try split at h) <;> cases h <;> exact ⟨rfl, fun r hr => by cases hr; rfl⟩

/-! ## The rows: which fields hold maps (R42, R186) -/

/-- The class holds operand maps. -/
def FieldClass.isMap : FieldClass → Bool
  | .map | .map2 => true
  | _ => false

/-- SA holds maps in the rows of exactly those opcodes that the decoder lists, and no other operand field does. -/
def Row.mapsFit (r : Row) : Bool :=
  r.sig.sa.isMap == opcodeUsesMaps r.opc.toNat && !r.sig.dst.isMap && !r.sig.sb.isMap && !r.sig.sc.isMap

/-- By the table, row for row. -/
theorem row_mapsFit (i : Instr) (r : Row) (h : i.row = some r) : r.mapsFit = true := by
  cases i <;> cases h
  all_goals
    simp only [Row.mapsFit, valueClass, vValueClass, combineClass]
    repeat' split
    all_goals rfl

/-- An accepted operand is of maps just where its class is. -/
theorem isMaps_of_accepts {c : FieldClass} {o : Opnd} (h : c.accepts o = true) : o.isMaps = c.isMap := by
  cases c <;> cases o <;> first | rfl | cases h

theorem isMaps_of_accepts_other {c : FieldClass} {o : Opnd} (hc : c.isMap = false) (h : c.accepts o = true) :
    Opnd.ofCode o.code = some o := Opnd.ofCode_code ((isMaps_of_accepts h).trans hc)

/-- SA of format X decodes by its maps. -/
theorem ofMaps_code_of_accepts {c : FieldClass} {o : Opnd} (hc : c.isMap = true) (h : c.accepts o = true) :
    Opnd.ofMaps o.code = o := by
  have hm := (isMaps_of_accepts h).trans hc
  cases o with
  | maps a b => exact Opnd.ofMaps_code a b
  | _ => cases hm

/-! ## The places of R39 -/

/-- A field below the split of two parts lies in the lower one. -/
theorem extract_low {n m : Nat} (x : BitVec n) (y : BitVec m) {lo len : Nat} (h : lo + len ≤ m) :
    (x ++ y).extractLsb' lo len = y.extractLsb' lo len := BitVec.extractLsb'_append_eq_of_add_le h

/-- A field above the split of two parts lies in the upper one. -/
theorem extract_high {n m : Nat} (x : BitVec n) (y : BitVec m) {lo len : Nat} (h : m ≤ lo) :
    (x ++ y).extractLsb' lo len = x.extractLsb' (lo - m) len := BitVec.extractLsb'_append_eq_of_le h

/-- Each field of R39 stands in its place of the word. -/
structure HasFields (w : BitVec 96) (opc : BitVec 10) (f : Fields) : Prop where
  opc : w.extractLsb' 0 10 = opc
  guard : w.extractLsb' 10 4 = f.guardBits
  dst : w.extractLsb' 14 8 = f.dst.code
  sa : w.extractLsb' 22 8 = f.sa.code
  sb : w.extractLsb' 30 8 = f.sb.code
  sc : w.extractLsb' 38 8 = f.sc.code
  reuse : w.extractLsb' 46 3 = f.reuse
  mod : w.extractLsb' 49 7 = f.mod
  aux : w.extractLsb' 56 8 = f.aux
  imm : w.extractLsb' 64 32 = f.imm

theorem hasFields_wordOf (opc : BitVec 10) (f : Fields) : HasFields (wordOf opc f) opc f := by
  constructor <;> simp (disch := decide) only [wordOf, extract_low, extract_high,
    BitVec.extractLsb'_eq_self, Nat.sub_self]

/-- The ten fields make up the word. -/
theorem HasFields.eq_wordOf {w : BitVec 96} {opc : BitVec 10} {f : Fields} (h : HasFields w opc f) : wordOf opc f = w := by
  obtain ⟨rfl, h1, h2, h3, h4, h5, h6, h7, h8, h9⟩ := h
  rw [wordOf, ← h1, ← h2, ← h3, ← h4, ← h5, ← h6, ← h7, ← h8, ← h9]
  have join (lo len n : Nat) : w.extractLsb' (lo + len) n ++ w.extractLsb' lo len = w.extractLsb' lo (n + len) :=
    BitVec.extractLsb'_append_extractLsb'_eq_extractLsb' rfl
  rw [join 0 10 4, join 0 14 8, join 0 22 8, join 0 30 8, join 0 38 8, join 0 46 3, join 0 49 7, join 0 56 8, join 0 64 32]
  exact BitVec.extractLsb'_eq_self

/-! ## The guard (R40) -/

theorem guardBits_fields : ∀ (neg : Bool) (pred : Fin 8),
    let g := BitVec.ofNat 4 (pred.val + if neg then 8 else 0)
    g.getLsbD 3 = neg ∧ Fin.ofNat 8 (g.extractLsb' 0 3).toNat = pred := by decide

theorem guardBits_of_bits : ∀ g : BitVec 4,
    BitVec.ofNat 4 ((Fin.ofNat 8 (g.extractLsb' 0 3).toNat).val + if g.getLsbD 3 then 8 else 0) = g := by decide

/-- The guard's two fields, as parts of GRD. -/
theorem guard_parts (w : BitVec 96) : w.getLsbD 13 = (w.extractLsb' 10 4).getLsbD 3 ∧
    w.extractLsb' 10 3 = (w.extractLsb' 10 4).extractLsb' 0 3 := by
  constructor
  · simp
  · ext i hi
    simp; omega

/-! ## Fields of a word -/

theorem fieldsOfWord_eq (maps : Bool) (w : BitVec 96) : fieldsOfWord maps w =
    (Opnd.ofCode (w.extractLsb' 14 8)).bind fun dst =>
    (if maps then some (Opnd.ofMaps (w.extractLsb' 22 8)) else Opnd.ofCode (w.extractLsb' 22 8)).bind fun sa =>
    (Opnd.ofCode (w.extractLsb' 30 8)).bind fun sb => (Opnd.ofCode (w.extractLsb' 38 8)).bind fun sc =>
    some { neg := w.getLsbD 13, pred := Fin.ofNat 8 (w.extractLsb' 10 3).toNat, reuse := w.extractLsb' 46 3,
           dst, sa, sb, sc, mod := w.extractLsb' 49 7, aux := w.extractLsb' 56 8, imm := w.extractLsb' 64 32 } := by
  cases maps <;> rfl

/-- The fields of a word are those that stand in it, where their operand codes decode to its operands. -/
theorem fieldsOfWord_of_hasFields {w : BitVec 96} {opc : BitVec 10} {f : Fields} {maps : Bool} (h : HasFields w opc f)
    (hdst : Opnd.ofCode f.dst.code = some f.dst)
    (hsa : (if maps then some (Opnd.ofMaps f.sa.code) else Opnd.ofCode f.sa.code) = some f.sa)
    (hsb : Opnd.ofCode f.sb.code = some f.sb) (hsc : Opnd.ofCode f.sc.code = some f.sc) : fieldsOfWord maps w = some f := by
  obtain ⟨hneg, hpred⟩ := guardBits_fields f.neg f.pred
  obtain ⟨h13, h10⟩ := guard_parts w
  rw [h.guard, Fields.guardBits] at h13 h10
  simp only [fieldsOfWord_eq, h13, h10, hneg, hpred, h.dst, h.sa, h.sb, h.sc, h.reuse, h.mod, h.aux, h.imm, hdst, hsa, hsb, hsc,
    Option.bind_some]

/-- What the decoder reads stands in the word. -/
theorem hasFields_of_fieldsOfWord {w : BitVec 96} {f : Fields} {maps : Bool} (h : fieldsOfWord maps w = some f) :
    HasFields w (w.extractLsb' 0 10) f := by
  simp only [fieldsOfWord_eq, Option.bind_eq_some_iff] at h
  obtain ⟨dst, hdst, sa, hsa, sb, hsb, sc, hsc, h⟩ := h
  obtain rfl := Option.some.inj h
  have hmaps : sa.code = w.extractLsb' 22 8 := by
    cases maps with
    | true =>
      obtain rfl := Option.some.inj hsa
      exact Opnd.code_ofMaps _
    | false => exact Opnd.code_ofCode _ _ hsa
  obtain ⟨h13, h10⟩ := guard_parts w
  refine ⟨rfl, ?_, (Opnd.code_ofCode _ _ hdst).symm, hmaps.symm, (Opnd.code_ofCode _ _ hsb).symm,
    (Opnd.code_ofCode _ _ hsc).symm, rfl, rfl, rfl, rfl⟩
  simp only [Fields.guardBits, h13, h10, guardBits_of_bits]

/-! ## Encode and decode -/

/-- What a well-formed instruction satisfies, check by check (R40, R44, R45). -/
theorem operandsOk_of_wf {i : Instr} {r : Row} {f : Fields} (hr : i.row = some r) (hf : i.fields = some f) (hw : i.WellFormed) :
    r.operandsOk f = true := by
  unfold Instr.WellFormed Instr.reject at hw
  rw [hr, hf] at hw
  cases hop : r.operandsOk f with
  | true => rfl
  | false =>
    simp only [hop, Bool.not_false, if_true] at hw
    split at hw <;> cases hw

/-- The word of a well-formed instruction decodes to it. -/
theorem decodeWord_wordOf {i : Instr} {r : Row} {f : Fields} (hr : i.row = some r) (hf : i.fields = some f)
    (ho : Instr.ofOpcode r.opc.toNat f = some i) (hw : i.WellFormed) : decodeWord (wordOf r.opc f) = .ok i := by
  have hword := hasFields_wordOf r.opc f
  have hop := operandsOk_of_wf hr hf hw
  have hmap := row_mapsFit i r hr
  simp only [Row.operandsOk, Bool.and_eq_true] at hop
  simp only [Row.mapsFit, Bool.and_eq_true, beq_iff_eq, Bool.not_eq_true'] at hmap
  obtain ⟨⟨⟨hdst, hsa⟩, hsb⟩, hsc⟩ := hop
  obtain ⟨⟨⟨msa, mdst⟩, msb⟩, msc⟩ := hmap
  have hsa' : (if opcodeUsesMaps r.opc.toNat then some (Opnd.ofMaps f.sa.code) else Opnd.ofCode f.sa.code) = some f.sa := by
    rw [← msa]
    cases hm : r.sig.sa.isMap with
    | true => exact congrArg some (ofMaps_code_of_accepts hm hsa)
    | false => exact isMaps_of_accepts_other hm hsa
  have hfields := fieldsOfWord_of_hasFields hword (isMaps_of_accepts_other mdst hdst) hsa'
    (isMaps_of_accepts_other msb hsb) (isMaps_of_accepts_other msc hsc)
  have hreject : i.reject = none := hw
  simp only [decodeWord, hword.opc, hfields, ho, hreject]

/-- Settles O1: the instruction is the one that its row's opcode and its fields name, and its fields are read from their places. -/
theorem decodeOfEncode : Obligations.DecodeOfEncode := by
  unfold Obligations.DecodeOfEncode
  intro i hw
  obtain ⟨r, f, hr, hf, ho⟩ := encodable i hw
  exact ⟨wordOf r.opc f, by simp only [encode, hr, hf], decodeWord_wordOf hr hf ho hw⟩

/-- What the decoder accepts: fields of the word, and a well-formed instruction that its opcode names. -/
theorem decodeWord_ok {w : BitVec 96} {i : Instr} (h : decodeWord w = .ok i) :
    ∃ f, HasFields w (w.extractLsb' 0 10) f ∧ Instr.ofOpcode (w.extractLsb' 0 10).toNat f = some i ∧ i.WellFormed := by
  unfold decodeWord at h
  simp only at h
  split at h
  · split at h <;> cases h
  · rename_i f hf
    split at h
    · cases h
    · rename_i j hj
      split at h
      · cases h
      · rename_i hrej
        obtain rfl := Except.ok.inj h
        exact ⟨f, hasFields_of_fieldsOfWord hf, hj, hrej⟩

/-- Settles O2: the fields that the decoder reads stand in the word, and the opcode is that of the instruction's row. -/
theorem encodeOfDecode : Obligations.EncodeOfDecode := by
  unfold Obligations.EncodeOfDecode
  intro w i h
  obtain ⟨f, hword, hopc, hw⟩ := decodeWord_ok h
  obtain ⟨hf, hrow⟩ := ofOpcode_row hopc
  obtain ⟨r, f', hr, hf', -⟩ := encodable i hw
  obtain rfl := Option.some.inj (hf'.symm.trans hf)
  have hr' : r.opc = w.extractLsb' 0 10 := BitVec.eq_of_toNat_eq (hrow r hr)
  refine ⟨hw, ?_⟩
  simp only [encode, hr, hf, hr', hword.eq_wordOf]

/-- Settles O3: twelve little-endian bytes give back the word, and whether an opcode is assigned does not depend on the fields. -/
theorem decodeBytes : Obligations.DecodeBytes := by
  unfold Obligations.DecodeBytes
  refine ⟨fun i rest hw => ?_, fun w h => ?_⟩
  · obtain ⟨w, he, hd⟩ := decodeOfEncode i hw
    have hlen : (leBytes 12 w.toNat).length = 12 := rfl
    have hword : leWord 96 (leBytes 12 w.toNat) = w := by
      rw [leWord, Machine.leNat_leBytes _ _ w.isLt, BitVec.ofNat_toNat, BitVec.setWidth_eq]
    have hlong : ¬ (leBytes 12 w.toNat ++ rest).length < 12 := by simp
    simp only [encodeBytes, he, decode, hlong, if_false, List.take_left' hlen, List.drop_left' hlen, hword, hd]
  · have hnone (f : Fields) : Instr.ofOpcode (w.extractLsb' 0 10).toNat f = none :=
      Option.isNone_iff_eq_none.mp ((ofOpcode_isNone _ f {}).trans (by rw [h]; rfl))
    unfold decodeWord
    simp only [hnone]
    split <;> rfl

/-- Settles O4, word by word. -/
theorem decodeWords : Obligations.DecodeWords := by
  unfold Obligations.DecodeWords
  simp only [List.forall_mem_cons, List.not_mem_nil, false_implies, implies_true, and_true]
  exact ⟨⟨rfl, rfl, rfl, rfl, rfl, rfl, rfl, rfl, rfl, rfl, rfl⟩, rfl, rfl, rfl⟩

end Sys2Proof
end

section
/-! # Proofs: sums, products, compares, predicates and moves (R122, R123, R129 to R131) -/

namespace Sys2Proof.Machine

/-! ## What a ready instruction's row says of it -/

/-- The modifiers of a ready instruction are legal (R43, R53). -/
theorem Issuing.rowLegal {i : Instr} {f : Fields} {s : State} (h : Issuing i f s) {r : Row} {g : Fields} (hr : i.row = some r)
    (hf : i.fields = some g) : r.legal = true :=
  Laws.Encodable.legal_of_wf hr hf (h.rowFields hr hf).1

/-- The 64-bit writes of a ready instruction whose destination is a pair name registers that exist (R48). -/
theorem Issuing.inRange64 {i : Instr} {f : Fields} {s : State} (h : Issuing i f s) {r : Row} {g : Fields} (hr : i.row = some r)
    (hf : i.fields = some g) (hg : r.sig.dst.vGroup = 2) (x : DWord) : inRange (dst64 g.dst x) :=
  inRange_dst64 _ _ (fun n hn => hg ▸ aligned_v (h.dst_aligned hr hf) n hn)

/-- The 128-bit writes of a ready instruction whose destination is a group of four name registers that exist (R48). -/
theorem Issuing.inRange128 {i : Instr} {f : Fields} {s : State} (h : Issuing i f s) {r : Row} {g : Fields} (hr : i.row = some r)
    (hf : i.fields = some g) (hg : r.sig.dst.vGroup = 4) (x : BitVec 128) : inRange (dst128 g.dst x) :=
  inRange_dst128 _ _ (fun n hn => hg ▸ aligned_v (h.dst_aligned hr hf) n hn)

/-! ## Sums and products (R123) -/

/-- Clamping by comparisons is clamping by bounds. -/
theorem saturate32_eq (unsigned : Bool) (x : Int) : saturate32 unsigned x =
    if unsigned then BitVec.ofInt 32 (max 0 (min (2 ^ 32 - 1) x))
    else BitVec.ofInt 32 (max (-(2 ^ 31)) (min (2 ^ 31 - 1) x)) := by
  unfold saturate32
  split
  · split
    · rw [show max 0 (min (2 ^ 32 - 1) x) = 0 by omega]; rfl
    · split
      · rw [show max 0 (min (2 ^ 32 - 1) x) = 4294967295 by omega]; rfl
      · rw [show max 0 (min (2 ^ 32 - 1) x) = x by omega]
  · split
    · rw [show max (-(2 ^ 31)) (min (2 ^ 31 - 1) x) = -2147483648 by omega]; rfl
    · split
      · rw [show max (-(2 ^ 31)) (min (2 ^ 31 - 1) x) = 2147483647 by omega]; rfl
      · rw [show max (-(2 ^ 31)) (min (2 ^ 31 - 1) x) = x by omega]

theorem addSub32_eq (sub unsigned sat : Bool) (a b : Word) : addSub32 sub unsigned sat a b =
    if sat = false then (if sub then a - b else a + b)
    else if unsigned then
      BitVec.ofInt 32 (max 0 (min (2 ^ 32 - 1) (if sub then (a.toNat : Int) - b.toNat else (a.toNat : Int) + b.toNat)))
    else BitVec.ofInt 32 (max (-(2 ^ 31)) (min (2 ^ 31 - 1) (if sub then a.toInt - b.toInt else a.toInt + b.toInt))) := by
  cases sat with
  | false => rfl
  | true =>
    simp only [addSub32, saturate32_eq, intOf, if_true, Bool.true_eq_false, if_false]
    cases unsigned <;> simp only [Bool.false_eq_true, if_true, if_false]

/-- Settles O5: a sum is the wrapped or the clamped one. -/
theorem sumResults : Obligations.SumResults := by
  unfold Obligations.SumResults
  simp only [List.forall_mem_cons, List.not_mem_nil, false_implies, implies_true, and_true]
  constructor
  · intro s f hi
    simpa only [addSub32_eq] using exec_lanes3_completes (fun a b _ => addSub32 false f.mod5 f.mod6 a b) rfl hi
  · intro s f hi
    simpa only [addSub32_eq] using exec_lanes3_completes (fun a b _ => addSub32 true f.mod5 f.mod6 a b) rfl hi

/-- An extended word is its value as a 64-bit number. -/
theorem ext64_eq (unsigned : Bool) (a : Word) : ext64 unsigned a = BitVec.ofInt 64 (intOf unsigned a) := by
  cases unsigned with
  | true => exact (BitVec.ofNat_toNat 64 a).symm.trans (BitVec.ofInt_natCast 64 _).symm
  | false => rfl

/-- The upper half of a 64-bit number. -/
theorem extract_upper_ofInt (z : Int) : (BitVec.ofInt 64 z).extractLsb' 32 32 = BitVec.ofInt 32 (z / 2 ^ 32) := by
  apply BitVec.eq_of_toNat_eq
  rw [toNat_extract, BitVec.toNat_ofInt, BitVec.toNat_ofInt]
  omega

theorem mulHigh32_eq (unsigned : Bool) (a b : Word) :
    mulHigh32 unsigned a b = BitVec.ofInt 32 (intOf unsigned a * intOf unsigned b / 2 ^ 32) := by
  rw [mulHigh32, ext64_eq, ext64_eq, ← BitVec.ofInt_mul, extract_upper_ofInt]

theorem mul_eq_ofNat (a b : Word) : a * b = BitVec.ofNat 32 (a.toNat * b.toNat) := by
  rw [BitVec.ofNat_mul, BitVec.ofNat_toNat, BitVec.ofNat_toNat, BitVec.setWidth_eq, BitVec.setWidth_eq]

theorem mulAdd_eq_ofNat (a b c : Word) : a * b + c = BitVec.ofNat 32 (a.toNat * b.toNat + c.toNat) := by
  rw [BitVec.ofNat_add, ← mul_eq_ofNat, BitVec.ofNat_toNat, BitVec.setWidth_eq]

/-- A 64-bit number is that of its value. -/
theorem ofInt_toNat (c : DWord) : BitVec.ofInt 64 (c.toNat : Int) = c := by
  rw [BitVec.ofInt_natCast, BitVec.ofNat_toNat, BitVec.setWidth_eq]

theorem mulWide_eq (unsigned : Bool) (a b : Word) (c : DWord) :
    ext64 unsigned a * ext64 unsigned b + c = BitVec.ofInt 64 (intOf unsigned a * intOf unsigned b + (c.toNat : Int)) := by
  rw [BitVec.ofInt_add, BitVec.ofInt_mul, ← ext64_eq, ← ext64_eq, ofInt_toNat]

/-- Settles O7, by the values of the products. -/
theorem productResults : Obligations.ProductResults := by
  unfold Obligations.ProductResults
  intro s f
  refine ⟨fun hi => ?imul, fun hi => ?imulh, fun hi => ?imad, fun hi => ?imal⟩
  case imul => simpa only [mul_eq_ofNat] using exec_lanes3_completes (fun a b _ => a * b) rfl hi
  case imulh => simpa only [mulHigh32_eq, intOf] using exec_lanes3_completes (fun a b _ => mulHigh32 f.mod5 a b) rfl hi
  case imad => simpa only [mulAdd_eq_ofNat] using exec_lanes3_completes (fun a b c => a * b + c) rfl hi
  case imal =>
    exact exec_lanes_completes (lane := fun c l => dst64 f.dst (ext64 f.mod5 (c.w.src32 l f.sa f.imm) *
      ext64 f.mod5 (c.w.src32 l f.sb f.imm) + c.w.src64 l f.sc f.imm)) rfl hi
      (fun l => congrArg (dst64 f.dst) (mulWide_eq _ _ _ _)) (fun l => hi.inRange64 rfl rfl rfl _)

/-! ## Choices, signs and 64-bit sums (R123) -/

theorem minMax32_eq (max unsigned : Bool) (a b : Word) : minMax32 max unsigned a b =
    if (if unsigned then a.toNat < b.toNat else a.toInt < b.toInt) then (if max then b else a) else if max then a else b := by
  have h : (if unsigned then a.toNat < b.toNat else a.toInt < b.toInt) ↔ intOf unsigned a < intOf unsigned b := by
    cases unsigned
    · rfl
    · exact Int.ofNat_lt.symm
  rw [minMax32]
  simp only [h]
  by_cases hl : intOf unsigned a < intOf unsigned b <;> cases max <;> simp [hl]

theorem neg32_eq (sat : Bool) (a : Word) : neg32 sat a = if a = 0x80000000 ∧ sat then 0x7FFFFFFF else -a := by
  simp only [neg32, Bool.and_eq_true, beq_iff_eq, and_comm]

theorem abs32_eq (sat : Bool) (a : Word) :
    abs32 sat a = if 0 ≤ a.toInt then a else if a = 0x80000000 ∧ sat then 0x7FFFFFFF else -a := by
  have hm : a.msb = true ↔ ¬ 0 ≤ a.toInt := by rw [BitVec.msb_eq_toInt]; simp
  have hn := neg32_eq sat a
  rw [neg32] at hn
  rw [abs32, hn]
  by_cases h : 0 ≤ a.toInt
  · rw [if_neg (fun hc => hm.mp hc h), if_pos h]
  · rw [if_pos (hm.mpr h), if_neg h]

theorem sub_eq_ofInt (a b : DWord) : a - b = BitVec.ofInt 64 ((a.toNat : Int) - b.toNat) := by
  rw [Int.sub_eq_add_neg, BitVec.ofInt_add, BitVec.ofInt_neg, ofInt_toNat, ofInt_toNat, BitVec.sub_eq_add_neg]

theorem add_eq_ofNat (a b : DWord) : a + b = BitVec.ofNat 64 (a.toNat + b.toNat) := by
  rw [BitVec.ofNat_add, BitVec.ofNat_toNat, BitVec.ofNat_toNat, BitVec.setWidth_eq, BitVec.setWidth_eq]

/-- A left shift is a product with a power of two. -/
theorem ofInt_shiftLeft (z : Int) (n : Nat) : BitVec.ofInt 64 z <<< n = BitVec.ofInt 64 (z * 2 ^ n) := by
  have hpow : BitVec.ofInt 64 ((2 : Int) ^ n) = BitVec.twoPow 64 n := by
    apply BitVec.eq_of_toNat_eq
    rw [show ((2 : Int) ^ n) = ((2 ^ n : Nat) : Int) by norm_cast, BitVec.ofInt_natCast, BitVec.toNat_ofNat, BitVec.toNat_twoPow]
  rw [BitVec.ofInt_mul, hpow, BitVec.shiftLeft_eq_mul_twoPow]

theorem lea_eq (unsigned : Bool) (a : DWord) (b : Word) (n : Nat) :
    a + ext64 unsigned b <<< n =
      BitVec.ofInt 64 ((a.toNat : Int) + (if unsigned then (b.toNat : Int) else b.toInt) * 2 ^ n) := by
  rw [BitVec.ofInt_add, ofInt_toNat, ext64_eq, ofInt_shiftLeft]
  rfl

/-- Settles O9, by the values of the choices, signs and sums. -/
theorem selectAndWideResults : Obligations.SelectAndWideResults := by
  unfold Obligations.SelectAndWideResults
  intro s f
  refine ⟨fun hi => ?imin, fun hi => ?imax, fun hi => ?iabs, fun hi => ?ineg, fun hi => ?iadd64, fun hi => ?isub64, fun hi => ?lea⟩
  case imin => simpa [minMax32_eq] using exec_lanes3_completes (fun a b _ => minMax32 false f.mod5 a b) rfl hi
  case imax => simpa [minMax32_eq] using exec_lanes3_completes (fun a b _ => minMax32 true f.mod5 a b) rfl hi
  case iabs => simpa only [abs32_eq] using exec_lanes3_completes (fun a _ _ => abs32 f.mod6 a) rfl hi
  case ineg => simpa only [neg32_eq] using exec_lanes3_completes (fun a _ _ => neg32 f.mod6 a) rfl hi
  case iadd64 =>
    exact exec_lanes_completes (lane := fun c l => dst64 f.dst (c.w.src64 l f.sa f.imm + c.w.src64 l f.sb f.imm)) rfl hi
      (fun l => congrArg (dst64 f.dst) (add_eq_ofNat _ _)) (fun l => hi.inRange64 rfl rfl rfl _)
  case isub64 =>
    exact exec_lanes_completes (lane := fun c l => dst64 f.dst (c.w.src64 l f.sa f.imm - c.w.src64 l f.sb f.imm)) rfl hi
      (fun l => congrArg (dst64 f.dst) (sub_eq_ofInt _ _)) (fun l => hi.inRange64 rfl rfl rfl _)
  case lea =>
    exact exec_lanes_completes (lane := fun c l => dst64 f.dst (c.w.src64 l f.sa f.imm +
      (ext64 f.mod5 (c.w.src32 l f.sb f.imm) <<< (f.aux.extractLsb' 0 4).toNat))) rfl hi
      (fun l => congrArg (dst64 f.dst) (lea_eq _ _ _ _)) (fun l => hi.inRange64 rfl rfl rfl _)

/-! ## Compares (R129) -/

/-- The relation that a compare code of R129 asks for. -/
abbrev comparesAs (code : Nat) (x y : Int) : Prop :=
  (code = 0 ∧ x = y) ∨ (code = 1 ∧ x ≠ y) ∨ (code = 2 ∧ x < y) ∨ (code = 3 ∧ x ≤ y) ∨ (code = 4 ∧ x > y) ∨ (code = 5 ∧ x ≥ y)

theorem compareInt_iff {code : Nat} (h : code ≤ 5) (x y : Int) : compareInt code x y = true ↔ comparesAs code x y := by
  match code, h with
  | 0, _ | 1, _ | 2, _ | 3, _ | 4, _ | 5, _ => simp [compareInt, comparesAs]

/-- A result combined as a combine code of R129 asks for. -/
abbrev combinesAs (code : Nat) (t : Prop) (p : Bool) : Prop :=
  (code = 0 ∧ t) ∨ (code = 1 ∧ t ∧ p = true) ∨ (code = 2 ∧ (t ∨ p = true)) ∨ (code = 3 ∧ (t ↔ ¬ p = true))

theorem combineBool_iff {code : Nat} (h : code < 4) (t p : Bool) :
    combineBool code t p = true ↔ combinesAs code (t = true) p := by
  match code, h with
  | 0, _ | 1, _ | 2, _ | 3, _ => cases t <;> cases p <;> simp [combineBool, combinesAs]

theorem combine_lt (f : Fields) : f.combine < 4 := BitVec.isLt _

/-- A combined compare, as a truth value. -/
theorem combined_eq (f : Fields) (h : f.scope ≤ 5) (x y : Int) (p : Bool) :
    combineBool f.combine (compareInt f.scope x y) p = decide (combinesAs f.combine (comparesAs f.scope x y) p) := by
  rw [Bool.eq_iff_iff, combineBool_iff (combine_lt f), decide_eq_true_iff, compareInt_iff h]

/-! ## Predicates and moves (R122, R130, R131) -/

theorem inRange_predicates (ns : List Nat) (h : ∀ n ∈ ns, n < 8) (g : Nat → Bool) :
    inRange (ns.map (fun n => RegWrite.p n (g n))) := by
  intro r hr
  obtain ⟨n, hn, rfl⟩ := List.mem_map.mp hr
  exact h n hn

theorem ofBool_eq (b : Bool) : ofBool b = if b then 1 else 0 := rfl

/-- The size of a ready MOV: 32, 64 or 128 bits. -/
theorem mov_size {f : Fields} {s : State} (hi : Issuing (.mov f) f s) : f.size = 2 ∨ f.size = 3 ∨ f.size = 4 := by
  have hl : f.sizeIn [2, 3, 4] = true := hi.rowLegal (i := .mov f) rfl rfl
  simpa [Fields.sizeIn] using hl

/-- Settles O12: the arms compute the values of R122 and R129 to R131. -/
theorem predicateAndMoveResults : Obligations.PredicateAndMoveResults := by
  unfold Obligations.PredicateAndMoveResults
  refine ⟨fun s f => ⟨fun hi => ?icmp, fun hi => ?icmp64, fun hi => ?ptab, fun hi => ?pmovGet, fun hi => ?pmovSet⟩,
    fun s f => ⟨fun hi => ?nop, fun hi => ?mov, fun hi => ?movi, fun hi => ?movk, fun hi => ?movs, fun hi => ?sel⟩⟩
  case icmp =>
    have hs : f.scope ≤ 5 := of_decide_eq_true (hi.rowLegal (i := .icmp f) rfl rfl)
    exact exec_lanes_completes (lane := fun c l => dstP f.dst (combineBool f.combine (compareInt f.scope
        (intOf f.mod5 (c.w.src32 l f.sa f.imm)) (intOf f.mod5 (c.w.src32 l f.sb f.imm))) (c.w.srcP l f.sc))) rfl hi
      (fun l => congrArg (dstP f.dst) (combined_eq f hs _ _ _)) (fun l => inRange_dstP _ _)
  case icmp64 =>
    have hs : f.scope ≤ 5 := of_decide_eq_true (hi.rowLegal (i := .icmp64 f) rfl rfl)
    exact exec_lanes_completes (lane := fun c l => dstP f.dst (combineBool f.combine (compareInt f.scope
        (intOf f.mod5 (c.w.src64 l f.sa f.imm)) (intOf f.mod5 (c.w.src64 l f.sb f.imm f.mod5))) (c.w.srcP l f.sc))) rfl hi
      (fun l => congrArg (dstP f.dst) (combined_eq f hs _ _ _)) (fun l => inRange_dstP _ _)
  case ptab =>
    refine exec_lanes_completes (lane := fun c l => dstP f.dst (f.imm.getLsbD (ofBool (c.w.srcP l f.sa) +
        2 * ofBool (c.w.srcP l f.sb) + 4 * ofBool (c.w.srcP l f.sc)))) rfl hi
      (fun l => congrArg (fun n => dstP f.dst (f.imm.getLsbD n)) ?_) (fun l => inRange_dstP _ _)
    show ofBool (srcPA s f l) + 2 * ofBool (srcPB s f l) + 4 * ofBool (srcPC s f l) = _
    simp only [ofBool_eq]
    split <;> split <;> split <;> rfl
  case pmovGet =>
    exact ⟨fun l => LaneMask.ofPred (fun n => n < 8 && (s.ctx f).w.getP l n), fun l n hn => getLsbD_ofPred _ hn,
      exec_lanes_completes (lane := fun c l => dst32 f.dst (LaneMask.ofPred (fun n => n < 8 && c.w.getP l n))) rfl hi
        (fun l => rfl) (fun l => inRange_dst32 _ _)⟩
  case pmovSet =>
    exact exec_lanes_completes (lane := fun c l => ((List.range 7).filter (fun n => f.imm.getLsbD n)).map
        (fun n => .p n ((c.w.src32 l f.sa f.imm).getLsbD n))) rfl hi (fun l => rfl)
      (fun l => inRange_predicates _ (fun n hn => by simp at hn; omega) _)
  case nop => exact exec_lanes_completes (lane := fun _ _ => []) rfl hi (fun _ => rfl) (fun _ => inRange_nil)
  case mov =>
    refine exec_lanes_completes (lane := fun c l => match f.size with
        | 3 => dst64 f.dst (c.w.src64 l f.sa f.imm)
        | 4 => dst128 f.dst (c.w.src128 l f.sa)
        | _ => dst32 f.dst (c.w.src32 l f.sa f.imm)) rfl hi (fun l => ?_) (fun l => ?_)
    · rcases mov_size hi with h | h | h <;> simp only [h] <;> rfl
    · rcases mov_size hi with h | h | h
      · simp only [h]; exact inRange_dst32 _ _
      · simp only [h]; exact hi.inRange64 (i := .mov f) rfl rfl (by simp [valueClass, h, FieldClass.vGroup]) _
      · simp only [h]; exact hi.inRange128 (i := .mov f) rfl rfl (by simp [valueClass, h, FieldClass.vGroup]) _
  case movi => exact exec_lanes_completes (lane := fun _ _ => dst32 f.dst f.imm) rfl hi (fun _ => rfl) (fun _ => inRange_dst32 _ _)
  case movk =>
    exact exec_lanes_completes (lane := fun c l => dst64 f.dst (c.w.src64 l f.sa f.imm)) rfl hi (fun _ => rfl)
      (fun _ => hi.inRange64 (i := .movk f) rfl rfl rfl _)
  case movs =>
    refine exec_lanes_completes (lane := fun c l => match f.sa with
      | .special n => dst32 f.dst (specialValue s c l n)
      | _ => []) rfl hi (fun _ => rfl) (fun _ => ?_)
    cases f.sa with
    | special n => exact inRange_dst32 _ _
    | _ => exact inRange_nil
  case sel =>
    refine exec_lanes_completes (lane := fun c l =>
      if f.size == 3 then dst64 f.dst (if c.w.srcP l f.sc then c.w.src64 l f.sa f.imm else c.w.src64 l f.sb f.imm)
      else dst32 f.dst (if c.w.srcP l f.sc then c.w.src32 l f.sa f.imm else c.w.src32 l f.sb f.imm)) rfl hi
      (fun l => by simp only [beq_iff_eq]; rfl) (fun l => ?_)
    split
    · next h => exact hi.inRange64 (i := .sel f) rfl rfl (by simp [h, FieldClass.vGroup]) _
    · exact inRange_dst32 _ _

end Sys2Proof.Machine
end

section
/-! # Proofs: lane operations (R133 to R135) -/

namespace Sys2Proof.Machine

/-- The values of a field of two bits. -/
theorem two_bits : ∀ x : BitVec 2, x = 0 ∨ x = 1 ∨ x = 2 ∨ x = 3 := by decide

/-! ## LPOLL (R133) -/

theorem all_lanes (m : LaneMask) (p : Nat → Bool) : m.lanes.all p = true ↔ ∀ l, l < 32 ∧ m.has l = true → p l = true := by
  simp only [List.all_eq_true, LaneMask.mem_lanes]
  exact ⟨fun h l hl => h l hl.2, fun h l hl => h l ⟨LaneMask.has_lt hl, hl⟩⟩

theorem any_lanes (m : LaneMask) (p : Nat → Bool) : m.lanes.any p = true ↔ ∃ l, (l < 32 ∧ m.has l = true) ∧ p l = true := by
  simp only [List.any_eq_true, LaneMask.mem_lanes]
  exact ⟨fun ⟨l, hl, hp⟩ => ⟨l, ⟨LaneMask.has_lt hl, hl⟩, hp⟩, fun ⟨l, hl, hp⟩ => ⟨l, hl.2, hp⟩⟩

theorem getLsbD_active_and (m : LaneMask) (p : Nat → Bool) {i : Nat} (hi : i < 32) :
    (LaneMask.ofPred (fun l => m.has l && p l)).getLsbD i = true ↔ (i < 32 ∧ m.has i = true) ∧ p i = true := by
  rw [getLsbD_ofPred _ hi, Bool.and_eq_true]
  exact ⟨fun h => ⟨⟨hi, h.1⟩, h.2⟩, fun h => ⟨h.1.2, h.2⟩⟩

theorem inRange_ite {p : Prop} [Decidable p] {a b : List RegWrite} (ha : inRange a) (hb : inRange b) :
    inRange (if p then a else b) := by
  split
  · exact ha
  · exact hb

theorem lpoll_completes {s : State} {f : Fields} (hi : Issuing (.lpoll f) f s) :
    let t := fun l => srcPA s f l != f.mod0
    let ls := (s.ctx f).active.lanes
    ∃ t', exec (.lpoll f) s = .next t' ∧ CompletedNext s (s.ctx f) (fun _ =>
      if f.aux.extractLsb' 0 2 = 0 then dstP f.dst (ls.all t)
      else if f.aux.extractLsb' 0 2 = 1 then dstP f.dst (ls.any t)
      else if f.aux.extractLsb' 0 2 = 2 then dstP f.dst (ls.all t || !ls.any t)
      else dst32 f.dst (LaneMask.ofPred (fun l => (s.ctx f).active.has l && t l))) id t' := by
  intro t ls
  have hx : exec (.lpoll f) s = execLpoll f s := rfl
  refine exec_lanes_completes (hx.trans (by rw [execLpoll])) hi (fun _ => ?_) (fun _ =>
    inRange_ite (inRange_dstP _ _) (inRange_ite (inRange_dstP _ _) (inRange_ite (inRange_dstP _ _) (inRange_dst32 _ _))))
  rw [List.not_any_eq_all_not]
  rcases two_bits (f.aux.extractLsb' 0 2) with h | h | h | h <;> rw [h] <;> rfl

/-! ## LXCH (R134) -/

theorem exchangeLane_eq (mode : BitVec 2) (w l b : Nat) : exchangeLane mode.toNat w l b =
    (l - l % w) + (if mode = 0 then b % w else if mode = 1 then (l % w + b) % w
      else if mode = 2 then (w - 1 - l % w + b) % w else l % w ^^^ b % w) := by
  have hbase : l / w * w = l - l % w := by
    have h := Nat.div_add_mod l w
    rw [Nat.mul_comm] at h
    omega
  have hr : l - (l - l % w) = l % w := by
    have h := Nat.mod_le l w
    omega
  simp only [exchangeLane, hbase, hr]
  rcases two_bits mode with rfl | rfl | rfl | rfl <;> rfl

/-! ## LFOLD (R135) -/

/-- The words that LFOLD folds for lane `l`: those of Active, or of its lanes below `l`. -/
theorem foldedLanes_eq (m : LaneMask) (below : Bool) (l : Nat) :
    (if below then m.lanes.filter (fun j => decide (j < l)) else m.lanes) =
      (List.range 32).filter (fun j => m.has j && (!below || decide (j < l))) := by
  cases below with
  | true =>
    simp only [LaneMask.lanes, List.filter_filter, if_true, Bool.not_true, Bool.false_or, Bool.and_comm]
    rfl
  | false =>
    simp only [LaneMask.lanes, Bool.false_eq_true, if_false, Bool.not_false, Bool.true_or, Bool.and_true]
    rfl

theorem foldl_add_eq (xs : List Word) (a : Nat) :
    xs.foldl (· + ·) (BitVec.ofNat 32 a) = BitVec.ofNat 32 ((xs.map BitVec.toNat).foldl (· + ·) a) := by
  induction xs generalizing a with
  | nil => rfl
  | cons x xs ih =>
    rw [List.foldl_cons, List.map_cons, List.foldl_cons, ← ih, BitVec.ofNat_add, BitVec.ofNat_toNat, BitVec.setWidth_eq]

/-- Folding a choice of the operand of the least rank gives an element of the least rank. -/
theorem foldl_choice {α : Type} {op : α → α → α} {rank : α → Int}
    (hop : ∀ a b, op a b = a ∧ rank a ≤ rank b ∨ op a b = b ∧ rank b ≤ rank a) (xs : List α) (a : α) :
    xs.foldl op a ∈ a :: xs ∧ ∀ x ∈ a :: xs, rank (xs.foldl op a) ≤ rank x := by
  induction xs generalizing a with
  | nil => simp
  | cons x xs ih =>
    obtain ⟨hmem, hleast⟩ := ih (op a x)
    simp only [List.foldl_cons, List.mem_cons, forall_eq_or_imp] at hmem hleast ⊢
    rcases hop a x with ⟨h, hr⟩ | ⟨h, hr⟩ <;> rw [h] at hmem hleast ⊢
    · exact ⟨by tauto, hleast.1, hleast.1.trans hr, hleast.2⟩
    · exact ⟨by tauto, hleast.1.trans hr, hleast.1, hleast.2⟩

/-- The same from a unit of the operation: the unit itself is left only where nothing is folded. -/
theorem foldl_choice_unit {α : Type} {op : α → α → α} {rank : α → Int} {u : α}
    (hop : ∀ a b, op a b = a ∧ rank a ≤ rank b ∨ op a b = b ∧ rank b ≤ rank a) (hu : ∀ x, op u x = x) {xs : List α} (hx : xs ≠ []) :
    xs.foldl op u ∈ xs ∧ ∀ x ∈ xs, rank (xs.foldl op u) ≤ rank x := by
  cases xs with
  | nil => exact absurd rfl hx
  | cons x xs =>
    rw [List.foldl_cons, hu]
    exact foldl_choice hop xs x

theorem intOf_inj {unsigned : Bool} {a b : Word} (h : intOf unsigned a = intOf unsigned b) : a = b := by
  cases unsigned with
  | true => exact BitVec.eq_of_toNat_eq (Int.ofNat.inj h)
  | false => exact BitVec.eq_of_toInt_eq h

theorem minMax32_choice (max unsigned : Bool) (a b : Word) :
    (minMax32 max unsigned a b = a ∧ (if max then -intOf unsigned a else intOf unsigned a) ≤
        if max then -intOf unsigned b else intOf unsigned b) ∨
      (minMax32 max unsigned a b = b ∧ (if max then -intOf unsigned b else intOf unsigned b) ≤
        if max then -intOf unsigned a else intOf unsigned a) := by
  rw [minMax32]
  by_cases h : intOf unsigned a < intOf unsigned b <;> cases max <;> simp [h] <;> omega

/-- The identity of LFOLD's choices is the last word to be chosen. -/
theorem foldUnit_last (max unsigned : Bool) (x : Word) :
    minMax32 max unsigned (foldUnit (if max then 2 else 1) unsigned) x = x := by
  have hn := x.isLt
  have hlo := BitVec.le_toInt x
  have hhi := BitVec.toInt_lt (x := x)
  rcases minMax32_choice max unsigned (foldUnit (if max then 2 else 1) unsigned) x with ⟨h, hr⟩ | ⟨h, -⟩
  · rw [h]
    apply intOf_inj (unsigned := unsigned)
    cases max <;> cases unsigned <;> simp [foldUnit, intOf] at hr hlo hhi ⊢ <;> omega
  · exact h

theorem getLsbD_foldl_and (xs : List Word) (a : Word) (i : Nat) :
    (xs.foldl (· &&& ·) a).getLsbD i = true ↔ a.getLsbD i = true ∧ ∀ x ∈ xs, x.getLsbD i = true := by
  induction xs generalizing a with
  | nil => simp
  | cons x xs ih => simp [ih, and_assoc]

theorem getLsbD_foldl_orWords (xs : List Word) (a : Word) (i : Nat) :
    (xs.foldl (· ||| ·) a).getLsbD i = true ↔ a.getLsbD i = true ∨ ∃ x ∈ xs, x.getLsbD i = true := by
  induction xs generalizing a with
  | nil => simp
  | cons x xs ih => simp [ih, or_assoc]

theorem getLsbD_foldl_xor (xs : List Word) (a : Word) (i : Nat) :
    (xs.foldl (· ^^^ ·) a).getLsbD i = (a.getLsbD i ^^ decide (xs.countP (fun x => x.getLsbD i) % 2 = 1)) := by
  induction xs generalizing a with
  | nil => simp
  | cons x xs ih =>
    rw [List.foldl_cons, ih, BitVec.getLsbD_xor, List.countP_cons]
    cases x.getLsbD i with
    | false => simp
    | true =>
      have h : (decide ((xs.countP (fun x => x.getLsbD i) + 1) % 2 = 1)) =
          !decide (xs.countP (fun x => x.getLsbD i) % 2 = 1) := by
        rw [← decide_not]
        exact decide_eq_decide.mpr (by omega)
      simp [h]

/-- What LFOLD's operation gives over a list of words, from its identity (R135). -/
def FoldsTo (op : Nat) (unsigned : Bool) (xs : List Word) (r : Word) : Prop :=
  let val := fun (x : Word) => if unsigned then (x.toNat : Int) else x.toInt
  (op = 0 → r = BitVec.ofNat 32 ((xs.map BitVec.toNat).foldl (· + ·) 0)) ∧
  (op = 1 → if xs = [] then r = (if unsigned then 0xFFFFFFFF else 0x7FFFFFFF) else r ∈ xs ∧ ∀ x ∈ xs, val r ≤ val x) ∧
  (op = 2 → if xs = [] then r = (if unsigned then 0 else 0x80000000) else r ∈ xs ∧ ∀ x ∈ xs, val x ≤ val r) ∧
  (op = 3 → ∀ i < 32, r.getLsbD i = true ↔ ∀ x ∈ xs, x.getLsbD i = true) ∧
  (op = 4 → ∀ i < 32, r.getLsbD i = true ↔ ∃ x ∈ xs, x.getLsbD i = true) ∧
  (op = 5 → ∀ i < 32, r.getLsbD i = decide ((xs.countP (fun x => x.getLsbD i)) % 2 = 1))

theorem foldsTo_foldl (op : Nat) (unsigned : Bool) (xs : List Word) :
    FoldsTo op unsigned xs (xs.foldl (foldOp op unsigned) (foldUnit op unsigned)) := by
  refine ⟨?_, ?_, ?_, ?_, ?_, ?_⟩ <;> rintro rfl
  · exact foldl_add_eq xs 0
  · split
    · next h => subst h; rfl
    · next h => exact foldl_choice_unit (minMax32_choice false unsigned) (foldUnit_last false unsigned) h
  · split
    · next h => subst h; rfl
    · next h =>
      obtain ⟨hmem, hleast⟩ := foldl_choice_unit (minMax32_choice true unsigned) (foldUnit_last true unsigned) h
      exact ⟨hmem, fun x hx => Int.neg_le_neg_iff.mp (hleast x hx)⟩
  · intro i hi
    refine (getLsbD_foldl_and xs (foldUnit 3 unsigned) i).trans (and_iff_right ?_)
    show (BitVec.allOnes 32).getLsbD i = true
    rw [BitVec.getLsbD_allOnes, decide_eq_true hi]
  · intro i _
    refine (getLsbD_foldl_orWords xs (foldUnit 4 unsigned) i).trans (or_iff_right ?_)
    show ¬ (0 : Word).getLsbD i = true
    simp
  · intro i _
    refine (getLsbD_foldl_xor xs (foldUnit 5 unsigned) i).trans ?_
    show ((0 : Word).getLsbD i ^^ _) = _
    simp

/-! ## LGRP (R135) -/

theorem setWidth64_inj {a b : Word} : a.setWidth 64 = b.setWidth 64 ↔ a = b := by
  refine ⟨fun h => ?_, fun h => by rw [h]⟩
  have := congrArg (BitVec.setWidth 32) h
  simpa using this

/-- With AUX[0] LGRP answers 0 where the mask is not all of Active. -/
theorem uniform_or_mask (d : Opnd) (uniform : Bool) (m active : LaneMask) :
    (if uniform then dst32 d (if m = active then active else 0) else dst32 d m) =
      if uniform = true ∧ m ≠ active then dst32 d 0 else dst32 d m := by
  cases uniform with
  | false => simp
  | true => by_cases h : m = active <;> simp [h]

/-- Settles O13: each operation's value over the lanes of Active, by the lemmas above. -/
theorem laneOperationResults : Obligations.LaneOperationResults := by
  unfold Obligations.LaneOperationResults
  intro s f
  refine ⟨fun hi => ?lpoll, fun hi => ?lxch, fun hi => ?lfold, fun hi => ?lgrp⟩
  case lpoll =>
    exact ⟨_, _, _, all_lanes _ _, any_lanes _ _, fun i hi => getLsbD_active_and _ _ hi, lpoll_completes hi⟩
  case lxch =>
    refine exec_lanes_completes (lane := fun c l =>
      let w := segmentWidth (f.aux.extractLsb' 2 3).toNat
      let j := exchangeLane (f.aux.extractLsb' 0 2).toNat w l (c.w.src32 l f.sb f.imm).toNat
      dst32 f.dst (c.w.src32 (if c.active.has j then j else l) f.sa f.imm) ++ dstP f.sc (c.active.has j)) rfl hi
      (fun l => ?_) (fun l => inRange_append (inRange_dst32 _ _) (inRange_dstP _ _))
    simp only [exchangeLane_eq]
    rfl
  case lfold =>
    refine ⟨fun l => (((List.range 32).filter (fun j => (s.ctx f).active.has j && (!f.mod0 || decide (j < l)))).map
        (srcA s f)).foldl (foldOp f.scope f.mod5) (foldUnit f.scope f.mod5), fun l => foldsTo_foldl _ _ _,
      exec_lanes_completes (lane := fun c l =>
        let ls := if f.mod0 then c.active.lanes.filter (· < l) else c.active.lanes
        dst32 f.dst (ls.foldl (fun x j => foldOp f.scope f.mod5 x (c.w.src32 j f.sa f.imm)) (foldUnit f.scope f.mod5))) rfl hi
        (fun l => ?_) (fun l => inRange_dst32 _ _)⟩
    simp only [foldedLanes_eq, List.foldl_map]
    rfl
  case lgrp =>
    refine ⟨fun l => LaneMask.ofPred (fun j => (s.ctx f).active.has j &&
        (if f.size == 3 then srcA64 s f j else (srcA s f j).setWidth 64) ==
          (if f.size == 3 then srcA64 s f l else (srcA s f l).setWidth 64)), fun l i hi => ?_,
      exec_lanes_completes (lane := fun c l =>
        let val := fun j => if f.size == 3 then c.w.src64 j f.sa f.imm else (c.w.src32 j f.sa f.imm).setWidth 64
        let same := LaneMask.ofPred (fun j => c.active.has j && val j == val l)
        if f.aux.getLsbD 0 then dst32 f.dst (if same = c.active then c.active else 0) else dst32 f.dst same) rfl hi
        (fun l => ?_) (fun l => inRange_ite (inRange_dst32 _ _) (inRange_dst32 _ _))⟩
    · rw [getLsbD_active_and _ _ hi]
      by_cases h : f.size = 3
      · simp [h]
      · simp [h, setWidth64_inj]
    · exact uniform_or_mask _ _ _ _

end Sys2Proof.Machine
end

section
/-! # Proofs: register reads (R93, R237, R313, R316, R388, R390) -/

namespace Sys2Proof.Machine

/-- What SYSRD and CNTRD read of the warp's context, the monitors and the error counts (R93, R389, R390). -/
def ReadsContext (s : State) (w : Warp) (n : Nat) (x : Nat → DWord) : Prop :=
  ∀ l, (n = 0 → x l = w.tvec) ∧ (n = 1 → x l = (w.lane l).trapPc) ∧ (n = 2 → x l = (w.lane l).trapCause) ∧
    (n = 3 → x l = (w.lane l).trapAddr) ∧ (n = 4 → x l = w.fpflags) ∧ (n = 5 → x l = w.fptrapen) ∧ (n = 6 → x l = w.feLimit) ∧
    (n = 8 → x l = w.gtwake) ∧ (n = 0x501 → x l = w.wretired) ∧ (n = 0x502 → s.cur.place = none → x l = w.wissued + 1) ∧
    (n = 0x503 → x l = w.wstall) ∧ (n = 0x505 → x l = (s.core w.gcore).anvil) ∧ (n = 0x520 → x l = (s.die (dieOf w.gcore)).eccCor)

theorem readSys_context (s : State) (w : Warp) (n : Nat) : ReadsContext s w n (fun l => readSys s w l n) := by
  refine fun l => ⟨?_, ?_, ?_, ?_, ?_, ?_, ?_, ?_, ?_, fun h hplace => ?_, ?_, ?_, ?_⟩
  case refine_10 =>
    subst h
    show w.wissued + (if s.cur.place.isNone then 1 else 0) = _
    rw [hplace]
    rfl
  all_goals
    rintro rfl
    rfl

/-- Settles O14: each arm writes what its register holds. -/
theorem registerReadResults : Obligations.RegisterReadResults := by
  unfold Obligations.RegisterReadResults
  intro s f
  refine ⟨fun hi => ?gtrd, fun hi => ?sysrd, fun hi => ?cntrd, fun hi => ?bndrd, fun hi => ?pref⟩
  case gtrd =>
    exact exec_lanes_completes (lane := fun c _ => dst64 f.dst (BitVec.ofNat 64 c.since)) rfl hi (fun _ => rfl)
      (fun _ => hi.inRange64 (i := .gtrd f) rfl rfl rfl _)
  case sysrd =>
    exact ⟨_, readSys_context s _ _, exec_lanes_completes (lane := fun c l => dst64 f.dst (readSys s c.w l f.regNumber)) rfl hi
      (fun _ => rfl) (fun _ => hi.inRange64 (i := .sysrd f) rfl rfl rfl _)⟩
  case cntrd =>
    exact ⟨_, readSys_context s _ _, exec_lanes_completes (lane := fun c l => dst64 f.dst (readSys s c.w l f.regNumber)) rfl hi
      (fun _ => rfl) (fun _ => hi.inRange64 (i := .cntrd f) rfl rfl rfl _)⟩
  case bndrd =>
    exact exec_lanes_completes (lane := fun c _ => dst128 f.dst (c.w.getBd (boundNo f))) rfl hi (fun _ => rfl)
      (fun _ => hi.inRange128 (i := .bndrd f) rfl rfl rfl _)
  case pref => exact exec_lanes_completes (lane := fun _ _ => []) rfl hi (fun _ => rfl) (fun _ => inRange_nil)

end Sys2Proof.Machine
end

section
/-! # Proofs: floating-point arithmetic, selection, compares and conversions (R152 to R175) -/

namespace Sys2Proof.Machine

/-! ## Instructions that compute registers and flags -/

/-- A floating-point instruction whose arm computes `r` lane by lane completes with it where no lane traps. -/
theorem exec_fp_completes {i : Instr} {f : Fields} {s : State} {lane : Ctx → Nat → List RegWrite × FpFlags}
    {r : Nat → List RegWrite × FpFlags} (hx : exec i s = performFp i f s lane) (hl : ∀ l, lane (s.ctx f) l = r l)
    (hi : Issuing i f s) (hr : ∀ l, inRange (r l).1) (hu : Untrapped (s.ctx f) r) :
    ∃ t, exec i s = .next t ∧ CompletedFp s (s.ctx f) r t := by
  obtain rfl : lane (s.ctx f) = r := funext hl
  rw [hx]
  exact performFp_completes hi (fun l _ => hr l) hu

/-! ## Arithmetic (R163, R167) -/

theorem joinElems_one (bits : Nat) (x : Nat × FpFlags) : joinElems bits [x] = x := by
  simp [joinElems]

theorem joinElems_two (bits : Nat) (x y : Nat × FpFlags) : joinElems bits [x, y] = (x.1 + 2 ^ bits * y.1, x.2 ||| y.2) := by
  simp [joinElems]

/-- The results of the elements of a lane, by the instruction's shape and operation. -/
def fpElem (h : FpShape) (op : Rounding → FpVal → FpVal → FpVal → Nat × FpFlags) (w : Warp) (f : Fields) (l e : Nat) :
    Nat × FpFlags :=
  op (.ofMod f.mod) (h.elem (h.read w l f.sa f.imm) e) (negIf (f.aux.getLsbD 0) (h.elem (h.read w l f.sb f.imm) e))
    (negIf (f.aux.getLsbD 1) (h.elem (h.read w l f.sc f.imm) e))

/-- A lane of one or two elements. -/
def fpElems (h : FpShape) (op : Rounding → FpVal → FpVal → FpVal → Nat × FpFlags) (w : Warp) (f : Fields) (l : Nat) :
    List RegWrite × FpFlags :=
  let x := fpElem h op w f l
  if h.elems = 2 then (h.write f.dst ((x 0).1 + 2 ^ h.bits * (x 1).1), (x 0).2 ||| (x 1).2)
  else (h.write f.dst (x 0).1, (x 0).2)

theorem fpLane_eq (h : FpShape) (hn : h.elems = 1 ∨ h.elems = 2) (f : Fields)
    (op : Rounding → FpVal → FpVal → FpVal → Nat × FpFlags) (c : Ctx) (l : Nat) : fpLane h f op c l = fpElems h op c.w f l := by
  rcases hn with hn | hn
  · rw [fpElems, hn]
    simp only [fpLane, hn, List.range_succ, List.range_zero, List.nil_append, List.map_cons, List.map_nil, joinElems_one]
    rfl
  · rw [fpElems, hn]
    simp only [fpLane, hn, List.range_succ, List.range_zero, List.nil_append, List.cons_append, List.map_cons, List.map_nil,
      joinElems_two]
    rfl

/-- Instruction `i` completes with the rounded results of `op` on the elements of its shape. -/
def RoundsOnce (i : Fields → Instr) (h : FpShape) (op : Rounding → FpVal → FpVal → FpVal → Nat × FpFlags) : Prop :=
  ∀ (s : State) (f : Fields), Issuing (i f) f s → Untrapped (s.ctx f) (fpElems h op (s.ctx f).w f) →
    ∃ t, exec (i f) s = .next t ∧ CompletedFp s (s.ctx f) (fpElems h op (s.ctx f).w f) t

theorem inRange_fpElems {h : FpShape} {f : Fields} (hw : ∀ x, inRange (h.write f.dst x))
    (op : Rounding → FpVal → FpVal → FpVal → Nat × FpFlags) (w : Warp) (l : Nat) : inRange (fpElems h op w f l).1 := by
  unfold fpElems
  split <;> exact hw _

theorem inRange_write32 {h : FpShape} (hb : h.bits ≠ 64) (o : Opnd) (x : Nat) : inRange (h.write o x) := by
  rw [FpShape.write, if_neg hb]
  exact inRange_dst32 _ _

theorem roundsOnce_32 {i : Fields → Instr} {h : FpShape} {op : Rounding → FpVal → FpVal → FpVal → Nat × FpFlags}
    (hx : ∀ f s, exec (i f) s = performFp (i f) f s (fpLane h f op)) (hn : h.elems = 1 ∨ h.elems = 2) (hb : h.bits ≠ 64) :
    RoundsOnce i h op := fun s f hi hu =>
  exec_fp_completes (hx f s) (fun l => fpLane_eq h hn f op _ l) hi (fun l => inRange_fpElems (inRange_write32 hb _) op _ l) hu

theorem roundsOnce_64 {i : Fields → Instr} {op : Rounding → FpVal → FpVal → FpVal → Nat × FpFlags}
    (hx : ∀ f s, exec (i f) s = performFp (i f) f s (fpLane .double f op))
    (hd : ∀ (s : State) (f : Fields), Issuing (i f) f s → ∀ x, inRange (dst64 f.dst x)) : RoundsOnce i .double op := fun s f hi hu =>
  exec_fp_completes (hx f s) (fun l => fpLane_eq .double (.inl rfl) f op _ l) hi
    (fun l => inRange_fpElems (h := .double) (fun _ => hd s f hi _) op _ l) hu

/-- Settles O15: every arithmetic arm is `fpLane` of its shape and operation. -/
theorem floatArithmeticResults : Obligations.FloatArithmeticResults := by
  unfold Obligations.FloatArithmeticResults
  show ∀ p : (Fields → Instr) × FpShape × (Rounding → FpVal → FpVal → FpVal → Nat × FpFlags), p ∈ _ → RoundsOnce p.1 p.2.1 p.2.2
  simp only [List.forall_mem_cons, List.not_mem_nil, false_implies, implies_true, and_true]
  exact ⟨roundsOnce_32 (fun _ _ => rfl) (.inl rfl) (by decide), roundsOnce_32 (fun _ _ => rfl) (.inl rfl) (by decide),
    roundsOnce_32 (fun _ _ => rfl) (.inl rfl) (by decide), roundsOnce_32 (fun _ _ => rfl) (.inl rfl) (by decide),
    roundsOnce_32 (fun _ _ => rfl) (.inl rfl) (by decide), roundsOnce_32 (fun _ _ => rfl) (.inl rfl) (by decide),
    roundsOnce_32 (fun _ _ => rfl) (.inr rfl) (by decide), roundsOnce_32 (fun _ _ => rfl) (.inr rfl) (by decide),
    roundsOnce_32 (fun _ _ => rfl) (.inr rfl) (by decide), roundsOnce_32 (fun _ _ => rfl) (.inr rfl) (by decide),
    roundsOnce_32 (fun _ _ => rfl) (.inr rfl) (by decide), roundsOnce_32 (fun _ _ => rfl) (.inr rfl) (by decide),
    roundsOnce_64 (fun _ _ => rfl) (fun _ f hi _ => hi.inRange64 (i := .dadd f) rfl rfl rfl _),
    roundsOnce_64 (fun _ _ => rfl) (fun _ f hi _ => hi.inRange64 (i := .dmul f) rfl rfl rfl _),
    roundsOnce_64 (fun _ _ => rfl) (fun _ f hi _ => hi.inRange64 (i := .dfma f) rfl rfl rfl _)⟩

/-! ## NaNs (R148, R158) -/

@[simp] theorem flags_zero_or (x : FpFlags) : 0 ||| x = x := BitVec.zero_or

@[simp] theorem flags_or_zero (x : FpFlags) : x ||| 0 = x := BitVec.or_zero

/-- A rounding of a NaN is the canonical NaN with the flags gathered before (R148). -/
theorem rounded_nan (r : Rounding) (b : Bool) (fl : FpFlags) (xs : List FpVal) :
    rounded .fp32 r (.nan b, fl) xs = (0x7FC00000, fl ||| signalling xs) := by
  have hbits : Fmt.fp32.nan = 0x7FC00000 := by decide
  rw [rounded, roundVal]
  simp only [flags_zero_or, hbits]

theorem eq_nan {a : FpVal} (h : a.isNan = true) : ∃ b, a = .nan b := by
  cases a with
  | nan b => exact ⟨b, rfl⟩
  | _ => cases h

theorem addVal_nan {a b : FpVal} (h : a.isNan = true ∨ b.isNan = true) (r : Rounding) : addVal r a b = (.nan false, 0) := by
  rcases h with h | h <;> obtain ⟨x, rfl⟩ := eq_nan h
  · cases b <;> rfl
  · cases a <;> rfl

theorem mulVal_nan {a b : FpVal} (h : a.isNan = true ∨ b.isNan = true) : mulVal a b = (.nan false, 0) := by
  rcases h with h | h <;> obtain ⟨x, rfl⟩ := eq_nan h
  · cases b <;> rfl
  · cases a <;> rfl

theorem isNan_negate (a : FpVal) : a.negate.isNan = a.isNan := by cases a <;> rfl

theorem isSignalling_negate (a : FpVal) : a.negate.isSignalling = a.isSignalling := by cases a <;> rfl

theorem fpAdd_nan {a b : FpVal} (h : a.isNan = true ∨ b.isNan = true) (r : Rounding) :
    fpAdd .fp32 r a b = (0x7FC00000, signalling [a, b]) := by
  rw [fpAdd, addVal_nan h, rounded_nan, flags_zero_or]

theorem fpMul_nan {a b : FpVal} (h : a.isNan = true ∨ b.isNan = true) (r : Rounding) :
    fpMul .fp32 r a b = (0x7FC00000, signalling [a, b]) := by
  rw [fpMul, mulVal_nan h, rounded_nan, flags_zero_or]

theorem fpDiv_nan {a b : FpVal} (h : a.isNan = true ∨ b.isNan = true) (r : Rounding) :
    fpDiv .fp32 r a b = (0x7FC00000, signalling [a, b]) := by
  have hv : fpDiv .fp32 r a b = rounded .fp32 r (.nan false, 0) [a, b] := by
    rcases h with h | h <;> obtain ⟨x, rfl⟩ := eq_nan h
    · cases b <;> rfl
    · cases a <;> rfl
  rw [hv, rounded_nan, flags_zero_or]

/-- The sum of FFMA is a NaN where the product or C is one: only the product's NV and that of signalling operands are raised. -/
theorem fpFma_nan {a b c : FpVal} (h : (mulVal a b).1.isNan = true ∨ c.isNan = true) (r : Rounding) :
    fpFma .fp32 r a b c = (0x7FC00000, (mulVal a b).2 ||| signalling [a, b, c]) := by
  have hx : fpFma .fp32 r a b c =
      rounded .fp32 r ((addVal r (mulVal a b).1 c).1, (mulVal a b).2 ||| (addVal r (mulVal a b).1 c).2) [a, b, c] := rfl
  rw [hx, addVal_nan h, rounded_nan, flags_or_zero]

/-- An infinity. -/
def FpVal.isInf : FpVal → Bool
  | .inf _ => true
  | _ => false

/-- The product raises NV just for 0 × ∞. -/
theorem mulVal_flags {a b : FpVal} (ha : a.isNan = false) (hb : b.isNan = false) :
    (mulVal a b).2 = if (a.isZero && b.isInf) || (a.isInf && b.isZero) then FpFlags.nv else 0 := by
  cases a with
  | nan => cases ha
  | inf x => cases b with
    | nan => cases hb
    | inf y => rfl
    | num y m e => by_cases hm : m = 0 <;> simp [mulVal, FpVal.isZero, FpVal.isInf, hm]
  | num x m e => cases b with
    | nan => cases hb
    | inf y => by_cases hm : m = 0 <;> simp [mulVal, FpVal.isZero, FpVal.isInf, hm]
    | num y m' e' => simp [mulVal, FpVal.isInf]

theorem isSignalling_of_not_nan {a : FpVal} (h : a.isNan = false) : a.isSignalling = false := by
  cases a with
  | nan => cases h
  | _ => rfl

/-! ## Roundings (R152, R153) -/

/-- A rounding to a multiple of `2 ^ k` divides and looks at the remainder. -/
theorem roundTo_nat (r : Rounding) (neg : Bool) (m k : Nat) (hr : r.bumps neg m 0 0 = false) :
    roundTo r neg m 0 k = if r.bumps neg (m / 2 ^ k) (m % 2 ^ k) k then m / 2 ^ k + 1 else m / 2 ^ k := by
  cases k with
  | zero => simp [roundTo, Nat.mod_one, hr]
  | succ k =>
    have h : ¬ ((k + 1 : Nat) : Int) ≤ 0 := by omega
    have e : (((k + 1 : Nat) : Int) - 0).toNat = k + 1 := by omega
    simp only [roundTo, h, if_false, e]

/-- Rounding to nearest-even. -/
theorem roundTo_rne (neg : Bool) (m k : Nat) :
    let y := roundTo .rne neg m 0 k
    2 * (y * 2 ^ k) ≤ 2 * m + 2 ^ k ∧ 2 * m ≤ 2 * (y * 2 ^ k) + 2 ^ k ∧
      (2 * m = 2 * (y * 2 ^ k) + 2 ^ k ∨ 2 * (y * 2 ^ k) = 2 * m + 2 ^ k → y % 2 = 0) := by
  intro y
  have hb : Rounding.rne.bumps neg (m / 2 ^ k) (m % 2 ^ k) k = true ↔
      2 * (m % 2 ^ k) > 2 ^ k ∨ 2 * (m % 2 ^ k) = 2 ^ k ∧ m / 2 ^ k % 2 = 1 := by simp [Rounding.bumps]
  have hdiv := Nat.div_add_mod m (2 ^ k)
  have hmod := Nat.mod_lt m (Nat.two_pow_pos k)
  rw [Nat.mul_comm] at hdiv
  by_cases h : Rounding.rne.bumps neg (m / 2 ^ k) (m % 2 ^ k) k = true
  · have hy : y = m / 2 ^ k + 1 := (roundTo_nat _ _ _ _ rfl).trans (if_pos h)
    have h := hb.mp h
    rw [hy, Nat.add_mul, Nat.one_mul]
    omega
  · have hy : y = m / 2 ^ k := (roundTo_nat _ _ _ _ rfl).trans (if_neg h)
    have h := mt hb.mpr h
    rw [hy]
    omega

/-- Rounding toward zero. -/
theorem roundTo_tz (neg : Bool) (m k : Nat) :
    roundTo .tz neg m 0 k * 2 ^ k ≤ m ∧ m < (roundTo .tz neg m 0 k + 1) * 2 ^ k := by
  rw [roundTo_nat _ _ _ _ rfl, if_neg (by simp [Rounding.bumps])]
  exact ⟨Nat.div_mul_le_self _ _, (Nat.div_lt_iff_lt_mul (Nat.two_pow_pos k)).mp (Nat.lt_succ_self _)⟩

/-- Settles O16, by the lemmas on NaNs and on the two roundings. -/
theorem nanAndRounding : Obligations.NanAndRounding := by
  unfold Obligations.NanAndRounding
  refine ⟨fun r a b c h => ?_, fun r a b c ha hb hc => ?_, fun neg m k => ?_⟩
  · have hsub : a.isNan = true ∨ b.negate.isNan = true := by rwa [isNan_negate]
    refine ⟨fpAdd_nan h r, (fpAdd_nan hsub r).trans ?_, fpMul_nan h r, ?_, fpDiv_nan h r⟩
    · simp only [signalling, List.any_cons, isSignalling_negate]
      rfl
    · have hm := mulVal_nan h
      refine (fpFma_nan (.inl (by rw [hm]; rfl)) r).trans ?_
      rw [hm, flags_zero_or]
      rfl
  · have ha' := isSignalling_of_not_nan ha
    have hb' := isSignalling_of_not_nan hb
    refine (fpFma_nan (.inr hc) r).trans ?_
    rw [mulVal_flags ha hb]
    show (_, _) = (_, if c.isSignalling || (a.isZero && b.isInf) || (a.isInf && b.isZero) then FpFlags.nv else 0)
    simp only [signalling, FpFlags.when, List.any_cons, List.any_nil, ha', hb', Bool.false_or, Bool.or_false, Bool.or_assoc]
    cases c.isSignalling <;> cases (a.isZero && b.isInf || a.isInf && b.isZero) <;> rfl
  · obtain ⟨h1, h2, h3⟩ := roundTo_rne neg m k
    exact ⟨h1, h2, h3, roundTo_tz neg m k⟩

/-! ## Selection, compares and classes (R164 to R166) -/

theorem fpCompare_iff {code : Nat} (h : code < 8) (x y : FpVal) : fpCompare code x y = true ↔
    ((code = 0 ∧ ¬ (x.isNan || y.isNan) = true ∧ cmpVal x y = 0) ∨ (code = 1 ∧ ((x.isNan || y.isNan) = true ∨ cmpVal x y ≠ 0)) ∨
      (code = 2 ∧ ¬ (x.isNan || y.isNan) = true ∧ cmpVal x y < 0) ∨ (code = 3 ∧ ¬ (x.isNan || y.isNan) = true ∧ cmpVal x y ≤ 0) ∨
      (code = 4 ∧ ¬ (x.isNan || y.isNan) = true ∧ cmpVal x y > 0) ∨ (code = 5 ∧ ¬ (x.isNan || y.isNan) = true ∧ cmpVal x y ≥ 0) ∨
      (code = 6 ∧ ¬ (x.isNan || y.isNan) = true) ∨ (code = 7 ∧ (x.isNan || y.isNan) = true)) := by
  match code, h with
  | 0, _ | 1, _ | 2, _ | 3, _ | 4, _ | 5, _ | 6, _ | 7, _ =>
    cases hx : x.isNan <;> cases hy : y.isNan <;> simp [fpCompare, hx, hy]

theorem elem_single (x : Word) : FpShape.single.elem x.toNat 0 = .ofBits .fp32 x.toNat := by
  have h : x.toNat / 2 ^ (32 * 0) % 2 ^ 32 = x.toNat := by
    rw [Nat.mul_zero, Nat.pow_zero, Nat.div_one, Nat.mod_eq_of_lt x.isLt]
  exact congrArg (FpVal.ofBits .fp32) h

theorem elem_double (x : DWord) : FpShape.double.elem x.toNat 0 = .ofBits .fp64 x.toNat := by
  have h : x.toNat / 2 ^ (64 * 0) % 2 ^ 64 = x.toNat := by
    rw [Nat.mul_zero, Nat.pow_zero, Nat.div_one, Nat.mod_eq_of_lt x.isLt]
  exact congrArg (FpVal.ofBits .fp64) h

/-- The whole operand of 32 bits, or with a wide form of 64, as a value. -/
theorem elem_read (wide : Bool) (w : Warp) (l : Nat) (o : Opnd) (imm : BitVec 32) :
    (if wide then FpShape.double else .single).elem ((if wide then FpShape.double else .single).read w l o imm) 0 =
      if wide then FpVal.ofBits .fp64 (w.src64 l o imm).toNat else FpVal.ofBits .fp32 (w.src32 l o imm).toNat := by
  cases wide with
  | true => exact elem_double _
  | false => exact elem_single _

/-- The lane of FMIN or FMAX that the rule names, as the word of its pattern (R164). -/
theorem fpMinMax_eq (max : Bool) (x y : Word) :
    let a := FpVal.ofBits .fp32 x.toNat
    let b := FpVal.ofBits .fp32 y.toNat
    let below := decide (cmpVal a b < 0 ∨ (cmpVal a b = 0 ∧ a.neg = true ∧ b.neg = false))
    BitVec.ofNat 32 (fpMinMax max x.toNat y.toNat).1 =
      if a.isNan && b.isNan then 0x7FC00000 else if a.isNan then y else if b.isNan then x
      else if below != max then x else y := by
  intro a b below
  have hbits : Fmt.fp32.nan = 0x7FC00000 := by decide
  have hless : (if cmpVal a b == 0 then a.neg && !b.neg else decide (cmpVal a b < 0)) = below := by
    simp only [below]
    by_cases h : cmpVal a b = 0 <;> cases a.neg <;> cases b.neg <;> simp [h]
  show BitVec.ofNat 32 (if a.isNan && b.isNan then Fmt.fp32.nan else if a.isNan then y.toNat else if b.isNan then x.toNat
    else if (if cmpVal a b == 0 then a.neg && !b.neg else decide (cmpVal a b < 0)) != max then x.toNat else y.toNat) = _
  rw [hless, hbits]
  simp only [apply_ite (BitVec.ofNat 32), BitVec.ofNat_toNat, BitVec.setWidth_eq]
  rfl

/-- Settles O17, by the values of the selection, of the compare and of the class. -/
theorem floatSelectAndCompareResults : Obligations.FloatSelectAndCompareResults := by
  unfold Obligations.FloatSelectAndCompareResults
  intro s f
  refine ⟨fun hi hu => ?fmin, fun hi hu => ?fmax, fun hi hu => ?fcmp, fun hi => ?fclass⟩
  case fmin =>
    refine exec_fp_completes (lane := fpMinMaxLane false f) rfl (fun l => ?_) hi (fun l => inRange_dst32 _ _) hu
    have h := fpMinMax_eq false (srcA s f l) (srcB s f l)
    simp only [Bool.bne_false] at h
    exact Prod.ext (congrArg (dst32 f.dst) h) rfl
  case fmax =>
    refine exec_fp_completes (lane := fpMinMaxLane true f) rfl (fun l => ?_) hi (fun l => inRange_dst32 _ _) hu
    have h := fpMinMax_eq true (srcA s f l) (srcB s f l)
    simp only [Bool.bne_true] at h
    exact Prod.ext (congrArg (dst32 f.dst) h) rfl
  case fcmp =>
    refine exec_fp_completes (lane := fun c l =>
      let h := FpShape.byD f
      let a := h.elem (h.read c.w l f.sa f.imm) 0
      let b := h.elem (h.read c.w l f.sb f.imm) 0
      (dstP f.dst (combineBool f.combine (fpCompare f.scope a b) (c.w.srcP l f.sc)), signalling [a, b])) rfl (fun l => ?_) hi
      (fun l => inRange_dstP _ _) hu
    simp only [FpShape.byD, elem_read]
    refine Prod.ext (congrArg (dstP f.dst) ?_) rfl
    rw [Bool.eq_iff_iff, combineBool_iff (combine_lt f), decide_eq_true_iff, fpCompare_iff (BitVec.isLt _), decide_eq_true_iff]
    rfl
  case fclass =>
    have hx : exec (.fclass f) s = execFclass f s := rfl
    refine exec_fp_completes (hx.trans (by rw [execFclass])) (fun l => ?_) hi (fun l => inRange_dstP _ _) (fun l _ => ?_)
    · simp only [FpShape.byD, elem_read]
      cases f.aux.getLsbD 5 <;> rfl
    · exact BitVec.zero_and

/-! ## Conversions (R170 to R175) -/

theorem joinElems_four (bits : Nat) (x y z u : Nat × FpFlags) : joinElems bits [x, y, z, u] =
    (x.1 + 2 ^ bits * y.1 + 2 ^ (2 * bits) * z.1 + 2 ^ (3 * bits) * u.1, x.2 ||| y.2 ||| z.2 ||| u.2) := by
  simp only [joinElems, List.foldr_cons, List.foldr_nil, flags_or_zero, BitVec.or_assoc]
  refine Prod.ext ?_ rfl
  show _ = _
  ring

theorem four_elems (c : Ctx) (l : Nat) (o : Opnd) : fourElems c l o =
    [.ofBits .fp32 (c.w.srcElem l o 0).toNat, .ofBits .fp32 (c.w.srcElem l o 1).toNat,
      .ofBits .fp32 (c.w.srcElem l o 2).toNat, .ofBits .fp32 (c.w.srcElem l o 3).toNat] := rfl

/-- The destination of a ready CVT has room for its format. -/
theorem cvt_inRange {s : State} {f : Fields} (hi : Issuing (.cvt f) f s) (x : Nat) :
    inRange ((cvtShape (f.aux.extractLsb' 2 2).toNat).write f.dst x) := by
  rcases two_bits (f.aux.extractLsb' 2 2) with h | h | h | h
  · rw [h]; exact inRange_dst32 _ _
  · rw [h]; exact hi.inRange64 (i := .cvt f) rfl rfl (by simp [h, FieldClass.vGroup]) _
  · rw [h]; exact inRange_dst32 _ _
  · rw [h]; exact inRange_dst32 _ _

theorem inRange_wide (wide : Bool) (o : Opnd) (x : Nat) (h : wide = true → inRange (dst64 o (BitVec.ofNat 64 x))) :
    inRange (if wide then dst64 o (BitVec.ofNat 64 x) else dst32 o (BitVec.ofNat 32 x)) := by
  cases wide with
  | true => exact h rfl
  | false => exact inRange_dst32 _ _

theorem fpUnary_eq {f : Fields} {s : State} {l : Nat} (g : Word → Nat × FpFlags) :
    fpUnary f g (s.ctx f) l = (dst32 f.dst (BitVec.ofNat 32 (g (srcA s f l)).1), (g (srcA s f l)).2) := rfl

/-- Settles O19: every conversion is one rounding, or one clamped integer, of the value that its source denotes. -/
theorem conversionResults : Obligations.ConversionResults := by
  unfold Obligations.ConversionResults
  intro s f
  refine ⟨fun hi hu => ?cvt, fun hi hu => ?f2i, fun hi hu => ?i2f, fun hi hu => ?pack8, fun hi hu => ?packi8, fun hi hu => ?pack16,
    fun hi hu => ?tos24, fun hi hu => ?froms24, fun hi => ?unpk8⟩
  case cvt =>
    have hx : exec (.cvt f) s = execCvt f s := rfl
    exact exec_fp_completes (hx.trans (by rw [execCvt])) (fun l => rfl) hi (fun l => cvt_inRange hi _) hu
  case f2i =>
    have hx : exec (.f2i f) s = execF2i f s := rfl
    refine exec_fp_completes (hx.trans (by rw [execF2i])) (fun l => ?_) hi (fun l => ?_) hu
    · simp only [elem_read, intRange]
      cases f.aux.getLsbD 0 <;> cases f.aux.getLsbD 1 <;> cases f.aux.getLsbD 2 <;> rfl
    · dsimp only
      split
      · next h => exact hi.inRange64 (i := .f2i f) rfl rfl (by simp [h, FieldClass.vGroup]) _
      · exact inRange_dst32 _ _
  case i2f =>
    have hx : exec (.i2f f) s = execI2f f s := rfl
    refine exec_fp_completes (hx.trans (by rw [execI2f])) (fun l => ?_) hi (fun l => ?_) hu
    · cases f.aux.getLsbD 0 <;> cases f.aux.getLsbD 1 <;> cases f.aux.getLsbD 2 <;> rfl
    · dsimp only
      exact inRange_wide _ _ _ (fun h => hi.inRange64 (i := .i2f f) rfl rfl (by simp [h, FieldClass.vGroup]) _)
  case pack8 =>
    have hx : exec (.pack8 f) s = execPack8 f s := rfl
    refine exec_fp_completes (hx.trans (by rw [execPack8])) (fun l => ?_) hi (fun l => inRange_dst32 _ _) hu
    simp only [four_elems, List.map_cons, List.map_nil, joinElems_four]
  case packi8 =>
    have hx : exec (.packi8 f) s = execPacki8 f s := rfl
    refine exec_fp_completes (hx.trans (by rw [execPacki8])) (fun l => ?_) hi (fun l => inRange_dst32 _ _) hu
    simp only [four_elems, List.map_cons, List.map_nil, joinElems_four]
  case pack16 =>
    have hx : exec (.pack16 f) s = execPack16 f s := rfl
    refine exec_fp_completes (hx.trans (by rw [execPack16])) (fun l => ?_) hi (fun l => inRange_dst32 _ _) hu
    simp only [joinElems_two]
    rfl
  case tos24 => exact exec_fp_completes (lane := fpUnary f _) rfl (fun l => fpUnary_eq _) hi (fun l => inRange_dst32 _ _) hu
  case froms24 => exact exec_fp_completes (lane := fpUnary f _) rfl (fun l => fpUnary_eq _) hi (fun l => inRange_dst32 _ _) hu
  case unpk8 =>
    have hx : exec (.unpk8 f) s = execUnpk8 f s := rfl
    refine exec_lanes_completes (hx.trans (by rw [execUnpk8])) hi (fun l => rfl) (fun l => ?_)
    dsimp only
    split
    · exact inRange_dst32 _ _
    · next h => exact hi.inRange128 (i := .unpk8 f) rfl rfl (congrArg FieldClass.vGroup (if_neg h)) _

end Sys2Proof.Machine
end

section
/-! # Proofs: the approximate functions (R168, R169) -/

namespace Sys2Proof.Machine

namespace Approx

/-! ## Special operands (R169) -/

theorem apply_nan (fn : Fn) {x : Word} (h : (FpVal.ofBits .fp32 x.toNat).isNan = true) :
    apply fn x = (0x7FC00000, if (FpVal.ofBits .fp32 x.toNat).isSignalling then FpFlags.nv else 0) := by
  obtain ⟨b, hb⟩ := eq_nan h
  have hbits : Fmt.fp32.nan = 0x7FC00000 := by decide
  simp only [apply, hb, hbits]
  rfl

theorem apply_finite (fn : Fn) {x : Word} {n : Bool} {m : Nat} {e : Int} (h : FpVal.ofBits .fp32 x.toNat = .num n m e)
    (hm : m ≠ 0) : apply fn x = finite fn x n m e := by
  cases m with
  | zero => exact absurd rfl hm
  | succ m => simp only [apply, h]

/-! ## The order of patterns -/

/-- The magnitude of an FP32 pattern that is a number, in fixed point (R147). -/
def magnitude (y : Nat) : Nat :=
  if y / 2 ^ 23 = 0 then y % 2 ^ 23 * 2 ^ 11 else (2 ^ 23 + y % 2 ^ 23) * 2 ^ (y / 2 ^ 23 + 10)

theorem magnitude_lt {y z : Nat} (h : y < z) : magnitude y < magnitude z := by
  have hy := Nat.div_add_mod y (2 ^ 23)
  have hz := Nat.div_add_mod z (2 ^ 23)
  have hym := Nat.mod_lt y (Nat.two_pow_pos 23)
  have hle : y / 2 ^ 23 ≤ z / 2 ^ 23 := Nat.div_le_div_right h.le
  unfold magnitude
  generalize y / 2 ^ 23 = a at *
  generalize y % 2 ^ 23 = b at *
  generalize z / 2 ^ 23 = c at *
  generalize z % 2 ^ 23 = d at *
  rcases hle.eq_or_lt with rfl | hlt
  · split
    · omega
    · exact Nat.mul_lt_mul_of_pos_right (by omega) (Nat.two_pow_pos _)
  · rw [if_neg (by omega : ¬ c = 0)]
    have hc : 2 ^ 23 * 2 ^ (c + 10) ≤ (2 ^ 23 + d) * 2 ^ (c + 10) := Nat.mul_le_mul_right _ (by omega)
    refine Nat.lt_of_lt_of_le ?_ hc
    split
    · have hp : 2 ^ 11 ≤ 2 ^ (c + 10) := Nat.pow_le_pow_right (by omega) (by omega)
      calc b * 2 ^ 11 < 2 ^ 23 * 2 ^ 11 := Nat.mul_lt_mul_of_pos_right hym (Nat.two_pow_pos _)
        _ ≤ _ := Nat.mul_le_mul_left _ hp
    · have hp : 2 ^ (a + 11) ≤ 2 ^ (c + 10) := Nat.pow_le_pow_right (by omega) (by omega)
      calc (2 ^ 23 + b) * 2 ^ (a + 10) < 2 ^ 24 * 2 ^ (a + 10) := Nat.mul_lt_mul_of_pos_right (by omega) (Nat.two_pow_pos _)
        _ = 2 ^ 23 * 2 ^ (a + 11) := by rw [← Nat.pow_add, ← Nat.pow_add]; congr 1; omega
        _ ≤ _ := Nat.mul_le_mul_left _ hp

/-- Patterns are ordered as their magnitudes. -/
theorem magnitude_lt_iff {y z : Nat} : magnitude y < magnitude z ↔ y < z := by
  refine ⟨fun h => ?_, magnitude_lt⟩
  by_contra hn
  rcases (Nat.not_lt.mp hn).eq_or_lt with he | hl
  · rw [he] at h; exact Nat.lt_irrefl _ h
  · exact Nat.lt_asymm h (magnitude_lt hl)

/-- A pattern that is a number: its sign, and its magnitude exactly in fixed point. -/
theorem ofBits_num {x : Word} {n : Bool} {m : Nat} {e : Int} (h : FpVal.ofBits .fp32 x.toNat = .num n m e) :
    n = decide (2 ^ 31 ≤ x.toNat) ∧ ofNum m e = (magnitude (x.toNat % 2 ^ 31) : Int) ∧ m < 2 ^ 24 := by
  have hx := x.isLt
  have hsign : x.toNat.testBit 31 = decide (2 ^ 31 ≤ x.toNat) := by
    rw [Nat.testBit_eq_decide_div_mod_eq]
    exact decide_eq_decide.mpr (by omega)
  have hexp : x.toNat / 2 ^ 23 % 2 ^ 8 = x.toNat % 2 ^ 31 / 2 ^ 23 := by omega
  have hfrac : x.toNat % 2 ^ 23 = x.toNat % 2 ^ 31 % 2 ^ 23 := by omega
  have hf := Nat.mod_lt (x.toNat % 2 ^ 31) (Nat.two_pow_pos 23)
  simp only [FpVal.ofBits, Fmt.fp32, Fmt.signBit, Fmt.emin, hexp, hfrac, hsign] at h
  unfold magnitude
  generalize x.toNat % 2 ^ 31 / 2 ^ 23 = a at *
  generalize x.toNat % 2 ^ 31 % 2 ^ 23 = b at *
  split at h
  · split at h <;> cases h
  · split at h
    · cases h
    · split at h
      · next ha =>
        obtain ⟨rfl, rfl, rfl⟩ := FpVal.num.inj h
        rw [if_pos (by simpa using ha)]
        exact ⟨rfl, by simp [ofNum], by omega⟩
      · next ha =>
        obtain ⟨rfl, rfl, rfl⟩ := FpVal.num.inj h
        rw [if_neg (by simpa using ha)]
        have he : (1 : Int) - (127 : Nat) - (23 : Nat) + (a : Nat) - 1 + 160 = (a + 10 : Nat) := by omega
        refine ⟨rfl, ?_, by omega⟩
        rw [ofNum, he, if_pos (by omega), Int.toNat_natCast]
        push_cast
        rfl

/-- A finite operand exceeds a bound, given as a pattern, just where its pattern does. -/
theorem pattern_lt_iff {x : Word} {n : Bool} {m : Nat} {e : Int} (h : FpVal.ofBits .fp32 x.toNat = .num n m e) (b : Nat) :
    (magnitude b : Int) < ofNum m e ↔ b < x.toNat % 2 ^ 31 := by
  rw [(ofBits_num h).2.1, Int.ofNat_lt, magnitude_lt_iff]

theorem pattern_le_iff {x : Word} {n : Bool} {m : Nat} {e : Int} (h : FpVal.ofBits .fp32 x.toNat = .num n m e) (b : Nat) :
    (magnitude b : Int) ≤ ofNum m e ↔ b ≤ x.toNat % 2 ^ 31 := by
  rw [(ofBits_num h).2.1, Int.ofNat_le, ← Nat.not_lt, magnitude_lt_iff, Nat.not_lt]

/-! ## The bracket of FRCP and FRSQ -/

/-- The quotient's bracket holds the exact quotient. -/
theorem rcp_bracket (neg : Bool) {m : Nat} (hm : m ≠ 0) (e : Int) :
    let r := reference .rcp neg m e
    let ends := bracket .rcp m e r
    r.2 = -e - 200 ∧ ends.1 * m ≤ (if neg then -2 ^ 200 else 2 ^ 200) ∧ (if neg then -2 ^ 200 else 2 ^ 200) ≤ ends.2 * m := by
  intro r ends
  have hmod := Int.emod_add_mul_ediv ((2 : Int) ^ 200) m
  have hlo := Int.emod_nonneg ((2 : Int) ^ 200) (Int.ofNat_ne_zero.mpr hm)
  have hhi := Int.emod_lt_of_pos ((2 : Int) ^ 200) (Int.natCast_pos.mpr (Nat.pos_of_ne_zero hm))
  refine ⟨rfl, ?_⟩
  show ((if neg then -1 else 1) * ((2 : Int) ^ 200 / m) - 2) * m ≤ _ ∧ _ ≤ ((if neg then -1 else 1) * ((2 : Int) ^ 200 / m) + 2) * m
  generalize (2 : Int) ^ 200 = p at *
  generalize p / (m : Int) = d at *
  cases neg <;> simp only [Bool.false_eq_true, if_true, if_false] <;> constructor <;> nlinarith

/-- The bits of the integer square root: after `fuel` more bits the root is found below `acc + 2 ^ fuel`. -/
theorem isqrt_spec (n fuel acc : Nat) (hlo : acc * acc ≤ n) (hhi : n < (acc + 2 ^ fuel) * (acc + 2 ^ fuel)) :
    isqrt n fuel acc * isqrt n fuel acc ≤ n ∧ n < (isqrt n fuel acc + 1) * (isqrt n fuel acc + 1) := by
  induction fuel generalizing acc with
  | zero => exact ⟨hlo, by simpa [isqrt] using hhi⟩
  | succ fuel ih =>
    have hp : 2 ^ (fuel + 1) = 2 ^ fuel + 2 ^ fuel := by rw [Nat.pow_succ]; omega
    rw [isqrt]
    by_cases h : (acc + 2 ^ fuel) * (acc + 2 ^ fuel) ≤ n
    · simp only [h, if_true]
      exact ih _ h (by rwa [Nat.add_assoc, ← hp])
    · simp only [h, if_false]
      exact ih _ hlo (by omega)

/-- The root's bracket holds the exact root. -/
theorem rsq_bracket (neg : Bool) {m : Nat} (hm : m ≠ 0) (hm24 : m < 2 ^ 24) (e : Int) :
    let r := reference .rsq neg m e
    let ends := bracket .rsq m e r
    ∃ k : Nat, e + k = -2 * r.2 ∧ 0 ≤ ends.1 ∧ ends.1 ^ 2 * m ≤ 2 ^ k ∧ 2 ^ k ≤ ends.2 ^ 2 * m := by
  intro r ends
  obtain ⟨k, hk, hk240, hr⟩ : ∃ k : Nat, (k = 240 ∨ k = 241) ∧ (e + k) % 2 = 0 ∧
      r = (((isqrt (2 ^ k / m) 130 0 : Nat) : Int), (-e - (k : Int)) / 2) := by
    by_cases he : e % 2 = 0
    · exact ⟨240, .inl rfl, by omega, by simp only [r, reference, he, if_true]⟩
    · exact ⟨241, .inr rfl, by omega, by simp only [r, reference, he, if_false]⟩
  have hends : ends = (r.1 - 2, r.1 + 2) := rfl
  have hpos := Nat.pos_of_ne_zero hm
  have hlarge : 4 ≤ 2 ^ k / m := by
    rw [Nat.le_div_iff_mul_le hpos]
    have : 2 ^ 26 ≤ 2 ^ k := Nat.pow_le_pow_right (by omega) (by omega)
    omega
  have hsmall : 2 ^ k / m < (0 + 2 ^ 130) * (0 + 2 ^ 130) := by
    refine Nat.lt_of_le_of_lt (Nat.div_le_self _ _) ?_
    calc 2 ^ k ≤ 2 ^ (130 + 111) := Nat.pow_le_pow_right (by omega) (by omega)
      _ = 2 ^ 130 * 2 ^ 111 := Nat.pow_add _ _ _
      _ < (0 + 2 ^ 130) * (0 + 2 ^ 130) := by
        rw [Nat.zero_add]
        exact Nat.mul_lt_mul_of_pos_left (Nat.pow_lt_pow_right (by omega) (by omega)) (Nat.two_pow_pos _)
  obtain ⟨hlo, hhi⟩ := isqrt_spec (2 ^ k / m) 130 0 (by omega) hsmall
  have hle := Nat.div_mul_le_self (2 ^ k) m
  have hlt := Nat.lt_mul_of_div_lt (Nat.lt_succ_self (2 ^ k / m)) hpos
  refine ⟨k, ?_, ?_⟩
  · rw [hr]; dsimp only; omega
  rw [hends, hr]
  dsimp only
  have hp : ((2 : Int) ^ k) = ((2 ^ k : Nat) : Int) := by push_cast; rfl
  rw [hp]
  generalize isqrt (2 ^ k / m) 130 0 = y at *
  generalize 2 ^ k / m = q at *
  generalize 2 ^ k = p at *
  have hy : 2 ≤ y := by nlinarith
  zify at *
  have hlow : ((y : Int) - 2) ^ 2 ≤ q := by nlinarith
  have hhigh : (q : Int) + 1 ≤ (y + 2) ^ 2 := by nlinarith
  exact ⟨by omega, by nlinarith, by nlinarith⟩

/-! ## Results of finite operands (R168) -/

theorem inexactFlags_eq (bits : Nat) : inexactFlags bits = FpFlags.nx ||| (if bits % 2 ^ 31 < 0x00800000 then FpFlags.uf else 0) := by
  simp only [inexactFlags, FpFlags.when, decide_eq_true_eq]

theorem unitValue_le (c : Nat) : unitValue c % 2 ^ 31 ≤ 0x3F800000 := by
  unfold unitValue
  split
  · assumption
  · omega

/-- The bounds at which FEX2 overflows and underflows, and beyond which FSIN and FCOS only stay in [−1, 1], as magnitudes. -/
theorem magnitude_bounds : (magnitude 0x43000000 : Int) = 128 * one ∧ (magnitude 0x43150000 : Int) = 149 * one ∧
    (magnitude 0x47800000 : Int) = 2 ^ 16 * one := by decide

theorem ex2_overflows_iff {x : Word} {n : Bool} {m : Nat} {e : Int} (h : FpVal.ofBits .fp32 x.toNat = .num n m e) (fn : Fn) :
    (fn == .ex2 && !n && decide (ofNum m e ≥ 128 * one)) = true ↔ fn = .ex2 ∧ 0x43000000 ≤ x.toNat ∧ n = false := by
  have hx := x.isLt
  have hn := (ofBits_num h).1
  have hb := pattern_le_iff h 0x43000000
  rw [magnitude_bounds.1] at hb
  simp only [Bool.and_eq_true, beq_iff_eq, Bool.not_eq_true', decide_eq_true_eq, ge_iff_le, hb, and_assoc]
  refine and_congr_right fun _ => ?_
  cases n with
  | true => simp
  | false =>
    have : ¬ 2 ^ 31 ≤ x.toNat := of_decide_eq_false hn.symm
    simp only [true_and, and_true]
    omega

theorem ex2_underflows_iff {x : Word} {n : Bool} {m : Nat} {e : Int} (h : FpVal.ofBits .fp32 x.toNat = .num n m e) (fn : Fn) :
    (fn == .ex2 && n && decide (ofNum m e > 149 * one)) = true ↔ fn = .ex2 ∧ 0xC3150000 < x.toNat := by
  have hx := x.isLt
  have hn := (ofBits_num h).1
  have hb := pattern_lt_iff h 0x43150000
  rw [magnitude_bounds.2.1] at hb
  simp only [Bool.and_eq_true, beq_iff_eq, decide_eq_true_eq, gt_iff_lt, hb, and_assoc]
  refine and_congr_right fun _ => ?_
  cases n with
  | true =>
    have : 2 ^ 31 ≤ x.toNat := of_decide_eq_true hn.symm
    simp only [true_and]
    omega
  | false =>
    have : ¬ 2 ^ 31 ≤ x.toNat := of_decide_eq_false hn.symm
    simp only [Bool.false_eq_true, false_and, false_iff]
    omega

theorem angle_large_iff {x : Word} {n : Bool} {m : Nat} {e : Int} (h : FpVal.ofBits .fp32 x.toNat = .num n m e) (fn : Fn) :
    ((fn == .sin || fn == .cos) && decide (ofNum m e > 2 ^ 16 * one)) = true ↔
      (fn = .sin ∨ fn = .cos) ∧ 0x47800000 < x.toNat % 2 ^ 31 := by
  have hb := pattern_lt_iff h 0x47800000
  rw [magnitude_bounds.2.2] at hb
  simp only [Bool.and_eq_true, Bool.or_eq_true, beq_iff_eq, decide_eq_true_eq, gt_iff_lt, hb]

/-- What a finite operand that is no exact case and has a real result gives: the machine's reference rounded, or a value within the
bound of R168 around it. -/
theorem finite_inexact {fn : Fn} {x : Word} {n : Bool} {m : Nat} {e : Int} (h : FpVal.ofBits .fp32 x.toNat = .num n m e)
    (hneg : ¬ (n = true ∧ (fn = .rsq ∨ fn = .lg2))) (hcase : exactCase fn n m e = none) :
    let y := finite fn x n m e
    let r := reference fn n m e
    let ends := bracket fn m e r
    let near := roundNum .fp32 .rne false (decide (r.1 < 0)) r.1.natAbs r.2
    let inexact := FpFlags.nx ||| (if y.1 % 2 ^ 31 < 0x00800000 then FpFlags.uf else 0)
    if fn = .ex2 ∧ 0x43000000 ≤ x.toNat ∧ n = false then y = (0x7F800000, FpFlags.of_ ||| FpFlags.nx)
    else if fn = .ex2 ∧ 0xC3150000 < x.toNat then (y.1 = 0 ∨ y.1 = 1) ∧ y.2 = FpFlags.uf ||| FpFlags.nx
    else if (fn = .sin ∨ fn = .cos) ∧ 0x47800000 < x.toNat % 2 ^ 31 then y.1 % 2 ^ 31 ≤ 0x3F800000 ∧ y.2 = inexact
    else if near.1 % 2 ^ 31 = 0x7F800000 then y = near
    else (y.1 = near.1 ∨ within (.ofBits .fp32 y.1) ends r.2 (tolerance fn m e r) = true) ∧ y.2 = inexact := by
  intro y r ends near inexact
  have hinf : Fmt.fp32.inf = 0x7F800000 := by decide
  have hn : ¬ ((fn == .rsq || fn == .lg2) && n) = true := by
    simpa [and_comm] using hneg
  have hy : y = if (fn == .ex2 && !n && decide (ofNum m e ≥ 128 * one)) = true then (Fmt.fp32.inf, FpFlags.of_ ||| FpFlags.nx)
      else if (fn == .ex2 && n && decide (ofNum m e > 149 * one)) = true then
        ((Config.approx fn.code x).toNat % 2, FpFlags.uf ||| FpFlags.nx)
      else if ((fn == .sin || fn == .cos) && decide (ofNum m e > 2 ^ 16 * one)) = true then
        (unitValue (Config.approx fn.code x).toNat, inexactFlags (unitValue (Config.approx fn.code x).toNat))
      else if (near.1 % 2 ^ 31 == Fmt.fp32.inf) = true then near
      else
        let bits := if within (.ofBits .fp32 (Config.approx fn.code x).toNat) ends r.2 (tolerance fn m e r)
          then (Config.approx fn.code x).toNat else near.1
        (bits, inexactFlags bits) := by
    simp only [y, near, ends, r, finite, hn, hcase]
    exact if_neg Bool.false_ne_true
  simp only [ex2_overflows_iff h, ex2_underflows_iff h, angle_large_iff h, beq_iff_eq, hinf, inexactFlags_eq] at hy
  by_cases h1 : fn = .ex2 ∧ 0x43000000 ≤ x.toNat ∧ n = false
  · rw [if_pos h1] at hy ⊢
    exact hy
  rw [if_neg h1] at hy ⊢
  by_cases h2 : fn = .ex2 ∧ 0xC3150000 < x.toNat
  · rw [if_pos h2] at hy ⊢
    rw [hy]
    exact ⟨Nat.mod_two_eq_zero_or_one _, rfl⟩
  rw [if_neg h2] at hy ⊢
  by_cases h3 : (fn = .sin ∨ fn = .cos) ∧ 0x47800000 < x.toNat % 2 ^ 31
  · rw [if_pos h3] at hy ⊢
    simp only [inexact, hy]
    exact ⟨unitValue_le _, trivial⟩
  rw [if_neg h3] at hy ⊢
  by_cases h4 : near.1 % 2 ^ 31 = 0x7F800000
  · rw [if_pos h4] at hy ⊢
    exact hy
  rw [if_neg h4] at hy ⊢
  simp only [inexact, hy]
  refine ⟨?_, trivial⟩
  by_cases hw : within (.ofBits .fp32 (Config.approx fn.code x).toNat) ends r.2 (tolerance fn m e r) = true
  · right
    simp only [hw, if_true]
  · left
    simp only [hw, Bool.false_eq_true, if_false]

/-- An exact case of R168 is its result and raises nothing. -/
theorem finite_exact {fn : Fn} {x : Word} {n : Bool} {m : Nat} {e : Int} {bits : Nat}
    (hneg : ¬ (n = true ∧ (fn = .rsq ∨ fn = .lg2))) (hcase : exactCase fn n m e = some bits) : finite fn x n m e = (bits, 0) := by
  have hn : ¬ ((fn == .rsq || fn == .lg2) && n) = true := by
    simpa [and_comm] using hneg
  simp only [finite, hn, hcase]
  rfl

/-- The root and the logarithm of a negative number are invalid. -/
theorem finite_negative {fn : Fn} {x : Word} {n : Bool} {m : Nat} {e : Int} (hneg : n = true ∧ (fn = .rsq ∨ fn = .lg2)) :
    finite fn x n m e = (0x7FC00000, FpFlags.nv) := by
  have hn : ((fn == .rsq || fn == .lg2) && n) = true := by
    simpa [and_comm] using hneg
  have hbits : Fmt.fp32.nan = 0x7FC00000 := by decide
  simp only [finite, hn, hbits, if_true]

end Approx

/-- Every approximate function performs its own `apply` of A, lane by lane. -/
theorem exec_approx : ∀ p ∈ ([(Instr.frcp, .rcp), (Instr.frsq, .rsq), (Instr.fex2, .ex2), (Instr.flg2, .lg2), (Instr.fsin, .sin),
      (Instr.fcos, .cos), (Instr.ftanh, .tanh), (Instr.fsgm, .sgm)] : List ((Fields → Instr) × Approx.Fn)),
    ∀ (f : Fields) (s : State), exec (p.1 f) s = performFp (p.1 f) f s (fpUnary f (Approx.apply p.2)) := by
  simp only [List.forall_mem_cons, List.not_mem_nil, false_implies, implies_true, and_true]
  exact ⟨fun _ _ => rfl, fun _ _ => rfl, fun _ _ => rfl, fun _ _ => rfl, fun _ _ => rfl, fun _ _ => rfl, fun _ _ => rfl,
    fun _ _ => rfl⟩

/-- Settles O18: special operands by the table, finite ones by their cases, and the two brackets by exact arithmetic. -/
theorem approximateFunctionResults : Obligations.ApproximateFunctionResults := by
  unfold Obligations.ApproximateFunctionResults
  intro p hp s f
  obtain ⟨i, fn⟩ := p
  refine ⟨fun hi hu => exec_fp_completes (exec_approx _ hp f s) (fun l => fpUnary_eq _) hi (fun l => inRange_dst32 _ _) hu,
    fun x h => Approx.apply_nan fn h, ?table, fun x n m e hx hm => ?finite⟩
  case table => cases fn <;> rfl
  case finite =>
    rw [Approx.apply_finite fn hx hm]
    split
    · next hneg => exact Approx.finite_negative hneg
    · next hneg =>
      refine ⟨?_, ?_, ?_⟩
      · rintro rfl
        exact Approx.rcp_bracket n hm e
      · rintro rfl
        exact Approx.rsq_bracket n hm (Approx.ofBits_num hx).2.2 e
      · cases hcase : Approx.exactCase fn n m e with
        | some bits => exact Approx.finite_exact hneg hcase
        | none => exact Approx.finite_inexact hx hneg hcase

end Sys2Proof.Machine
end

section
/-! # Proofs: entries that wait, and lanes that trap (R99, R108, R302) -/

namespace Sys2Proof.Machine

/-! ## Entering the reorder buffer -/

/-- An instruction that waits enters the reorder buffer, or retires while its lanes wait on. -/
theorem enter_entered (b : State) (c : Ctx) (i : Instr) (r : Result) :
    Entered b c (entryOf b c i r.outs r.wait) r.pauses ((b.countIssue c.wid).enter c i r) := by
  set w0 : Warp := { b.warp c.wid with wissued := (b.warp c.wid).wissued + 1 } with hw0
  set w1 : Warp := c.lanes.lanes.foldl (fun w l => w.updLane l (fun x => { x with status := .waiting })) w0 with hw1
  have hlane : ∀ l, w1.lane l =
      if c.lanes.has l then { (b.warp c.wid).lane l with status := .waiting } else (b.warp c.wid).lane l := fun l => by
    rw [hw1, setLanes_lane w0 _ (fun _ x => { x with status := .waiting }) (LaneMask.lanes_nodup _)]
    simp only [LaneMask.mem_lanes]
    rfl
  have hrest : w1 = { w0 with lanes := w1.lanes } := setLanes_rest w0 _ (fun _ x => { x with status := .waiting })
  set w2 : Warp :=
    if r.pauses then { w1 with pauses := w1.pauses ++ [entryOf b c i r.outs r.wait], wretired := w1.wretired + 1
                               hangBase := b.runsFrom w1.gcore }
    else { w1 with rob := w1.rob ++ [entryOf b c i r.outs r.wait] } with hw2
  have ht : (b.countIssue c.wid).enter c i r = b.setWarp c.wid w2 := by
    simp only [State.enter, State.pause, State.countIssue, State.updWarp, State.warp_setWarp_self, State.setWarp_setWarp]
    by_cases hp : r.pauses = true
    · simp only [hw2, hp, if_true]; rfl
    · simp only [hw2, hp, Bool.false_eq_true, if_false]; rfl
  have hl2 : w2.lanes = w1.lanes := by rw [hw2]; split <;> rfl
  rw [ht]
  refine ⟨by simp, fun l _ => ?_, ?_⟩
  · rw [State.warp_setWarp_self, ← hlane l]
    simp only [Warp.lane, hl2]
  · rw [State.warp_setWarp_self, hl2, hw2, hrest]
    split <;> rfl

theorem finish_enters {i : Instr} {c : Ctx} {r : Result} (hh : r.hole = none) (hc : r.consumed = none) (ha : r.again = false)
    (hw : r.wait ≠ .nothing) :
    ∃ t, finish i c r = .next t ∧ Entered r.s c (entryOf r.s c i r.outs r.wait) r.pauses t := by
  refine ⟨_, ?_, enter_entered r.s c i r⟩
  simp only [finish, hh, hc, ha, hw, Bool.false_eq_true, if_false]

/-- `finish` on a body whose lanes have all completed and that does nothing to the warp's own registers. -/
theorem finish_completes {i : Instr} {c : Ctx} {r : Result} {ws : Nat → List RegWrite} {dest : Nat → Option DWord}
    (hne : c.lanes ≠ 0) (hp : (r.s.warp c.wid).parkedSince = none) (hw : ∀ l, c.active.has l = true → inRange (ws l))
    (houts : r.outs = doneOuts c.active ws dest) (hf : r.flags = 0) (ho : r.onWarp = id) (hh : r.hole = none)
    (hc : r.consumed = none) (ha : r.again = false) (hwt : r.wait = .nothing) :
    ∃ t, finish i c r = .next t ∧ Completed r.s c ws (fun l => (dest l).getD (nextPc c.pc)) id t := by
  have h := finish_done (i := i) (r := r) (by simp only [hf, ho, raise_zero]; exact Own.id) hne hp hw houts hh hc ha hwt
  simp only [hf, ho, raise_zero] at h
  exact h

/-! ## One cause in every lane of a mask -/

/-- The lanes of a mask that trap alike. -/
abbrev trapLanes (m : LaneMask) (addr : DWord) (code : Nat) : List TrapLane := m.lanes.map (fun l => { lane := l, addr, code })

theorem trapsOf_all (m : LaneMask) (cause : Nat) (addr : DWord) (code : Nat) :
    trapsOf (allLanes m (.trap cause addr code)) = (trapLanes m addr code).map (fun t => (cause, t)) := by
  simp only [trapsOf, allLanes, List.filterMap_map, List.map_map]
  exact congrFun List.filterMap_eq_map m.lanes

theorem mask_trapLanes (m : LaneMask) (addr : DWord) (code : Nat) : TrapLane.mask (trapLanes m addr code) = m := by
  apply BitVec.eq_of_getLsbD_eq
  intro l hl
  have e : (trapLanes m addr code).any (fun t => t.lane == l) = m.has l := by
    rw [Bool.eq_iff_iff]
    simp [trapLanes, LaneMask.mem_lanes]
  rw [TrapLane.mask, getLsbD_ofPred _ hl, e]
  rfl

theorem codes_trapLanes (m : LaneMask) (h : m ≠ 0) (addr : DWord) (code : Nat) :
    (trapLanes m addr code).foldl (fun c t => c ||| t.code) 0 = code := by
  have all : ∀ (ls : List Nat) (a : Nat), a = code →
      (ls.map (fun l => ({ lane := l, addr, code } : TrapLane))).foldl (fun c t => c ||| t.code) a = code := by
    intro ls
    induction ls with
    | nil => exact fun a ha => ha
    | cons l ls ih => exact fun a ha => ih _ (by rw [ha]; exact Nat.or_self code)
  obtain ⟨ls, hl⟩ := LaneMask.lanes_head h
  rw [trapLanes, hl]
  exact all ls (0 ||| code) (Nat.zero_or code)

theorem trapFlags_zero {w : Warp} {m : LaneMask} (ht : validTvec w.tvec = true) (htag : ∀ l, m.has l = true → (w.lane l).tag = none)
    (addr : DWord) (code : Nat) : w.trapFlags (trapLanes m addr code) = 0 := by
  have e : (trapLanes m addr code).any (fun t => (w.lane t.lane).tag.isSome) = false := by
    rw [List.any_eq_false]
    intro t h
    obtain ⟨l, hl, rfl⟩ := List.mem_map.mp h
    simp [htag l (LaneMask.mem_lanes.mp hl)]
  simp [Warp.trapFlags, e, ht]

/-- A lane that takes the exception at `pc`. -/
def trapLane (tvec pc : DWord) (cause : Nat) (addr : DWord) (x : Lane) : Lane :=
  { x with trapPc := pc, trapCause := BitVec.ofNat 64 cause, trapAddr := addr, status := .running, tag := some { cause, pc }
           pc := tvec }

/-- Lanes with an empty handler tag take the exception one by one. -/
theorem deliverLanes_eq (ls : List Nat) (u : Warp) (hn : ls.Nodup) (ht : validTvec u.tvec = true)
    (htag : ∀ l ∈ ls, (u.lane l).tag = none) (pc : DWord) (cause : Nat) (addr : DWord) (code : Nat) :
    (ls.map (fun l => ({ lane := l, addr, code } : TrapLane))).foldl (fun w t => w.deliverLane pc cause t) u =
      ls.foldl (fun w l => w.updLane l (trapLane u.tvec pc cause addr)) u := by
  induction ls generalizing u with
  | nil => rfl
  | cons l ls ih =>
    obtain ⟨hl, hn'⟩ := List.nodup_cons.mp hn
    have h1 : u.deliverLane pc cause { lane := l, addr, code } = u.updLane l (trapLane u.tvec pc cause addr) := by
      simp only [Warp.deliverLane, htag l (by simp), ht, Option.isSome_none, Bool.not_true, Bool.or_self, Bool.false_eq_true, if_false]
      rfl
    rw [List.map_cons, List.foldl_cons, List.foldl_cons, h1]
    refine ih _ hn' ht (fun k hk => ?_)
    rw [Warp.lane_updLane, if_neg (fun (e : k = l) => hl (e ▸ hk))]
    exact htag k (by simp [hk])

/-- The record of lanes that trap together with an empty handler tag. -/
def trapRecord (s : State) (wid : Nat) (pc : DWord) (word : BitVec 96) (m : LaneMask) (cause : Nat) (addr : DWord) (code : Nat) :
    TrapRecord :=
  recordBytes { pc, addr, lanes := m, cause, flags := 0, code, word } s.gt (s.warp wid).grid (s.warp wid).gen (s.warp wid).warpNo
    (s.warp wid).lost (s.warp wid).block (s.warp wid).seq

/-- The warp with one record more. -/
def withRecord (w : Warp) (r : TrapRecord) : Warp :=
  { w with records := w.records ++ [r], lost := 0, seq := w.seq + 1, entered := w.entered + 1 }

/-- What the delivery of a cause leaves of the warp: one record, and every lane at the handler. -/
def delivered (s : State) (wid : Nat) (pc : DWord) (word : BitVec 96) (m : LaneMask) (cause : Nat) (addr : DWord) (code : Nat) : Warp :=
  m.lanes.foldl (fun w l => w.updLane l (trapLane (s.warp wid).tvec pc cause addr))
    (withRecord (s.warp wid) (trapRecord s wid pc word m cause addr code))

theorem deliver_trapLanes {s : State} {wid : Nat} {m : LaneMask} (h : CanTrap (s.warp wid) m) (pc : DWord) (word : BitVec 96)
    (cause : Nat) (addr : DWord) (code : Nat) :
    s.deliver wid pc word cause (trapLanes m addr code) = s.setWarp wid (delivered s wid pc word m cause addr code) := by
  have hroom : ¬ (s.warp wid).records.length ≥ 16 := Nat.not_le.mpr h.room
  have e : ∀ ts : List TrapLane, ts = trapLanes m addr code → s.deliver wid pc word cause ts =
      ((s.pushRecord wid { pc, addr, lanes := TrapLane.mask ts, cause, flags := (s.warp wid).trapFlags ts
                           code := ts.foldl (fun c t => c ||| t.code) 0, word }).updWarp wid
        (fun w => ts.foldl (fun w t => w.deliverLane pc cause t) w)) := by
    rintro ts hts
    obtain ⟨ls, hl⟩ := LaneMask.lanes_head h.lanes
    rw [trapLanes, hl] at hts
    subst hts
    rfl
  rw [e _ rfl, mask_trapLanes, codes_trapLanes m h.lanes, trapFlags_zero h.handler h.tags]
  simp only [State.pushRecord, hroom, if_false, State.updWarp, State.warp_setWarp_self, State.setWarp_setWarp]
  exact congrArg (s.setWarp wid) (deliverLanes_eq m.lanes
    (withRecord (s.warp wid) (trapRecord s wid pc word m cause addr code)) (LaneMask.lanes_nodup m) h.handler
    (fun l hl => h.tags l (LaneMask.mem_lanes.mp hl)) pc cause addr code)

/-- Of the causes in order, the one that the lanes have is delivered, and no other. -/
theorem deliverAll_one {s : State} {wid : Nat} {cause : Nat} (hc : cause < 0x16) (ts : List TrapLane) (pc : DWord)
    (word : BitVec 96) : s.deliverAll wid pc word (ts.map (fun t => (cause, t))) = s.deliver wid pc word cause ts := by
  have hmap : ∀ k, ((ts.map (fun t => (cause, t))).filter (fun t => t.1 == k)).map (·.2) = if cause = k then ts else [] := by
    intro k
    by_cases h : cause = k
    · simp [h, List.filter_map, Function.comp_def]
    · simp [h, List.filter_map, Function.comp_def]
  have hnone : ∀ (ks : List Nat) (s : State), cause ∉ ks →
      ks.foldl (fun s k => s.deliver wid pc word k (((ts.map (fun t => (cause, t))).filter (fun t => t.1 == k)).map (·.2))) s = s := by
    intro ks
    induction ks with
    | nil => exact fun s _ => rfl
    | cons k ks ih =>
      intro s h
      rw [List.mem_cons, not_or] at h
      rw [List.foldl_cons, hmap, if_neg h.1]
      exact ih s h.2
  have hsplit : List.range 0x16 = List.range cause ++ cause :: (List.range 0x16).drop (cause + 1) := by
    have hlen : cause < (List.range 0x16).length := by simpa using hc
    have htake : (List.range 0x16).take cause = List.range cause := by rw [List.take_range, Nat.min_eq_left (by omega)]
    have hdrop := List.drop_eq_getElem_cons hlen
    rw [List.getElem_range] at hdrop
    rw [← hdrop, ← htake, List.take_append_drop]
  have hlater : cause ∉ (List.range 0x16).drop (cause + 1) := by
    rw [List.mem_drop_iff_getElem]
    rintro ⟨i, hi, h⟩
    simp only [List.getElem_range] at h
    omega
  rw [State.deliverAll, hsplit, List.foldl_append, List.foldl_cons, hnone _ _ hlater, hmap, if_pos rfl,
    hnone _ _ (fun h => absurd (List.mem_range.mp h) (Nat.lt_irrefl _))]

/-- The lanes of a mask stand at the instruction, the others of the split go on: the warp as the traps find it. -/
theorem advance_trap_lane (w : Warp) (pc : DWord) {lanes m : LaneMask} (cause : Nat) (addr : DWord) (code : Nat) (once : Bool)
    (i : Nat) :
    (w.advance pc lanes m (allLanes m (.trap cause addr code)) once).lane i =
      if m.has i then { w.lane i with pc := pc, status := .running }
      else if lanes.has i then landAt pc none (w.lane i) else w.lane i := by
  have h : w.advance pc lanes m (allLanes m (.trap cause addr code)) once =
      m.lanes.foldl (fun w l => w.updLane l (fun x => { x with pc := pc, status := .running }))
        ((lanes &&& ~~~m).lanes.foldl (fun w l => w.updLane l (landAt pc none)) w) := by
    simp only [Warp.advance, allLanes, List.foldl_map]
    rfl
  rw [h, setLanes_lane _ _ (fun _ x => { x with pc := pc, status := .running }) (LaneMask.lanes_nodup _),
    setLanes_lane _ _ (fun _ => landAt pc none) (LaneMask.lanes_nodup _)]
  by_cases hm : m.has i
  · simp [hm]
  · by_cases hl : lanes.has i
    · simp [hm, hl, LaneMask.has_lt hl]
    · simp [hm, hl]

theorem advance_trap_rest (w : Warp) (pc : DWord) {lanes m : LaneMask} (cause : Nat) (addr : DWord) (code : Nat) (once : Bool) :
    w.advance pc lanes m (allLanes m (.trap cause addr code)) once =
      { w with lanes := (w.advance pc lanes m (allLanes m (.trap cause addr code)) once).lanes } := by
  have h : w.advance pc lanes m (allLanes m (.trap cause addr code)) once =
      m.lanes.foldl (fun w l => w.updLane l (fun x => { x with pc := pc, status := .running }))
        ((lanes &&& ~~~m).lanes.foldl (fun w l => w.updLane l (landAt pc none)) w) := by
    simp only [Warp.advance, allLanes, List.foldl_map]
    rfl
  rw [h, setLanes_rest _ _ (fun _ x => { x with pc := pc, status := .running }), setLanes_rest w _ (fun _ => landAt pc none)]

theorem writeDone_trap (w : Warp) (m : LaneMask) (cause : Nat) (addr : DWord) (code : Nat) :
    w.writeDone (allLanes m (.trap cause addr code)) = w := by
  have hnone : ∀ F : Nat × LaneOutcome → Option (List RegWrite), (∀ l, F (l, .trap cause addr code) = none) →
      (allLanes m (.trap cause addr code)).findSome? F = none := by
    intro F hF
    rw [List.findSome?_eq_none_iff]
    intro o ho
    obtain ⟨l, _, rfl⟩ := List.mem_map.mp ho
    exact hF l
  have hfold : ∀ (ls : List Nat) (w : Warp), (ls.map (fun l => (l, LaneOutcome.trap cause addr code))).foldl
      (fun w o => match o.2 with | .done ws _ => w.writeLane o.1 ws | _ => w) w = w := by
    intro ls
    induction ls with
    | nil => exact fun w => rfl
    | cons l ls ih => exact fun w => ih w
  unfold Warp.writeDone
  rw [hnone _ (fun _ => rfl)]
  exact hfold m.lanes w

/-- Retirement of an entry all of whose lanes of Active trap with one cause. -/
theorem retire_trapped {b : State} {c : Ctx} {m : LaneMask} {cause : Nat} (hc : cause < 0x16) (addr : DWord) (code : Nat)
    (hp : (b.warp c.wid).parkedSince = none) (htvec : (b.warp c.wid).tvec = c.w.tvec)
    (h : CanTrap (b.warp c.wid) m) :
    Trapped b c m cause addr code
      ((b.countIssue c.wid).retire c.wid c.pc c.word c.lanes m (allLanes m (.trap cause addr code)) 0 id) := by
  set w0 : Warp := { b.warp c.wid with wissued := (b.warp c.wid).wissued + 1 } with hw0
  set w1 := w0.advance c.pc c.lanes m (allLanes m (.trap cause addr code)) (actsOnce c.word) with hw1
  have hr1 : w1 = { w0 with lanes := w1.lanes } := advance_trap_rest ..
  have hl1 : ∀ l, w1.lane l = if m.has l then { (b.warp c.wid).lane l with pc := c.pc, status := .running }
      else if c.lanes.has l then landAt c.pc none ((b.warp c.wid).lane l) else (b.warp c.wid).lane l :=
    fun l => advance_trap_lane ..
  set w2 : Warp := { w1 with wretired := w1.wretired + 1, hangBase := b.runsFrom (b.warp c.wid).gcore } with hw2
  have hcan : CanTrap ((b.setWarp c.wid w2).warp c.wid) m := by
    rw [State.warp_setWarp_self]
    refine ⟨h.lanes, ?_, fun l hl => ?_, ?_⟩
    · rw [hw2, hr1]; exact h.handler
    · have : w2.lane l = w1.lane l := rfl
      rw [this, hl1, if_pos hl]
      exact h.tags l hl
    · rw [hw2, hr1]; exact h.room
  set w3 := delivered (b.setWarp c.wid w2) c.wid c.pc c.word m cause addr code with hw3
  have hl3 : ∀ l, w3.lane l = if m.has l then trapLane (b.warp c.wid).tvec c.pc cause addr ((b.warp c.wid).lane l)
      else if c.lanes.has l then landAt c.pc none ((b.warp c.wid).lane l) else (b.warp c.wid).lane l := by
    intro l
    rw [hw3, delivered, setLanes_lane _ _ (fun _ => trapLane _ c.pc cause addr) (LaneMask.lanes_nodup m),
      State.warp_setWarp_self]
    have e1 : ∀ r, (withRecord w2 r).lane l = w1.lane l := fun _ => rfl
    have e2 : w2.tvec = (b.warp c.wid).tvec := by rw [hw2, hr1]
    rw [e1, e2, hl1]
    by_cases hm : m.has l = true
    · simp only [LaneMask.mem_lanes, hm, if_true]; rfl
    · simp only [LaneMask.mem_lanes, hm, Bool.false_eq_true, if_false]
  have hr3 : w3 = { b.warp c.wid with
      lanes := w3.lanes
      records := (b.warp c.wid).records ++ [trapRecord b c.wid c.pc c.word m cause addr code]
      lost := 0, seq := (b.warp c.wid).seq + 1, entered := (b.warp c.wid).entered + 1
      wissued := (b.warp c.wid).wissued + 1, wretired := (b.warp c.wid).wretired + 1
      hangBase := b.runsFrom (b.warp c.wid).gcore } := by
    have e : w3 = { withRecord w2 (trapRecord (b.setWarp c.wid w2) c.wid c.pc c.word m cause addr code) with lanes := w3.lanes } := by
      have hd : w3 = m.lanes.foldl (fun w l => w.updLane l (trapLane w2.tvec c.pc cause addr))
          (withRecord w2 (trapRecord (b.setWarp c.wid w2) c.wid c.pc c.word m cause addr code)) := by
        rw [hw3, delivered, State.warp_setWarp_self]
      rw [hd]
      exact setLanes_rest _ m.lanes (fun _ => trapLane w2.tvec c.pc cause addr)
    rw [e, trapRecord, State.warp_setWarp_self, hw2, hr1]
    rfl
  have ht : (b.countIssue c.wid).retire c.wid c.pc c.word c.lanes m (allLanes m (.trap cause addr code)) 0 id = b.setWarp c.wid w3 := by
    have e : (b.countIssue c.wid).updWarp c.wid (fun w =>
        let w := id (((w.writeDone (allLanes m (.trap cause addr code))).advance c.pc c.lanes m
          (allLanes m (.trap cause addr code)) (actsOnce c.word)).raise 0)
        { w with wretired := w.wretired + 1
                 hangBase := (b.countIssue c.wid).runsFrom ((b.countIssue c.wid).warp c.wid).gcore }) = b.setWarp c.wid w2 := by
      simp only [State.countIssue, State.updWarp, State.warp_setWarp_self, State.setWarp_setWarp, writeDone_trap, raise_zero, id]
      rfl
    obtain ⟨l, hl⟩ := LaneMask.exists_has h.lanes
    simp only [State.retire]
    rw [e, trapsOf_all, deliverAll_one hc, deliver_trapLanes hcan, State.setWarp_setWarp]
    refine goes_on (LaneMask.has_lt hl) ?_ ?_
    · rw [State.warp_setWarp_self, ← hw3, hl3, if_pos hl]; rfl
    · rw [State.warp_setWarp_self, ← hw3, hr3]; exact hp
  rw [ht]
  refine ⟨by simp, fun l _ => ?_, ?_⟩
  · rw [State.warp_setWarp_self, hl3, htvec]; rfl
  · rw [State.warp_setWarp_self]; exact hr3

end Sys2Proof.Machine
end

section
/-! # Proofs: what every instruction shares, and an empty Active (R40, R53) -/

namespace Sys2Proof.Machine

/-! ## Shared operations without a lane -/

theorem lanes_zero : LaneMask.lanes 0 = [] := LaneMask.lanes_eq_nil.mpr rfl

/-- With every member of the set at the tile instruction, each has signed or has exited. -/
theorem tileSigned_of_ready {w : Warp} {pc : DWord} {lanes : LaneMask} {n : Nat} (h : tileReady w pc lanes n = true) :
    tileSigned w n = true := by
  rw [tileReady, List.all_eq_true] at h
  rw [tileSigned, List.all_eq_true]
  intro l hl
  have := h l hl
  simp only [Bool.or_eq_true, Bool.and_eq_true] at this ⊢
  tauto

section
variable {c : Ctx} (h : c.active = 0)
include h

theorem releasing_idle (rel : Bool) (s : State) (r : Result) : releasing rel c s r = r := by
  simp [releasing, h]

theorem accessLanes_idle (s : State) (f : Fields) (k : AccKind) (align : Nat)
    (act : State → Nat → State.Place → State × List RegWrite × Bool) : accessLanes c s f k align act = { s, outs := [] } := by
  simp only [accessLanes, h, lanes_zero]
  rfl

theorem storeBody_idle (s : State) (f : Fields) : storeBody c s f = { s, outs := [] } := by
  have hcount : (fun w : Warp => w.countBound (storeBound f) 0) = id := by
    funext w
    cases hb : storeBound f <;> rfl
  have htraps : boundTraps c.w (storeBound f) 0 = false := by
    cases hb : storeBound f <;> simp [boundTraps]
  simp only [storeBody, h, lanes_zero, checkLanes, storeLanes, List.filter_nil, List.map_nil, List.length_nil, htraps, hcount]
  rfl

theorem feclrLanes_idle (s : State) (f : Fields) : feclrLanes c s f = { s, outs := [] } := by
  simp only [feclrLanes, h, lanes_zero]
  rfl

theorem stfeLanes_idle (s : State) (f : Fields) : stfeLanes c s f = { s, outs := [] } := by
  simp only [stfeLanes, releasing_idle h, h, lanes_zero]
  rfl

theorem queueAccess_idle (s : State) (f : Fields) (k : AccKind) (align : Nat)
    (act : State → Nat → State.Place → State × LaneOutcome × Bool) : queueAccess c s f k align act = { s, outs := [] } := by
  simp only [queueAccess, h, lanes_zero]
  rfl

theorem countLanes_idle (s : State) (f : Fields) (act : State → Nat → Nat → State × Bool) :
    countLanes c f s act = { s, outs := [] } := by
  simp only [countLanes, h, lanes_zero]
  rfl

theorem transferLanes_idle (s : State) (tgt : Bool) (g : Nat → DWord) (ws : List RegWrite) :
    transferLanes s c tgt (goals c g) ws = { s, outs := [] } := by
  simp only [transferLanes, goals, h, lanes_zero]
  rfl

theorem kickAll_idle (s : State) (f : Fields) (id : Nat) : kickAll c s f id = { s, outs := [] } := by
  simp only [kickAll, h, lanes_zero]
  rfl

theorem placeAll_idle (s : State) (i : Instr) (f : Fields) : placeAll c s i f = { s, outs := [] } := by
  simp only [placeAll, h, lanes_zero]
  rfl

end

/-! ## What every instruction shares -/

/-- Every instruction performs a body, which does nothing for an empty Active; a tile instruction first waits for its set. -/
theorem exec_performs {i : Instr} {f : Fields} (h : i.fields = some f) (s : State) :
    ∃ body, exec i s = perform i f s body ∧ ∀ c : Ctx, c.active = 0 →
      (∀ r, i.row = some r → r.sig.sc = .cv → tileReady c.w c.pc c.lanes (cvNo f.sc) = true) → body c = { s, outs := [] } := by
  cases i <;> cases h
  all_goals
    simp only [exec,
      execNop, execMov, execMovi, execMovk, execMovs, execSel, execIadd, execIsub, execIaddc, execImul, execImulh, execImad,
      execImal, execIdiv, execIrem, execImin, execImax, execIabs, execIneg, execIadd64, execIsub64, execLea, execAnd,
      execOr, execXor, execAndn, execNot, execShl, execShr, execSha, execRotl, execFshf, execBfe, execBfi, execPopc,
      execClz, execCtz, execBrev, execBmix, execIcmp, execIcmp64, execPtab, execPmovGet, execPmovSet, execLpoll, execLxch,
      execLfold, execLgrp, execFadd, execFsub, execFmul, execFfma, execFmin, execFmax, execFcmp, execFclass, execFdiv,
      execFsqrt, execFrcp, execFrsq, execFex2, execFlg2, execFsin, execFcos, execFtanh, execFsgm, execHadd2, execHmul2,
      execHfma2, execBadd2, execBmul2, execBfma2, execDadd, execDmul, execDfma, execCvt, execF2i, execI2f, execPack8,
      execUnpk8, execTos24, execFroms24, execPack16, execPacki8, execOmset, execOmld, execGidx, execCvdecl, execCvsign,
      execMma8, execMmah, execMmab, execMmai, execSacc, execIacc, execAccz, execAccld, execAccst, execAccmov, execDrain,
      execDraina, execLd, execSt, execLdfe, execStfe, execFeclr, execAtom, execAcas, execRed, execFence, execPref, execBra,
      execBrx, execCall, execCallx, execRet, execExit, execWsync, execYield, execSleep, execRgacq, execRgrel, execRole,
      execBrk, execTrap, execKick, execKickDie, execWainst, execQpush, execQpop, execQpeek, execQclose, execLnch,
      execShadow, execPublish, execBara, execBarw, execBars, execBarq, execBcinit, execBcadd, execBcwait, execCntrd,
      execGtrd, execTcinv, execTcrcl, execPlace, execRepl, execProbe, execProbeF, execSysrd, execSyswr, execEret,
      execTrqpop, execBndset, execBndrd, execDiagst, execDiagld, execWdog, execHalt, execIdle,
      performLanes, performFp, performWarp, performTile, barrierInstr]
    refine ⟨_, rfl, fun c hc ht => ?_⟩
  case mma8 | mmah | mmab | mmai | sacc | iacc | accz | accld | accst | accmov | drain | draina =>
    have hready := ht _ rfl rfl
    simp only [hc, hready, tileSigned_of_ready hready, ite_self, Bool.not_true, Bool.false_eq_true, if_false, if_true]
  case st => simp only [stLanes, releasing_idle hc, storeBody_idle hc]
  case stfe => exact stfeLanes_idle hc s _
  case feclr => exact feclrLanes_idle hc s _
  case ld => exact accessLanes_idle hc ..
  case atom => simp only [atomLanes, releasing_idle hc, accessLanes_idle hc]
  case acas => simp only [acasLanes, releasing_idle hc, accessLanes_idle hc]
  case red => simp only [redLanes, releasing_idle hc, accessLanes_idle hc]
  case bra | brx | call | callx | ret => exact transferLanes_idle hc ..
  case eret => simp only [transferLanes_idle hc]; rfl
  case kick => exact kickAll_idle hc ..
  case kickDie => simp only [kickAll_idle hc, hc, lanes_zero, List.map_nil, ite_self]
  case qpush | lnch => simp only [releasing_idle hc, queueAccess_idle hc]
  case qpop | qpeek => exact queueAccess_idle hc ..
  case bcinit => exact countLanes_idle hc ..
  case bcadd => simp only [bcaddLanes, releasing_idle hc, countLanes_idle hc]
  case place | repl => exact placeAll_idle hc ..
  all_goals
    obtain ⟨wid, w, pc, lanes, active, word, since⟩ := c
    subst hc
    simp only [lanes_zero, doneAll, allLanes, trapAll, List.map_nil, if_true] <;> rfl

end Sys2Proof.Machine
end

section
/-! # Proofs: an empty Active, traps, fences and transfers (R40, R53, R137, R138, R144, R236, R314) -/

namespace Sys2Proof.Machine

/-! ## An empty Active, and FENCE -/

/-- Settles O34: an empty Active leaves the body of every instruction nothing to do, and the entry retires. -/
theorem emptyActiveDoesNothing : Obligations.EmptyActiveDoesNothing := by
  unfold Obligations.EmptyActiveDoesNothing
  intro s i f r hf hr hi h0 ht
  obtain ⟨body, hx, hidle⟩ := exec_performs hf s
  have hb : body (s.ctx f) = { s, outs := [] } :=
    hidle _ h0 (fun r' hr' hcv => by cases hr.symm.trans hr'; exact ht hcv)
  rw [hx, perform_first hi, hb]
  exact finish_completes (dest := fun _ => none) hi.split hi.unparked (fun _ _ => inRange_nil) (by rw [h0, doneOuts, lanes_zero]; rfl)
    rfl rfl rfl rfl rfl rfl

/-- Settles O28: the body waits only where an older store-like access is not complete. -/
theorem fenceResults : Obligations.FenceResults := by
  unfold Obligations.FenceResults
  intro s f hi
  have hx : exec (.fence f) s = execFence f s := rfl
  refine ⟨fun h => ?_, fun hne hst => ?_⟩
  · rw [hx, execFence, perform_first hi]
    rcases h with h | h
    · rw [if_pos h]
      exact finish_completes (dest := fun _ => none) hi.split hi.unparked (fun _ _ => inRange_nil)
        (by rw [h, doneOuts, lanes_zero]; rfl) rfl rfl rfl rfl rfl rfl
    · by_cases h0 : (s.ctx f).active = 0
      · rw [if_pos h0]
        exact finish_completes (dest := fun _ => none) hi.split hi.unparked (fun _ _ => inRange_nil)
          (by rw [h0, doneOuts, lanes_zero]; rfl) rfl rfl rfl rfl rfl rfl
      · rw [if_neg h0, if_pos h]
        exact finish_completes (dest := fun _ => none) hi.split hi.unparked (fun _ _ => inRange_nil) rfl rfl rfl rfl rfl rfl rfl
  · rw [hx, execFence, perform_first hi, if_neg hne, if_neg (by rw [hst]; exact Bool.false_ne_true)]
    exact finish_enters rfl rfl rfl (by simp)

/-! ## Traps -/

/-- An instruction all of whose lanes of Active trap with one cause. -/
theorem finish_traps {i : Instr} {c : Ctx} {r : Result} {cause : Nat} {addr : DWord} {code : Nat} (hc : cause < 0x16)
    (houts : r.outs = trapAll c cause addr code) (hp : (r.s.warp c.wid).parkedSince = none)
    (htvec : (r.s.warp c.wid).tvec = c.w.tvec) (h : CanTrap (r.s.warp c.wid) c.active) (hf : r.flags = 0) (ho : r.onWarp = id)
    (hh : r.hole = none) (hcons : r.consumed = none) (ha : r.again = false) (hwt : r.wait = .nothing) :
    ∃ t, finish i c r = .next t ∧ Trapped r.s c c.active cause addr code t := by
  refine ⟨_, ?_, retire_trapped hc addr code hp htvec h⟩
  simp only [finish, hh, hcons, ha, hwt, houts, hf, ho, if_true, Bool.false_eq_true, if_false]
  rfl

theorem decodeCause_lt {s : State} {c : Ctx} {i : Instr} {cause : Nat} (h : decodeCause s c i = some cause) : cause < 0x16 := by
  unfold decodeCause at h
  repeat' split at h
  all_goals
    cases h <;> decide

/-- Settles O31: BRK and TRAP give every lane of Active their cause; a decode-time cause stands before the body of any instruction. -/
theorem trapEntry : Obligations.TrapEntry := by
  unfold Obligations.TrapEntry
  refine ⟨fun s f hcan => ⟨fun hi => ?brk, fun hi => ?trap⟩, fun s i f cause hf hd hp hrob hnow hcan => ?decode⟩
  case brk =>
    have hx : exec (.brk f) s = execBrk f s := rfl
    rw [hx, execBrk, perform_first hi]
    exact finish_traps (by decide) rfl hi.unparked rfl hcan rfl rfl rfl rfl rfl rfl
  case trap =>
    have hx : exec (.trap f) s = execTrap f s := rfl
    rw [hx, execTrap, perform_first hi]
    exact finish_traps (by decide) rfl hi.unparked rfl hcan rfl rfl rfl rfl rfl rfl
  case decode =>
    obtain ⟨body, hx, -⟩ := exec_performs hf s
    exact ⟨_, hx.trans (perform_illegal hd hrob hnow), retire_trapped (decodeCause_lt hd) 0 0 hp rfl hcan⟩

/-! ## Lanes that the instruction itself changes as it retires: EXIT and ERET -/

/-- Retirement where every lane of Active has completed, wrote nothing, and then changes by `g`. -/
theorem retire_changes (b : State) (c : Ctx) (dest : Nat → Option DWord) (g : Nat → Lane → Lane) (own : Warp → Warp)
    (hown : ∀ w, own w = c.active.lanes.foldl (fun w l => w.updLane l (g l)) w) :
    ∃ w : Warp,
      (∀ l, w.lane l = if c.active.has l then g l (landAt c.pc (dest l) ((b.warp c.wid).lane l))
        else if c.lanes.has l then landAt c.pc none ((b.warp c.wid).lane l) else (b.warp c.wid).lane l) ∧
      w = { b.warp c.wid with lanes := w.lanes, wissued := (b.warp c.wid).wissued + 1, wretired := (b.warp c.wid).wretired + 1
                              hangBase := b.runsFrom (b.warp c.wid).gcore } ∧
      (b.countIssue c.wid).retire c.wid c.pc c.word c.lanes c.active (doneOuts c.active (fun _ => []) dest) 0 own =
        ((b.setWarp c.wid w).settleParked c.wid).endWarp c.wid := by
  set w0 : Warp := { b.warp c.wid with wissued := (b.warp c.wid).wissued + 1 } with hw0
  have hnone : w0.writeDone (doneOuts c.active (fun _ => []) dest) = w0 := by
    rw [writeDone_done]
    split
    · rfl
    · have : ∀ (ls : List Nat) (w : Warp), writeLanes w ls (fun _ => []) = w := by
        intro ls
        induction ls with
        | nil => exact fun _ => rfl
        | cons l ls ih => exact fun w => ih w
      rw [this]; rfl
  set w1 := w0.advance c.pc c.lanes c.active (doneOuts c.active (fun _ => []) dest) (actsOnce c.word) with hw1
  have hl1 : ∀ l, w1.lane l = if c.active.has l then landAt c.pc (dest l) ((b.warp c.wid).lane l)
      else if c.lanes.has l then landAt c.pc none ((b.warp c.wid).lane l) else (b.warp c.wid).lane l := fun l => advance_lane ..
  have hr1 : w1 = { w0 with lanes := w1.lanes } := advance_rest ..
  set w2 := own w1 with hw2
  have hl2 : ∀ l, w2.lane l = if c.active.has l then g l (w1.lane l) else w1.lane l := fun l => by
    rw [hw2, hown, setLanes_lane _ _ g (LaneMask.lanes_nodup _)]
    simp only [LaneMask.mem_lanes]
  have hr2 : w2 = { w1 with lanes := w2.lanes } := by
    rw [hw2, hown]
    exact setLanes_rest _ _ g
  refine ⟨{ w2 with wretired := w2.wretired + 1, hangBase := b.runsFrom (b.warp c.wid).gcore }, fun l => ?_, ?_, ?_⟩
  · have : Warp.lane { w2 with wretired := w2.wretired + 1, hangBase := b.runsFrom (b.warp c.wid).gcore } l = w2.lane l := rfl
    rw [this, hl2, hl1]
    by_cases h : c.active.has l = true
    · simp only [h, if_true]
    · simp only [h, Bool.false_eq_true, if_false]
  · rw [hr2, hr1]
  · have h : (b.countIssue c.wid).updWarp c.wid (fun w =>
        let w := own (((w.writeDone (doneOuts c.active (fun _ => []) dest)).advance c.pc c.lanes c.active
          (doneOuts c.active (fun _ => []) dest) (actsOnce c.word)).raise 0)
        { w with wretired := w.wretired + 1
                 hangBase := (b.countIssue c.wid).runsFrom ((b.countIssue c.wid).warp c.wid).gcore }) =
        b.setWarp c.wid { w2 with wretired := w2.wretired + 1, hangBase := b.runsFrom (b.warp c.wid).gcore } := by
      simp only [State.countIssue, State.updWarp, State.warp_setWarp_self, State.setWarp_setWarp, raise_zero]
      rw [← hw0, hnone]
      rfl
    simp only [State.retire, trapsOf_done, deliverAll_nil]
    rw [h]

/-! ## Transfers -/

/-- The lanes of a transfer whose targets all pass. -/
theorem transferLanes_pass {s b : State} {c : Ctx} {tgt : Bool} {goal : Nat → DWord} (h : TargetsPass s c tgt goal b)
    (ws : List RegWrite) :
    transferLanes s c tgt (goals c goal) ws = { s := b, outs := doneOuts c.active (fun _ => ws) (fun l => some (goal l)) } := by
  have hwait : ((goals c goal).map (fun g => (g.1, g.2, Transfer.ok))).any (fun x => x.2.2 == .wait) = false := by
    rw [List.any_eq_false]
    intro x hx
    obtain ⟨g, _, rfl⟩ := List.mem_map.mp hx
    exact Bool.false_ne_true
  have houts : ∀ F : Nat × DWord × Transfer → Option (Nat × LaneOutcome),
      (∀ l pc, F (l, pc, .ok) = some (l, .done ws (some pc))) →
      ((goals c goal).map (fun g => (g.1, g.2, Transfer.ok))).filterMap F = doneOuts c.active (fun _ => ws) (fun l => some (goal l)) := by
    intro F hF
    simp only [goals, List.map_map, List.filterMap_map, Function.comp_def, hF]
    exact congrFun List.filterMap_eq_map _
  have hnone : ∀ {α : Type} (F : Nat × DWord × Transfer → Option α), (∀ l pc, F (l, pc, .ok) = none) →
      ((goals c goal).map (fun g => (g.1, g.2, Transfer.ok))).findSome? F = none := by
    intro α F hF
    rw [List.findSome?_eq_none_iff]
    intro x hx
    obtain ⟨g, _, rfl⟩ := List.mem_map.mp hx
    exact hF ..
  unfold TargetsPass at h
  unfold transferLanes
  rw [h]
  simp only [hwait, Bool.false_eq_true, if_false]
  rw [houts _ (fun _ _ => rfl), hnone _ (fun _ _ => rfl), hnone _ (fun _ _ => rfl)]

/-- An instruction that takes the lanes of Active to targets that pass. -/
theorem transfer_completes {i : Instr} {f : Fields} {s b : State} {goal : Nat → DWord} {g : Ctx → Nat → DWord}
    {link : Ctx → List RegWrite}
    (hx : exec i s = perform i f s (fun c => transferLanes s c true (goals c (g c)) (link c))) (hi : Issuing i f s)
    (hg : ∀ l, g (s.ctx f) l = goal l) (hlink : inRange (link (s.ctx f))) (h : TargetsPass s (s.ctx f) true goal b)
    (hp : (b.warp (s.ctx f).wid).parkedSince = none) :
    ∃ t, exec i s = .next t ∧ Completed b (s.ctx f) (fun _ => link (s.ctx f)) goal id t := by
  rw [hx, perform_first hi]
  have e : g (s.ctx f) = goal := funext hg
  rw [e, transferLanes_pass h]
  exact finish_completes (i := i) (ws := fun _ => link (s.ctx f)) (dest := fun l => some (goal l))
    (r := { s := b, outs := doneOuts (s.ctx f).active (fun _ => link (s.ctx f)) (fun l => some (goal l)) })
    hi.split hp (fun _ _ => hlink) rfl rfl rfl rfl rfl rfl rfl

theorem branchTarget_eq (pc : DWord) (f : Fields) :
    branchTarget pc f = BitVec.ofInt 64 ((lineOf pc).toNat + 64 * (f.imm.extractLsb' 3 29).toInt + (f.imm.extractLsb' 0 3).toNat) := by
  have hshift : ((f.imm.extractLsb' 3 29).signExtend 64 <<< 6 : DWord) = BitVec.ofInt 64 (64 * (f.imm.extractLsb' 3 29).toInt) := by
    have h : ((f.imm.extractLsb' 3 29).signExtend 64 : DWord) = BitVec.ofInt 64 (f.imm.extractLsb' 3 29).toInt := rfl
    rw [h, BitVec.shiftLeft_eq_mul_twoPow, BitVec.ofInt_mul]
    exact BitVec.mul_comm _ _
  rw [branchTarget, hshift, BitVec.ofInt_add, BitVec.ofInt_add]
  congr 1
  · congr 1
    rw [BitVec.ofInt_natCast, BitVec.ofNat_toNat, BitVec.setWidth_eq]

/-- A target in a line that the warp holds needs no fetch. -/
theorem checkTarget_held {s : State} {wid l : Nat} {pc : DWord} (hpc : isPc pc = true) {x : DWord × BitVec 512}
    (hx : (s.warp wid).lines.find? (fun y => y.1 == lineOf pc) = some x) (ht : Line.target x.2 (slotOf pc) = true) :
    checkTarget s wid l true pc = (s, .ok) := by
  have h : fetchLine s wid l (lineOf pc) = .line s x.2 := by simp only [fetchLine, hx]
  simp only [checkTarget, hpc, h, ht, Bool.not_true, Bool.and_false, Bool.false_eq_true, if_false]

theorem targetsPass_held {s : State} {c : Ctx} {goal : Nat → DWord}
    (h : ∀ l, c.active.has l = true → checkTarget s c.wid l true (goal l) = (s, .ok)) : TargetsPass s c true goal s := by
  have all : ∀ ls : List Nat, (∀ l ∈ ls, checkTarget s c.wid l true (goal l) = (s, .ok)) →
      checkTargets s c.wid true (ls.map (fun l => (l, goal l))) =
        (s, (ls.map (fun l => (l, goal l))).map (fun g => (g.1, g.2, Transfer.ok))) := by
    intro ls
    induction ls with
    | nil => exact fun _ => rfl
    | cons l ls ih =>
      intro hl
      simp only [List.map_cons, checkTargets, hl l (by simp), ih (fun k hk => hl k (by simp [hk]))]
  exact all _ (fun l hl => h l (LaneMask.mem_lanes.mp hl))

/-! ## ERET (R314) -/

theorem clearTags_done (m : LaneMask) (ws : Nat → List RegWrite) (dest : Nat → Option DWord) (w : Warp) :
    w.clearTags (doneOuts m ws dest) = m.lanes.foldl (fun w l => w.updLane l (fun x => { x with tag := none })) w := by
  simp only [Warp.clearTags, doneOuts, List.foldl_map]

/-- Settles O32: the lanes go where their targets pass, and their tags are cleared as the entry retires. -/
theorem exceptionReturn : Obligations.ExceptionReturn := by
  unfold Obligations.ExceptionReturn
  intro s b f c goal hi hpass hp
  have hx : exec (.eret f) s = execEret f s := rfl
  obtain ⟨w, hlane, hrest, hret⟩ := retire_changes b c (fun l => some (goal l)) (fun _ x => { x with tag := none })
    (fun w => w.clearTags (doneOuts c.active (fun _ => []) (fun l => some (goal l)))) (fun w => clearTags_done ..)
  have hgo : ((b.setWarp c.wid w).settleParked c.wid).endWarp c.wid = b.setWarp c.wid w := by
    obtain ⟨l, hl⟩ := LaneMask.exists_has hi.split
    refine goes_on (LaneMask.has_lt hl) ?_ ?_
    · rw [State.warp_setWarp_self, hlane]
      by_cases ha : c.active.has l = true
      · simp [ha, landAt]
      · have hl' : c.lanes.has l = true := hl
        simp [ha, hl', landAt]
    · rw [State.warp_setWarp_self, hrest]; exact hp
  refine ⟨b.setWarp c.wid w, ?_, by simp, fun l _ => ?_, ?_⟩
  · rw [hx, execEret, perform_first hi]
    have e : transferLanes s c false (goals c (returnPc c.w f.mod0)) [] =
        { s := b, outs := doneOuts c.active (fun _ => []) (fun l => some (goal l)) } := by
      have hg : returnPc c.w f.mod0 = goal := by
        funext l
        simp only [returnPc, goal, Bool.and_eq_true]
      rw [hg]
      exact transferLanes_pass hpass []
    show finish (.eret f) c { transferLanes s c false (goals c (returnPc c.w f.mod0)) [] with
      onWarp := fun w => w.clearTags (transferLanes s c false (goals c (returnPc c.w f.mod0)) []).outs } = _
    rw [e, ← hgo, ← hret]
    rfl
  · rw [State.warp_setWarp_self, hlane]
    rfl
  · rw [State.warp_setWarp_self]; exact hrest

/-! ## EXIT (R138) -/

theorem settleParked_running {s : State} {wid l : Nat} (hl : l < 32) (hr : ((s.warp wid).lane l).status = .running)
    (hp : (s.warp wid).parkedSince = none) : s.settleParked wid = s := by
  have hlive : (s.warp wid).live.has l = true := by simp [Warp.live, hl, hr]
  have hall : ((s.warp wid).live.lanes.all (fun l => ((s.warp wid).lane l).status == .parked)) = false := by
    rw [List.all_eq_false]
    exact ⟨l, LaneMask.mem_lanes.mpr hlive, by simp [hr]⟩
  simp only [State.settleParked, hp, hall, Bool.and_false]

theorem settleParked_over {s : State} {wid : Nat} (h : (s.warp wid).live = 0) (hp : (s.warp wid).parkedSince = none) :
    s.settleParked wid = s := by
  have h0 : ((s.warp wid).live != 0) = false := by rw [h]; rfl
  simp only [State.settleParked, hp, h0, Bool.false_and]

/-- Settles O29: the targets that pass are where the lanes land; EXIT changes the lanes of Active as it retires. -/
theorem transferResults : Obligations.TransferResults := by
  unfold Obligations.TransferResults
  refine ⟨fun s b f => ?_, fun s f => ?_⟩
  · intro c next near far link goes
    have hlink : inRange (linkWrites c.pc) := by
      intro r hr
      simp only [linkWrites, List.mem_cons, List.not_mem_nil, or_false] at hr
      rcases hr with rfl | rfl
      · exact (by decide : 62 < 128)
      · exact (by decide : 63 < 128)
    refine ⟨⟨fun hi h hp => ?bra, fun hi h hp => ?brx, fun hi h hp => ?call, fun hi h hp => ?callx, fun hi h hp => ?ret⟩, ?held⟩
    case bra =>
      exact transfer_completes (g := fun c _ => branchTarget c.pc f) (link := fun _ => []) rfl hi (fun _ => branchTarget_eq ..)
        inRange_nil h hp
    case brx =>
      exact transfer_completes (g := fun c l => c.w.src64 l f.sa f.imm) (link := fun _ => []) rfl hi (fun _ => rfl)
        inRange_nil h hp
    case call =>
      exact transfer_completes (g := fun c _ => branchTarget c.pc f) (link := fun c => linkWrites c.pc) rfl hi
        (fun _ => branchTarget_eq ..) hlink h hp
    case callx =>
      exact transfer_completes (g := fun c l => c.w.src64 l f.sa f.imm) (link := fun c => linkWrites c.pc) rfl hi (fun _ => rfl)
        hlink h hp
    case ret =>
      exact transfer_completes (g := fun c l => c.w.pairV l 62) (link := fun _ => []) rfl hi (fun _ => rfl) inRange_nil h hp
    case held =>
      intro goal h
      refine targetsPass_held (fun l hl => ?_)
      obtain ⟨hpc, x, hx, ht⟩ := h l hl
      exact checkTarget_held hpc hx ht
  · intro c hi hlive
    obtain ⟨w, hlane, hrest, hret⟩ := retire_changes s c (fun _ => none) (fun _ x => { x with status := .exited })
      (fun w => c.active.lanes.foldl (fun w l => w.updLane l (fun x => { x with status := .exited })) w) (fun _ => rfl)
    have hexec : exec (.exit f) s = .next (((s.setWarp c.wid w).settleParked c.wid).endWarp c.wid) := by
      have hx : exec (.exit f) s = execExit f s := rfl
      rw [hx, execExit, perform_first hi, ← hret]
      rfl
    have hw : (s.setWarp c.wid w).warp c.wid = w := State.warp_setWarp_self ..
    have hpark : ((s.setWarp c.wid w).warp c.wid).parkedSince = none := by rw [hw, hrest]; exact hi.unparked
    -- a lane that runs besides those of Active runs on
    have hrun : (∃ l < 32, c.active.has l = false ∧ (c.w.lane l).status = .running) →
        ∃ l < 32, (((s.setWarp c.wid w).warp c.wid).lane l).status = .running := by
      rintro ⟨l, hl, hna, hr⟩
      refine ⟨l, hl, ?_⟩
      rw [hw, hlane, hna]
      by_cases hs : c.lanes.has l = true
      · simp [hs, landAt]
      · simp only [hs, Bool.false_eq_true, if_false]; exact hr
    have hsettle : (s.setWarp c.wid w).settleParked c.wid = s.setWarp c.wid w := by
      rcases hlive with h | h
      · refine settleParked_over ?_ hpark
        rw [hw, LaneMask.eq_zero_iff]
        intro l
        have hrun := hi.running l
        have hmem : c.w.live.has l = c.active.has l := by rw [h]
        by_cases hl : l < 32
        · simp only [Warp.live, LaneMask.has_ofPred, hl, decide_true, Bool.true_and] at hmem ⊢
          rw [hlane]
          by_cases ha : c.active.has l = true
          · simp [ha]
          · have hout : (c.w.lane l).status = .exited := by simpa [ha] using hmem
            have hns : c.lanes.has l = false := by
              rw [← Bool.not_eq_true]
              intro hs
              exact absurd ((hrun hl hs).symm.trans hout) (by simp)
            simp only [ha, hns, Bool.false_eq_true, if_false]
            exact bne_eq_false_iff_eq.mpr hout
        · simp [Warp.live, hl]
      · obtain ⟨l, hl, hr⟩ := hrun h
        exact settleParked_running hl hr hpark
    refine ⟨w, fun l _ => hlane l, hrest, by rw [hexec, hsettle], fun hne => ?_⟩
    obtain ⟨l, hl, hr⟩ := hrun (hlive.resolve_left hne)
    rw [hexec, goes_on hl hr hpark]

end Sys2Proof.Machine
end

section
/-! # Proofs: waits, extended blocks, forbidden forms and the state after reset (R81, R112, R139 to R143, R356) -/

namespace Sys2Proof.Machine

/-! ## What an instruction does to its warp as it retires -/

/-- A change of the warp that leaves its lanes and its place alone. -/
structure Apart (g : Warp → Warp) : Prop where
  lane : ∀ w l h, (g w).updLane l h = g (w.updLane l h)
  issued : ∀ w n, { g w with wissued := n } = g { w with wissued := n }
  gcore : ∀ w, (g w).gcore = w.gcore

theorem Apart.setLanes {g : Warp → Warp} (hg : Apart g) (ls : List Nat) (h : Nat → Lane → Lane) (w : Warp) :
    ls.foldl (fun w l => w.updLane l (h l)) (g w) = g (ls.foldl (fun w l => w.updLane l (h l)) w) := by
  induction ls generalizing w with
  | nil => rfl
  | cons l ls ih => rw [List.foldl_cons, List.foldl_cons, hg.lane, ih]

theorem Apart.advance {g : Warp → Warp} (hg : Apart g) (w : Warp) (pc : DWord) (lanes active : LaneMask)
    (ws : Nat → List RegWrite) (dest : Nat → Option DWord) (once : Bool) :
    (g w).advance pc lanes active (doneOuts active ws dest) once = g (w.advance pc lanes active (doneOuts active ws dest) once) := by
  rw [advance_done, advance_done, hg.setLanes _ (fun _ => landAt pc none), hg.setLanes _ (fun l => landAt pc (dest l))]

theorem writeDone_nothing (w : Warp) (m : LaneMask) (dest : Nat → Option DWord) : w.writeDone (doneOuts m (fun _ => []) dest) = w := by
  have : ∀ (ls : List Nat) (w : Warp), writeLanes w ls (fun _ => []) = w := by
    intro ls
    induction ls with
    | nil => exact fun _ => rfl
    | cons l ls ih => exact fun w => ih w
  rw [writeDone_done]
  split
  · rfl
  · rw [this]; rfl

theorem Apart.issue {g : Warp → Warp} (hg : Apart g) (w : Warp) :
    ({ g w with wissued := (g w).wissued + 1 } : Warp) = g { w with wissued := w.wissued + 1 } := by
  have h : (g w).wissued = w.wissued := (congrArg Warp.wissued (hg.issued w w.wissued)).symm
  rw [h, hg.issued]

/-- The warp as an entry leaves it that has completed and wrote nothing. -/
def retiredWarp (s : State) (c : Ctx) (dest : Nat → Option DWord) (own : Warp → Warp) (w : Warp) : Warp :=
  let w := own (w.advance c.pc c.lanes c.active (doneOuts c.active (fun _ => []) dest) (actsOnce c.word))
  { w with wretired := w.wretired + 1, hangBase := s.runsFrom (s.warp c.wid).gcore }

theorem retire_nothing (b : State) (c : Ctx) (dest : Nat → Option DWord) (own : Warp → Warp) :
    (b.countIssue c.wid).retire c.wid c.pc c.word c.lanes c.active (doneOuts c.active (fun _ => []) dest) 0 own =
      ((b.setWarp c.wid (retiredWarp b c dest own { b.warp c.wid with wissued := (b.warp c.wid).wissued + 1 })).settleParked
        c.wid).endWarp c.wid := by
  have h : (b.countIssue c.wid).updWarp c.wid (fun w =>
      let w := own (((w.writeDone (doneOuts c.active (fun _ => []) dest)).advance c.pc c.lanes c.active
        (doneOuts c.active (fun _ => []) dest) (actsOnce c.word)).raise 0)
      { w with wretired := w.wretired + 1
               hangBase := (b.countIssue c.wid).runsFrom ((b.countIssue c.wid).warp c.wid).gcore }) =
      b.setWarp c.wid (retiredWarp b c dest own { b.warp c.wid with wissued := (b.warp c.wid).wissued + 1 }) := by
    simp only [State.countIssue, State.updWarp, State.warp_setWarp_self, State.setWarp_setWarp, writeDone_nothing, raise_zero]
    rfl
  simp only [State.retire, trapsOf_done, deliverAll_nil]
  rw [h]

/-- A change apart from the lanes may as well come before the retirement. -/
theorem retire_apart {g q : Warp → Warp} (hg : Apart g) (b : State) (c : Ctx) (dest : Nat → Option DWord) :
    (b.countIssue c.wid).retire c.wid c.pc c.word c.lanes c.active (doneOuts c.active (fun _ => []) dest) 0 (fun w => q (g w)) =
      ((b.updWarp c.wid g).countIssue c.wid).retire c.wid c.pc c.word c.lanes c.active (doneOuts c.active (fun _ => []) dest) 0 q := by
  have hbase : (b.updWarp c.wid g).runsFrom ((b.updWarp c.wid g).warp c.wid).gcore = b.runsFrom (b.warp c.wid).gcore := by
    rw [State.warp_updWarp_self, hg.gcore, State.updWarp_runsFrom]
  have hwarp : retiredWarp (b.updWarp c.wid g) c dest q
      { (b.updWarp c.wid g).warp c.wid with wissued := ((b.updWarp c.wid g).warp c.wid).wissued + 1 } =
      retiredWarp b c dest (fun w => q (g w)) { b.warp c.wid with wissued := (b.warp c.wid).wissued + 1 } := by
    simp only [retiredWarp, hbase]
    rw [State.warp_updWarp_self, hg.issue, hg.advance]
  rw [retire_nothing, retire_nothing, hwarp, State.updWarp, State.setWarp_setWarp]

/-- `finish` on a body whose lanes have all completed, wrote nothing, and that changes its warp by `g` and then by `q`. -/
theorem finish_apart {i : Instr} {c : Ctx} {b : State} {dest : Nat → Option DWord} {g q : Warp → Warp} (hg : Apart g) (hq : Own q)
    (hne : c.lanes ≠ 0) (hp : (g (b.warp c.wid)).parkedSince = none) :
    ∃ t, finish i c { s := b, outs := doneOuts c.active (fun _ => []) dest, onWarp := fun w => q (g w) } = .next t ∧
      Completed (b.updWarp c.wid g) c (fun _ => []) (fun l => (dest l).getD (nextPc c.pc)) q t := by
  have h := retire_done (b := b.updWarp c.wid g) (c := c) (ws := fun _ => []) (dest := dest) (flags := 0) (own := q)
    (by simp only [raise_zero]; exact hq) hne (by rw [State.warp_updWarp_self]; exact hp) (fun _ _ => inRange_nil)
  simp only [raise_zero] at h
  exact ⟨_, by rw [← retire_apart hg]; rfl, h⟩

/-- A change of the warp that the body has made before is what the instruction does to its own warp. -/
theorem Completed.of_updWarp {b : State} {c : Ctx} {ws : Nat → List RegWrite} {goto : Nat → DWord} {own : Warp → Warp} {t : State}
    (hkeep : ∀ w : Warp, own w = { own w with v := w.v, k := w.k, p := w.p, lanes := w.lanes, wissued := w.wissued
                                              wretired := w.wretired, gcore := w.gcore })
    (h : Completed (b.updWarp c.wid own) c ws goto id t) : Completed b c ws goto own t := by
  obtain ⟨only, v, p, k, lane, rest⟩ := h
  rw [State.warp_updWarp_self, hkeep] at v p k lane rest
  refine ⟨?_, v, p, k, lane, ?_⟩
  · conv_lhs => rw [only]
    rw [State.updWarp, State.setWarp_setWarp]
  · rw [rest, hkeep]
    rfl

/-! ## Extended blocks (R81, R142, R143) -/

theorem get_filter_key {β : Type} (d : β) (m : Sparse β) (q : Nat → Bool) (k : Nat) :
    Sparse.get d (m.filter (fun e => q e.1)) k = if q k then Sparse.get d m k else d := by
  induction m with
  | nil => simp [Sparse.get]
  | cons e m ih =>
    obtain ⟨j, x⟩ := e
    by_cases hj : q j = true
    · rw [List.filter_cons_of_pos (p := fun e : Nat × β => q e.1) hj, Sparse.get, Sparse.get, ih]
      by_cases h : j = k
      · rw [if_pos h, if_pos (h ▸ hj), if_pos h]
      · rw [if_neg h, if_neg h]
    · rw [List.filter_cons_of_neg (p := fun e : Nat × β => q e.1) hj, ih, Sparse.get]
      by_cases h : j = k
      · rw [if_neg (h ▸ hj), if_neg (h ▸ hj)]
      · rw [if_neg h]

theorem getV_takeExt (w : Warp) (l n : Nat) (hn : n < 128) : w.takeExt.getV l n = if n < 64 then w.getV l n else 0 := by
  have hmod : (128 * l + n) % 128 = n := by omega
  have h := get_filter_key 0 w.v (fun k => decide (k % 128 < 64)) (128 * l + n)
  rw [hmod] at h
  simp only [decide_eq_true_eq] at h
  exact h

theorem Apart.takeExt : Apart Warp.takeExt := ⟨fun _ _ _ => rfl, fun _ _ => rfl, fun _ => rfl⟩
theorem Apart.dropExt : Apart Warp.dropExt := ⟨fun _ _ _ => rfl, fun _ _ => rfl, fun _ => rfl⟩

theorem Own.rolePrio (f : Fields) : Own (rolePrio f) := by
  unfold Sys2Proof.Machine.rolePrio
  refine ⟨fun w _ _ _ _ _ => ?_, fun w => ?_, fun w => ?_, fun w => ?_⟩
  all_goals split <;> rfl

theorem rolePrio_comm_takeExt (f : Fields) (w : Warp) : (rolePrio f w).takeExt = rolePrio f w.takeExt := by
  unfold rolePrio
  split <;> rfl

theorem rolePrio_comm_dropExt (f : Fields) (w : Warp) : (rolePrio f w).dropExt = rolePrio f w.dropExt := by
  unfold rolePrio
  split <;> rfl

theorem joinExtQueue_cur (s : State) (g wid : Nat) : (joinExtQueue s g wid).cur = s.cur ∧ (joinExtQueue s g wid).gt = s.gt := by
  unfold joinExtQueue
  split <;> exact ⟨rfl, rfl⟩

/-- An instruction that asks for a block where none is free waits in the grant order. -/
theorem finish_asks {i : Instr} {c : Ctx} {s : State} {g : Nat} {outs : List (Nat × LaneOutcome)} :
    ∃ t, finish i c { s := joinExtQueue s g c.wid, outs, wait := .extBlock } = .next t ∧
      Entered (joinExtQueue s g c.wid) c (entryOf s c i outs .extBlock) false t := by
  obtain ⟨t, h1, h2⟩ := finish_enters (i := i) (c := c) (r := { s := joinExtQueue s g c.wid, outs, wait := .extBlock })
    rfl rfl rfl (by simp)
  have e : entryOf (joinExtQueue s g c.wid) c i outs .extBlock = entryOf s c i outs .extBlock := by
    simp only [entryOf, joinExtQueue_cur]
  exact ⟨t, h1, e ▸ h2⟩

/-! ## Waits (R139 to R141) -/

/-- Every lane of Active completes with nothing written, and the body has changed the machine to `b`. -/
theorem finish_doneAll {i : Instr} {c : Ctx} {b : State} (hne : c.lanes ≠ 0) (hp : (b.warp c.wid).parkedSince = none) :
    ∃ t, finish i c { s := b, outs := doneAll c } = .next t ∧ CompletedNext b c (fun _ => []) id t :=
  finish_completes (i := i) (r := { s := b, outs := doneAll c }) (dest := fun _ => none) hne hp (fun _ _ => inRange_nil)
    rfl rfl rfl rfl rfl rfl rfl

theorem releaseWsync_none {s : State} {wid : Nat} {m : LaneMask} (h : ∀ e ∈ (s.warp wid).pauses, wsyncMask e ≠ some m) :
    releaseWsync s wid m = s := by
  have hf : (s.warp wid).pauses.filter (fun e => wsyncMask e == some m) = [] :=
    List.filter_eq_nil_iff.mpr (fun e he hm => h e he (by simpa using hm))
  rw [releaseWsync, hf]
  rfl

/-- The instruction retires: every lane of Active goes on to the next slot, nothing is written, and its warp changes by `own` from `b`. -/
def GoesOn (s : State) (f : Fields) (i : Instr) (b : State) (own : Warp → Warp) : Prop :=
  ∃ t, exec i s = .next t ∧ CompletedNext b (s.ctx f) (fun _ => []) own t

/-- The instruction becomes an entry that waits. -/
def Waits (s : State) (f : Fields) (i : Instr) (b : State) (outs : List (Nat × LaneOutcome)) (wait : Wait) (paused : Bool) : Prop :=
  ∃ t, exec i s = .next t ∧ Entered b (s.ctx f) (entryOf s (s.ctx f) i outs wait) paused t

section
variable {s : State} {f : Fields}

theorem wsync_result (hi : Issuing (.wsync f) f s) :
    let c := s.ctx f
    let x := c.w.src32 0 f.sb f.imm
    let b := releaseWsync s c.wid x
    if c.active = 0 then GoesOn s f (.wsync f) s id
    else if x &&& c.w.live &&& ~~~(c.active ||| wsyncLanes c.w x) = 0 then (b.warp c.wid).parkedSince = none → GoesOn s f (.wsync f) b id
    else Waits s f (.wsync f) s (doneAll c) (.wsync x) true := by
  intro c x b
  have hbody : exec (.wsync f) s = finish (.wsync f) c
      (if c.active = 0 then { s, outs := doneAll c }
       else if x &&& c.w.live = 0 || x &&& c.w.live &&& ~~~(c.active ||| wsyncLanes c.w x) = 0 then { s := b, outs := doneAll c }
       else { s, outs := doneAll c, wait := .wsync x, pauses := true }) := by
    rw [show exec (.wsync f) s = execWsync f s from rfl, execWsync, perform_first hi]
    rfl
  simp only [GoesOn, Waits, hbody]
  by_cases h0 : c.active = 0
  · simp only [h0, if_true]
    exact finish_doneAll hi.split hi.unparked
  · simp only [h0, if_false]
    by_cases hgo : x &&& c.w.live &&& ~~~(c.active ||| wsyncLanes c.w x) = 0
    · simp only [hgo, decide_true, Bool.or_true, if_true]
      exact finish_doneAll hi.split
    · have hne : ¬ x &&& c.w.live = 0 := fun h => hgo (by rw [h]; exact BitVec.zero_and)
      simp only [hgo, hne, decide_false, Bool.or_false, Bool.false_eq_true, if_false]
      exact finish_enters rfl rfl rfl (by simp)

theorem sleep_result (hi : Issuing (.sleep f) f s) :
    let c := s.ctx f
    let x := c.w.src32 0 f.sb f.imm
    let deadline := if c.w.gtwake = 0 then s.gt + x.toNat else min (s.gt + x.toNat) c.w.gtwake.toNat
    if c.active = 0 ∨ deadline ≤ s.gt then GoesOn s f (.sleep f) s id
    else Waits s f (.sleep f) s (doneAll c) (.sleep deadline) true := by
  intro c x deadline
  have hbody : exec (.sleep f) s = finish (.sleep f) c
      (if c.active = 0 || deadline ≤ s.gt then { s, outs := doneAll c }
       else { s, outs := doneAll c, wait := .sleep deadline, pauses := true }) := by
    rw [show exec (.sleep f) s = execSleep f s from rfl, execSleep, perform_first hi]
    rfl
  simp only [GoesOn, Waits, hbody]
  by_cases h : c.active = 0 ∨ deadline ≤ s.gt
  · have h' : (decide (c.active = 0) || decide (deadline ≤ s.gt)) = true := by simpa using h
    simp only [h, h', if_true]
    exact finish_doneAll hi.split hi.unparked
  · have h' : (decide (c.active = 0) || decide (deadline ≤ s.gt)) = false := by simpa using h
    simp only [h, h', Bool.false_eq_true, if_false]
    exact finish_enters rfl rfl rfl (by simp)

theorem yield_result (hi : Issuing (.yield f) f s) :
    let c := s.ctx f
    GoesOn s f (.yield f) s (if c.active = 0 then id else fun w => { w with yielded := w.yielded ||| c.lanes, yieldWarp := true }) := by
  intro c
  have hrob : (s.warp c.wid).rob.isEmpty = true := by rw [show (s.warp c.wid).rob = [] from hi.first]; rfl
  simp only [GoesOn, show exec (.yield f) s = execYield f s from rfl, execYield, perform_first hi]
  rw [show (s.ctx f) = c from rfl, hrob]
  by_cases h0 : c.active = 0
  · simp only [h0, decide_true, Bool.true_or, if_true]
    exact finish_doneAll hi.split hi.unparked
  · simp only [h0, decide_false, Bool.not_true, Bool.and_false, Bool.or_false, Bool.false_eq_true, if_false]
    obtain ⟨t, h1, h2⟩ := finish_doneAll (i := .yield f) (b := stepBack s c) hi.split (by
      rw [stepBack, State.warp_updWarp_self]; exact hi.unparked)
    exact ⟨t, h1, Completed.of_updWarp (fun _ => rfl) h2⟩

/-! ## Blocks (R142, R143) -/

/-- A block is free for the warp, after those that wait before it. -/
def FreeBlock (s : State) (c : Ctx) : Prop :=
  s.extHeld c.w.gcore + ((s.core c.w.gcore).extQueue.takeWhile (· != c.wid)).length < 8

theorem extFree_iff (s : State) (c : Ctx) : extFree s c.w.gcore c.wid = true ↔ FreeBlock s c := decide_eq_true_iff

theorem rgacq_result (hi : Issuing (.rgacq f) f s) :
    let c := s.ctx f
    (c.active = 0 ∨ c.w.ext = true → GoesOn s f (.rgacq f) s id) ∧
    (¬(c.active = 0 ∨ c.w.ext = true) → FreeBlock s c → GoesOn s f (.rgacq f) (s.updWarp c.wid Warp.takeExt) id) ∧
    (¬(c.active = 0 ∨ c.w.ext = true) → ¬FreeBlock s c →
      Waits s f (.rgacq f) (joinExtQueue s c.w.gcore c.wid) (doneAll c) .extBlock false) := by
  intro c
  have hbody : exec (.rgacq f) s = finish (.rgacq f) c
      (if c.active = 0 || c.w.ext then { s, outs := doneAll c }
       else if extFree s c.w.gcore c.wid then { s, outs := doneAll c, onWarp := Warp.takeExt }
       else { s := joinExtQueue s c.w.gcore c.wid, outs := doneAll c, wait := .extBlock }) := by
    rw [show exec (.rgacq f) s = execRgacq f s from rfl, execRgacq, perform_first hi]
  simp only [GoesOn, Waits, hbody, Bool.or_eq_true, decide_eq_true_eq]
  refine ⟨fun h => ?_, fun h hfree => ?_, fun h hfree => ?_⟩
  · rw [if_pos h]
    exact finish_doneAll hi.split hi.unparked
  · rw [if_neg h, if_pos ((extFree_iff s c).mpr hfree)]
    exact finish_apart (dest := fun _ => none) (q := id) Apart.takeExt Own.id hi.split hi.unparked
  · rw [if_neg h, if_neg (mt (extFree_iff s c).mp hfree)]
    exact finish_asks

theorem rgrel_result (hi : Issuing (.rgrel f) f s) :
    let c := s.ctx f
    GoesOn s f (.rgrel f) (if c.active = 0 then s else s.updWarp c.wid Warp.dropExt) id := by
  intro c
  simp only [GoesOn, show exec (.rgrel f) s = execRgrel f s from rfl, execRgrel, perform_first hi]
  rw [show (s.ctx f) = c from rfl]
  by_cases h0 : c.active = 0
  · simp only [h0, if_true]
    exact finish_doneAll hi.split hi.unparked
  · simp only [h0, if_false]
    exact finish_apart (dest := fun _ => none) (q := id) Apart.dropExt Own.id hi.split hi.unparked

/-! ### ROLE -/

/-- What the body of ROLE does with the lanes: all of them jump, or none. -/
def roleJump (f : Fields) (c : Ctx) : Option DWord := if f.imm.getLsbD 5 then some (c.w.base 0 f.sa) else none

/-- Where the lanes of a ROLE go. -/
def roleDest (f : Fields) (c : Ctx) : DWord := if f.imm.getLsbD 5 then c.w.base 0 f.sa else nextPc c.pc

theorem roleJump_getD (f : Fields) (c : Ctx) : (roleJump f c).getD (nextPc c.pc) = roleDest f c := by
  unfold roleJump roleDest
  split <;> rfl

theorem roleJump_dest (f : Fields) (c : Ctx) : (if f.imm.getLsbD 5 = true then some (roleDest f c) else none) = roleJump f c := by
  unfold roleJump roleDest
  split <;> rfl

/-- The lanes of a ROLE go to its target, and its warp changes by `own` from `b`. -/
def RoleGoes (s : State) (f : Fields) (b : State) (own : Warp → Warp) : Prop :=
  ∃ t, exec (.role f) s = .next t ∧ Completed b (s.ctx f) (fun _ => []) (fun _ => roleDest f (s.ctx f)) own t

/-- The outcomes of a ROLE that passes its checks. -/
def roleOuts (f : Fields) (c : Ctx) : List (Nat × LaneOutcome) := allLanes c.active (.done [] (roleJump f c))

/-- The lanes go to the target, and the warp changes by `g`, then by the priority class. -/
theorem role_changes (hi : Issuing (.role f) f s) {g : Warp → Warp} (hg : Apart g)
    (hp : (g (s.warp (s.ctx f).wid)).parkedSince = none) :
    ∃ t, finish (.role f) (s.ctx f) { s, outs := roleOuts f (s.ctx f), onWarp := fun w => rolePrio f (g w) } = .next t ∧
      Completed (s.updWarp (s.ctx f).wid g) (s.ctx f) (fun _ => []) (fun _ => roleDest f (s.ctx f)) (rolePrio f) t := by
  rw [← roleJump_getD]
  exact finish_apart (dest := fun _ => roleJump f (s.ctx f)) (q := rolePrio f) hg (Own.rolePrio f) hi.split hp

theorem role_keeps (hi : Issuing (.role f) f s) :
    ∃ t, finish (.role f) (s.ctx f) { s, outs := roleOuts f (s.ctx f), onWarp := rolePrio f } = .next t ∧
      Completed s (s.ctx f) (fun _ => []) (fun _ => roleDest f (s.ctx f)) (rolePrio f) t := by
  have hq : Own (fun w => rolePrio f (w.raise 0)) := by simp only [raise_zero]; exact Own.rolePrio f
  have h := finish_done (i := .role f) (c := s.ctx f) (ws := fun _ => []) (dest := fun _ => roleJump f (s.ctx f))
    (r := { s, outs := roleOuts f (s.ctx f), onWarp := rolePrio f }) hq hi.split hi.unparked (fun _ _ => inRange_nil) rfl rfl rfl rfl rfl
  simp only [raise_zero, roleJump_getD] at h
  exact h

theorem role_traps (hi : Issuing (.role f) f s) (h0 : ¬(s.ctx f).active = 0) (hjump : f.imm.getLsbD 5 = true)
    (hpc : isPc ((s.ctx f).w.base 0 f.sa) = false) (hcan : CanTrap (s.ctx f).w (s.ctx f).active) :
    ∃ t, exec (.role f) s = .next t ∧ Trapped s (s.ctx f) (s.ctx f).active 0x04 0 0 t := by
  rw [show exec (.role f) s = execRole f s from rfl, execRole, perform_first hi]
  simp only [h0, if_false, hjump, hpc, Bool.not_false, Bool.and_self, if_true]
  exact finish_traps (by decide) rfl hi.unparked rfl hcan rfl rfl rfl rfl rfl rfl

/-- The body of a ROLE whose target passes, by its block field. -/
theorem exec_role (hi : Issuing (.role f) f s) (h0 : ¬(s.ctx f).active = 0)
    (hpc : ¬(f.imm.getLsbD 5 = true ∧ isPc (roleDest f (s.ctx f)) = false)) :
    exec (.role f) s = finish (.role f) (s.ctx f)
      (match roleExt f with
       | 1 =>
         if (s.ctx f).w.ext then { s, outs := roleOuts f (s.ctx f), onWarp := rolePrio f }
         else if extFree s (s.ctx f).w.gcore (s.ctx f).wid then
           { s, outs := roleOuts f (s.ctx f), onWarp := fun w => (rolePrio f w).takeExt }
         else { s := joinExtQueue s (s.ctx f).w.gcore (s.ctx f).wid, outs := roleOuts f (s.ctx f), wait := .extBlock }
       | 2 => { s, outs := roleOuts f (s.ctx f), onWarp := fun w => (rolePrio f w).dropExt }
       | _ => { s, outs := roleOuts f (s.ctx f), onWarp := rolePrio f }) := by
  have hb : (f.imm.getLsbD 5 && !isPc ((s.ctx f).w.base 0 f.sa)) = false := by
    rw [Bool.eq_false_iff]
    intro h
    rw [Bool.and_eq_true, Bool.not_eq_true'] at h
    exact hpc ⟨h.1, by rw [roleDest, if_pos h.1]; exact h.2⟩
  rw [show exec (.role f) s = execRole f s from rfl, execRole, perform_first hi]
  simp only [h0, if_false, hb, Bool.false_eq_true]
  rfl

/-- ROLE with no block field, or one that takes a block that the warp holds. -/
theorem role_keeps_block (hi : Issuing (.role f) f s) (h0 : ¬(s.ctx f).active = 0)
    (hpc : ¬(f.imm.getLsbD 5 = true ∧ isPc (roleDest f (s.ctx f)) = false))
    (h : roleExt f = 0 ∨ (roleExt f = 1 ∧ (s.ctx f).w.ext = true)) : RoleGoes s f s (rolePrio f) := by
  rw [RoleGoes, exec_role hi h0 hpc]
  rcases h with h | ⟨h, hheld⟩
  · simp only [h]
    exact role_keeps hi
  · simp only [h, hheld, if_true]
    exact role_keeps hi

theorem role_takes_block (hi : Issuing (.role f) f s) (h0 : ¬(s.ctx f).active = 0)
    (hpc : ¬(f.imm.getLsbD 5 = true ∧ isPc (roleDest f (s.ctx f)) = false)) (h : roleExt f = 1) (hheld : ¬(s.ctx f).w.ext = true)
    (hfree : FreeBlock s (s.ctx f)) : RoleGoes s f (s.updWarp (s.ctx f).wid Warp.takeExt) (rolePrio f) := by
  rw [RoleGoes, exec_role hi h0 hpc]
  simp only [h, hheld, (extFree_iff s (s.ctx f)).mpr hfree, if_true, if_false, rolePrio_comm_takeExt, Bool.false_eq_true]
  exact role_changes hi Apart.takeExt hi.unparked

theorem role_asks_block (hi : Issuing (.role f) f s) (h0 : ¬(s.ctx f).active = 0)
    (hpc : ¬(f.imm.getLsbD 5 = true ∧ isPc (roleDest f (s.ctx f)) = false)) (h : roleExt f = 1) (hheld : ¬(s.ctx f).w.ext = true)
    (hfree : ¬FreeBlock s (s.ctx f)) :
    Waits s f (.role f) (joinExtQueue s (s.ctx f).w.gcore (s.ctx f).wid) (roleOuts f (s.ctx f)) .extBlock false := by
  rw [Waits, exec_role hi h0 hpc]
  simp only [h, hheld, mt (extFree_iff s (s.ctx f)).mp hfree, if_false, Bool.false_eq_true]
  exact finish_asks

theorem role_drops_block (hi : Issuing (.role f) f s) (h0 : ¬(s.ctx f).active = 0)
    (hpc : ¬(f.imm.getLsbD 5 = true ∧ isPc (roleDest f (s.ctx f)) = false)) (h : roleExt f = 2) :
    RoleGoes s f (s.updWarp (s.ctx f).wid Warp.dropExt) (rolePrio f) := by
  rw [RoleGoes, exec_role hi h0 hpc]
  simp only [h, rolePrio_comm_dropExt]
  exact role_changes hi Apart.dropExt hi.unparked

theorem role_block_field (hi : Issuing (.role f) f s) : roleExt f = 0 ∨ roleExt f = 1 ∨ roleExt f = 2 := by
  have hlegal : (f.imm.extractLsb' 6 26 == 0 && f.imm.extractLsb' 3 2 != 3) = true := hi.rowLegal (i := .role f) rfl rfl
  rw [Bool.and_eq_true, bne_iff_ne] at hlegal
  have hext : roleExt f = (f.imm.extractLsb' 3 2).toNat := rfl
  rcases two_bits (f.imm.extractLsb' 3 2) with h | h | h | h
  · exact .inl (by rw [hext, h]; rfl)
  · exact .inr (.inl (by rw [hext, h]; rfl))
  · exact .inr (.inr (by rw [hext, h]; rfl))
  · exact absurd h hlegal.2

/-- The block field as a number. -/
theorem roleExt_eq_iff {n : Nat} (h : n < 4) : f.imm.extractLsb' 3 2 = BitVec.ofNat 2 n ↔ roleExt f = n := by
  rw [← BitVec.toNat_inj, BitVec.toNat_ofNat, Nat.mod_eq_of_lt h]
  rfl

end

/-- Settles O30: each branch of the bodies completes, waits or traps. -/
theorem waitAndBlockResults : Obligations.WaitAndBlockResults := by
  unfold Obligations.WaitAndBlockResults
  refine ⟨fun s f => ?_, fun s f => ?_⟩
  · intro c x deadline goesOn waits b
    exact ⟨wsync_result, releaseWsync_none, sleep_result, yield_result⟩
  · intro c queue free taken given queued jump dest prio ext goesOn
    have h0 : ext = 0 ↔ roleExt f = 0 := roleExt_eq_iff (by decide)
    have h1 : ext = 1 ↔ roleExt f = 1 := roleExt_eq_iff (by decide)
    refine ⟨getV_takeExt, fun hi => ?rgacq, rgrel_result, fun hi => ?role⟩
    case rgacq =>
      obtain ⟨hkeeps, htakes, hasks⟩ := rgacq_result hi
      split
      · exact hkeeps ‹_›
      · split
        · exact htakes ‹_› ‹_›
        · exact hasks ‹_› ‹_›
    case role =>
      split
      · exact emptyActiveDoesNothing s _ f _ rfl rfl hi ‹_› (fun h => nomatch h)
      · rename_i hactive
        split
        · rename_i hbad
          have hdest : dest = c.w.base 0 f.sa := if_pos hbad.1
          exact role_traps hi hactive hbad.1 (hdest ▸ hbad.2)
        · rename_i hpc
          simp only [h0, h1]
          split
          · exact role_keeps_block hi hactive hpc ‹_›
          · rename_i hkeep
            obtain ⟨hzero, hheld⟩ := not_or.mp hkeep
            split
            · rename_i htake
              exact role_takes_block hi hactive hpc htake.1 (fun h => hheld ⟨htake.1, h⟩) htake.2
            · rename_i hfree
              split
              · rename_i hone
                rw [show (if jump = true then some dest else none) = roleJump f c from roleJump_dest f c]
                exact role_asks_block hi hactive hpc hone (fun h => hheld ⟨hone, h⟩) (fun h => hfree ⟨hone, h⟩)
              · rename_i hone
                exact role_drops_block hi hactive hpc (((role_block_field hi).resolve_left hzero).resolve_left hone)

end Sys2Proof.Machine
end

section
/-! # Proofs: forbidden forms, system instructions and the state after reset (R50, R93, R112, R313 to R321, R353, R356) -/

namespace Sys2Proof.Machine

/-! ## Reset -/

/-- Settles O58: no cell is listed after a reset. -/
theorem resetInvariant : Obligations.ResetInvariant := State.reset_wf

/-- Settles O60: the fields of the state after a reset, read off. -/
theorem resetState : Obligations.ResetState := by
  unfold Obligations.ResetState
  refine ⟨rfl, rfl, rfl, rfl, rfl, rfl, rfl, rfl, rfl, fun t ht => ?_, rfl, fun c => ⟨rfl, rfl⟩, fun t _ p _ => rfl⟩
  show (if 0 = t then _ else ({} : Tenant)).defined = false
  rw [if_neg (Ne.symm ht)]

/-! ## Forbidden forms (R50, R112) -/

/-- A well-formed SUPERVISOR instruction at USER whose warp state is no ILLOP. -/
theorem decodeCause_privilege {s : State} {c : Ctx} {i : Instr} {r : Row} {f : Fields} (hr : i.row = some r) (hf : i.fields = some f)
    (hw : i.WellFormed) (hst : stateIllop s c i = false) (hlevel : r.level = .supervisor) (hu : c.w.supervisor = false) :
    decodeCause s c i = some Cause.privilege := by
  have h1 : (i.reject.isSome || stateIllop s c i) = false := by rw [show i.reject = none from hw, hst]; rfl
  have h2 : privilegeFails s c i r f = true := by simp only [privilegeFails, hu, hlevel]; rfl
  simp only [decodeCause, hr, hf, h1, h2, Bool.false_eq_true, if_false, if_true]

/-- Every lane fails the alignment check with one address. -/
theorem checkLanes_misaligned {s : State} {c : Ctx} {k : AccKind} {align : Nat} {f : Fields} {va : DWord} (h : va.toNat % align ≠ 0)
    (ls : List Nat) (hva : ∀ l ∈ ls, c.w.addr l f = va) :
    checkLanes s c k align f ls = (s, ls.map (fun l => (l, .trap Cause.memAlign))) := by
  induction ls with
  | nil => rfl
  | cons l ls ih =>
    have h1 : checkLane s c k align (c.w.addr l f) l = (s, .trap Cause.memAlign) := by
      rw [hva l (by simp), checkLane, if_pos h]
    simp only [checkLanes, h1, ih (fun k hk => hva k (by simp [hk])), List.map_cons]

theorem performPlaces_trap {c : Ctx} {f : Fields} {act : State → Nat → State.Place → State × List RegWrite × Bool} {va : DWord}
    {cause : Nat} (ls : List Nat) (hva : ∀ l ∈ ls, c.w.addr l f = va) (p : Performed) :
    performPlaces c f act p (ls.map (fun l => (l, .trap cause))) =
      { p with outs := p.outs.reverse ++ ls.map (fun l => (l, .trap cause va 0)) } := by
  induction ls generalizing p with
  | nil => simp [performPlaces]
  | cons l ls ih =>
    rw [List.map_cons, performPlaces, ih (fun k hk => hva k (by simp [hk]))]
    simp [hva l (by simp)]

/-- A misaligned ST stores nothing: every lane traps. -/
theorem storeBody_misaligned {s : State} {c : Ctx} {f : Fields} {va : DWord} (h : va.toNat % sizeBytes f.size ≠ 0)
    (hva : ∀ l, c.active.has l = true → c.w.addr l f = va) :
    storeBody c s f = { s, outs := trapAll c Cause.memAlign va } := by
  have hls : ∀ l ∈ c.active.lanes, c.w.addr l f = va := fun l hl => hva l (LaneMask.mem_lanes.mp hl)
  have hwait : anyWaits (c.active.lanes.map (fun l => (l, LaneAccess.trap Cause.memAlign))) = false := by
    rw [anyWaits, List.any_eq_false]
    intro x hx
    obtain ⟨l, _, rfl⟩ := List.mem_map.mp hx
    exact Bool.false_ne_true
  have hstore : storeLanes (c.active.lanes.map (fun l => (l, LaneAccess.trap Cause.memAlign))) = [] := by
    rw [storeLanes, List.map_eq_nil_iff, List.filter_eq_nil_iff]
    intro x hx
    obtain ⟨l, _, rfl⟩ := List.mem_map.mp hx
    exact Bool.false_ne_true
  have hhole : anyHole (c.active.lanes.map (fun l => (l, LaneAccess.trap Cause.memAlign))) = none := by
    rw [anyHole, List.findSome?_eq_none_iff]
    intro x hx
    obtain ⟨l, _, rfl⟩ := List.mem_map.mp hx
    rfl
  have hcount : (fun w : Warp => w.countBound (storeBound f) 0) = id := by
    funext w
    cases hb : storeBound f <;> rfl
  have htraps : boundTraps c.w (storeBound f) 0 = false := by
    cases hb : storeBound f <;> simp [boundTraps]
  simp only [storeBody, checkLanes_misaligned h _ hls, hwait, hstore, List.filter_nil, List.length_nil, htraps, hcount, hhole,
    performPlaces_trap _ hls, Bool.false_eq_true, if_false]
  rfl

/-- Settles O33: the level is checked after the word; the alignment before anything is stored. -/
theorem forbiddenForms : Obligations.ForbiddenForms := by
  unfold Obligations.ForbiddenForms
  refine ⟨fun p hp s f hw hu => ?_, fun s f va hi hcan hrel hva halign => ?_⟩
  · simp only [List.mem_cons, List.not_mem_nil, or_false] at hp
    rcases hp with rfl | rfl | rfl | rfl | rfl
    all_goals exact decodeCause_privilege rfl rfl hw rfl rfl hu
  · have hx : exec (.st f) s = execSt f s := rfl
    have hrelease : (f.ordering != 0 && (s.ctx f).active != 0 && !s.storesComplete (s.ctx f).wid) = false := by
      rcases hrel with h | h
      · rw [h]; rfl
      · rw [h, Bool.not_true, Bool.and_false]
    rw [hx, execSt, perform_first hi]
    simp only [stLanes, releasing, hrelease, Bool.false_eq_true, if_false]
    rw [storeBody_misaligned halign hva]
    exact finish_traps (by decide) rfl hi.unparked rfl hcan rfl rfl rfl rfl rfl rfl

/-! ## Lanes that have completed with their writes -/

theorem get_of_mem {β : Type} (d : β) {m : Sparse β} (hn : (m.map (·.1)).Nodup) {e : Nat × β} (he : e ∈ m) : Sparse.get d m e.1 = e.2 := by
  induction m with
  | nil => exact absurd he List.not_mem_nil
  | cons x m ih =>
    rw [List.map_cons, List.nodup_cons] at hn
    rw [Sparse.get]
    rcases List.mem_cons.mp he with rfl | h
    · rw [if_pos rfl]
    · have hne : x.1 ≠ e.1 := fun heq => hn.1 (heq ▸ List.mem_map_of_mem h)
      rw [if_neg hne, ih hn.2 h]

/-- One entry of completed lanes for each lane of a mask, in order. -/
theorem completedLanes_eq {ws : List (Nat × List RegWrite)} {m : LaneMask} (h : ws.map (·.1) = m.lanes) :
    completedLanes ws = doneOuts m (writesOf ws) (fun _ => none) := by
  have hn : (ws.map (·.1)).Nodup := h ▸ LaneMask.lanes_nodup m
  rw [doneOuts, ← h, List.map_map, completedLanes]
  refine List.map_congr_left (fun x hx => ?_)
  simp only [Function.comp, writesOf, get_of_mem [] hn hx]

theorem writesOf_mem {ws : List (Nat × List RegWrite)} {m : LaneMask} (h : ws.map (·.1) = m.lanes) {l : Nat} (hl : m.has l = true) :
    (l, writesOf ws l) ∈ ws := by
  have hn : (ws.map (·.1)).Nodup := h ▸ LaneMask.lanes_nodup m
  obtain ⟨x, hx, rfl⟩ := List.mem_map.mp (h ▸ LaneMask.mem_lanes.mpr hl : l ∈ ws.map (·.1))
  rw [writesOf, get_of_mem [] hn hx]
  exact hx

/-! ## HALT and IDLE (R320, R321) -/

theorem live_retire (w : Warp) : w.retire.live = 0 := by
  rw [LaneMask.eq_zero_iff]
  intro l
  simp [Warp.live, Warp.retire, Warp.lane, Sparse.get]

theorem warp_default_or_mem (s : State) (wid : Nat) : s.warp wid = {} ∨ ∃ e ∈ s.warps, e.1 = wid ∧ e.2 = s.warp wid := by
  have : ∀ m : Sparse Warp, Sparse.get {} m wid = {} ∨ ∃ e ∈ m, e.1 = wid ∧ e.2 = Sparse.get {} m wid := by
    intro m
    induction m with
    | nil => exact .inl rfl
    | cons x m ih =>
      rw [Sparse.get]
      by_cases hx : x.1 = wid
      · rw [if_pos hx]
        exact .inr ⟨x, by simp, hx, rfl⟩
      · rw [if_neg hx]
        exact ih.imp id (fun ⟨e, he, h⟩ => ⟨e, by simp [he], h⟩)
  exact this s.warps

/-- A warp that belongs to the grid, or of which no lane is left. -/
def EndsWith (g wid : Nat) (s : State) : Prop := (s.warp wid).grid = g ∨ (s.warp wid).live = 0

theorem EndsWith.of_warps {g wid : Nat} {s t : State} (h : t.warps = s.warps) (hs : EndsWith g wid s) : EndsWith g wid t := by
  rw [EndsWith, State.warp, h]
  exact hs

/-- What `drainRecords` does with one warp. -/
def drainOne (g : Nat) (s : State) (wid : Nat) : State :=
  let w := s.warp wid
  let s := s.logFaults w.tenant w.records
  if s.engineWork g w.block then s.setWarp wid { w.retire with records := [], lost := 0 } else s.dropWarp wid

theorem drainRecords_eq (s : State) (g : Nat) (p : Warp → Bool) :
    s.drainRecords g p = (s.warpsWhere (fun w => w.grid == g && p w)).foldl (drainOne g) s := rfl

theorem drainOne_self (g : Nat) (s : State) (wid : Nat) : ((drainOne g s wid).warp wid).live = 0 := by
  simp only [drainOne]
  split
  · rw [State.warp_setWarp_self]
    exact live_retire (s.warp wid)
  · have h : ((s.logFaults (s.warp wid).tenant (s.warp wid).records).dropWarp wid).warp wid = {} := Sparse.get_del_self ..
    rw [h]
    exact live_retire {}

theorem drainOne_other (g : Nat) (s : State) {wid x : Nat} (h : x ≠ wid) : (drainOne g s wid).warp x = s.warp x := by
  simp only [drainOne]
  split
  · rw [State.warp_setWarp_other _ _ h]; rfl
  · exact Sparse.get_del_other {} s.warps h

theorem EndsWith.drainRecords {g wid : Nat} {s : State} (p : Warp → Bool) (hs : EndsWith g wid s) :
    EndsWith g wid (s.drainRecords g p) := by
  rw [drainRecords_eq]
  generalize s.warpsWhere (fun w => w.grid == g && p w) = ls
  induction ls generalizing s with
  | nil => exact hs
  | cons x ls ih =>
    refine ih ?_
    by_cases hx : wid = x
    · exact .inr (hx ▸ drainOne_self g s wid)
    · rw [EndsWith, drainOne_other g s hx]
      exact hs

/-- With every warp of the grid drained no lane of them is left. -/
theorem drainAll_live {g wid : Nat} {s : State} (hs : EndsWith g wid s) : ((s.drainRecords g (fun _ => true)).warp wid).live = 0 := by
  have hkeep : ∀ (ls : List Nat) (s : State), (s.warp wid).live = 0 → ((ls.foldl (drainOne g) s).warp wid).live = 0 := by
    intro ls
    induction ls with
    | nil => exact fun s h => h
    | cons x ls ih =>
      intro s h
      refine ih _ ?_
      by_cases hx : wid = x
      · exact hx ▸ drainOne_self g s wid
      · rw [drainOne_other g s hx]; exact h
  have hmem : ∀ (ls : List Nat) (s : State), wid ∈ ls → ((ls.foldl (drainOne g) s).warp wid).live = 0 := by
    intro ls
    induction ls with
    | nil => exact fun s h => absurd h List.not_mem_nil
    | cons x ls ih =>
      intro s h
      rcases List.mem_cons.mp h with rfl | h
      · exact hkeep ls _ (drainOne_self g s wid)
      · exact ih _ h
  rw [drainRecords_eq]
  rcases hs with hgrid | hlive
  · rcases warp_default_or_mem s wid with hd | ⟨e, he, hwid, hw⟩
    · exact hkeep _ s (hd ▸ live_retire {})
    · refine hmem _ s ?_
      rw [State.warpsWhere, List.mem_map]
      exact ⟨e, List.mem_filter.mpr ⟨he, by simp [hw, hgrid]⟩, hwid⟩
  · exact hkeep _ s hlive

theorem clearBlock_warps (s : State) (x : Block) : (s.clearBlock x).warps = s.warps := by
  unfold State.clearBlock
  repeat' split
  all_goals rfl

theorem foldl_warps {α : Type} (f : State → α → State) (hf : ∀ s x, (f s x).warps = s.warps) (ls : List α) (s : State) :
    (ls.foldl f s).warps = s.warps := by
  induction ls generalizing s with
  | nil => rfl
  | cons x ls ih => rw [List.foldl_cons, ih, hf]

theorem startClearing_warps (s : State) (g b : Nat) : (s.startClearing g b).warps = s.warps := by
  unfold State.startClearing
  split
  · rfl
  · exact foldl_warps _ (fun s x => clearBlock_warps s x) _ _

theorem releaseBlock_warps (s : State) (g b : Nat) : (s.releaseBlock g b).warps = s.warps := by
  unfold State.releaseBlock
  split
  · split
    · rfl
    · rw [startClearing_warps]; rfl
  · rfl

theorem EndsWith.killGang {g wid : Nat} {s : State} (hs : EndsWith g wid s) (gang code : Nat) (addr : DWord) (pcs : List Nat) :
    EndsWith g wid (s.killGang g gang code addr pcs) := by
  unfold State.killGang
  extract_lets wids mine
  split
  · exact hs
  · refine EndsWith.of_warps (s := State.drainRecords _ _ _) rfl (EndsWith.drainRecords _ ?_)
    refine EndsWith.of_warps ?_ hs
    show (List.foldl _ _ _ : State).warps = _
    rw [foldl_warps _ (fun s b => by rw [startClearing_warps, releaseBlock_warps])]

theorem endStages_warps (s : State) (pid fuel : Nat) : (s.endStages pid fuel).warps = s.warps := by
  induction fuel generalizing s with
  | zero => rfl
  | succ fuel ih =>
    unfold State.endStages
    extract_lets p busy
    split
    · rfl
    · extract_lets stages
      split
      · rfl
      · rw [ih]; rfl

theorem endStageGrid_warps (s : State) (g : Nat) : (s.endStageGrid g).warps = s.warps := by
  unfold State.endStageGrid
  extract_lets x
  split
  · rfl
  · rw [endStages_warps]
    split <;> rfl

theorem retireGrid_warps (s : State) (g : Nat) :
    (s.retireGrid g).warps = ((s.freeBarriers (fun b => b.grid == g)).drainRecords g (fun _ => true)).warps := by
  unfold State.retireGrid
  rw [endStageGrid_warps, State.updGrid, State.setGrid]

/-- No lane of a grid's warps is left when it has ended. -/
theorem endGrid_live (s : State) (wid code : Nat) (own : Option (Nat × Nat)) :
    ((s.endGrid (s.warp wid).grid code own).warp wid).live = 0 := by
  have hs : EndsWith (s.warp wid).grid wid s := .inl rfl
  generalize (s.warp wid).grid = g at hs
  have hkill : ∀ (ls : List Nat) (s : State), EndsWith g wid s → EndsWith g wid (ls.foldl (fun s gang =>
      s.killGang g gang code 0 ((own.toList.filter (fun x => x.1 == gang)).map (·.2))) s) := by
    intro ls
    induction ls with
    | nil => exact fun s h => h
    | cons gang ls ih => exact fun s h => ih _ (h.killGang ..)
  have hend := hkill (s.workingGangs g) s hs
  rw [State.endGrid]
  generalize List.foldl _ s _ = s' at hend
  have hfree : EndsWith g wid (s'.freeBarriers (fun b => b.grid == g)) := EndsWith.of_warps rfl hend
  rw [State.warp, retireGrid_warps]
  exact drainAll_live hfree

theorem endGrid_notify_live {s : State} {wid g : Nat} (h : (s.warp wid).grid = g) (code n : Nat) (own : Option (Nat × Nat)) :
    (((s.endGrid g code own).notify n g).warp wid).live = 0 := by
  rw [State.warp, State.notify_warps, ← h]
  exact endGrid_live s wid code own

/-- Settles O42: HALT changes the machine alone, and its own entry is gone with the grid; IDLE waits as its deadline says. -/
theorem haltAndIdleResults : Obligations.HaltAndIdleResults := by
  unfold Obligations.HaltAndIdleResults
  intro s f c a g ended deadline hne
  refine ⟨fun hi => ?halt, fun hi => ?idle⟩
  case halt =>
    have hx : exec (.halt f) s = execHalt f s := rfl
    have hbody : exec (.halt f) s = finish (.halt f) c
        (if !heldGrid s g then { s, outs := doneAll c } else { s := ended, outs := doneAll c, again := g == c.w.grid }) := by
      rw [hx, execHalt, performWarp_active hi hne, perform_first hi]
      rfl
    refine ⟨fun hheld => ?_, fun hheld hown => ?_, fun hheld hown hp => ?_⟩
    · simp only [hbody, hheld, Bool.not_false, if_true]
      exact finish_doneAll hi.split hi.unparked
    · have hlive : (ended.warp c.wid).live = 0 := by
        exact endGrid_notify_live hown.symm _ _ _
      have hagain : (g == c.w.grid) = true := beq_iff_eq.mpr hown
      simp only [hbody, hheld, Bool.not_true, Bool.false_eq_true, if_false, finish, hagain, if_true, hlive]
    · have hagain : (g == c.w.grid) = false := beq_eq_false_iff_ne.mpr hown
      simp only [hbody, hheld, Bool.not_true, Bool.false_eq_true, if_false, hagain]
      exact finish_doneAll hi.split hp
  case idle =>
    have hx : exec (.idle f) s = execIdle f s := rfl
    have hbody : exec (.idle f) s = finish (.idle f) c
        (if deadline ≤ s.gt then { s, outs := doneAll c }
         else { s, outs := doneAll c, wait := .idle deadline (idleEvents s c.w), pauses := true }) := by
      rw [hx, execIdle, performWarp_active hi hne, perform_first hi]
      rfl
    simp only [hbody]
    by_cases h : deadline ≤ s.gt
    · simp only [h, if_true]
      exact finish_doneAll hi.split hi.unparked
    · simp only [h, if_false]
      exact finish_enters rfl rfl rfl (by simp)

end Sys2Proof.Machine
end

section
/-! # Proofs: writes of system registers, records and diagnostics (R93, R309, R313 to R319, R353) -/

namespace Sys2Proof.Machine

/-! ## SYSWR (R313, R353) -/

/-- A write of a register of the warp context other than TRAP_PC leaves lanes and place alone. -/
theorem Apart.writeContext {c : Ctx} {n : Nat} (hn : n ≠ 1) (val : Nat → DWord) : Apart (writeContext c n val) := by
  refine ⟨fun w l h => ?_, fun w k => ?_, fun w => ?_⟩
  all_goals
    unfold Sys2Proof.Machine.writeContext
    split
    case h_2 => exact absurd rfl hn
    all_goals rfl

theorem writeContext_parked {c : Ctx} {n : Nat} (hn : n ≠ 1) (val : Nat → DWord) (w : Warp) :
    (writeContext c n val w).parkedSince = w.parkedSince := by
  unfold writeContext
  split
  case h_2 => exact absurd rfl hn
  all_goals rfl

/-- Retirement where every lane of Active has completed, wrote nothing, and changes by what keeps its PC and its status: the change may
as well come before. -/
theorem retire_keeps {b : State} {c : Ctx} (g : Nat → Lane → Lane) (own : Warp → Warp) (hne : c.lanes ≠ 0)
    (hp : (b.warp c.wid).parkedSince = none)
    (hg : ∀ l x, g l (landAt c.pc none x) = { g l x with pc := nextPc c.pc, status := .running })
    (hown : ∀ w, own w = c.active.lanes.foldl (fun w l => w.updLane l (g l)) w) :
    CompletedNext (b.setWarp c.wid (own (b.warp c.wid))) c (fun _ => []) id
      ((b.countIssue c.wid).retire c.wid c.pc c.word c.lanes c.active (doneAll c) 0 own) := by
  obtain ⟨w, hlane, hrest, hret⟩ := retire_changes b c (fun _ => none) g own hown
  have hl : ∀ l, (own (b.warp c.wid)).lane l = if c.active.has l then g l ((b.warp c.wid).lane l) else (b.warp c.wid).lane l :=
    fun l => by
      rw [hown, setLanes_lane _ _ g (LaneMask.lanes_nodup _)]
      simp only [LaneMask.mem_lanes]
  have hr : own (b.warp c.wid) = { b.warp c.wid with lanes := (own (b.warp c.wid)).lanes } := by
    rw [hown]
    exact setLanes_rest _ _ g
  have hgo : ((b.setWarp c.wid w).settleParked c.wid).endWarp c.wid = b.setWarp c.wid w := by
    obtain ⟨l, hl⟩ := LaneMask.exists_has hne
    refine goes_on (LaneMask.has_lt hl) ?_ ?_
    · rw [State.warp_setWarp_self, hlane]
      by_cases ha : c.active.has l = true
      · simp only [ha, if_true, hg]
      · simp only [ha, hl, Bool.false_eq_true, if_false, if_true]; rfl
    · rw [State.warp_setWarp_self, hrest]; exact hp
  have ht : (b.countIssue c.wid).retire c.wid c.pc c.word c.lanes c.active (doneAll c) 0 own = b.setWarp c.wid w := by
    rw [← hgo, ← hret]
    rfl
  rw [ht]
  have hv : ∀ l n, w.getV l n = (own (b.warp c.wid)).getV l n := fun l n => by rw [hr, hrest]; rfl
  have hpr : ∀ l n, w.getP l n = (own (b.warp c.wid)).getP l n := fun l n => by rw [hr, hrest]; rfl
  have hk : ∀ n, w.getK n = (own (b.warp c.wid)).getK n := fun n => by rw [hr, hrest]; rfl
  refine ⟨by simp [State.setWarp_setWarp], fun l n _ _ => ?_, fun l n _ _ => ?_, fun n => ?_, fun l _ => ?_, ?_⟩
  · rw [State.warp_setWarp_self, State.warp_setWarp_self, hv]
    simp only [afterV, List.foldl_nil, ite_self]
  · rw [State.warp_setWarp_self, State.warp_setWarp_self, hpr]
    simp only [afterP, List.foldl_nil, ite_self]
  · rw [State.warp_setWarp_self, State.warp_setWarp_self, hk]
    simp only [afterK, List.foldl_nil, ite_self]
  · rw [State.warp_setWarp_self, State.warp_setWarp_self, hlane, hl]
    by_cases ha : c.active.has l = true
    · simp only [ha, if_true, hg]
    · simp only [ha, Bool.false_eq_true, if_false]
      rfl
  · rw [State.warp_setWarp_self, State.warp_setWarp_self, hr, hrest]
    rfl

/-- SYSWR of a ready split with a lane in Active. -/
theorem exec_syswr {s : State} {f : Fields} (hi : Issuing (.syswr f) f s) (hne : (s.ctx f).active ≠ 0) :
    exec (.syswr f) s = finish (.syswr f) (s.ctx f)
      (if f.regNumber ≤ 8 then { s, outs := doneAll (s.ctx f), onWarp := writeContext (s.ctx f) f.regNumber (srcA64 s f) }
       else if f.regNumber = 0x200 then
         releasing true (s.ctx f) s <|
           if s.loft.pcmd.length ≥ 16 then
             { s, outs := doneAll (s.ctx f), wait := .pcmd (srcA64 s f (s.ctx f).low &&& ~~~63#64) }
           else { s := submitCommand s (srcA64 s f (s.ctx f).low &&& ~~~63#64), outs := doneAll (s.ctx f) }
       else { s := writeWide s (s.ctx f).w f.regNumber (srcA64 s f (s.ctx f).low), outs := doneAll (s.ctx f) }) := by
  have hx : exec (.syswr f) s = execSyswr f s := rfl
  rw [hx, execSyswr, performWarp_active hi hne, perform_first hi]
  rfl

/-- Settles O40: registers of the warp context are written as the entry retires; the others by the body. -/
theorem systemWriteResults : Obligations.SystemWriteResults := by
  unfold Obligations.SystemWriteResults
  intro s f c n val x g addr hi hne
  have hbody := exec_syswr hi hne
  refine ⟨fun hn => ?context, fun hn hst => ?pcmd, fun hn hn' => ?wide⟩
  case context =>
    rw [if_pos hn] at hbody
    have hbody' : exec (.syswr f) s = .next ((s.countIssue c.wid).retire c.wid c.pc c.word c.lanes c.active (doneAll c) 0
      (writeContext c n val)) := hbody
    refine ⟨writeContext c n val c.w, _, hbody', ?_, ?_, ?_, ?_, ?_, ?_, ?_⟩
    · by_cases h1 : n = 1
      · rw [h1]
        exact retire_keeps (fun l y => { y with trapPc := val l }) (writeContext c 1 val) hi.split hi.unparked (fun _ _ => rfl)
          (fun _ => rfl)
      · obtain ⟨t, ht, hc⟩ := finish_apart (i := .syswr f) (c := c) (b := s) (dest := fun _ => none) (q := id)
          (Apart.writeContext (c := c) h1 val) Own.id hi.split (by rw [writeContext_parked h1]; exact hi.unparked)
        have e : t = (s.countIssue c.wid).retire c.wid c.pc c.word c.lanes c.active (doneAll c) 0 (writeContext c n val) := by
          have := ht.symm.trans (rfl : _ = Host.Outcome.next ((s.countIssue c.wid).retire c.wid c.pc c.word c.lanes c.active
            (doneAll c) 0 (writeContext c n val)))
          exact Host.Outcome.next.inj this
        exact e ▸ hc
    all_goals
      intro h
      rw [h]
    · rfl
    · rfl
    · rfl
    · rfl
    · rfl
    · have hset : writeContext c 1 val c.w = c.active.lanes.foldl (fun w l => w.updLane l (fun y => { y with trapPc := val l })) c.w :=
        rfl
      rw [hset]
      refine ⟨setLanes_rest c.w _ (fun l y => { y with trapPc := val l }), fun l _ => ?_⟩
      rw [setLanes_lane c.w _ (fun l y => { y with trapPc := val l }) (LaneMask.lanes_nodup _)]
      simp only [LaneMask.mem_lanes]
  case pcmd =>
    have hn8 : ¬ f.regNumber ≤ 8 := by rw [show f.regNumber = 0x200 from hn]; decide
    have hrel : (true && c.active != 0 && !s.storesComplete c.wid) = false := by rw [hst, Bool.not_true, Bool.and_false]
    simp only [hbody, if_neg hn8, if_pos (show f.regNumber = 0x200 from hn), releasing]
    simp only [show s.ctx f = c from rfl, hrel, Bool.false_eq_true, if_false]
    by_cases hroom : s.loft.pcmd.length < 16
    · rw [if_pos hroom, if_neg (Nat.not_le.mpr hroom)]
      exact finish_doneAll hi.split hi.unparked
    · rw [if_neg hroom, if_pos (Nat.not_lt.mp hroom)]
      exact finish_enters rfl rfl rfl (by simp)
  case wide =>
    have hn8 : ¬ f.regNumber ≤ 8 := Nat.not_le.mpr hn
    rw [if_neg hn8, if_neg (show ¬ f.regNumber = 0x200 from hn')] at hbody
    have hbody' : exec (.syswr f) s = .next (((writeWide s c.w n x).countIssue c.wid).retire c.wid c.pc c.word c.lanes c.active
      (doneAll c) 0 id) := hbody
    refine ⟨writeWide s c.w n x, _, hbody', fun hp => ?_, ?_, ?_, ?_, ?_, ?_, ?_, ?_, ?_, ?_, ?_⟩
    · obtain ⟨t, ht, hc⟩ := finish_doneAll (i := .syswr f) (c := c) (b := writeWide s c.w n x) hi.split hp
      have e := Host.Outcome.next.inj (ht.symm.trans (rfl : _ = Host.Outcome.next
        (((writeWide s c.w n x).countIssue c.wid).retire c.wid c.pc c.word c.lanes c.active (doneAll c) 0 id)))
      exact e ▸ hc
    all_goals
      intro h
      rw [h]
    · rfl
    · rfl
    · have hx : (x.extractLsb' 0 32).toNat = x.toNat % 2 ^ 32 := by
        rw [BitVec.extractLsb'_toNat, Nat.shiftRight_zero]
      rw [← hx]
      rfl
    all_goals rfl

/-! ## Records, bounds and limits (R309, R315, R316, R319) -/

/-- `finish` on a body whose lanes of Active have all completed with one list of writes. -/
theorem finish_alike {i : Instr} {c : Ctx} {b : State} {ws : List RegWrite} {own : Warp → Warp} (ho : Own own) (hne : c.lanes ≠ 0)
    (hp : (b.warp c.wid).parkedSince = none) (hw : inRange ws) :
    ∃ t, finish i c { s := b, outs := allLanes c.active (.done ws none), onWarp := own } = .next t ∧
      CompletedNext b c (fun _ => ws) own t := by
  have h := finish_done (i := i) (c := c) (ws := fun _ => ws) (dest := fun _ => none)
    (r := { s := b, outs := allLanes c.active (.done ws none), onWarp := own }) (by simp only [raise_zero]; exact ho) hne hp
    (fun _ _ => hw) rfl rfl rfl rfl rfl
  simp only [raise_zero] at h
  exact h

theorem noteStore_parked (s : State) (wid t x : Nat) : ((s.noteStore wid t).warp x).parkedSince = (s.warp x).parkedSince := by
  rw [State.noteStore]
  by_cases h : x = wid
  · rw [h, State.warp_updWarp_self]
  · rw [State.updWarp, State.warp_setWarp_other _ _ h]

theorem noteWrite_parked (s : State) (wid : Nat) (p : State.Place) (x : Nat) :
    ((s.noteWrite wid p).warp x).parkedSince = (s.warp x).parkedSince := by
  unfold State.noteWrite
  split <;> exact noteStore_parked ..

theorem Own.popRecord : Own popRecord := ⟨fun _ _ _ _ _ _ => rfl, fun _ => rfl, fun _ => rfl, fun _ => rfl⟩

theorem Own.setBd (n : Nat) (x : BitVec 128) : Own (fun w => w.setBd n x) :=
  ⟨fun _ _ _ _ _ _ => rfl, fun _ => rfl, fun _ => rfl, fun _ => rfl⟩

/-! ## Diagnostics (R317) -/

/-- Every lane that DIAGLD completes writes its own destination. -/
theorem diagLoads_writes {c : Ctx} {f : Fields} (h : ∀ x, inRange (dst64 f.dst x)) (ls : List Nat) (p : Performed)
    (hp : ∀ l ws d, (l, LaneOutcome.done ws d) ∈ p.outs → inRange ws) :
    ∀ l ws d, (l, LaneOutcome.done ws d) ∈ (diagLoads c f p ls).outs → inRange ws := by
  induction ls generalizing p with
  | nil => exact hp
  | cons l ls ih =>
    refine ih _ (fun k ws d hm => ?_)
    have hadd : ∀ o : LaneOutcome, (∀ ws d, o = .done ws d → inRange ws) → (k, LaneOutcome.done ws d) ∈ p.outs ++ [(l, o)] →
        inRange ws := by
      intro o ho hm
      rcases List.mem_append.mp hm with hm | hm
      · exact hp k ws d hm
      · rw [List.mem_singleton, Prod.mk.injEq] at hm
        exact ho ws d hm.2.symm
    revert hm
    split
    · exact hadd _ (fun ws d e => by cases e; exact h _)
    · exact hadd _ (fun ws d e => by cases e)
    · exact hp k ws d
    · exact hp k ws d
    · exact hadd _ (fun ws d e => by cases e)

/-- Settles O41: what each body leaves, given what its checks find. -/
theorem recordAndDiagnosticResults : Obligations.RecordAndDiagnosticResults := by
  unfold Obligations.RecordAndDiagnosticResults
  intro s s' f p q ws c va bound no kind tenant limit y hne
  refine ⟨fun hi hcheck hp => ?trqpop, fun hi => ?bndset, fun hi ht hd => ?wdog, fun hi => ?diagst, fun hi hq houts hls hp => ?diagld⟩
  case trqpop =>
    have hx : exec (.trqpop f) s = execTrqpop f s := rfl
    have hbody : exec (.trqpop f) s = finish (.trqpop f) c
        (match c.w.records with
         | [] => { s := s', outs := allLanes c.active (.done (dstP f.dst false) none) }
         | r :: _ => { s := (s'.writeAt c.w.tenant (s'.classOf c.w) p r).noteWrite c.wid p
                       outs := allLanes c.active (.done (dstP f.dst true) none), onWarp := popRecord }) := by
      rw [hx, execTrqpop, performWarp_active hi hne, perform_first hi]
      simp only [show checkLane s (s.ctx f) .write 64 ((s.ctx f).w.src64 (s.ctx f).low f.sa f.imm) (s.ctx f).low = (s', .at p) from hcheck]
      rfl
    refine ⟨fun hr => ?_, fun r rest hr => ?_⟩
    · rw [hbody, hr]
      exact finish_alike (own := id) Own.id hi.split hp (inRange_dstP _ _)
    · intro b hb
      rw [hbody, hr]
      exact finish_alike (own := popRecord) Own.popRecord hi.split (by rw [noteWrite_parked]; exact hb) (inRange_dstP _ _)
  case bndset =>
    have hx : exec (.bndset f) s = execBndset f s := rfl
    have hbody : exec (.bndset f) s = finish (.bndset f) c
        (if badBounds bound then { s, outs := trapAll c Cause.bound 0 (2 ^ 15 + no) }
         else { s, outs := doneAll c, onWarp := fun w => w.setBd no bound }) := by
      rw [hx, execBndset, performWarp_active hi hne, perform_first hi]
      rfl
    refine ⟨fun h => ?_, fun h hcan => ?_⟩
    · rw [hbody, h, if_neg Bool.false_ne_true]
      exact finish_alike (Own.setBd no bound) hi.split hi.unparked inRange_nil
    · rw [hbody, h, if_pos rfl]
      exact finish_traps (by decide) rfl hi.unparked rfl hcan rfl rfl rfl rfl rfl rfl
  case wdog =>
    have hx : exec (.wdog f) s = execWdog f s := rfl
    have hrefused : (decide (tenant > 15) || !(s.tenant tenant).defined) = false := by
      rw [hd, decide_eq_false (Nat.not_lt.mpr ht)]
      rfl
    intro e
    rw [hx, execWdog, performWarp_active hi hne, perform_first hi]
    have hw : ∀ x, inRange (dst64 f.dst x) := fun x => hi.inRange64 (i := .wdog f) rfl rfl rfl x
    simp only [show (s.ctx f).w.src32 (s.ctx f).low f.sa f.imm = srcA s f c.low from rfl]
    rw [show (decide ((srcA s f c.low).toNat > 15) || !(s.tenant (srcA s f c.low).toNat).defined) = false from hrefused,
      if_neg Bool.false_ne_true]
    exact finish_alike (own := id) Own.id hi.split hi.unparked (hw _)
  case diagst =>
    have hx : exec (.diagst f) s = execDiagst f s := rfl
    refine ⟨fun hk hva hp => ?_, fun x hk hy hlane hp => ?_⟩
    · rw [hx, execDiagst, performWarp_active hi hne, perform_first hi]
      rw [if_pos (show diagKind f = 2 from hk), 
        if_neg (show ¬ ((s.ctx f).w.src64 (s.ctx f).low f.sa f.imm).toNat ≥ 2 ^ 11 from Nat.not_le.mpr hva)]
      have h32 : ∀ z : DWord, (z.extractLsb' 0 32).toNat = z.toNat % 2 ^ 32 ∧ (z.extractLsb' 32 32).toNat = z.toNat / 2 ^ 32 := by
        intro z
        rw [toNat_extract, toNat_extract, Nat.pow_zero, Nat.div_one]
        exact ⟨rfl, Nat.mod_eq_of_lt (by have := z.isLt; omega)⟩
      rw [(h32 _).1, (h32 _).2]
      exact finish_doneAll hi.split hp
    · have hhigh : y.extractLsb' 32 32 = 0 := by
        rw [extract_eq_ofNat, Nat.div_eq_of_lt hy]
        rfl
      rw [hx, execDiagst, performWarp_active hi hne, perform_first hi]
      rw [if_neg (show ¬ diagKind f = 2 from hk), if_neg (by rw [show (s.ctx f).w.src64 (s.ctx f).low f.sb f.imm = y from rfl, hhigh]; exact fun h => h rfl)]
      simp only [show diagLane s (s.ctx f) (diagKind f) (s.ctx f).low ((s.ctx f).w.src64 (s.ctx f).low f.sa f.imm) = (s', .at p, some x) from hlane]
      exact finish_doneAll hi.split hp
  case diagld =>
    have hx : exec (.diagld f) s = execDiagld f s := rfl
    have hlen : q.outs.length = c.active.lanes.length := by rw [houts, completedLanes, List.length_map, ← hls, List.length_map]
    have hdone : q.outs = doneOuts c.active (writesOf ws) (fun _ => none) := houts.trans (completedLanes_eq hls)
    have hw : ∀ x, inRange (dst64 f.dst x) := fun x => hi.inRange64 (i := .diagld f) rfl rfl rfl x
    have hin : ∀ l, c.active.has l = true → inRange (writesOf ws l) := by
      intro l hl
      refine diagLoads_writes (c := c) hw c.active.lanes { s } (fun _ _ _ h => absurd h List.not_mem_nil) l _ none ?_
      rw [hq, hdone]
      exact List.mem_map.mpr ⟨l, LaneMask.mem_lanes.mpr hl, rfl⟩
    rw [hx, execDiagld, perform_first hi]
    simp only [show diagLoads (s.ctx f) f { s } (s.ctx f).active.lanes = q from hq]
    rw [if_pos (show q.outs.length = (s.ctx f).active.lanes.length from hlen)]
    exact finish_completes (dest := fun _ => none) (ws := writesOf ws) hi.split hp hin hdone rfl rfl rfl rfl rfl rfl

end Sys2Proof.Machine
end

section
/-! # Proofs: accesses in lane order (R224, R225, R227, R228, R233, R234) -/

namespace Sys2Proof.Machine

/-! ## What a load writes -/

/-- A destination that is aligned for its size names registers that exist. -/
theorem inRange_dstLoad {o : Opnd} {size : Nat} (h3 : size = 3 → ∀ n, o = .v n → n.val % 2 = 0)
    (h4 : 4 ≤ size → ∀ n, o = .v n → n.val % 4 = 0) (unsigned : Bool) (x : Nat) : inRange (dstLoad o size unsigned x) := by
  have hv : ∀ (n : Fin 128) (y : Word), inRange [.v n y] := by
    intro n y r hr
    rw [List.mem_singleton] at hr
    subst hr
    exact n.isLt
  have hk : ∀ (n : Nat) (y : DWord), inRange [.k n y] := by
    intro n y r hr
    rw [List.mem_singleton] at hr
    subst hr
    trivial
  match size with
  | 0 | 1 =>
    cases o
    case v => exact hv _ _
    case k => exact hk _ _
    all_goals exact inRange_nil
  | 2 => exact inRange_dst32 _ _
  | 3 => exact inRange_dst64 _ _ (h3 rfl)
  | n + 4 => exact inRange_dst128 _ _ (h4 (Nat.le_add_left 4 n))

theorem valueClass_dst {f : Fields} (ha : (valueClass f).aligned f.dst = true) (hs : f.size ≤ 4) (unsigned : Bool) (x : Nat) :
    inRange (dstLoad f.dst f.size unsigned x) := by
  have hv := aligned_v ha
  refine inRange_dstLoad (fun h3 => ?_) (fun h4 => ?_) unsigned x
  · simpa [valueClass, h3, FieldClass.vGroup] using hv
  · have h : f.size = 4 := Nat.le_antisymm hs h4
    simpa [valueClass, h, FieldClass.vGroup] using hv

theorem ld_size {f : Fields} {s : State} (hi : Issuing (.ld f) f s) : f.size ≤ 4 := by
  have h := hi.rowLegal (i := .ld f) rfl rfl
  simp only [Bool.and_eq_true, decide_eq_true_eq] at h
  exact h.1.1.1

theorem st_size {f : Fields} {s : State} (hi : Issuing (.st f) f s) : f.size ≤ 4 := by
  have h := hi.rowLegal (i := .st f) rfl rfl
  simp only [Bool.and_eq_true, decide_eq_true_eq] at h
  exact h.1.1.1

theorem atom_size {f : Fields} {s : State} (hi : Issuing (.atom f) f s) : f.size ≤ 4 := by
  have h := hi.rowLegal (i := .atom f) rfl rfl
  simp only [atomLegal, Fields.sizeIn, Bool.and_eq_true, List.contains_iff_mem, List.mem_cons, List.not_mem_nil, or_false] at h
  omega

theorem acas_size {f : Fields} {s : State} (hi : Issuing (.acas f) f s) : f.size ≤ 4 := by
  have h := hi.rowLegal (i := .acas f) rfl rfl
  simp only [Fields.sizeIn, Bool.and_eq_true, List.contains_iff_mem, List.mem_cons, List.not_mem_nil, or_false] at h
  omega

/-! ## Places found -/

/-- Lanes whose checks have all passed. -/
abbrev foundLanes (ps : List (Nat × State.Place)) : List (Nat × LaneAccess) := ps.map (fun x => (x.1, .at x.2))

theorem anyWaits_found (ps : List (Nat × State.Place)) : anyWaits (foundLanes ps) = false := by
  rw [anyWaits, List.any_eq_false]
  intro x hx
  obtain ⟨y, _, rfl⟩ := List.mem_map.mp hx
  exact Bool.false_ne_true

theorem anyHole_found (ps : List (Nat × State.Place)) : anyHole (foundLanes ps) = none := by
  rw [anyHole, List.findSome?_eq_none_iff]
  intro x hx
  obtain ⟨y, _, rfl⟩ := List.mem_map.mp hx
  rfl

theorem storeLanes_found (ps : List (Nat × State.Place)) : storeLanes (foundLanes ps) = ps.map (·.1) := by
  have hall : ∀ F : Nat × LaneAccess → Bool, (∀ l p, F (l, .at p) = true) → (foundLanes ps).filter F = foundLanes ps := by
    intro F hF
    rw [List.filter_eq_self]
    intro x hx
    obtain ⟨y, _, rfl⟩ := List.mem_map.mp hx
    exact hF _ _
  rw [storeLanes, hall _ (fun _ _ => rfl), foundLanes, List.map_map]
  rfl

/-- The checks are one for each lane, in order. -/
theorem checkLanes_keys (s : State) (c : Ctx) (k : AccKind) (align : Nat) (f : Fields) (ls : List Nat) :
    (checkLanes s c k align f ls).2.map (·.1) = ls := by
  induction ls generalizing s with
  | nil => rfl
  | cons l ls ih => rw [checkLanes]; exact congrArg (l :: ·) (ih _)

theorem PlacesFound.keys {s s' : State} {f : Fields} {k : AccKind} {align : Nat} {ps : List (Nat × State.Place)}
    (h : PlacesFound s f k align s' ps) : ps.map (·.1) = (s.ctx f).active.lanes := by
  have hk := checkLanes_keys s (s.ctx f) k align f (s.ctx f).active.lanes
  rw [show checkLanes s (s.ctx f) k align f (s.ctx f).active.lanes = (s', foundLanes ps) from h] at hk
  rw [← hk, foundLanes, List.map_map]
  rfl

theorem inOrder_keys (act : State → Nat → State.Place → State × List RegWrite × Bool) (s : State) (ps : List (Nat × State.Place)) :
    (inOrder act s ps).2.1.map (·.1) = ps.map (·.1) := by
  induction ps generalizing s with
  | nil => rfl
  | cons x ps ih => exact congrArg (x.1 :: ·) (ih _)

theorem inOrder_writes {act : State → Nat → State.Place → State × List RegWrite × Bool} (h : ∀ s l p, inRange (act s l p).2.1)
    (s : State) (ps : List (Nat × State.Place)) : ∀ x ∈ (inOrder act s ps).2.1, inRange x.2 := by
  induction ps generalizing s with
  | nil => exact fun x hx => absurd hx List.not_mem_nil
  | cons y ps ih =>
    intro x hx
    rcases List.mem_cons.mp (show x ∈ (y.1, _) :: (inOrder act _ ps).2.1 from hx) with rfl | hx
    · exact h _ _ _
    · exact ih _ x hx

/-- The lanes that passed are performed in order; where no word is uncorrectable nothing is consumed. -/
theorem performPlaces_found {c : Ctx} {f : Fields} {act : State → Nat → State.Place → State × List RegWrite × Bool} {p : Performed}
    {ps : List (Nat × State.Place)} {b : State} {ws : List (Nat × List RegWrite)} (h : inOrder act p.s ps = (b, ws, false)) :
    performPlaces c f act p (foundLanes ps) = { s := b, outs := p.outs.reverse ++ completedLanes ws, consumed := p.consumed } := by
  induction ps generalizing p ws with
  | nil =>
    cases h
    simp [performPlaces, completedLanes]
  | cons x ps ih =>
    obtain ⟨l, place⟩ := x
    simp only [inOrder, Prod.mk.injEq, Bool.or_eq_false_iff] at h
    obtain ⟨hb, hws, hbad, hbads⟩ := h
    rw [foundLanes, List.map_cons, performPlaces]
    simp only [hbad, Bool.false_eq_true, if_false]
    have hrest : inOrder act (act p.s l place).1 ps = (b, (inOrder act (act p.s l place).1 ps).2.1, false) := by
      rw [← hb, ← hbads]
    rw [ih (p := { s := (act p.s l place).1, outs := (l, .done (act p.s l place).2.1 none) :: p.outs, consumed := p.consumed }) hrest]
    rw [← hws]
    simp [completedLanes]

/-! ## Accesses of every lane -/

theorem releasing_ordered {rel : Bool} {c : Ctx} {s : State} (h : rel = true → s.storesComplete c.wid = true) (r : Result) :
    releasing rel c s r = r := by
  have e : (rel && c.active != 0 && !s.storesComplete c.wid) = false := by
    cases rel with
    | false => rfl
    | true => rw [h rfl, Bool.not_true, Bool.and_false]
  simp only [releasing, e, Bool.false_eq_true, if_false]

theorem accessLanes_found {s s' b : State} {f : Fields} {k : AccKind} {align : Nat} {ps : List (Nat × State.Place)}
    {ws : List (Nat × List RegWrite)} {act : State → Nat → State.Place → State × List RegWrite × Bool}
    (hf : PlacesFound s f k align s' ps) (h : inOrder act s' ps = (b, ws, false)) :
    accessLanes (s.ctx f) s f k align act = { s := b, outs := completedLanes ws } := by
  rw [accessLanes, show checkLanes s (s.ctx f) k align f (s.ctx f).active.lanes = (s', foundLanes ps) from hf]
  simp only [anyWaits_found, anyHole_found, Bool.false_eq_true, if_false]
  rw [performPlaces_found (p := { s := s' }) h]
  rfl

/-- The writes that lanes in order make name registers that exist. -/
theorem writesOf_inOrder {s s' b : State} {f : Fields} {k : AccKind} {align : Nat} {ps : List (Nat × State.Place)}
    {ws : List (Nat × List RegWrite)} {act : State → Nat → State.Place → State × List RegWrite × Bool}
    (hf : PlacesFound s f k align s' ps) (h : inOrder act s' ps = (b, ws, false)) (hw : ∀ s l p, inRange (act s l p).2.1) :
    ws.map (·.1) = (s.ctx f).active.lanes ∧ ∀ l, (s.ctx f).active.has l = true → inRange (writesOf ws l) := by
  have hk := inOrder_keys act s' ps
  have hin := inOrder_writes hw s' ps
  rw [h] at hk hin
  have hkeys := hk.trans hf.keys
  exact ⟨hkeys, fun l hl => hin _ (writesOf_mem hkeys hl)⟩

/-- An instruction whose body is an access of every lane. -/
theorem access_completes {i : Instr} {s s' b : State} {f : Fields} {k : AccKind} {align : Nat} {ps : List (Nat × State.Place)}
    {ws : List (Nat × List RegWrite)} {act : State → Nat → State.Place → State × List RegWrite × Bool} {rel : Bool}
    (hx : exec i s = finish i (s.ctx f) (releasing rel (s.ctx f) s (accessLanes (s.ctx f) s f k align act))) (hi : Issuing i f s)
    (hrel : rel = true → s.storesComplete (s.ctx f).wid = true) (hp : (b.warp (s.ctx f).wid).parkedSince = none)
    (hf : PlacesFound s f k align s' ps) (h : inOrder act s' ps = (b, ws, false)) (hw : ∀ s l p, inRange (act s l p).2.1) :
    ∃ t, exec i s = .next t ∧ CompletedNext b (s.ctx f) (writesOf ws) id t := by
  obtain ⟨hkeys, hin⟩ := writesOf_inOrder hf h hw
  rw [hx, releasing_ordered hrel, accessLanes_found hf h]
  exact finish_completes (dest := fun _ => none) hi.split hp hin (completedLanes_eq hkeys) rfl rfl rfl rfl rfl rfl

/-- The read-modify-write of ACAS stores only where the comparison holds. -/
theorem rmwPlace_swap (c : Ctx) (s : State) (sc : Bool) (p : State.Place) (n cmp x : Nat) :
    rmwPlace c s sc p n (fun old => if old = cmp then some x else none) =
      let r := s.readAt c.w.tenant (s.classOf c.w) p n
      (if leNat r.2.1 = cmp then storePlace c r.1 sc p.bare n x else stampIf sc r.1 c.wid p, leNat r.2.1, r.2.2) := by
  unfold rmwPlace
  by_cases h : leNat (s.readAt c.w.tenant (s.classOf c.w) p n).2.1 = cmp
  · simp only [h, if_true]
  · simp only [h, if_false]

theorem Own.countBound (b : Option Nat) (k : Nat) : Own (fun w => w.countBound b k) := by
  have h : ∀ w : Warp, w.countBound b k = { w with bd := (w.countBound b k).bd } := by
    intro w
    unfold Warp.countBound
    split
    · rfl
    · split <;> rfl
  have hbd : ∀ (w : Warp) v kr p ls n,
      (Warp.countBound { w with v := v, k := kr, p := p, lanes := ls, wissued := n } b k).bd = (w.countBound b k).bd := by
    intro w v kr p ls n
    unfold Warp.countBound
    split
    · rfl
    · split <;> rfl
  refine ⟨fun w v kr p ls n => ?_, fun w => ?_, fun w => ?_, fun w => ?_⟩
  · rw [h, hbd, h w]
  · rw [h]
  · rw [h]
  · rw [h]

theorem storeBody_found {s s' b : State} {f : Fields} {ps : List (Nat × State.Place)} {ws : List (Nat × List RegWrite)}
    (hf : PlacesFound s f .write (sizeBytes f.size) s' ps)
    (hk : boundTraps (s.ctx f).w (storeBound f) (((s.ctx f).active.lanes.filter (fun l => (storeValue (s.ctx f) f l).2)).length) = false)
    (h : inOrder (fun s' l p => (storePlace (s.ctx f) s' (f.ordering == 2) p (sizeBytes f.size) (storeValue (s.ctx f) f l).1, [], false)) s' ps =
      (b, ws, false)) :
    storeBody (s.ctx f) s f =
      { s := b, outs := completedLanes ws
        onWarp := fun w => w.countBound (storeBound f) ((s.ctx f).active.lanes.filter (fun l => (storeValue (s.ctx f) f l).2)).length } := by
  rw [storeBody, show checkLanes s (s.ctx f) .write (sizeBytes f.size) f (s.ctx f).active.lanes = (s', foundLanes ps) from hf]
  simp only [anyWaits_found, anyHole_found, storeLanes_found, hf.keys, hk, Bool.false_eq_true, if_false]
  rw [performPlaces_found (p := { s := s' }) h]
  rfl

/-- Settles O25: every arm performs its lanes through `performPlaces`, which is `inOrder` once all of them have passed. -/
theorem accessesInLaneOrder : Obligations.AccessesInLaneOrder := by
  unfold Obligations.AccessesInLaneOrder
  intro s s' b f ps ws c n sc read store modify done order hp
  refine ⟨fun hi hf h => ?ld, fun hi hord hf h => ?st, fun hi hord hf h => ?atom, fun hi hord hf h => ?red, fun hi hord hf h => ?acas⟩
  case ld =>
    have ha := hi.dst_aligned (i := .ld f) rfl rfl
    refine access_completes (rel := false) ?_ hi (fun h => absurd h Bool.false_ne_true) hp hf h
      (fun s l p => valueClass_dst ha (ld_size hi) _ _)
    have hx : exec (.ld f) s = execLd f s := rfl
    rw [hx, execLd, perform_first hi]
    rfl
  case st =>
    intro k hk
    obtain ⟨hkeys, hin⟩ := writesOf_inOrder hf h (fun _ _ _ => inRange_nil)
    have hx : exec (.st f) s = execSt f s := rfl
    simp only [done]
    rw [hx, execSt, perform_first hi, stLanes, releasing_ordered hord, storeBody_found hf hk h]
    have h := finish_done (i := .st f) (c := c) (ws := writesOf ws) (dest := fun _ => none)
      (r := { s := b, outs := completedLanes ws, onWarp := fun w => w.countBound (storeBound f) k })
      (by simp only [raise_zero]; exact Own.countBound _ _) hi.split hp hin (completedLanes_eq hkeys) rfl rfl rfl rfl
    simp only [raise_zero] at h
    exact h
  case atom =>
    have ha := hi.dst_aligned (i := .atom f) rfl rfl
    refine access_completes (rel := sc || f.mod6) ?_ hi hord hp hf h (fun s l p => valueClass_dst ha (atom_size hi) _ _)
    have hx : exec (.atom f) s = execAtom f s := rfl
    rw [hx, execAtom, perform_first hi]
    rfl
  case red =>
    refine access_completes (rel := f.ordering != 0) ?_ hi hord hp hf h (fun s l p => inRange_nil)
    have hx : exec (.red f) s = execRed f s := rfl
    rw [hx, execRed, perform_first hi]
    rfl
  case acas =>
    have ha := hi.dst_aligned (i := .acas f) rfl rfl
    refine access_completes (rel := sc || f.mod6) ?_ hi hord hp hf h (fun s l p => valueClass_dst ha (acas_size hi) _ _)
    have hx : exec (.acas f) s = execAcas f s := rfl
    rw [hx, execAcas, perform_first hi]
    simp only [acasLanes, rmwPlace_swap]
    rfl

end Sys2Proof.Machine
end

section
/-! # Proofs: loads and stores in scratch (R206, R207, R222, R225, R227, R228, R236, R251) -/

namespace Sys2Proof.Machine

/-! ## Bytes within one clean word -/

theorem readBytes_clean {s : State} {p n : Nat} (hn : 0 < n) (hf : n ≤ 32 - p % 32) (hc : eccClass (s.syndrome p) = .clean) :
    s.readBytes p n = (s, s.rawBytes p n, false) := by
  have hk : min n (32 - p % 32) = n := Nat.min_eq_left hf
  have h1 : s.readWordPart p n = (s, s.rawBytes p n, false) := by simp only [State.readWordPart, hc]
  simp only [State.readBytes, State.readFrom, Nat.pos_iff_ne_zero.mp hn, if_false, hk, h1, Nat.sub_self, if_true,
    List.append_nil, Bool.or_self]

theorem writeBytes_clean {s : State} {p : Nat} {bs : List Byte} (hn : 0 < bs.length) (hf : bs.length ≤ 32 - p % 32)
    (h32 : bs.length ≠ 32) (hc : eccClass (s.syndrome p) = .clean) : s.writeBytes p bs = s.setBytes p bs := by
  have hk : min bs.length (32 - p % 32) = bs.length := Nat.min_eq_left hf
  have hne : bs.isEmpty = false := by cases bs with
    | nil => exact absurd hn (Nat.lt_irrefl 0)
    | cons b bs => rfl
  have h1 : s.writeWordPart p bs = s.setBytes p bs := by
    have : s.readyWord p = s := by simp only [State.readyWord, hc]
    rw [State.writeWordPart, if_neg h32, this]
  simp only [State.writeBytes, State.writeFrom, hne, Bool.false_eq_true, if_false, hk, List.take_length, List.drop_length, h1,
    List.isEmpty_nil, if_true]

/-- An access of a size of R222 at a multiple of it lies in one word. -/
theorem fits_word {size p : Nat} (hs : size ≤ 4) (hp : p % 2 ^ size = 0) : 0 < 2 ^ size ∧ 2 ^ size ≤ 32 - p % 32 ∧ 2 ^ size ≠ 32 := by
  have h : size = 0 ∨ size = 1 ∨ size = 2 ∨ size = 3 ∨ size = 4 := by omega
  rcases h with rfl | rfl | rfl | rfl | rfl <;> norm_num at hp ⊢ <;> omega

theorem setBytes_eq (s : State) (p : Nat) (bs : List Byte) :
    s.setBytes p bs = { s with mem := { s.mem with cells := (s.setBytes p bs).mem.cells } } := by
  induction bs generalizing s p with
  | nil => rfl
  | cons b bs ih => rw [State.setBytes, ih]; rfl

theorem getD_leBytes (n v i : Nat) (hi : i < n) : (leBytes n v).getD i 0 = BitVec.ofNat 8 (v / 2 ^ (8 * i)) := by
  induction n generalizing v i with
  | zero => exact absurd hi (Nat.not_lt_zero i)
  | succ n ih =>
    cases i with
    | zero => simp [leBytes]
    | succ i =>
      have h : 2 ^ (8 * (i + 1)) = 256 * 2 ^ (8 * i) := by rw [Nat.mul_add, Nat.pow_add]; omega
      rw [leBytes, List.getD_cons_succ, ih _ _ (Nat.lt_of_succ_lt_succ hi), h, Nat.div_div_eq_div_mul]

/-! ## Places in scratch -/

/-- The scratch byte that a lane of the split addresses. -/
def scratchLocOf (s : State) (f : Fields) (l : Nat) : Loc := (scratchAt s f l).getD (.hbm 0)

theorem ScratchReady.loc {s : State} {f : Fields} {n : Nat} {at_ : Nat → Nat} (h : ScratchReady s f n at_) {l : Nat}
    (hl : (s.ctx f).active.has l = true) : scratchAt s f l = some (scratchLocOf s f l) ∧ (scratchLocOf s f l).phys = at_ l := by
  obtain ⟨-, hp, -⟩ := h l hl
  obtain ⟨loc, hloc, hphys⟩ := Option.map_eq_some_iff.mp hp
  rw [scratchLocOf, hloc]
  exact ⟨rfl, hphys⟩

theorem phys_scratchLoc (c u off : Nat) : (scratchLoc c (u + off / 4096) (off % 4096)).phys % 4096 = off % 4096 := by
  simp only [scratchLoc, Loc.phys, binBase]
  omega

theorem scratchPlace_phys {s : State} {ag : Agent} {r : VaRange} {engine : Bool} {loc : Loc} (h : s.scratchPlace ag r engine = some loc) :
    ∃ off, (r = .scratch off ∨ ∃ w, r = .window w off) ∧ loc.phys % 4096 = off % 4096 := by
  have hin : ∀ {p : Bool} {c u off : Nat},
      (if p then some (scratchLoc c (u + off / 4096) (off % 4096)) else none) = some loc → loc.phys % 4096 = off % 4096 := by
    intro p c u off h
    cases p with
    | false => cases h
    | true => cases h; exact phys_scratchLoc ..
  cases r with
  | global a => cases h
  | nowhere => cases h
  | scratch off =>
    refine ⟨off, .inl rfl, ?_⟩
    simp only [State.scratchPlace] at h
    cases hb : s.block? ag.grid ag.block with
    | none => rw [hb] at h; cases h
    | some b => rw [hb] at h; exact hin h
  | window w off =>
    refine ⟨off, .inr ⟨w, rfl⟩, ?_⟩
    simp only [State.scratchPlace] at h
    cases hb : s.block? ag.grid ag.block with
    | none => rw [hb] at h; cases h
    | some me =>
      rw [hb] at h
      dsimp only at h
      split at h
      · exact hin h
      · cases h

theorem rangeOfVa_off {va : DWord} {off : Nat} (h : rangeOfVa va = .scratch off ∨ ∃ w, rangeOfVa va = .window w off) :
    off % 4096 = va.toNat % 4096 := by
  have hite : ∀ {p : Prop} [Decidable p] {x y r : VaRange}, (if p then x else y) = r → p ∧ x = r ∨ ¬ p ∧ y = r := by
    intro p _ x y r h
    by_cases hp : p
    · exact .inl ⟨hp, by rw [if_pos hp] at h; exact h⟩
    · exact .inr ⟨hp, by rw [if_neg hp] at h; exact h⟩
  generalize hr : rangeOfVa va = r at h
  rcases hite hr with ⟨-, hr⟩ | ⟨-, hr⟩
  · rcases h with rfl | ⟨_, rfl⟩ <;> cases hr
  rcases hite hr with ⟨h2, hr⟩ | ⟨-, hr⟩
  · rw [Bool.and_eq_true, decide_eq_true_eq] at h2
    rcases h with rfl | ⟨_, rfl⟩
    · have hoff := VaRange.scratch.inj hr
      simp only [scratchBase] at h2 hoff
      omega
    · exact VaRange.noConfusion hr
  rcases hite hr with ⟨h3, hr⟩ | ⟨-, hr⟩
  · rw [Bool.and_eq_true, decide_eq_true_eq] at h3
    rcases h with rfl | ⟨_, rfl⟩
    · exact VaRange.noConfusion hr
    · have hoff := (VaRange.window.inj hr).2
      simp only [windowBase] at h3 hoff
      omega
  · rcases h with rfl | ⟨_, rfl⟩ <;> cases hr

/-- Scratch addresses and scratch bytes have the same place in their 4 KiB. -/
theorem scratchAt_phys {s : State} {f : Fields} {l : Nat} {loc : Loc} (h : scratchAt s f l = some loc) :
    loc.phys % 4096 = ((s.ctx f).w.addr l f).toNat % 4096 := by
  have hplace : s.scratchPlace (s.ctx f).agent (rangeOfVa ((s.ctx f).w.addr l f)) = some loc := by
    unfold scratchAt at h
    generalize rangeOfVa ((s.ctx f).w.addr l f) = r at h ⊢
    cases r with
    | global a => cases h
    | nowhere => cases h
    | scratch off => exact h
    | window w off => exact h
  obtain ⟨off, hr, hoff⟩ := scratchPlace_phys hplace
  rw [hoff, rangeOfVa_off hr]

/-- An access of a warp to scratch has the place that its address names. -/
theorem resolve_scratch {s : State} {f : Fields} {l : Nat} {loc : Loc} {k : AccKind} (hk : k = .read ∨ k = .write ∨ k = .rmw)
    (h : scratchAt s f l = some loc) : s.resolve (s.ctx f).agent l ((s.ctx f).w.addr l f) k = .at s (.scratch loc) := by
  unfold scratchAt at h
  unfold State.resolve
  generalize rangeOfVa ((s.ctx f).w.addr l f) = r at h
  rcases hk with rfl | rfl | rfl <;> cases r with
    | global a => cases h
    | nowhere => cases h
    | scratch off =>
      have h' : s.scratchPlace (s.ctx f).agent (.scratch off) = some loc := h
      show (match s.scratchPlace (s.ctx f).agent (.scratch off) with | some loc => State.Access.at s (.scratch loc) | none => .trap s 8) = _
      rw [h']
    | window w off =>
      have h' : s.scratchPlace (s.ctx f).agent (.window w off) = some loc := h
      show (match s.scratchPlace (s.ctx f).agent (.window w off) with | some loc => State.Access.at s (.scratch loc) | none => .trap s 8) = _
      rw [h']

theorem checkLanes_scratch {s : State} {f : Fields} {n : Nat} {at_ : Nat → Nat} (h : ScratchReady s f n at_) {k : AccKind}
    (hk : k = .read ∨ k = .write ∨ k = .rmw) :
    PlacesFound s f k n s ((s.ctx f).active.lanes.map (fun l => (l, .scratch (scratchLocOf s f l)))) := by
  have all : ∀ ls : List Nat, (∀ l ∈ ls, (s.ctx f).active.has l = true) → checkLanes s (s.ctx f) k n f ls =
      (s, ls.map (fun l => (l, .at (.scratch (scratchLocOf s f l))))) := by
    intro ls
    induction ls with
    | nil => exact fun _ => rfl
    | cons l ls ih =>
      intro hl
      have hl0 := hl l (by simp)
      have h1 : checkLane s (s.ctx f) k n ((s.ctx f).w.addr l f) l = (s, .at (.scratch (scratchLocOf s f l))) := by
        have hr := resolve_scratch hk (h.loc hl0).1
        rw [checkLane, if_neg (not_not_intro (h l hl0).1), hr]
      rw [checkLanes, h1]
      simp only [ih (fun k hk => hl k (by simp [hk])), List.map_cons]
  rw [PlacesFound, List.map_map]
  exact all _ (fun l hl => LaneMask.mem_lanes.mp hl)

theorem checkScratch_ready {s t : State} {f : Fields} {n : Nat} {at_ : Nat → Nat} (h : ScratchReady s f n at_)
    (hplace : ∀ r, t.scratchPlace (s.ctx f).agent r = s.scratchPlace (s.ctx f).agent r) {l : Nat} (hl : (s.ctx f).active.has l = true) :
    checkScratch t (s.ctx f) n ((s.ctx f).w.addr l f) = .at (.scratch (scratchLocOf s f l)) := by
  have hloc := (h.loc hl).1
  unfold scratchAt at hloc
  rw [checkScratch, if_neg (not_not_intro (h l hl).1)]
  generalize rangeOfVa ((s.ctx f).w.addr l f) = r at hloc
  cases r with
  | global a => cases hloc
  | nowhere => cases hloc
  | scratch off =>
    have h' : s.scratchPlace (s.ctx f).agent (.scratch off) = some (scratchLocOf s f l) := hloc
    simp only [hplace, h']
  | window w off =>
    have h' : s.scratchPlace (s.ctx f).agent (.window w off) = some (scratchLocOf s f l) := hloc
    simp only [hplace, h']

/-! ## Lanes one after another -/

theorem lanes_sorted (m : LaneMask) : m.lanes.Pairwise (· < ·) := List.Pairwise.filter _ List.pairwise_lt_range

/-- Lanes in order, where each keeps an invariant and meets no uncorrectable word. -/
theorem inOrder_steps {R : State → Prop} {act : State → Nat → State.Place → State × List RegWrite × Bool} {place : Nat → State.Place}
    {step : State → Nat → State} {w : Nat → List RegWrite} {ls : List Nat}
    (hact : ∀ x l, R x → l ∈ ls → act x l (place l) = (step x l, w l, false)) (hR : ∀ x l, R x → l ∈ ls → R (step x l))
    {s : State} (h0 : R s) :
    inOrder act s (ls.map (fun l => (l, place l))) = (ls.foldl step s, ls.map (fun l => (l, w l)), false) := by
  induction ls generalizing s with
  | nil => rfl
  | cons l ls ih =>
    have h1 := hact s l h0 (by simp)
    have h2 := ih (fun x k hx hk => hact x k hx (by simp [hk])) (fun x k hx hk => hR x k hx (by simp [hk])) (hR s l h0 (by simp))
    simp only [List.map_cons, inOrder, h1, h2, List.foldl_cons, Bool.or_self]

theorem completedLanes_map (m : LaneMask) (w : Nat → List RegWrite) :
    completedLanes (m.lanes.map (fun l => (l, w l))) = doneOuts m w (fun _ => none) := by
  rw [completedLanes, List.map_map]
  rfl

/-- What stores in order leave of memory: bytes that no lane stores to, and those of a lane that no later lane overlaps. -/
theorem foldl_stores {R : State → Prop} {step : State → Nat → State} {at_ : Nat → Nat} {val : Nat → List Byte} {n : Nat} {ls : List Nat}
    (hbytes : ∀ x l, R x → l ∈ ls → ∀ a, (step x l).byteAt a =
      if at_ l ≤ a ∧ a < at_ l + n then (val l).getD (a - at_ l) 0 else x.byteAt a)
    (hR : ∀ x l, R x → l ∈ ls → R (step x l)) (hsorted : ls.Pairwise (· < ·)) {s : State} (h0 : R s) :
    (∀ a, (∀ l ∈ ls, ¬ (at_ l ≤ a ∧ a < at_ l + n)) → (ls.foldl step s).byteAt a = s.byteAt a) ∧
    (∀ l ∈ ls, (∀ k ∈ ls, l < k → at_ k + n ≤ at_ l ∨ at_ l + n ≤ at_ k) →
      ∀ i < n, (ls.foldl step s).byteAt (at_ l + i) = (val l).getD i 0) := by
  induction ls generalizing s with
  | nil => exact ⟨fun _ _ => rfl, fun l hl => absurd hl List.not_mem_nil⟩
  | cons l ls ih =>
    obtain ⟨hlater, hsorted'⟩ := List.pairwise_cons.mp hsorted
    obtain ⟨hout, hin⟩ := ih (fun x k hx hk => hbytes x k hx (by simp [hk])) (fun x k hx hk => hR x k hx (by simp [hk])) hsorted'
      (hR s l h0 (by simp))
    have h1 := hbytes s l h0 (by simp)
    refine ⟨fun a ha => ?_, fun k hk hdis i hi => ?_⟩
    · rw [List.foldl_cons, hout a (fun k hk => ha k (by simp [hk])), h1, if_neg (ha l (by simp))]
    · rw [List.foldl_cons]
      rcases List.mem_cons.mp hk with rfl | hk
      · have hclear : ∀ j ∈ ls, ¬ (at_ j ≤ at_ k + i ∧ at_ k + i < at_ j + n) := by
          intro j hj
          have := hdis j (by simp [hj]) (hlater j hj)
          omega
        rw [hout _ hclear, h1, if_pos (by omega), Nat.add_sub_cancel_left]
      · exact hin k hk (fun j hj hlt => hdis j (by simp [hj]) hlt) i hi

/-! ## LD from scratch (R227, R251) -/

/-- Only the SC stamps have moved, of the machine and of one warp. -/
structure StampedOnly (wid : Nat) (s b : State) : Prop where
  others : ∀ x, x ≠ wid → b.warp x = s.warp x
  own : b.warp wid = { s.warp wid with scStamp := (b.warp wid).scStamp }
  only : b = { s with mem := { s.mem with scStamps := b.mem.scStamps }, warps := b.warps }

theorem StampedOnly.refl (wid : Nat) (s : State) : StampedOnly wid s s := ⟨fun _ _ => rfl, rfl, rfl⟩

theorem StampedOnly.stamp {wid : Nat} {s b : State} (h : StampedOnly wid s b) (sc : Bool) (p : State.Place) :
    StampedOnly wid s (stampIf sc b wid p) := by
  unfold stampIf
  split
  · refine ⟨fun x hx => ?_, ?_, ?_⟩
    · rw [← h.others x hx]
      simp only [stampSc, State.updWarp, State.warp_setWarp_other _ _ hx]
      rfl
    · have e : (stampSc b wid p).warp wid = { b.warp wid with scStamp := ((stampSc b wid p).warp wid).scStamp } := by
        simp only [stampSc, State.warp_updWarp_self]
        rfl
      rw [e, h.own]
    · have e : ∀ st ws, ({ b with mem := { b.mem with scStamps := st }, warps := ws } : State) =
          { s with mem := { s.mem with scStamps := st }, warps := ws } := fun st ws => by rw [h.only]
      exact e (stampSc b wid p).mem.scStamps (stampSc b wid p).warps
  · exact h

theorem StampedOnly.bytes {wid : Nat} {s b : State} (h : StampedOnly wid s b) (p n : Nat) :
    b.rawBytes p n = s.rawBytes p n ∧ b.syndrome p = s.syndrome p := by
  rw [h.only]
  exact ⟨rfl, rfl⟩

/-- The read of a lane at its place in scratch: the bytes, and no error. -/
theorem readAt_scratch {s x : State} {f : Fields} {n : Nat} {at_ : Nat → Nat} (h : ScratchReady s f n at_) {l : Nat}
    (hl : (s.ctx f).active.has l = true) (hn : 0 < n) (hfit : n ≤ 32 - at_ l % 32)
    (hsame : x.syndrome (at_ l) = s.syndrome (at_ l)) (hraw : x.rawBytes (at_ l) n = s.rawBytes (at_ l) n) (t cls : Nat) :
    x.readAt t cls (.scratch (scratchLocOf s f l)) n = (x, s.rawBytes (at_ l) n, false) := by
  have hphys := (h.loc hl).2
  have hclean : eccClass (x.syndrome (at_ l)) = .clean := by rw [hsame]; exact (h l hl).2.2
  have e : x.readAt t cls (.scratch (scratchLocOf s f l)) n = x.readBytes (scratchLocOf s f l).phys n := rfl
  rw [e, hphys, readBytes_clean hn hfit hclean, hraw]

theorem ScratchReady.fits {s : State} {f : Fields} {at_ : Nat → Nat} {size : Nat} (h : ScratchReady s f (2 ^ size) at_)
    (hs : size ≤ 4) {l : Nat} (hl : (s.ctx f).active.has l = true) :
    0 < 2 ^ size ∧ 2 ^ size ≤ 32 - at_ l % 32 ∧ 2 ^ size ≠ 32 := by
  obtain ⟨hloc, hphys⟩ := h.loc hl
  have h4096 := scratchAt_phys hloc
  have hal := (h l hl).1
  have hdvd : 2 ^ size ∣ 4096 := by
    rw [show 4096 = 2 ^ 12 from rfl]
    exact Nat.pow_dvd_pow 2 (by omega)
  refine fits_word hs ?_
  rw [← hphys, ← Nat.mod_mod_of_dvd _ hdvd, h4096, Nat.mod_mod_of_dvd _ hdvd]
  exact hal

/-- Settles O23: every lane finds its bytes in a clean word, and only stamps change between the lanes. -/
theorem scratchLoadResults : Obligations.ScratchLoadResults := by
  unfold Obligations.ScratchLoadResults
  intro s f at_ c n hi hready
  have hsize := ld_size hi
  have ha := hi.dst_aligned (i := .ld f) rfl rfl
  set step : State → Nat → State := fun x l => stampIf (f.ordering == 2) x c.wid (.scratch (scratchLocOf s f l)) with hstep
  set w : Nat → List RegWrite := fun l => dstLoad f.dst f.size f.mod5 (leNat (s.rawBytes (at_ l) n)) with hw
  have hR : ∀ x l, StampedOnly c.wid s x → l ∈ c.active.lanes → StampedOnly c.wid s (step x l) := fun x l hx _ => hx.stamp _ _
  have hact : ∀ x l, StampedOnly c.wid s x → l ∈ c.active.lanes →
      (fun (s : State) (_ : Nat) (p : State.Place) =>
        let (s, bs, bad) := s.readAt c.w.tenant (s.classOf c.w) p (sizeBytes f.size)
        (stampIf (f.ordering == 2) s c.wid p, dstLoad f.dst f.size f.mod5 (leNat bs), bad)) x l (.scratch (scratchLocOf s f l)) =
      (step x l, w l, false) := by
    intro x l hx hl
    have hl' := LaneMask.mem_lanes.mp hl
    obtain ⟨hpos, hfit, -⟩ := hready.fits hsize hl'
    obtain ⟨hraw, hsyn⟩ := hx.bytes (at_ l) n
    simp only [show sizeBytes f.size = n from rfl, readAt_scratch hready hl' hpos hfit hsyn hraw]
    rfl
  have hbody : exec (.ld f) s = finish (.ld f) c
      { s := c.active.lanes.foldl step s, outs := doneOuts c.active w (fun _ => none) } := by
    have hx : exec (.ld f) s = execLd f s := rfl
    have hfound : PlacesFound s f .read (sizeBytes f.size) s _ := checkLanes_scratch hready (.inl rfl)
    rw [hx, execLd, perform_first hi, loadLanes, accessLanes_found hfound (inOrder_steps hact hR (StampedOnly.refl c.wid s)),
      completedLanes_map]
  have hall : StampedOnly c.wid s (c.active.lanes.foldl step s) :=
    List.foldlRecOn c.active.lanes step (StampedOnly.refl c.wid s) (fun x hx l hl => hR x l hx hl)
  refine ⟨c.active.lanes.foldl step s, ?_⟩
  have hp : ((c.active.lanes.foldl step s).warp c.wid).parkedSince = none := by rw [hall.own]; exact hi.unparked
  obtain ⟨t, ht, hdone⟩ := finish_completes (i := .ld f) (c := c) (dest := fun _ => none) (ws := w)
    (r := { s := c.active.lanes.foldl step s, outs := doneOuts c.active w (fun _ => none) }) hi.split hp
    (fun l _ => valueClass_dst ha hsize _ _) rfl rfl rfl rfl rfl rfl rfl
  refine ⟨t, hbody.trans ht, hdone, fun hord => ?_, hall.others, hall.own, hall.only⟩
  have hid : ∀ x l, step x l = x := by
    intro x l
    rw [hstep, show (f.ordering == 2) = false from beq_eq_false_iff_ne.mpr hord]
    rfl
  exact List.foldlRecOn c.active.lanes step (motive := fun b => b = s) rfl (fun x hx l _ => (hid x l).trans hx)

/-! ## ST to scratch (R228, R236, R241) -/

/-- Only bytes, SC stamps and one warp's stamp and write-completion time have moved. -/
structure StoredOnly (wid : Nat) (s b : State) : Prop where
  others : ∀ x, x ≠ wid → b.warp x = s.warp x
  own : b.warp wid = { s.warp wid with scStamp := (b.warp wid).scStamp, gwct := (b.warp wid).gwct }
  only : b = { s with mem := { s.mem with cells := b.mem.cells, scStamps := b.mem.scStamps }, warps := b.warps }

theorem StoredOnly.refl (wid : Nat) (s : State) : StoredOnly wid s s := ⟨fun _ _ => rfl, rfl, rfl⟩

theorem StoredOnly.trans {wid : Nat} {s x b : State} (h : StoredOnly wid s x) (h' : StoredOnly wid x b) : StoredOnly wid s b := by
  refine ⟨fun y hy => (h'.others y hy).trans (h.others y hy), ?_, ?_⟩
  · rw [h'.own, h.own]
  · rw [h'.only, h.only]

theorem StoredOnly.setBytes (wid : Nat) (s : State) (p : Nat) (bs : List Byte) : StoredOnly wid s (s.setBytes p bs) := by
  rw [setBytes_eq]
  exact ⟨fun _ _ => rfl, rfl, rfl⟩

theorem StampedOnly.stored {wid : Nat} {s b : State} (h : StampedOnly wid s b) : StoredOnly wid s b := by
  refine ⟨h.others, ?_, ?_⟩
  · rw [h.own]
  · rw [h.only]

theorem StoredOnly.noteStore (wid : Nat) (s : State) (t : Nat) : StoredOnly wid s (s.noteStore wid t) := by
  refine ⟨fun x hx => ?_, ?_, ?_⟩
  · rw [State.noteStore, State.updWarp, State.warp_setWarp_other _ _ hx]
  · rw [State.noteStore, State.warp_updWarp_self]
  · rfl

theorem gwct_noteStore (wid : Nat) (s : State) (t : Nat) : ((s.noteStore wid t).warp wid).gwct = max (s.warp wid).gwct t := by
  rw [State.noteStore, State.warp_updWarp_self]

/-- A store of a lane of clean scratch. -/
def storeScratch (wid : Nat) (sc : Bool) (loc : Loc) (bs : List Byte) (x : State) : State :=
  (stampIf sc (x.setBytes loc.phys bs) wid (.scratch loc)).noteStore wid x.gt

theorem StoredOnly.storeScratch (wid : Nat) (sc : Bool) (loc : Loc) (bs : List Byte) (x : State) :
    StoredOnly wid x (storeScratch wid sc loc bs x) :=
  ((StoredOnly.setBytes wid x _ _).trans ((StampedOnly.refl wid _).stamp sc _).stored).trans (StoredOnly.noteStore wid _ _)

theorem byteAt_storeScratch (wid : Nat) (sc : Bool) (loc : Loc) (bs : List Byte) (x : State) (a : Nat) :
    (storeScratch wid sc loc bs x).byteAt a = if loc.phys ≤ a ∧ a < loc.phys + bs.length then bs.getD (a - loc.phys) 0 else x.byteAt a := by
  have h : (storeScratch wid sc loc bs x).byteAt a = (x.setBytes loc.phys bs).byteAt a := by
    unfold Sys2Proof.Machine.storeScratch stampIf
    split <;> rfl
  rw [h, State.byteAt_setBytes]

theorem gwct_storeScratch (wid : Nat) (sc : Bool) (loc : Loc) (bs : List Byte) (x : State) :
    ((storeScratch wid sc loc bs x).warp wid).gwct = max (x.warp wid).gwct x.gt := by
  have h := ((StampedOnly.refl wid (x.setBytes loc.phys bs)).stamp sc (.scratch loc)).own
  rw [Sys2Proof.Machine.storeScratch, gwct_noteStore, h, setBytes_eq]
  rfl

theorem storePlace_scratch {c : Ctx} {x : State} {loc : Loc} {n : Nat} (hn : 0 < n) (hfit : n ≤ 32 - loc.phys % 32) (h32 : n ≠ 32)
    (hc : eccClass (x.syndrome loc.phys) = .clean) (sc : Bool) (v : Nat) :
    storePlace c x sc (.scratch loc) n v = storeScratch c.wid sc loc (leBytes n v) x := by
  have hw : x.writeAt c.w.tenant (x.classOf c.w) (.scratch loc) (leBytes n v) = x.setBytes loc.phys (leBytes n v) := by
    show x.writeBytes loc.phys (leBytes n v) = _
    exact writeBytes_clean (by rw [length_leBytes]; exact hn) (by rw [length_leBytes]; exact hfit) (by rw [length_leBytes]; exact h32) hc
  have hgt : (stampIf sc (x.setBytes loc.phys (leBytes n v)) c.wid (.scratch loc)).gt = x.gt := by
    rw [((StampedOnly.refl c.wid (x.setBytes loc.phys (leBytes n v))).stamp sc (.scratch loc)).only, setBytes_eq]
  rw [storePlace, hw]
  show State.noteStore _ c.wid (stampIf sc (x.setBytes loc.phys (leBytes n v)) c.wid (.scratch loc)).gt = _
  rw [hgt]
  rfl

/-- The write-completion time after stores in order is GT, or later. -/
theorem foldl_gwct {R : State → Prop} {step : State → Nat → State} {wid : Nat} {ls : List Nat} {s : State}
    (hR : ∀ x l, R x → l ∈ ls → R (step x l)) (hgt : ∀ x, R x → x.gt = s.gt)
    (hstep : ∀ x l, R x → l ∈ ls → ((step x l).warp wid).gwct = max (x.warp wid).gwct x.gt) (h0 : R s) (hne : ls ≠ []) :
    ((ls.foldl step s).warp wid).gwct = max (s.warp wid).gwct s.gt := by
  cases ls with
  | nil => exact absurd rfl hne
  | cons l ls =>
    rw [List.foldl_cons]
    have hfirst : R (step s l) ∧ ((step s l).warp wid).gwct = max (s.warp wid).gwct s.gt :=
      ⟨hR s l h0 (by simp), hstep s l h0 (by simp)⟩
    refine (List.foldlRecOn ls step (motive := fun x => R x ∧ (x.warp wid).gwct = max (s.warp wid).gwct s.gt) hfirst
      (fun x hx k hk => ⟨hR x k hx.1 (by simp [hk]), ?_⟩)).2
    rw [hstep x k hx.1 (by simp [hk]), hx.2, hgt x hx.1, Nat.max_assoc, Nat.max_self]

/-- Settles O24: the lanes store one after another to clean words. -/
theorem scratchStoreResults : Obligations.ScratchStoreResults := by
  unfold Obligations.ScratchStoreResults
  intro s f at_ c n k hi hready hord hk
  have hsize := st_size hi
  set step : State → Nat → State := fun x l =>
    storeScratch c.wid (f.ordering == 2) (scratchLocOf s f l) (leBytes n (storeValue c f l).1) x with hstep
  have hR : ∀ x l, StoredOnly c.wid s x → l ∈ c.active.lanes → StoredOnly c.wid s (step x l) :=
    fun x l hx _ => hx.trans (StoredOnly.storeScratch ..)
  have hact : ∀ x l, StoredOnly c.wid s x → l ∈ c.active.lanes →
      (fun s' l p => (storePlace c s' (f.ordering == 2) p (sizeBytes f.size) (storeValue c f l).1, ([] : List RegWrite), false)) x l
        (.scratch (scratchLocOf s f l)) = (step x l, [], false) := by
    intro x l hx hl
    have hl' := LaneMask.mem_lanes.mp hl
    obtain ⟨hpos, hfit, h32⟩ := hready.fits hsize hl'
    have hphys := (hready.loc hl').2
    have hclean : eccClass (x.syndrome (scratchLocOf s f l).phys) = .clean := by
      rw [hphys, hx.only]; exact (hready l hl').2.2
    rw [← hphys] at hfit
    simp only [storePlace_scratch (n := sizeBytes f.size) hpos hfit h32 hclean]
    rfl
  have hall : StoredOnly c.wid s (c.active.lanes.foldl step s) :=
    List.foldlRecOn c.active.lanes step (StoredOnly.refl c.wid s) (fun x hx l hl => hR x l hx hl)
  have hbytes : ∀ x l, StoredOnly c.wid s x → l ∈ c.active.lanes → ∀ a, (step x l).byteAt a =
      if at_ l ≤ a ∧ a < at_ l + n then (leBytes n (storeValue c f l).1).getD (a - at_ l) 0 else x.byteAt a := by
    intro x l _ hl a
    rw [hstep, byteAt_storeScratch, (hready.loc (LaneMask.mem_lanes.mp hl)).2, length_leBytes]
  obtain ⟨hout, hin⟩ := foldl_stores hbytes hR (lanes_sorted c.active) (StoredOnly.refl c.wid s)
  have hp : ((c.active.lanes.foldl step s).warp c.wid).parkedSince = none := by rw [hall.own]; exact hi.unparked
  refine ⟨c.active.lanes.foldl step s, ?_⟩
  obtain ⟨t, ht, hdone⟩ := finish_done (i := .st f) (c := c) (ws := fun _ => []) (dest := fun _ => none)
    (r := { s := c.active.lanes.foldl step s, outs := doneOuts c.active (fun _ => []) (fun _ => none)
            onWarp := fun w => w.countBound (storeBound f) k })
    (by simp only [raise_zero]; exact Own.countBound _ _) hi.split hp (fun _ _ => inRange_nil) rfl rfl rfl rfl rfl
  simp only [raise_zero] at hdone
  refine ⟨t, ?_, hdone, fun a ha => hout a (fun l hl => ha l (LaneMask.mem_lanes.mp hl)), fun l hl hdis i hi' => ?_, hall.others,
    hall.own, fun hne => ?_, hall.only⟩
  · have hx : exec (.st f) s = execSt f s := rfl
    have hrel : (f.ordering != 0 && c.active != 0 && !s.storesComplete c.wid) = false := by
      rcases hord with h | h | h
      · rw [h]; rfl
      · rw [h, bne_self_eq_false, Bool.and_false, Bool.false_and]
      · rw [h, Bool.not_true, Bool.and_false]
    have hfound : PlacesFound s f .write (sizeBytes f.size) s _ := checkLanes_scratch hready (.inr (.inl rfl))
    rw [hx, execSt, perform_first hi, stLanes, releasing]
    simp only [show s.ctx f = c from rfl, hrel, Bool.false_eq_true, if_false]
    rw [storeBody_found hfound hk (inOrder_steps hact hR (StoredOnly.refl c.wid s)), completedLanes_map]
    exact ht
  · rw [hin l (LaneMask.mem_lanes.mpr hl) (fun j hj hlt => hdis j (LaneMask.mem_lanes.mp hj) hlt) i hi', getD_leBytes _ _ _ hi']
  · exact foldl_gwct hR (fun x hx => by rw [hx.only]) (fun x l _ _ => gwct_storeScratch ..) (StoredOnly.refl c.wid s)
      (fun e => hne (LaneMask.lanes_eq_nil.mp e))

end Sys2Proof.Machine
end

section
/-! # Proofs: full/empty operations and byte-count objects in scratch (R210, R212, R230 to R232, R382 to R385) -/

namespace Sys2Proof.Machine

/-! ## What such an instruction leaves of the warps -/

/-- Of the warps only one has another write-completion time. -/
structure Noted (wid : Nat) (s b : State) : Prop where
  others : ∀ x, x ≠ wid → b.warp x = s.warp x
  own : b.warp wid = { s.warp wid with gwct := (b.warp wid).gwct }

theorem Noted.refl (wid : Nat) (s : State) : Noted wid s s := ⟨fun _ _ => rfl, rfl⟩

theorem Noted.of_warps {wid : Nat} {s b : State} (h : b.warps = s.warps) : Noted wid s b := by
  have e : ∀ x, b.warp x = s.warp x := fun x => by simp only [State.warp, h]
  exact ⟨fun x _ => e x, by rw [e]⟩

theorem Noted.trans {wid : Nat} {s x b : State} (h : Noted wid s x) (h' : Noted wid x b) : Noted wid s b := by
  refine ⟨fun y hy => (h'.others y hy).trans (h.others y hy), ?_⟩
  rw [h'.own, h.own]

theorem Noted.noteStore (wid : Nat) (s : State) (t : Nat) : Noted wid s (s.noteStore wid t) := by
  refine ⟨fun x hx => ?_, ?_⟩
  · rw [State.noteStore, State.updWarp, State.warp_setWarp_other _ _ hx]
  · rw [State.noteStore, State.warp_updWarp_self]

theorem Noted.unparked {wid : Nat} {s b : State} (h : Noted wid s b) (hp : (s.warp wid).parkedSince = none) :
    (b.warp wid).parkedSince = none := by rw [h.own]; exact hp

/-! ## Full bits of lanes one after another -/

theorem isFull_setFull (s : State) (p q : Nat) (b : Bool) : (s.setFull p b).isFull q = if q / 16 = p / 16 then b else s.isFull q := by
  simp only [State.isFull, State.setFull, Sparse.get_set]

theorem isFull_empty (s : State) (p q : Nat) : (s.setFull p false).isFull q = true ↔ s.isFull q = true ∧ p / 16 ≠ q / 16 := by
  rw [isFull_setFull]
  split
  case isTrue h => simp [h]
  case isFalse h => simp [Ne.symm h]

/-- Steps that each keep the full bits that they do not clear. -/
theorem foldl_empties {α : Type} {step : State → α → State} {Q : α → Nat → Prop} {ls : List α}
    (h : ∀ x l, l ∈ ls → ∀ p, (step x l).isFull p = true ↔ x.isFull p = true ∧ Q l p) (s : State) (p : Nat) :
    (ls.foldl step s).isFull p = true ↔ s.isFull p = true ∧ ∀ l ∈ ls, Q l p := by
  induction ls generalizing s with
  | nil => simp
  | cons l ls ih =>
    rw [List.foldl_cons, ih (fun x k hk => h x k (by simp [hk])), h s l (by simp)]
    simp only [List.forall_mem_cons, and_assoc]

/-- Steps that each keep full bits and set further ones. -/
theorem foldl_fills {α : Type} {step : State → α → State} {Q : α → Nat → Prop} {ls : List α}
    (h : ∀ x l, l ∈ ls → ∀ p, (step x l).isFull p = true ↔ x.isFull p = true ∨ Q l p) (s : State) (p : Nat) :
    (ls.foldl step s).isFull p = true ↔ s.isFull p = true ∨ ∃ l ∈ ls, Q l p := by
  induction ls generalizing s with
  | nil => simp
  | cons l ls ih =>
    rw [List.foldl_cons, ih (fun x k hk => h x k (by simp [hk])), h s l (by simp)]
    simp only [List.exists_mem_cons_iff, or_assoc]

/-! ## LDFE and FECLR (R230, R232) -/

/-- Only full bits and one warp's write-completion time have moved. -/
structure FullOnly (wid : Nat) (s b : State) : Prop extends Noted wid s b where
  only : b = { s with mem := { s.mem with full := b.mem.full }, warps := b.warps }

theorem FullOnly.refl (wid : Nat) (s : State) : FullOnly wid s s := ⟨Noted.refl wid s, rfl⟩

theorem FullOnly.trans {wid : Nat} {s x b : State} (h : FullOnly wid s x) (h' : FullOnly wid x b) : FullOnly wid s b :=
  ⟨h.toNoted.trans h'.toNoted, by rw [h'.only, h.only]⟩

theorem FullOnly.setFull (wid : Nat) (s : State) (p : Nat) (b : Bool) : FullOnly wid s (s.setFull p b) := ⟨Noted.of_warps rfl, rfl⟩

theorem FullOnly.noteStore (wid : Nat) (s : State) (t : Nat) : FullOnly wid s (s.noteStore wid t) := ⟨Noted.noteStore wid s t, rfl⟩

theorem FullOnly.place {wid : Nat} {s x : State} (h : FullOnly wid s x) (ag : Agent) (r : VaRange) :
    x.scratchPlace ag r = s.scratchPlace ag r := by rw [h.only]; rfl

/-- A lane that LDFE serves empties its granule, unless the form keeps it. -/
def takeFull (wid : Nat) (f : Fields) (at_ : Nat → Nat) (x : State) (l : Nat) : State :=
  if f.mod5 then x else (x.setFull (at_ l) false).noteStore wid x.gt

theorem FullOnly.takeFull (wid : Nat) (f : Fields) (at_ : Nat → Nat) (x : State) (l : Nat) :
    FullOnly wid x (takeFull wid f at_ x l) := by
  unfold Sys2Proof.Machine.takeFull
  split
  · exact FullOnly.refl wid x
  · exact (FullOnly.setFull wid x _ _).trans (FullOnly.noteStore wid _ _)

theorem isFull_takeFull (wid : Nat) (f : Fields) (at_ : Nat → Nat) (x : State) (l p : Nat) :
    (takeFull wid f at_ x l).isFull p = true ↔ x.isFull p = true ∧ (f.mod5 = true ∨ at_ l / 16 ≠ p / 16) := by
  unfold takeFull
  cases f.mod5 with
  | true => simp
  | false =>
    have e : ((x.setFull (at_ l) false).noteStore wid x.gt).isFull p = (x.setFull (at_ l) false).isFull p := rfl
    simp only [Bool.false_eq_true, if_false, e, isFull_empty, false_or]

/-- A granule that is full and that no request waits for serves its lane. -/
theorem serveFull_ready {s x : State} {f : Fields} {at_ : Nat → Nat} (hsize : f.size ≤ 4) (h : ScratchReady s f (2 ^ f.size) at_)
    (hx : FullOnly (s.ctx f).wid s x) {l : Nat} (hl : (s.ctx f).active.has l = true) :
    serveFull x (s.ctx f).wid f (at_ l) =
      (takeFull (s.ctx f).wid f at_ x l, dstLoad f.dst f.size false (leNat (s.rawBytes (at_ l) (2 ^ f.size))), false) := by
  obtain ⟨hpos, hfit, -⟩ := h.fits hsize hl
  have hclean : eccClass (x.syndrome (at_ l)) = .clean := by rw [hx.only]; exact (h l hl).2.2
  have hraw : x.rawBytes (at_ l) (2 ^ f.size) = s.rawBytes (at_ l) (2 ^ f.size) := by rw [hx.only]; rfl
  simp only [serveFull, sizeBytes, readBytes_clean hpos hfit hclean, hraw, takeFull]

theorem ldfeLanes_full {s : State} {f : Fields} {at_ : Nat → Nat} (hsize : f.size ≤ 4) (h : ScratchReady s f (2 ^ f.size) at_)
    (hq : ∀ l, (s.ctx f).active.has l = true → ∀ r ∈ s.mem.feQueue, r.granule ≠ at_ l / 16) {ls : List Nat}
    (hls : ∀ l ∈ ls, (s.ctx f).active.has l = true) (hap : f.mod5 = true ∨ ls.Pairwise (fun l k => at_ l / 16 ≠ at_ k / 16))
    {p : Performed} (hp : FullOnly (s.ctx f).wid s p.s) (hfull : ∀ l ∈ ls, p.s.isFull (at_ l) = true) :
    ldfeLanes (s.ctx f) f p ls =
      { s := ls.foldl (takeFull (s.ctx f).wid f at_) p.s, consumed := p.consumed
        outs := p.outs.reverse ++
          ls.map (fun l => (l, LaneOutcome.done (dstLoad f.dst f.size false (leNat (s.rawBytes (at_ l) (2 ^ f.size)))) none)) } := by
  induction ls generalizing p with
  | nil => simp [ldfeLanes]
  | cons l ls ih =>
    have hl := hls l (by simp)
    have hphys : State.placePhys (.scratch (scratchLocOf s f l)) = at_ l := (h.loc hl).2
    have hnone : p.s.mem.feQueue.any (fun r => r.granule == at_ l / 16) = false := by
      rw [hp.only]
      exact List.any_eq_false.mpr (fun r hr e => hq l hl r hr (eq_of_beq e))
    have hstep := hp.trans (FullOnly.takeFull (s.ctx f).wid f at_ p.s l)
    have hrest : ∀ k ∈ ls, (takeFull (s.ctx f).wid f at_ p.s l).isFull (at_ k) = true := by
      intro k hk
      refine (isFull_takeFull _ f at_ p.s l (at_ k)).mpr ⟨hfull k (by simp [hk]), ?_⟩
      exact hap.imp_right (fun hpw => (List.pairwise_cons.mp hpw).1 k hk)
    have hap' := hap.imp_right (fun hpw => (List.pairwise_cons.mp hpw).2)
    simp only [ldfeLanes, sizeBytes, checkScratch_ready h (fun r => hp.place _ r) hl, hphys, hfull l (by simp), hnone, Bool.not_false,
      Bool.and_self, if_true, serveFull_ready hsize h hp hl, Bool.false_eq_true, if_false]
    rw [ih (fun k hk => hls k (by simp [hk])) hap' hstep hrest]
    simp

theorem ldfe_size {f : Fields} {s : State} (hi : Issuing (.ldfe f) f s) : f.size ≤ 4 := by
  have h := hi.rowLegal (i := .ldfe f) rfl rfl
  have h : [2, 3, 4].contains f.size = true := h
  simp only [List.contains_iff_mem, List.mem_cons, List.not_mem_nil, or_false] at h
  omega

theorem stfe_size {f : Fields} {s : State} (hi : Issuing (.stfe f) f s) : f.size ≤ 4 := by
  have h := hi.rowLegal (i := .stfe f) rfl rfl
  have h : [2, 3, 4].contains f.size = true := h
  simp only [List.contains_iff_mem, List.mem_cons, List.not_mem_nil, or_false] at h
  omega

theorem vValueClass_dst {f : Fields} (ha : (vValueClass f).aligned f.dst = true) (hs : f.size ≤ 4) (unsigned : Bool) (x : Nat) :
    inRange (dstLoad f.dst f.size unsigned x) := by
  have hv := aligned_v ha
  refine inRange_dstLoad (fun h3 => ?_) (fun h4 => ?_) unsigned x
  · simpa [vValueClass, h3, FieldClass.vGroup] using hv
  · have h : f.size = 4 := Nat.le_antisymm hs h4
    simpa [vValueClass, h, FieldClass.vGroup] using hv

/-- The granules of a lane's range are emptied, one store-like access (R232). -/
def clearGranules (wid : Nat) (x : State) (gs : List Nat) : State :=
  (gs.foldl (fun s g => s.setFull g false) x).noteStore wid x.gt

theorem FullOnly.clearGranules (wid : Nat) (x : State) (gs : List Nat) : FullOnly wid x (clearGranules wid x gs) :=
  (List.foldlRecOn gs _ (motive := FullOnly wid x) (FullOnly.refl wid x) (fun y hy g _ => hy.trans (FullOnly.setFull wid y g false))).trans
    (FullOnly.noteStore wid _ _)

theorem isFull_clearGranules (wid : Nat) (x : State) (gs : List Nat) (p : Nat) :
    (clearGranules wid x gs).isFull p = true ↔ x.isFull p = true ∧ ∀ g ∈ gs, g / 16 ≠ p / 16 :=
  foldl_empties (step := fun s g => s.setFull g false) (fun y g _ q => isFull_empty y g q) x p

theorem granulesOf_kept {wid : Nat} {s x : State} (h : FullOnly wid s x) (ag : Agent) (va : DWord) (n : Nat) :
    granulesOf x ag va n = granulesOf s ag va n := by
  rw [h.only]
  rfl

/-! ## STFE (R231) -/

/-- Bytes, full bits, one warp's write-completion time and blocks' counts of events have moved. -/
structure FilledOnly (wid : Nat) (s b : State) : Prop extends Noted wid s b where
  events : b.loft.blocks.map (fun x => { x with events := 0 }) = s.loft.blocks.map (fun x => { x with events := 0 })
  only : b = { s with
    mem := { s.mem with cells := b.mem.cells, full := b.mem.full }
    warps := b.warps
    loft := { s.loft with blocks := b.loft.blocks } }

theorem FilledOnly.refl (wid : Nat) (s : State) : FilledOnly wid s s := ⟨Noted.refl wid s, rfl, rfl⟩

theorem FilledOnly.trans {wid : Nat} {s x b : State} (h : FilledOnly wid s x) (h' : FilledOnly wid x b) : FilledOnly wid s b :=
  ⟨h.toNoted.trans h'.toNoted, h'.events.trans h.events, by rw [h'.only, h.only]⟩

theorem FilledOnly.raiseFull (wid : Nat) (s : State) (p : Nat) : FilledOnly wid s (s.raiseFull p) := by
  refine ⟨Noted.of_warps rfl, ?_, rfl⟩
  simp only [State.raiseFull, State.setFull_loft, List.map_map]
  refine List.map_congr_left (fun b _ => ?_)
  simp only [Function.comp_apply]
  split <;> rfl

theorem FilledOnly.storeScratch (wid : Nat) (loc : Loc) (bs : List Byte) (x : State) :
    FilledOnly wid x (storeScratch wid false loc bs x) := by
  have h1 : FilledOnly wid x (x.setBytes loc.phys bs) := by
    rw [setBytes_eq]
    exact ⟨Noted.of_warps rfl, rfl, rfl⟩
  exact h1.trans ⟨Noted.noteStore wid _ _, rfl, rfl⟩

theorem isFull_raiseFull (s : State) (p q : Nat) : (s.raiseFull p).isFull q = true ↔ s.isFull q = true ∨ p / 16 = q / 16 := by
  have e : (s.raiseFull p).isFull q = (s.setFull p true).isFull q := rfl
  rw [e, isFull_setFull]
  split
  case isTrue h => simp [h]
  case isFalse h => simp [Ne.symm h]

theorem isFull_storeScratch (wid : Nat) (loc : Loc) (bs : List Byte) (x : State) (p : Nat) :
    (storeScratch wid false loc bs x).isFull p = x.isFull p := by
  have e : (storeScratch wid false loc bs x).isFull p = (x.setBytes loc.phys bs).isFull p := rfl
  rw [e, setBytes_eq]
  rfl

theorem byteAt_raiseFull (s : State) (p a : Nat) : (s.raiseFull p).byteAt a = s.byteAt a := rfl

theorem checked_scratch {s : State} {f : Fields} {n : Nat} {at_ : Nat → Nat} (h : ScratchReady s f n at_) :
    (s.ctx f).active.lanes.map (fun l => (l, checkScratch s (s.ctx f) n ((s.ctx f).w.addr l f))) =
      foundLanes ((s.ctx f).active.lanes.map (fun l => (l, .scratch (scratchLocOf s f l)))) := by
  rw [foundLanes, List.map_map]
  refine List.map_congr_left (fun l hl => ?_)
  rw [checkScratch_ready h (fun _ => rfl) (LaneMask.mem_lanes.mp hl)]
  rfl

/-- A lane of STFE stores its value and fills its granule. -/
def fillScratch (s : State) (f : Fields) (at_ : Nat → Nat) (x : State) (l : Nat) : State :=
  (storeScratch (s.ctx f).wid false (scratchLocOf s f l) (leBytes (2 ^ f.size) (srcValue (s.ctx f).w l f.sb f.size)) x).raiseFull (at_ l)

theorem FilledOnly.fillScratch (s : State) (f : Fields) (at_ : Nat → Nat) (x : State) (l : Nat) :
    FilledOnly (s.ctx f).wid x (fillScratch s f at_ x l) :=
  (FilledOnly.storeScratch _ _ _ x).trans (FilledOnly.raiseFull _ _ _)

theorem stfeLanes_ready {s : State} {f : Fields} {at_ : Nat → Nat} (hsize : f.size ≤ 4) (h : ScratchReady s f (2 ^ f.size) at_)
    (hord : (s.ctx f).active = 0 ∨ s.storesComplete (s.ctx f).wid = true) :
    stfeLanes (s.ctx f) s f =
      { s := (s.ctx f).active.lanes.foldl (fillScratch s f at_) s
        outs := doneOuts (s.ctx f).active (fun _ => []) (fun _ => none) } := by
  have hact : ∀ x l, FilledOnly (s.ctx f).wid s x → l ∈ (s.ctx f).active.lanes →
      (fun s' l p => ((storePlace (s.ctx f) s' false p (sizeBytes f.size) (srcValue (s.ctx f).w l f.sb f.size)).raiseFull
        (State.placePhys p), ([] : List RegWrite), false)) x l (.scratch (scratchLocOf s f l)) = (fillScratch s f at_ x l, [], false) := by
    intro x l hx hl
    have hl' := LaneMask.mem_lanes.mp hl
    obtain ⟨hpos, hfit, h32⟩ := h.fits hsize hl'
    have hphys := (h.loc hl').2
    have hclean : eccClass (x.syndrome (scratchLocOf s f l).phys) = .clean := by
      rw [hphys, hx.only]; exact (h l hl').2.2
    have hplace : State.placePhys (.scratch (scratchLocOf s f l)) = at_ l := hphys
    rw [← hphys] at hfit
    simp only [storePlace_scratch (n := sizeBytes f.size) hpos hfit h32 hclean, hplace]
    rfl
  have hR : ∀ x l, FilledOnly (s.ctx f).wid s x → l ∈ (s.ctx f).active.lanes → FilledOnly (s.ctx f).wid s (fillScratch s f at_ x l) :=
    fun x l hx _ => hx.trans (FilledOnly.fillScratch s f at_ x l)
  have hrel : (true && (s.ctx f).active != 0 && !s.storesComplete (s.ctx f).wid) = false := by
    rcases hord with h | h
    · rw [h, bne_self_eq_false, Bool.and_false, Bool.false_and]
    · rw [h, Bool.not_true, Bool.and_false]
  rw [stfeLanes]
  simp only [releasing, hrel, Bool.false_eq_true, if_false, sizeBytes, checked_scratch h]
  rw [performPlaces_found (p := { s := s }) (inOrder_steps hact hR (FilledOnly.refl _ s)), completedLanes_map]
  rfl

theorem byteAt_fillScratch {s : State} {f : Fields} {at_ : Nat → Nat} (h : ScratchReady s f (2 ^ f.size) at_) (x : State) {l : Nat}
    (hl : (s.ctx f).active.has l = true) (a : Nat) : (fillScratch s f at_ x l).byteAt a =
      if at_ l ≤ a ∧ a < at_ l + 2 ^ f.size then
        (leBytes (2 ^ f.size) (srcValue (s.ctx f).w l f.sb f.size)).getD (a - at_ l) 0 else x.byteAt a := by
  rw [fillScratch, byteAt_raiseFull, byteAt_storeScratch, (h.loc hl).2, length_leBytes]

theorem isFull_fillScratch (s : State) (f : Fields) (at_ : Nat → Nat) (x : State) (l p : Nat) :
    (fillScratch s f at_ x l).isFull p = true ↔ x.isFull p = true ∨ at_ l / 16 = p / 16 := by
  rw [fillScratch, isFull_raiseFull, isFull_storeScratch]

/-! ## The ranges of FECLR -/

/-- The lanes of FECLR whose ranges are not empty and lie in scratch. -/
def clearRange (s : State) (f : Fields) (gs : Nat → List Nat) (x : State) (l : Nat) : State :=
  if ((s.ctx f).w.src32 l f.sb 0).toNat = 0 then x else clearGranules (s.ctx f).wid x (gs l)

theorem FullOnly.clearRange (s : State) (f : Fields) (gs : Nat → List Nat) (x : State) (l : Nat) :
    FullOnly (s.ctx f).wid x (clearRange s f gs x l) := by
  unfold Sys2Proof.Machine.clearRange
  split
  · exact FullOnly.refl _ x
  · exact FullOnly.clearGranules _ x (gs l)

/-- What a lane of FECLR gives: nothing to clear, or granules within one allocation. -/
def RangeReady (s : State) (f : Fields) (gs : Nat → List Nat) (l : Nat) : Prop :=
  let m := ((s.ctx f).w.src32 l f.sb 0).toNat
  (m = 0 ∧ gs l = []) ∨ (m ≠ 0 ∧ ((s.ctx f).w.addr l f).toNat % 16 = 0 ∧ m % 16 = 0 ∧
    granulesOf s (s.ctx f).agent ((s.ctx f).w.addr l f) m = some (gs l))

theorem isFull_clearRange {s : State} {f : Fields} {gs : Nat → List Nat} {l : Nat} (h : RangeReady s f gs l) (x : State) (p : Nat) :
    (clearRange s f gs x l).isFull p = true ↔ x.isFull p = true ∧ ∀ g ∈ gs l, g / 16 ≠ p / 16 := by
  unfold clearRange
  rcases h with ⟨h0, hgs⟩ | ⟨h0, -⟩
  · rw [if_pos h0, hgs]
    simp
  · rw [if_neg h0, isFull_clearGranules]

theorem feclrLanes_ready {s : State} {f : Fields} {gs : Nat → List Nat}
    (h : ∀ l, (s.ctx f).active.has l = true → RangeReady s f gs l) :
    feclrLanes (s.ctx f) s f =
      { s := (s.ctx f).active.lanes.foldl (clearRange s f gs) s
        outs := doneOuts (s.ctx f).active (fun _ => []) (fun _ => none) } := by
  have all : ∀ (step : Performed → Nat → Performed),
      (∀ p l, FullOnly (s.ctx f).wid s p.s → (s.ctx f).active.has l = true →
        step p l = { p with s := clearRange s f gs p.s l, outs := p.outs ++ [(l, .done [] none)] }) →
      ∀ ls : List Nat, (∀ l ∈ ls, (s.ctx f).active.has l = true) → ∀ p : Performed, FullOnly (s.ctx f).wid s p.s →
        ls.foldl step p =
          { p with s := ls.foldl (clearRange s f gs) p.s, outs := p.outs ++ ls.map (fun l => (l, .done [] none)) } := by
    intro step hstep ls
    induction ls with
    | nil => exact fun _ p _ => by simp
    | cons l ls ih =>
      intro hl p hp
      rw [List.foldl_cons, hstep p l hp (hl l (by simp)),
        ih (fun k hk => hl k (by simp [hk])) _ (hp.trans (FullOnly.clearRange s f gs p.s l))]
      simp
  rw [feclrLanes, all _ (fun p l hp hl => ?_) _ (fun l hl => LaneMask.mem_lanes.mp hl) { s := s } (FullOnly.refl _ s)]
  · rfl
  · rcases h l hl with ⟨h0, -⟩ | ⟨h0, h16, hm, hg⟩
    · simp only [h0, if_true, clearRange]
    · simp only [h0, if_false, h16, hm, ne_eq, not_true_eq_false, decide_false, Bool.or_self, Bool.false_eq_true,
        granulesOf_kept hp, hg, clearRange, clearGranules]

/-- Settles O26: the lanes take, fill or empty their granules one after another. -/
theorem fullEmptyResults : Obligations.FullEmptyResults := by
  unfold Obligations.FullEmptyResults
  intro s f at_ gs c n noted
  refine ⟨fun hi hready hfull hap => ?_, fun hi hready hord => ?_, fun hi hgs => ?_⟩
  · have hsize := ldfe_size hi
    have ha := hi.dst_aligned (i := .ldfe f) rfl rfl
    have hpairs : f.mod5 = true ∨ c.active.lanes.Pairwise (fun l k => at_ l / 16 ≠ at_ k / 16) := by
      refine hap.imp_right (fun hap => (lanes_sorted c.active).imp_of_mem ?_)
      intro l k hl hk hlt
      exact hap l k (LaneMask.mem_lanes.mp hl) (LaneMask.mem_lanes.mp hk) (Nat.ne_of_lt hlt)
    set b := c.active.lanes.foldl (takeFull c.wid f at_) s with hb
    set w : Nat → List RegWrite := fun l => dstLoad f.dst f.size false (leNat (s.rawBytes (at_ l) n)) with hw
    have hlanes : ldfeLanes c f { s := s } c.active.lanes = { s := b, outs := doneOuts c.active w (fun _ => none) } :=
      ldfeLanes_full hsize hready (fun l hl => (hfull l hl).2) (fun l hl => LaneMask.mem_lanes.mp hl) hpairs (p := { s := s })
        (FullOnly.refl c.wid s) (fun l hl => (hfull l (LaneMask.mem_lanes.mp hl)).1)
    have hall : FullOnly c.wid s b := List.foldlRecOn c.active.lanes _ (FullOnly.refl c.wid s)
      (fun x hx l _ => hx.trans (FullOnly.takeFull c.wid f at_ x l))
    obtain ⟨t, ht, hdone⟩ := finish_completes (i := .ldfe f) (c := c) (dest := fun _ => none) (ws := w)
      (r := { s := b, outs := doneOuts c.active w (fun _ => none) }) hi.split (hall.unparked hi.unparked)
      (fun l _ => vValueClass_dst ha hsize _ _) rfl rfl rfl rfl rfl rfl rfl
    refine ⟨b, t, ?_, hdone, fun p => ?_, ⟨hall.others, hall.own⟩, hall.only⟩
    · have hx : exec (.ldfe f) s = execLdfe f s := rfl
      rw [hx, execLdfe, perform_first hi]
      simp only [show s.ctx f = c from rfl, hlanes, List.length_map, if_true]
      exact ht
    · rw [hb, foldl_empties (fun x l _ q => isFull_takeFull c.wid f at_ x l q)]
      refine and_congr_right (fun _ => ⟨fun h => ?_, fun h l hl => ?_⟩)
      · by_cases hm : f.mod5 = true
        · exact .inl hm
        · exact .inr (fun l hl => (h l (LaneMask.mem_lanes.mpr hl)).resolve_left hm)
      · exact h.imp_right (fun h => h l (LaneMask.mem_lanes.mp hl))
  · have hsize := stfe_size hi
    set b := c.active.lanes.foldl (fillScratch s f at_) s with hb
    have hall : FilledOnly c.wid s b := List.foldlRecOn c.active.lanes _ (FilledOnly.refl c.wid s)
      (fun x hx l _ => hx.trans (FilledOnly.fillScratch s f at_ x l))
    obtain ⟨t, ht, hdone⟩ := finish_completes (i := .stfe f) (c := c) (dest := fun _ => none) (ws := fun _ => [])
      (r := { s := b, outs := doneOuts c.active (fun _ => []) (fun _ => none) }) hi.split (hall.unparked hi.unparked)
      (fun _ _ => inRange_nil) rfl rfl rfl rfl rfl rfl rfl
    obtain ⟨hout, hin⟩ := foldl_stores (R := fun _ => True) (s := s)
      (fun x l _ hl a => byteAt_fillScratch hready x (LaneMask.mem_lanes.mp hl) a) (fun _ _ _ _ => trivial) (lanes_sorted c.active) trivial
    refine ⟨b, t, ?_, hdone, fun p => ?_, fun a ha => hout a (fun l hl => ha l (LaneMask.mem_lanes.mp hl)), fun l hl hdis i hi' => ?_,
      ⟨hall.others, hall.own⟩, hall.events, hall.only⟩
    · have hx : exec (.stfe f) s = execStfe f s := rfl
      rw [hx, execStfe, perform_first hi, stfeLanes_ready hsize hready hord]
      exact ht
    · rw [hb, foldl_fills (fun x l _ q => isFull_fillScratch s f at_ x l q)]
      simp only [LaneMask.mem_lanes]
    · rw [hin l (LaneMask.mem_lanes.mpr hl) (fun j hj hlt => hdis j (LaneMask.mem_lanes.mp hj) hlt) i hi', getD_leBytes _ _ _ hi']
  · set b := c.active.lanes.foldl (clearRange s f gs) s with hb
    have hall : FullOnly c.wid s b := List.foldlRecOn c.active.lanes _ (FullOnly.refl c.wid s)
      (fun x hx l _ => hx.trans (FullOnly.clearRange s f gs x l))
    obtain ⟨t, ht, hdone⟩ := finish_completes (i := .feclr f) (c := c) (dest := fun _ => none) (ws := fun _ => [])
      (r := { s := b, outs := doneOuts c.active (fun _ => []) (fun _ => none) }) hi.split (hall.unparked hi.unparked)
      (fun _ _ => inRange_nil) rfl rfl rfl rfl rfl rfl rfl
    refine ⟨b, t, ?_, hdone, fun p => ?_, ⟨hall.others, hall.own⟩, hall.only⟩
    · have hx : exec (.feclr f) s = execFeclr f s := rfl
      rw [hx, execFeclr, perform_first hi, feclrLanes_ready hgs]
      exact ht
    · rw [hb, foldl_empties (fun x l hl q => isFull_clearRange (hgs l (LaneMask.mem_lanes.mp hl)) x q)]
      simp only [LaneMask.mem_lanes]

/-! ## Byte-count objects (R382 to R385) -/

/-- Only bytes and one warp's write-completion time have moved. -/
structure CountedOnly (wid : Nat) (s b : State) : Prop extends Noted wid s b where
  only : b = { s with mem := { s.mem with cells := b.mem.cells }, warps := b.warps }

theorem CountedOnly.refl (wid : Nat) (s : State) : CountedOnly wid s s := ⟨Noted.refl wid s, rfl⟩

theorem CountedOnly.trans {wid : Nat} {s x b : State} (h : CountedOnly wid s x) (h' : CountedOnly wid x b) : CountedOnly wid s b :=
  ⟨h.toNoted.trans h'.toNoted, by rw [h'.only, h.only]⟩

/-- The objects of the lanes take the values that `val` makes of their old ones. -/
def setObject (wid : Nat) (at_ : Nat → Nat) (val : Nat → List Byte → List Byte) (x : State) (l : Nat) : State :=
  (x.setBytes (at_ l) (val l (x.rawBytes (at_ l) 16))).noteStore wid x.gt

theorem CountedOnly.setObject (wid : Nat) (at_ : Nat → Nat) (val : Nat → List Byte → List Byte) (x : State) (l : Nat) :
    CountedOnly wid x (setObject wid at_ val x l) := by
  have h1 : CountedOnly wid x (x.setBytes (at_ l) (val l (x.rawBytes (at_ l) 16))) := by
    rw [setBytes_eq]
    exact ⟨Noted.of_warps rfl, rfl⟩
  exact h1.trans ⟨Noted.noteStore wid _ _, rfl⟩

theorem byteAt_setObject {wid : Nat} {at_ : Nat → Nat} {val : Nat → List Byte → List Byte} (hval : ∀ l bs, (val l bs).length = 16)
    (x : State) (l a : Nat) : (setObject wid at_ val x l).byteAt a =
      if at_ l ≤ a ∧ a < at_ l + 16 then (val l (x.rawBytes (at_ l) 16)).getD (a - at_ l) 0 else x.byteAt a := by
  have e : (setObject wid at_ val x l).byteAt a = (x.setBytes (at_ l) (val l (x.rawBytes (at_ l) 16))).byteAt a := rfl
  rw [e, State.byteAt_setBytes, hval]

theorem rawBytes_congr {s t : State} {p n : Nat} (h : ∀ i < n, s.byteAt (p + i) = t.byteAt (p + i)) : s.rawBytes p n = t.rawBytes p n :=
  List.map_congr_left (fun i hi => h i (List.mem_range.mp hi))

theorem rawBytes_setObject_self {wid : Nat} {at_ : Nat → Nat} {val : Nat → List Byte → List Byte} (hval : ∀ l bs, (val l bs).length = 16)
    (x : State) (l : Nat) : (setObject wid at_ val x l).rawBytes (at_ l) 16 = val l (x.rawBytes (at_ l) 16) := by
  have h := State.rawBytes_setBytes x (at_ l) (val l (x.rawBytes (at_ l) 16))
  rw [hval] at h
  exact h

section Objects

variable {wid : Nat} {at_ : Nat → Nat} {val : Nat → List Byte → List Byte} (hval : ∀ l bs, (val l bs).length = 16)
include hval

theorem foldl_setObject_outside {ls : List Nat} {a : Nat} (ha : ∀ l ∈ ls, ¬ (at_ l ≤ a ∧ a < at_ l + 16)) (s : State) :
    (ls.foldl (setObject wid at_ val) s).byteAt a = s.byteAt a :=
  List.foldlRecOn ls _ (motive := fun x => x.byteAt a = s.byteAt a) rfl
    (fun (x : State) hx l hl => by rw [byteAt_setObject hval, if_neg (ha l hl), hx])

theorem foldl_setObject_alone {ls : List Nat} (hal : ∀ l ∈ ls, at_ l % 16 = 0) (hnd : ls.Nodup) {l : Nat} (hl : l ∈ ls)
    (halone : ∀ k ∈ ls, k ≠ l → at_ k ≠ at_ l) (s : State) :
    (ls.foldl (setObject wid at_ val) s).rawBytes (at_ l) 16 = val l (s.rawBytes (at_ l) 16) := by
  have hl16 := hal l hl
  induction ls generalizing s with
  | nil => exact absurd hl List.not_mem_nil
  | cons k ls ih =>
    obtain ⟨hk, hnd'⟩ := List.nodup_cons.mp hnd
    rw [List.foldl_cons]
    by_cases hkl : k = l
    · subst hkl
      rw [← rawBytes_setObject_self (wid := wid) hval s k]
      refine rawBytes_congr (fun i hi => foldl_setObject_outside hval (fun j hj => ?_) _)
      have hne : j ≠ k := fun e => hk (e ▸ hj)
      have h1 := halone j (by simp [hj]) hne
      have h2 := hal j (by simp [hj])
      omega
    · have hl' : l ∈ ls := (List.mem_cons.mp hl).resolve_left (Ne.symm hkl)
      rw [ih (fun j hj => hal j (by simp [hj])) hnd' hl' (fun j hj => halone j (by simp [hj]))]
      congr 1
      refine rawBytes_congr (fun i hi => ?_)
      have h1 := halone k (by simp) hkl
      have h2 := hal k (by simp)
      rw [byteAt_setObject hval, if_neg (by omega)]

end Objects

theorem ScratchReady.aligned16 {s : State} {f : Fields} {at_ : Nat → Nat} (h : ScratchReady s f 16 at_) {l : Nat}
    (hl : (s.ctx f).active.has l = true) : at_ l % 16 = 0 := by
  obtain ⟨hloc, hphys⟩ := h.loc hl
  have h4096 := scratchAt_phys hloc
  have hal := (h l hl).1
  omega

/-- The lanes of BCINIT and BCADD, where each writes its object from what it holds. -/
theorem countLanes_ready {s : State} {f : Fields} {at_ : Nat → Nat} {val : Nat → List Byte → List Byte} (h : ScratchReady s f 16 at_)
    {act : State → Nat → Nat → State × Bool}
    (hact : ∀ x l, CountedOnly (s.ctx f).wid s x → (s.ctx f).active.has l = true →
      act x l (at_ l) = (x.setBytes (at_ l) (val l (x.rawBytes (at_ l) 16)), false)) :
    countLanes (s.ctx f) f s act =
      { s := (s.ctx f).active.lanes.foldl (setObject (s.ctx f).wid at_ val) s
        outs := doneOuts (s.ctx f).active (fun _ => []) (fun _ => none) } := by
  have hgt : ∀ (x : State) (p : Nat) (bs : List Byte), (x.setBytes p bs).gt = x.gt := fun x p bs => by rw [setBytes_eq]
  have hstep : ∀ x l, CountedOnly (s.ctx f).wid s x → l ∈ (s.ctx f).active.lanes →
      (fun s' l p => (((act s' l (State.placePhys p)).1.noteStore (s.ctx f).wid (act s' l (State.placePhys p)).1.gt),
        ([] : List RegWrite), (act s' l (State.placePhys p)).2)) x l (.scratch (scratchLocOf s f l)) =
      (setObject (s.ctx f).wid at_ val x l, [], false) := by
    intro x l hx hl
    have hl' := LaneMask.mem_lanes.mp hl
    have hplace : State.placePhys (.scratch (scratchLocOf s f l)) = at_ l := (h.loc hl').2
    simp only [hplace, hact x l hx hl', hgt]
    rfl
  have hR : ∀ x l, CountedOnly (s.ctx f).wid s x → l ∈ (s.ctx f).active.lanes →
      CountedOnly (s.ctx f).wid s (setObject (s.ctx f).wid at_ val x l) := fun x l hx _ => hx.trans (CountedOnly.setObject _ _ _ x l)
  rw [countLanes]
  simp only [checked_scratch h]
  rw [performPlaces_found (p := { s := s }) (inOrder_steps hstep hR (CountedOnly.refl _ s)), completedLanes_map]
  rfl

theorem take_rawBytes (s : State) (p : Nat) : (s.rawBytes p 16).take 8 = s.rawBytes p 8 ∧ (s.rawBytes p 16).drop 8 = s.rawBytes (p + 8) 8 := by
  constructor
  · rfl
  · simp [State.rawBytes, List.range, List.range.loop, Nat.add_assoc]

theorem clean16 {s x : State} {f : Fields} {at_ : Nat → Nat} (h : ScratchReady s f 16 at_) (hx : CountedOnly (s.ctx f).wid s x) {l : Nat}
    (hl : (s.ctx f).active.has l = true) :
    x.readBytes (at_ l) 16 = (x, x.rawBytes (at_ l) 16, false) ∧
      ∀ bs : List Byte, bs.length = 16 → x.writeBytes (at_ l) bs = x.setBytes (at_ l) bs := by
  have h16 := h.aligned16 hl
  have hclean : eccClass (x.syndrome (at_ l)) = .clean := by rw [hx.only]; exact (h l hl).2.2
  refine ⟨readBytes_clean (by omega) (by omega) hclean, fun bs hbs => ?_⟩
  exact writeBytes_clean (by omega) (by omega) (by omega) hclean

/-- The bytes of an object with the given REMAIN and COUNTED. -/
def objectBytes (remain counted : DWord) : List Byte := leBytes 8 remain.toNat ++ leBytes 8 counted.toNat

@[simp] theorem length_objectBytes (r k : DWord) : (objectBytes r k).length = 16 := by simp [objectBytes]

/-- What BCADD makes of an object. -/
def addObject (n : Int) (bs : List Byte) : List Byte :=
  objectBytes (BitVec.ofNat 64 (leNat (bs.take 8)) - BitVec.ofInt 64 n) (BitVec.ofNat 64 (leNat (bs.drop 8)) + BitVec.ofInt 64 n)

theorem dword_leBytes (x : DWord) : BitVec.ofNat 64 (leNat (leBytes 8 x.toNat)) = x := by
  rw [Sys2Proof.Machine.leNat_leBytes 8 _ x.isLt, BitVec.ofNat_toNat, BitVec.setWidth_eq]

theorem object_fields {s : State} {p : Nat} {r k : DWord} (h : s.rawBytes p 16 = objectBytes r k) :
    BitVec.ofNat 64 (leNat (s.rawBytes p 8)) = r ∧ BitVec.ofNat 64 (leNat (s.rawBytes (p + 8) 8)) = k := by
  obtain ⟨h1, h2⟩ := take_rawBytes s p
  have e1 : (objectBytes r k).take 8 = leBytes 8 r.toNat := List.take_left' (length_leBytes 8 _)
  have e2 : (objectBytes r k).drop 8 = leBytes 8 k.toNat := List.drop_left' (length_leBytes 8 _)
  rw [← h1, ← h2, h, e1, e2]
  exact ⟨dword_leBytes r, dword_leBytes k⟩

theorem countBytes_clean {s x : State} {f : Fields} {at_ : Nat → Nat} (h : ScratchReady s f 16 at_) (hx : CountedOnly (s.ctx f).wid s x)
    {l : Nat} (hl : (s.ctx f).active.has l = true) (n : Int) :
    x.countBytes (at_ l) n = (x.setBytes (at_ l) (addObject n (x.rawBytes (at_ l) 16)), false) := by
  obtain ⟨hread, hwrite⟩ := clean16 h hx hl
  simp only [State.countBytes, hread, Bool.false_eq_true, if_false]
  rw [hwrite _ (by simp)]
  rfl

/-- Objects that are all complete let every lane of BCWAIT go. -/
theorem bcwaitLanes_complete {s : State} {f : Fields} {at_ : Nat → Nat} (h : ScratchReady s f 16 at_)
    (hc : ∀ l, (s.ctx f).active.has l = true → signedOf 64 (leNat (s.rawBytes (at_ l) 8)) ≤ 0) {ls : List Nat}
    (hls : ∀ l ∈ ls, (s.ctx f).active.has l = true) (outs : List (Nat × LaneOutcome)) :
    bcwaitLanes (s.ctx f) f { s := s, outs := outs } ls =
      { s := s, outs := outs ++ ls.map (fun l => (l, LaneOutcome.done [] none)) } := by
  induction ls generalizing outs with
  | nil => simp [bcwaitLanes]
  | cons l ls ih =>
    have hl := hls l (by simp)
    have hplace : State.placePhys (.scratch (scratchLocOf s f l)) = at_ l := (h.loc hl).2
    have hdone := hc l hl
    rw [← (take_rawBytes s (at_ l)).1] at hdone
    simp only [bcwaitLanes, checkScratch_ready h (fun _ => rfl) hl, hplace, (clean16 h (CountedOnly.refl _ s) hl).1, Bool.false_eq_true,
      if_false, hdone, if_true]
    rw [ih (fun k hk => hls k (by simp [hk]))]
    simp

/-- What a lane-by-lane write of objects leaves, once the instruction has completed. -/
theorem count_completes {i : Instr} {s : State} {f : Fields} {at_ : Nat → Nat} {val : Nat → List Byte → List Byte} (hi : Issuing i f s)
    (h : ScratchReady s f 16 at_) (hval : ∀ l bs, (val l bs).length = 16)
    (hbody : exec i s = finish i (s.ctx f)
      { s := (s.ctx f).active.lanes.foldl (setObject (s.ctx f).wid at_ val) s
        outs := doneOuts (s.ctx f).active (fun _ => []) (fun _ => none) }) :
    ∃ b t, exec i s = .next t ∧ CompletedNext b (s.ctx f) (fun _ => []) id t ∧
      (∀ a, (∀ l, (s.ctx f).active.has l = true → ¬ (at_ l ≤ a ∧ a < at_ l + 16)) → b.byteAt a = s.byteAt a) ∧
      CountedOnly (s.ctx f).wid s b ∧
      ∀ l, (s.ctx f).active.has l = true → (∀ k, (s.ctx f).active.has k = true → k ≠ l → at_ k ≠ at_ l) →
        b.rawBytes (at_ l) 16 = val l (s.rawBytes (at_ l) 16) := by
  set b := (s.ctx f).active.lanes.foldl (setObject (s.ctx f).wid at_ val) s with hb
  have hall : CountedOnly (s.ctx f).wid s b := List.foldlRecOn _ _ (CountedOnly.refl _ s)
    (fun x hx l _ => hx.trans (CountedOnly.setObject _ at_ val x l))
  obtain ⟨t, ht, hdone⟩ := finish_completes (i := i) (c := s.ctx f) (dest := fun _ => none) (ws := fun _ => [])
    (r := { s := b, outs := doneOuts (s.ctx f).active (fun _ => []) (fun _ => none) }) hi.split (hall.unparked hi.unparked)
    (fun _ _ => inRange_nil) rfl rfl rfl rfl rfl rfl rfl
  refine ⟨b, t, hbody.trans ht, hdone, fun a ha => ?_, hall, fun l hl halone => ?_⟩
  · exact foldl_setObject_outside hval (fun l hl => ha l (LaneMask.mem_lanes.mp hl)) s
  · exact foldl_setObject_alone hval (fun k hk => h.aligned16 (LaneMask.mem_lanes.mp hk)) (LaneMask.lanes_nodup _)
      (LaneMask.mem_lanes.mpr hl) (fun k hk hne => halone k (LaneMask.mem_lanes.mp hk) hne) s

/-- Settles O27: each lane's object takes its new value, and complete objects let their lanes go. -/
theorem byteCountResults : Obligations.ByteCountResults := by
  unfold Obligations.ByteCountResults
  intro s f at_ c remain counted alone only hready
  refine ⟨fun hi => ?_, fun hi hord => ?_, fun hi hcomplete => ?_⟩
  · have hbody : exec (.bcinit f) s = finish (.bcinit f) c
        { s := c.active.lanes.foldl (setObject c.wid at_ (fun l _ => objectBytes ((c.w.src32 l f.sb 0).setWidth 64) 0)) s
          outs := doneOuts c.active (fun _ => []) (fun _ => none) } := by
      have hx : exec (.bcinit f) s = execBcinit f s := rfl
      rw [hx, execBcinit, perform_first hi, bcinitLanes, countLanes_ready hready (fun x l hx hl => ?_)]
      rw [(clean16 hready hx hl).2 _ (by simp), objectBytes, BitVec.toNat_setWidth_of_le (by decide)]
      rfl
    obtain ⟨b, t, ht, hdone, hout, hall, hin⟩ := count_completes hi hready (fun _ _ => length_objectBytes _ _) hbody
    exact ⟨b, t, ht, hdone, ⟨hout, hall.others, hall.own, hall.only⟩, fun l hl ha => object_fields (hin l hl ha)⟩
  · have hbody : exec (.bcadd f) s = finish (.bcadd f) c
        { s := c.active.lanes.foldl (setObject c.wid at_ (fun l => addObject (c.w.src32 l f.sb 0).toInt)) s
          outs := doneOuts c.active (fun _ => []) (fun _ => none) } := by
      have hx : exec (.bcadd f) s = execBcadd f s := rfl
      have hrel : (true && c.active != 0 && !s.storesComplete c.wid) = false := by
        rcases hord with h | h
        · rw [h, bne_self_eq_false, Bool.and_false, Bool.false_and]
        · rw [h, Bool.not_true, Bool.and_false]
      rw [hx, execBcadd, perform_first hi, bcaddLanes]
      simp only [releasing, show s.ctx f = c from rfl, hrel, Bool.false_eq_true, if_false]
      rw [countLanes_ready hready (fun x l hx hl => countBytes_clean hready hx hl _)]
    obtain ⟨b, t, ht, hdone, hout, hall, hin⟩ := count_completes hi hready (fun _ _ => length_objectBytes _ _) hbody
    refine ⟨b, t, ht, hdone, ⟨hout, hall.others, hall.own, hall.only⟩, fun l hl ha => ?_⟩
    have hfields := object_fields (hin l hl ha)
    rw [(take_rawBytes s (at_ l)).1, (take_rawBytes s (at_ l)).2] at hfields
    exact hfields
  · have hlanes : bcwaitLanes c f { s := s } c.active.lanes = { s := s, outs := doneAll c } :=
      bcwaitLanes_complete hready hcomplete (fun l hl => LaneMask.mem_lanes.mp hl) []
    have hlen : (doneAll c).length = c.active.lanes.length := List.length_map _
    obtain ⟨t, ht, hdone⟩ := finish_doneAll (i := .bcwait f) (c := c) (b := s) hi.split hi.unparked
    refine ⟨t, ?_, hdone⟩
    have hx : exec (.bcwait f) s = execBcwait f s := rfl
    rw [hx, execBcwait, perform_first hi]
    simp only [show s.ctx f = c from rfl, hlanes, hlen, if_true]
    exact ht

end Sys2Proof.Machine
end

section
/-! # Proofs: kicks and stage queues (R286, R290 to R296) -/

namespace Sys2Proof.Machine

/-! ## Engines and blocks -/

theorem engine_updEngine_self (s : State) (id : Nat) (g : Engine → Engine) : (s.updEngine id g).engine id = g (s.engine id) := by
  simp only [State.updEngine, State.engine]
  split
  · simp only [State.updCore, State.core_setCore_self]
  · simp only [State.updDie, State.die_setDie_self, Sparse.modify, Sparse.get_set_self]

theorem updEngine_only (s : State) (id : Nat) (g : Engine → Engine) :
    s.updEngine id g = { s with cores := (s.updEngine id g).cores, dies := (s.updEngine id g).dies } := by
  simp only [State.updEngine]
  split <;> rfl

/-- A block keeps its place and its units under a change of other fields. -/
theorem block?_updBlock (s : State) (g b : Nat) {h : Block → Block}
    (hkey : ∀ x, (h x).grid = x.grid ∧ (h x).block = x.block ∧ (h x).alive = x.alive) (g' b' : Nat) :
    (s.updBlock g b h).block? g' b' = (s.block? g' b').map (fun x => if x.grid == g && x.block == b then h x else x) := by
  have hfind : ∀ p : Block → Bool, (∀ x, p (if x.grid == g && x.block == b then h x else x) = p x) →
      (s.loft.blocks.map (fun x => if x.grid == g && x.block == b then h x else x)).find? p =
        (s.loft.blocks.find? p).map (fun x => if x.grid == g && x.block == b then h x else x) := by
    intro p hp
    rw [List.find?_map]
    congr 2
    funext x
    exact hp x
  have hp : ∀ x, (if x.grid == g && x.block == b then h x else x).grid = x.grid ∧
      (if x.grid == g && x.block == b then h x else x).block = x.block ∧
      (if x.grid == g && x.block == b then h x else x).alive = x.alive := by
    intro x
    split
    · exact hkey x
    · exact ⟨rfl, rfl, rfl⟩
  simp only [State.block?, State.updBlock]
  rw [hfind _ (fun x => by rw [(hp x).1, (hp x).2.1, (hp x).2.2]), hfind _ (fun x => by rw [(hp x).1, (hp x).2.1])]
  cases s.loft.blocks.find? (fun x => x.grid == g' && x.block == b' && x.alive) <;> rfl

theorem kickTrap_updBlock (s : State) (g b : Nat) {h : Block → Block}
    (hkey : ∀ x, (h x).grid = x.grid ∧ (h x).block = x.block ∧ (h x).alive = x.alive) (hunits : ∀ x, (h x).units = x.units)
    (w : Warp) (va : DWord) (n : Nat) : (s.updBlock g b h).kickTrap w va n = s.kickTrap w va n := by
  have hin : ∀ off k, (s.updBlock g b h).inAllocation w.grid w.block off k = s.inAllocation w.grid w.block off k := by
    intro off k
    rw [State.inAllocation, State.inAllocation, block?_updBlock s g b hkey]
    cases s.block? w.grid w.block with
    | none => rfl
    | some x =>
      simp only [Option.map_some]
      split
      · rw [hunits]
      · rfl
  simp only [State.kickTrap, hin]

/-! ## KICK (R286, R291) -/

theorem acceptKick_keeps (s : State) (id wid : Nat) (pc va : DWord) (n lane : Nat) (w : Warp) (va' : DWord) (n' : Nat) :
    (s.acceptKick id wid pc va n lane).warps = s.warps ∧ (s.acceptKick id wid pc va n lane).kickTrap w va' n' = s.kickTrap w va' n' := by
  simp only [State.acceptKick]
  refine ⟨?_, ?_⟩
  · show (State.updEngine _ id _).warps = s.warps
    rw [updEngine_only]
  · rw [kickTrap_updBlock (h := fun b => { b with pend := b.pend + n }) _ _ _ (fun x => ⟨rfl, rfl, rfl⟩) (fun x => rfl),
      updEngine_only]
    rfl

theorem acceptKick_only (s : State) (id wid : Nat) (pc va : DWord) (n lane : Nat) :
    s.acceptKick id wid pc va n lane =
      { s with
        cores := (s.acceptKick id wid pc va n lane).cores
        dies := (s.acceptKick id wid pc va n lane).dies
        loft := (s.acceptKick id wid pc va n lane).loft } := by
  simp only [State.acceptKick]
  rw [updEngine_only]
  rfl

/-- What lanes that pass the checks put into an engine's queue. -/
structure Kicked (s : State) (id wid : Nat) (pc : DWord) (va : Nat → DWord) (n : Nat → Nat) (ls : List Nat) (b : State)
    (ks : List Kick) : Prop where
  lanes : ks.map (fun k => (k.lane, k.offset, k.left)) = (ls.filter (fun l => n l != 0)).map (fun l => (l, (va l).toNat - scratchBase, n l))
  same : ∀ k ∈ ks, k.wid = wid ∧ k.grid = (s.warp wid).grid ∧ k.block = (s.warp wid).block ∧ k.pc = pc
  queue : (b.engine id).queue = (s.engine id).queue ++ ks
  only : b = { s with cores := b.cores, dies := b.dies, loft := b.loft }

theorem kickLanes_ready {s : State} {id wid : Nat} {pc : DWord} {va : Nat → DWord} {n : Nat → Nat} {ls : List Nat}
    (hok : ∀ l ∈ ls, s.kickTrap (s.warp wid) (va l) (n l) = none)
    (hroom : (s.engine id).queue.length + (ls.filter (fun l => n l != 0)).length ≤ 16) :
    ∃ b ks, s.kickLanes id wid pc va n ls = (b, ls.map (fun l => (l, .done [] none))) ∧ Kicked s id wid pc va n ls b ks := by
  induction ls generalizing s with
  | nil => exact ⟨s, [], rfl, rfl, fun k hk => absurd hk List.not_mem_nil, (List.append_nil _).symm, rfl⟩
  | cons l ls ih =>
    have hl := hok l (by simp)
    by_cases hn : n l = 0
    · have hf : (l :: ls).filter (fun l => n l != 0) = ls.filter (fun l => n l != 0) :=
        List.filter_cons_of_neg (by simp [hn])
      rw [hf] at hroom
      obtain ⟨b, ks, hb, hk⟩ := ih (fun k hk => hok k (by simp [hk])) hroom
      refine ⟨b, ks, ?_, by rw [hf]; exact hk.lanes, hk.same, hk.queue, hk.only⟩
      have h1 : s.kickLane id wid pc (va l) (n l) l = (s, some (.done [] none)) := by
        simp only [State.kickLane, hl]
        rw [if_pos hn]
      simp only [State.kickLanes, h1, hb, List.map_cons]
    · have hf : (l :: ls).filter (fun l => n l != 0) = l :: ls.filter (fun l => n l != 0) :=
        List.filter_cons_of_pos (by simpa using hn)
      rw [hf, List.length_cons] at hroom
      set s1 := s.acceptKick id wid pc (va l) (n l) l with hs1
      have hwarps : s1.warps = s.warps := (acceptKick_keeps s id wid pc (va l) (n l) l (s.warp wid) 0 0).1
      have hwarp : s1.warp wid = s.warp wid := by rw [State.warp, hwarps]; rfl
      set k : Kick := { wid, grid := (s.warp wid).grid, block := (s.warp wid).block, pc, offset := (va l).toNat - scratchBase, left := n l,
                        serial := s.loft.nextSerial + 1, lane := l, op := s.cur.op } with hk
      have hq : (s1.engine id).queue = (s.engine id).queue ++ [k] := by
        have e : ∀ t : State, (State.updBlock t (s.warp wid).grid (s.warp wid).block (fun b => { b with pend := b.pend + n l })).engine id =
          t.engine id := fun _ => rfl
        rw [hs1, State.acceptKick, e, engine_updEngine_self]
        rfl
      obtain ⟨b, ks, hb, hks⟩ := ih (s := s1)
        (fun j hj => by rw [hwarp, hs1, (acceptKick_keeps ..).2]; exact hok j (by simp [hj]))
        (by rw [hq, List.length_append, List.length_singleton]; omega)
      refine ⟨b, k :: ks, ?_, ?_, ?_, ?_, ?_⟩
      · have hfull : ¬ (s.engine id).queue.length ≥ 16 := by omega
        have h1 : s.kickLane id wid pc (va l) (n l) l = (s1, some (.done [] none)) := by
          simp only [State.kickLane, hl]
          rw [if_neg hn, if_neg hfull]
        simp only [State.kickLanes, h1, hb, List.map_cons]
      · rw [hf, List.map_cons, List.map_cons, hks.lanes]
      · intro j hj
        rcases List.mem_cons.mp hj with rfl | hj
        · exact ⟨rfl, rfl, rfl, rfl⟩
        · rw [← hwarp]; exact hks.same j hj
      · rw [hks.queue, hq, List.append_assoc]; rfl
      · rw [hks.only, hs1, acceptKick_only]

theorem kick_completes {i : Instr} {s : State} {f : Fields} {id : Nat} (hi : Issuing i f s)
    (hbody : exec i s = finish i (s.ctx f) (kickAll (s.ctx f) s f id))
    (hok : ∀ l, (s.ctx f).active.has l = true →
      s.kickTrap (s.ctx f).w ((s.ctx f).w.addr l f) ((s.ctx f).w.src32 l f.sb 0).toNat = none)
    (hroom : (s.engine id).queue.length +
      ((s.ctx f).active.lanes.filter (fun l => ((s.ctx f).w.src32 l f.sb 0).toNat != 0)).length ≤ 16) :
    ∃ b ks t, exec i s = .next t ∧ CompletedNext b (s.ctx f) (fun _ => []) (fun w => w) t ∧
      Kicked s id (s.ctx f).wid (s.ctx f).pc (fun l => (s.ctx f).w.addr l f) (fun l => ((s.ctx f).w.src32 l f.sb 0).toNat)
        (s.ctx f).active.lanes b ks := by
  obtain ⟨b, ks, hb, hks⟩ := kickLanes_ready (pc := (s.ctx f).pc) (fun l hl => hok l (LaneMask.mem_lanes.mp hl)) hroom
  have hp : (b.warp (s.ctx f).wid).parkedSince = none := by rw [hks.only]; exact hi.unparked
  obtain ⟨t, ht, hdone⟩ := finish_doneAll (i := i) (c := s.ctx f) (b := b) hi.split hp
  refine ⟨b, ks, t, ?_, hdone, hks⟩
  rw [hbody, kickAll]
  simp only [show s.kickLanes id (s.ctx f).wid (s.ctx f).pc _ _ _ = _ from hb, List.length_map, if_true]
  exact ht

/-- Settles O35: the lanes that pass the checks find room, and WAINST reads what the block holds. -/
theorem kickResults : Obligations.KickResults := by
  unfold Obligations.KickResults
  intro s f blk c va n full kicked
  refine ⟨fun hi hok hroom => ?_, fun hi hown hok hroom => ?_, fun hi hne hblk => ?_⟩
  · have hbody : exec (.kick f) s = finish (.kick f) c (kickAll c s f c.w.gcore) := by
      have hx : exec (.kick f) s = execKick f s := rfl
      rw [hx, execKick, perform_first hi]
      rfl
    obtain ⟨b, ks, t, ht, hdone, hk⟩ := kick_completes hi hbody hok hroom
    exact ⟨b, ks, t, ht, hdone, hk.lanes, hk.same, hk.queue, hk.only⟩
  · set id := 384 + 8 * dieOf c.w.gcore + (f.aux.extractLsb' 3 3).toNat with hid
    have hbody : exec (.kickDie f) s = finish (.kickDie f) c (kickAll c s f id) := by
      have hx : exec (.kickDie f) s = execKickDie f s := rfl
      rw [hx, execKickDie, perform_first hi]
      exact congrArg (finish (.kickDie f) c) (if_pos hown)
    obtain ⟨b, ks, t, ht, hdone, hk⟩ := kick_completes hi hbody hok hroom
    exact ⟨b, ks, t, ht, hdone, hk.lanes, hk.same, hk.queue, hk.only⟩
  · set b := if f.mod0 then s.updBlock c.w.grid c.w.block (fun b => { b with errcnt := 0, cause := 0, errreq := 0 }) else s with hb
    have hp : (b.warp c.wid).parkedSince = none := by
      rw [hb]
      split <;> exact hi.unparked
    have hstatus : wainStatus b c.w.gcore blk = wainStatus s c.w.gcore blk := by
      rw [hb]
      split <;> rfl
    have ha := hi.dst_aligned (i := .wainst f) rfl rfl
    obtain ⟨t, ht, hdone⟩ := finish_completes (i := .wainst f) (c := c) (dest := fun _ => none)
      (ws := fun _ => dst64 f.dst (wainStatus s c.w.gcore blk))
      (r := { s := b, outs := allLanes c.active (.done (dst64 f.dst (wainStatus s c.w.gcore blk)) none) }) hi.split hp
      (fun l _ => inRange_dst64 _ _ (fun n hn => aligned_v ha n hn)) rfl rfl rfl rfl rfl rfl rfl
    refine ⟨t, ?_, hdone⟩
    have hx : exec (.wainst f) s = execWainst f s := rfl
    rw [hx, execWainst, performWarp_active hi hne, perform_first hi]
    simp only [show s.ctx f = c from rfl, hblk, Option.getD_some, ← hb, hstatus]
    exact ht

/-! ## Accesses of the queue instructions (R293, R296) -/

theorem outcomesInOrder_keys (act : State → Nat → State.Place → State × LaneOutcome × Bool) (s : State) (ps : List (Nat × State.Place)) :
    (outcomesInOrder act s ps).2.1.map (·.1) = ps.map (·.1) := by
  induction ps generalizing s with
  | nil => rfl
  | cons x ps ih => exact congrArg (x.1 :: ·) (ih _)

theorem outcomesInOrder_all {P : LaneOutcome → Prop} {act : State → Nat → State.Place → State × LaneOutcome × Bool}
    (h : ∀ s l p, P (act s l p).2.1) (s : State) (ps : List (Nat × State.Place)) : ∀ x ∈ (outcomesInOrder act s ps).2.1, P x.2 := by
  induction ps generalizing s with
  | nil => exact fun x hx => absurd hx List.not_mem_nil
  | cons y ps ih =>
    intro x hx
    rcases List.mem_cons.mp (show x ∈ (y.1, _) :: (outcomesInOrder act _ ps).2.1 from hx) with rfl | hx
    · exact h _ _ _
    · exact ih _ x hx

theorem queueLanes_found {c : Ctx} {f : Fields} {act : State → Nat → State.Place → State × LaneOutcome × Bool} {p : Performed}
    {ps : List (Nat × State.Place)} {b : State} {outs : List (Nat × LaneOutcome)} (h : outcomesInOrder act p.s ps = (b, outs, false)) :
    queueLanes c f act p (foundLanes ps) = { s := b, outs := p.outs.reverse ++ outs, consumed := p.consumed } := by
  induction ps generalizing p outs with
  | nil =>
    cases h
    simp [queueLanes]
  | cons x ps ih =>
    obtain ⟨l, place⟩ := x
    simp only [outcomesInOrder, Prod.mk.injEq, Bool.or_eq_false_iff] at h
    obtain ⟨hb, houts, hbad, hbads⟩ := h
    rw [foundLanes, List.map_cons, queueLanes]
    simp only [hbad, Bool.false_eq_true, if_false]
    have hrest : outcomesInOrder act (act p.s l place).1 ps = (b, (outcomesInOrder act (act p.s l place).1 ps).2.1, false) := by
      rw [← hb, ← hbads]
    rw [ih (p := { s := (act p.s l place).1, outs := (l, (act p.s l place).2.1) :: p.outs, consumed := p.consumed }) hrest, ← houts]
    simp

theorem queueAccess_found {s s' b : State} {f : Fields} {k : AccKind} {align : Nat} {ps : List (Nat × State.Place)}
    {outs : List (Nat × LaneOutcome)} {act : State → Nat → State.Place → State × LaneOutcome × Bool}
    (hf : PlacesFound s f k align s' ps) (h : outcomesInOrder act s' ps = (b, outs, false)) :
    queueAccess (s.ctx f) s f k align act = { s := b, outs := outs } := by
  rw [queueAccess, show checkLanes s (s.ctx f) k align f (s.ctx f).active.lanes = (s', foundLanes ps) from hf]
  simp only [anyWaits_found, anyHole_found, Bool.false_eq_true, if_false]
  rw [queueLanes_found (p := { s := s' }) h]
  rfl

/-- The writes of an outcome name registers that exist. -/
def WritesInRange (o : LaneOutcome) : Prop := ∀ ws d, o = .done ws d → inRange ws

theorem WritesInRange.done {ws : List RegWrite} (h : inRange ws) (d : Option DWord) : WritesInRange (.done ws d) :=
  fun _ _ e => by cases e; exact h

theorem WritesInRange.trap (cause : Nat) (addr : DWord) (code : Nat) : WritesInRange (.trap cause addr code) :=
  fun _ _ e => by cases e

/-- A queue instruction whose lanes have all completed. -/
theorem queue_completes {i : Instr} {s s' b : State} {f : Fields} {k : AccKind} {align : Nat} {ps : List (Nat × State.Place)}
    {ws : List (Nat × List RegWrite)} {act : State → Nat → State.Place → State × LaneOutcome × Bool} (hi : Issuing i f s)
    (hbody : exec i s = finish i (s.ctx f) (queueAccess (s.ctx f) s f k align act)) (hf : PlacesFound s f k align s' ps)
    (h : outcomesInOrder act s' ps = (b, completedLanes ws, false)) (hw : ∀ s l p, WritesInRange (act s l p).2.1)
    (hb : (b.warp (s.ctx f).wid).parkedSince = none) :
    ∃ t, exec i s = .next t ∧ CompletedNext b (s.ctx f) (writesOf ws) id t := by
  have hkeys := outcomesInOrder_keys act s' ps
  have hall := outcomesInOrder_all hw s' ps
  rw [h] at hkeys hall
  have hlanes : ws.map (·.1) = (s.ctx f).active.lanes := by
    rw [← hf.keys, ← hkeys, completedLanes, List.map_map]
    rfl
  have hin : ∀ l, (s.ctx f).active.has l = true → inRange (writesOf ws l) := by
    intro l hl
    have hm := writesOf_mem hlanes hl
    exact hall (l, .done (writesOf ws l) none) (List.mem_map.mpr ⟨_, hm, rfl⟩) _ _ rfl
  obtain ⟨t, ht, hdone⟩ := finish_completes (i := i) (c := s.ctx f) (dest := fun _ => none) (ws := writesOf ws)
    (r := { s := b, outs := completedLanes ws }) hi.split hb hin (completedLanes_eq hlanes) rfl rfl rfl rfl rfl rfl
  refine ⟨t, ?_, hdone⟩
  rw [hbody, queueAccess_found hf h]
  exact ht

/-! ## Stage queues (R292 to R295) -/

theorem pipeline_pushItem (s : State) (p q : Nat) (item : List Byte) : ((pushItem s p q item).pipeline p).stages =
    (s.pipeline p).stages.mapIdx (fun j y => if j = q then { y with items := y.items ++ [item] } else y) := by
  have e : (pushItem s p q item).pipeline p =
      { s.pipeline p with
        stages := (s.pipeline p).stages.mapIdx (fun j st => if j == q then { st with items := st.items ++ [item] } else st) } :=
    Sparse.get_set_self _ _ _ _
  rw [e]
  simp only [beq_iff_eq]

theorem pushLane_writes (s : State) (w : Warp) (f : Fields) (item : List Byte) : WritesInRange (pushLane s w f item).2 := by
  unfold pushLane
  split
  case h_1 => exact WritesInRange.trap _ _ _
  case h_2 p q implicit _ =>
    split
    case h_1 => exact WritesInRange.trap _ _ _
    case h_2 =>
      split
      · exact WritesInRange.trap _ _ _
      · split
        · split
          · exact WritesInRange.trap _ _ _
          · exact WritesInRange.done (inRange_dstP _ _) _
        · split <;> exact WritesInRange.done (inRange_dstP _ _) _

theorem popLane_writes (c : Ctx) (f : Fields) (remove : Bool) (s : State) (p : State.Place) : WritesInRange (popLane c f remove s p).2.1 := by
  unfold popLane
  extract_lets g
  split
  · exact WritesInRange.trap _ _ _
  · split <;> exact WritesInRange.done (inRange_dstP _ _) _

/-- A stage gang's implicit handle passes the check of a pop (R292). -/
theorem popLane_checks {c : Ctx} {f : Fields} {s : State} (hsb : f.sb = .zero) (hpipe : (s.grid c.w.grid).pipe.isSome = true) :
    (decide (f.sb ≠ .zero) || (s.grid c.w.grid).pipe.isNone) = false := by
  rw [hsb, ← Option.not_isSome, hpipe]
  rfl

theorem popLane_empty {c : Ctx} {f : Fields} {s : State} (remove : Bool) (p : State.Place) (hsb : f.sb = .zero)
    (hpipe : (s.grid c.w.grid).pipe.isSome = true) (h : (s.grid c.w.grid).claimed = []) :
    popLane c f remove s p = (s, .done (dstP f.dst false) none, false) := by
  simp only [popLane, popLane_checks hsb hpipe, Bool.false_eq_true, if_false, h]

theorem popLane_item {c : Ctx} {f : Fields} {s : State} {item : List Byte} {rest : List (List Byte)} (remove : Bool) (p : State.Place)
    (hsb : f.sb = .zero) (hpipe : (s.grid c.w.grid).pipe.isSome = true) (h : (s.grid c.w.grid).claimed = item :: rest) :
    popLane c f remove s p =
      (if remove then ((s.writeAt c.w.tenant (s.classOf c.w) p item).noteWrite c.wid p).updGrid c.w.grid (fun g => { g with claimed := rest })
        else (s.writeAt c.w.tenant (s.classOf c.w) p item).noteWrite c.wid p, .done (dstP f.dst true) none, false) := by
  simp only [popLane, popLane_checks hsb hpipe, Bool.false_eq_true, if_false, h]

/-- Settles O36: what a lane of each queue instruction does, and the instruction from its lanes. -/
theorem queueResults : Obligations.QueueResults := by
  unfold Obligations.QueueResults
  refine ⟨?_, ?_, ?_, ?_⟩
  · intro s s' b f ps ws p c t' done hb
    have hrel : ∀ r, (c.active = 0 ∨ s.storesComplete c.wid = true) → releasing true c s r = r := by
      intro r h
      rcases h with h | h
      · exact releasing_idle h true s r
      · exact releasing_ordered (fun _ => h) r
    refine ⟨fun hi hord hf h => ?_, fun hi hf h => ?_, fun hi hf h => ?_, fun hi hord hf h => ?_, fun hi hne hsb hpipe hbeq => ?_⟩
    · refine queue_completes hi ?_ hf h (fun x l p => ?_) hb
      · have hx : exec (.qpush f) s = execQpush f s := rfl
        rw [hx, execQpush, perform_first hi, hrel _ hord]
      · dsimp only
        split
        · exact WritesInRange.done inRange_nil _
        · exact pushLane_writes _ _ _ _
    · refine queue_completes hi ?_ hf h (fun x l p => popLane_writes _ _ _ _ _) hb
      have hx : exec (.qpop f) s = execQpop f s := rfl
      rw [hx, execQpop, perform_first hi]
    · refine queue_completes hi ?_ hf h (fun x l p => popLane_writes _ _ _ _ _) hb
      have hx : exec (.qpeek f) s = execQpeek f s := rfl
      rw [hx, execQpeek, perform_first hi]
    · have ha := hi.dst_aligned (i := .lnch f) rfl rfl
      refine queue_completes hi ?_ hf h (fun x l p => ?_) hb
      · have hx : exec (.lnch f) s = execLnch f s := rfl
        rw [hx, execLnch, perform_first hi, hrel _ hord]
        have he : c.w.enqueuer = if t' = 0 then .supervisor else .user t' := by
          simp only [Warp.enqueuer, Warp.supervisor, beq_iff_eq]
          rfl
        rw [← he]
      · dsimp only
        split
        · exact WritesInRange.done inRange_nil _
        · exact WritesInRange.done (inRange_dst64 _ _ (fun n hn => aligned_v ha n hn)) _
    · obtain ⟨t, ht, hdone⟩ := finish_doneAll (i := .qclose f) (c := c) (b := b) hi.split hb
      refine ⟨t, ?_, hdone⟩
      have hx : exec (.qclose f) s = execQclose f s := rfl
      rw [hx, execQclose, performWarp_active hi hne, perform_first hi]
      simp only [hsb, if_false, show explicitPipe s (s.ctx f).w.tenant ((s.ctx f).w.src64 0 f.sb 0) = some p from hpipe]
      rw [← ht, hbeq]
  · intro s w f item p q implicit st fault pushed
    refine ⟨fun h => ?_, fun h hst => ⟨fun hc => ?_, fun hopen => ⟨fun hexp hfull => ?_, fun hexp hroom => ?_, fun himp hres => ?_⟩⟩⟩
    · simp only [pushLane, h]
      rfl
    · simp only [pushLane, h, hst]
      rcases hc with hc | ⟨himp, hres⟩
      · rw [if_pos hc]; rfl
      · simp only [himp, hres, if_true, ite_self]
        rfl
    · simp only [pushLane, h, hst, hopen, hexp, Bool.false_eq_true, if_false, ge_iff_le, hfull, if_true]
    · refine ⟨pushItem s p q item, ?_, pipeline_pushItem s p q item⟩
      simp only [pushLane, h, hst, hopen, hexp, Bool.false_eq_true, if_false, ge_iff_le, Nat.not_le.mpr hroom]
    · refine ⟨(pushItem s p q item).updGrid w.grid (fun g => { g with reserved := g.reserved - 1 }), ?_, pipeline_pushItem s p q item, ?_⟩
      · simp only [pushLane, h, hst, hopen, himp, Bool.false_eq_true, if_false, if_true, hres]
      · rw [State.updGrid, State.grid_setGrid_self]
        rfl
  · intro s f p item rest remove c g hsb hpipe
    refine ⟨fun hnil => ?_, fun hcons => ?_⟩
    · exact popLane_empty remove p hsb hpipe hnil
    · refine ⟨_, popLane_item remove p hsb hpipe hcons, fun hr => ?_, fun hr => ?_⟩
      · rw [if_pos hr, State.updGrid, State.grid_setGrid_self]
      · rw [if_neg (by simp [hr])]
  · intro s f hi hsb hcan
    have hx : exec (.qclose f) s = execQclose f s := rfl
    rw [hx, execQclose, performWarp_active hi hcan.lanes, perform_first hi]
    simp only [hsb, if_true]
    exact finish_traps (by decide) rfl hi.unparked rfl hcan rfl rfl rfl rfl rfl rfl

end Sys2Proof.Machine
end

section
/-! # Proofs: what the services of memory, directories and translation leave unchanged (R220, R323 to R337, R392 to R405) -/

namespace Sys2Proof.Machine

/-- A service of the memory system: memory, dies, tables, links, firmware and the count of free values may change, nothing else, and
memory stays in canonical form. -/
structure Served (s t : State) : Prop where
  only : t = { s with mem := t.mem, dies := t.dies, tables := t.tables, net := t.net, fw := t.fw, freshCount := t.freshCount }
  wf : Memory.wf s.mem = true → Memory.wf t.mem = true

namespace Served

theorem refl (s : State) : Served s s := ⟨rfl, id⟩

theorem trans {s x t : State} (h : Served s x) (h' : Served x t) : Served s t :=
  ⟨by rw [h'.only, h.only], fun hw => h'.wf (h.wf hw)⟩

theorem ite {p : Prop} [Decidable p] {s a b : State} (ha : Served s a) (hb : Served s b) : Served s (if p then a else b) := by
  split
  · exact ha
  · exact hb

theorem foldl {α : Type} {g : State → α → State} (h : ∀ x a, Served x (g x a)) (l : List α) (s : State) : Served s (l.foldl g s) :=
  List.foldlRecOn l g (refl s) (fun x hx a _ => hx.trans (h x a))

theorem gt {s t : State} (h : Served s t) : t.gt = s.gt := by rw [h.only]
theorem warps {s t : State} (h : Served s t) : t.warps = s.warps := by rw [h.only]
theorem warp {s t : State} (h : Served s t) (wid : Nat) : t.warp wid = s.warp wid := by rw [State.warp, h.warps]; rfl
theorem loft {s t : State} (h : Served s t) : t.loft = s.loft := by rw [h.only]
theorem cores {s t : State} (h : Served s t) : t.cores = s.cores := by rw [h.only]
theorem columns {s t : State} (h : Served s t) : t.columns = s.columns := by rw [h.only]

/-! ## Memory (R220) -/

theorem setByte (s : State) (p : Nat) (b : Byte) : Served s (s.setByte p b) := ⟨rfl, State.setByte_wf s p b⟩

theorem setBytes (s : State) (p : Nat) (bs : List Byte) : Served s (s.setBytes p bs) := by
  refine ⟨?_, State.setBytes_wf s p bs⟩
  rw [setBytes_eq]

theorem setSyndrome (s : State) (p : Nat) (x : Word) : Served s (s.setSyndrome p x) := ⟨rfl, id⟩

theorem updDie (s : State) (d : Nat) (f : Die → Die) : Served s (s.updDie d f) := ⟨rfl, id⟩

theorem countCorrected (s : State) (p : Nat) : Served s (s.countCorrected p) := updDie s _ _
theorem countUncorrectable (s : State) (p : Nat) : Served s (s.countUncorrectable p) := updDie s _ _

theorem readWordPart (s : State) (p n : Nat) : Served s (s.readWordPart p n).1 := by
  unfold State.readWordPart
  split
  · exact refl s
  · exact countCorrected s p
  · exact countUncorrectable s p

theorem readFrom (s : State) (p n fuel : Nat) : Served s (s.readFrom p n fuel).1 := by
  induction fuel generalizing s p n with
  | zero => exact refl s
  | succ fuel ih =>
    unfold State.readFrom
    split
    · exact refl s
    · exact (readWordPart s p _).trans (ih _ _ _)

theorem readBytes (s : State) (p n : Nat) : Served s (s.readBytes p n).1 := readFrom s p n _

theorem readyWord (s : State) (p : Nat) : Served s (s.readyWord p) := by
  unfold State.readyWord
  split
  · exact refl s
  · exact ((updDie s _ _).trans (setBytes _ _ _)).trans (setSyndrome _ _ _)
  · exact updDie s _ _

theorem writeWordPart (s : State) (p : Nat) (bs : List Byte) : Served s (s.writeWordPart p bs) := by
  unfold State.writeWordPart
  split
  · exact (setBytes s _ _).trans (setSyndrome _ _ _)
  · exact (readyWord s p).trans (setBytes _ _ _)

theorem writeFrom (s : State) (p : Nat) (bs : List Byte) (fuel : Nat) : Served s (s.writeFrom p bs fuel) := by
  induction fuel generalizing s p bs with
  | zero => exact refl s
  | succ fuel ih =>
    unfold State.writeFrom
    split
    · exact refl s
    · exact (writeWordPart s p _).trans (ih _ _ _)

theorem writeBytes (s : State) (p : Nat) (bs : List Byte) : Served s (s.writeBytes p bs) := writeFrom s p bs _

theorem mergeWord (s : State) (p : Nat) (bs : List (Nat × Byte)) : Served s (s.mergeWord p bs) := by
  have put : ∀ x : State, Served x (bs.foldl (fun s b => s.setByte (p + b.1) b.2) x) := fun x => foldl (fun x b => setByte x _ _) bs x
  unfold State.mergeWord
  split
  · exact refl s
  · split
    · exact (put s).trans (setSyndrome _ _ _)
    · exact (readyWord s p).trans (put _)

theorem mergeBytes (s : State) (p words : Nat) (bs : List (Nat × Byte)) : Served s (s.mergeBytes p words bs) :=
  foldl (fun x _ => mergeWord x _ _) _ s

theorem poison (s : State) (p n : Nat) : Served s (s.poison p n) := foldl (fun x _ => setSyndrome x _ _) _ s

theorem setFull (s : State) (p : Nat) (b : Bool) : Served s (s.setFull p b) := ⟨rfl, id⟩

theorem setMask (s : State) (p : Nat) (b : Bool) : Served s (s.setMask p b) := ⟨rfl, id⟩

theorem setMasks (s : State) (p n : Nat) (b : Bool) : Served s (s.setMasks p n b) := foldl (fun x _ => setMask x _ _) _ s

theorem clearBytes (s : State) (p n : Nat) : Served s (s.clearBytes p n) := ⟨rfl, State.clearBytes_wf s p n⟩

/-! ## Links (R393 to R398) -/

theorem setLinkDir (s : State) (d : Nat) (x : LinkDir) : Served s (s.setLinkDir d x) := ⟨rfl, id⟩

theorem notify (s : State) (code arg : Nat) : Served s (s.notify code arg) := ⟨rfl, id⟩

theorem settleFlits (s : State) (d : Nat) : Served s (s.settleFlits d) := setLinkDir s _ _

theorem restoreWave (s : State) (d w : Nat) : Served s (s.restoreWave d w) :=
  ((settleFlits s d).trans (setLinkDir _ _ _)).trans (notify _ _ _)

theorem reachBoundary (s : State) (d : Nat) : Served s (s.reachBoundary d) := foldl (fun x _ => restoreWave x _ _) _ s

theorem putFlit (s : State) (link : Nat) (f : Flit) : Served s (s.putFlit link f) := (reachBoundary s _).trans (setLinkDir _ _ _)

theorem net (s : State) (n : Net) : Served s { s with net := n } := ⟨rfl, id⟩

theorem tables (s : State) (t : Tables) : Served s { s with tables := t } := ⟨rfl, id⟩

theorem sendMessage (s : State) (t c vc a : Nat) (data : List Byte) (dst : Nat) : Served s (s.sendMessage t c vc a data dst) := by
  unfold State.sendMessage
  split
  · exact refl s
  · exact (putFlit s _ _).trans (net _ _)

theorem fresh (s : State) : Served s s.fresh := ⟨rfl, id⟩

theorem sendAnswer (s : State) (vc line p : Nat) (data : List Byte) : Served s (s.sendAnswer vc line p data) :=
  (fresh s).trans (sendMessage _ _ _ _ _ _ _)

theorem sendControl (s : State) (link : Nat) (what : List Byte) : Served s (s.sendControl link what) := putFlit s _ _

/-! ## Directories (R402 to R405) -/

theorem updFrame (s : State) (fid : Nat) (f : Frame → Frame) : Served s (s.updFrame fid f) := ⟨rfl, id⟩

theorem setFrame (s : State) (fid : Nat) (x : Frame) : Served s (s.setFrame fid x) := ⟨rfl, id⟩

theorem sendMasked (s : State) (t here home : Nat) : Served s (s.sendMasked t here home) := by
  unfold State.sendMasked
  extract_lets masked
  split
  · exact refl s
  · refine (((readBytes s here 64).trans (sendMessage _ t 0 2 home _ _)).trans (mergeBytes _ home 2 _)).trans (ite (poison _ _ _) (refl _))

theorem writeBackLine (s : State) (fid n : Nat) : Served s (s.writeBackLine fid n) := by
  unfold State.writeBackLine
  extract_lets fr here home s1 s2
  have h1 : Served s s1 := foldl (fun x _ => sendMasked x _ _ _) _ s
  exact (h1.trans (setMasks s1 _ _ _)).trans (updFrame s2 _ _)

theorem dropLine (s : State) (fid n : Nat) : Served s (s.dropLine fid n) := by
  unfold State.dropLine
  extract_lets s1
  exact (setMasks s _ _ _).trans (updFrame s1 _ _)

theorem setDirEntry (s : State) (e : DirEntry) : Served s (s.setDirEntry e) := net s _

theorem dropDirEntry (s : State) (line : Nat) : Served s (s.dropDirEntry line) := net s _

theorem changeDirEntry (s : State) (line : Nat) (f : DirEntry → DirEntry) : Served s (s.changeDirEntry line f) := net s _

theorem setExported (s : State) (line : Nat) (b : Bool) : Served s (s.setExported line b) := ⟨rfl, id⟩

theorem loseLine (s : State) (line : Nat) (owned : Bool) : Served s (s.loseLine line owned) := by
  unfold State.loseLine
  split
  · exact (ite (writeBackLine s _ _) (refl s)).trans (dropLine _ _ _)
  · exact refl s

theorem invalidateReplicas (s : State) (master n : Nat) : Served s (s.invalidateReplicas master n) :=
  foldl (fun x _ => ite (foldl (fun y _ => updFrame y _ _) _ x) (refl x)) _ s

theorem putHome (s : State) (line : Nat) (bytes : List (Nat × Byte)) : Served s (s.putHome line bytes) := by
  refine foldl (fun x i => ?_) _ s
  extract_lets here n
  split
  · exact (ite (refl x) (invalidateReplicas x _ _)).trans (ite (mergeBytes _ _ _ _) ((mergeBytes _ _ _ _).trans (updFrame _ _ _)))
  · exact mergeBytes x _ _ _

theorem settleOwner (s : State) (line : Nat) : Served s (s.settleOwner line) := by
  unfold State.settleOwner
  split
  · exact putHome s _ _
  · exact refl s

theorem invalidateHolders (s : State) (e : DirEntry) (keep : Option Nat) : Served s (s.invalidateHolders e keep) :=
  (ite (settleOwner s _) (refl s)).trans (ite (loseLine _ _ _) (refl _))

theorem backInvalidate (s : State) (e : DirEntry) : Served s (s.backInvalidate e) :=
  ((((invalidateHolders s e none).trans (ite (sendAnswer _ _ _ _ _) (refl _))).trans (ite (net _ _) (refl _))).trans
    (dropDirEntry _ _)).trans (setExported _ _ _)

theorem evictOne (s : State) (line : Nat) : Served s (s.evictOne line) := by
  unfold State.evictOne
  extract_lets same
  split
  · exact refl s
  · split
    · exact backInvalidate s _
    · exact refl s

theorem makeDirRoom (s : State) (line : Nat) : Served s (s.makeDirRoom line) := foldl (fun x _ => evictOne x _) _ s

theorem countResolved (s : State) (p : Nat) (forwarded : Bool) : Served s (s.countResolved p forwarded) :=
  ite (refl s) (ite (net s _) (net s _))

theorem dirRead (s : State) (line p : Nat) : Served s (s.dirRead line p) := by
  unfold State.dirRead
  split
  · exact (((makeDirRoom s line).trans (setDirEntry _ _)).trans (setExported _ _ _)).trans (countResolved _ _ _)
  · extract_lets holders
    split
    · exact (setDirEntry s _).trans (countResolved _ _ _)
    all_goals exact ite ((setDirEntry s _).trans (countResolved _ _ _)) ((setDirEntry s _).trans (countResolved _ _ _))

theorem dirPeek (s : State) (line : Nat) : Served s (s.dirPeek line) := by
  unfold State.dirPeek
  extract_lets p
  split
  · exact countResolved s _ _
  · split <;> exact (setDirEntry s _).trans (countResolved _ _ _)

theorem dirOwn (s : State) (line p : Nat) : Served s (s.dirOwn line p) := by
  unfold State.dirOwn
  split
  · exact (((makeDirRoom s line).trans (setDirEntry _ _)).trans (setExported _ _ _)).trans (countResolved _ _ _)
  · exact (((ite (refl s) (invalidateHolders s _ _)).trans (setDirEntry _ _)).trans (setExported _ _ _)).trans (countResolved _ _ _)

theorem takeLine (s : State) (t c line : Nat) : Served s (s.takeLine t c line) :=
  ite (changeDirEntry s _ _) ((sendMessage s _ _ _ _ _ _).trans (dirOwn _ _ _))

theorem dirWriteBack (s : State) (line p : Nat) (keep : Bool) : Served s (s.dirWriteBack line p keep) := by
  unfold State.dirWriteBack
  split
  · exact ite (ite ((dropDirEntry s _).trans (setExported _ _ _)) (setDirEntry s _)) (refl s)
  · exact refl s

theorem dirDrop (s : State) (line p : Nat) : Served s (s.dirDrop line p) := by
  unfold State.dirDrop
  split
  · exact ite (ite ((dropDirEntry s _).trans (setExported _ _ _)) (setDirEntry s _)) (setDirEntry s _)
  · exact refl s

theorem dirHomeRead (s : State) (line : Nat) : Served s (s.dirHomeRead line) := by
  unfold State.dirHomeRead
  extract_lets home
  split
  · exact (setDirEntry s _).trans (countResolved _ _ _)
  · exact countResolved s _ _

theorem dirHomeWrite (s : State) (line : Nat) : Served s (s.dirHomeWrite line) := by
  unfold State.dirHomeWrite
  extract_lets home
  split
  · exact (((invalidateHolders s _ _).trans (dropDirEntry _ _)).trans (setExported _ _ _)).trans (countResolved _ _ _)
  · exact (setExported s _ _).trans (countResolved _ _ _)

theorem noteUncached (s : State) (a : Nat) (write : Bool) : Served s (s.noteUncached a write) := net s _

theorem homeTouch (s : State) (t cls a : Nat) (write : Bool) : Served s (s.homeTouch t cls a write) :=
  ite (refl s) ((sendMessage s _ _ _ _ _ _).trans (ite (noteUncached _ _ _) (ite (dirHomeWrite _ _) (dirHomeRead _ _))))

theorem askHome (s : State) (t cls a n : Nat) (keep : Bool) : Served s (s.askHome t cls a n keep).1 :=
  ((sendMessage s t cls 0 a _ _).trans (ite (noteUncached _ _ _) (ite (dirRead _ _ _) (dirPeek _ _)))).trans (readBytes _ a n)

/-! ## Entries and frames (R216, R219, R323 to R337) -/

theorem setRaw64 (s : State) (p : Nat) (x : DWord) : Served s (s.setRaw64 p x) := writeWordPart s _ _

theorem raiseHorizon (s : State) (t vpn leaf : Nat) (w0 : DWord) (h : Nat) : Served s (s.raiseHorizon t vpn leaf w0 h) :=
  ite (refl s) ((tables s _).trans (setRaw64 _ _ _))

theorem checkWalk (s : State) (t va : Nat) : Served s (s.checkWalk t va) := foldl (fun x _ => readBytes x _ _) _ s

theorem carrySector (s : State) (src dst : Nat) : Served s (s.carrySector src dst) :=
  ((((readBytes s src 64).trans (setBytes _ _ _)).trans (setSyndrome _ _ _)).trans (setSyndrome _ _ _)).trans
    (ite (poison _ _ _) (refl _))

theorem carry (s : State) (src dst n : Nat) : Served s (s.carry src dst n) := foldl (fun x _ => carrySector x _ _) _ s

theorem markValid (s : State) (fid n : Nat) : Served s (s.markValid fid n) := updFrame s _ _
theorem markDirty (s : State) (fid n : Nat) : Served s (s.markDirty fid n) := updFrame s _ _

theorem fillFromBacking (s : State) (fid n : Nat) : Served s (s.fillFromBacking fid n) :=
  ite (refl s) ((carry s _ _ _).trans (markValid _ _ _))

theorem fillRemote (s : State) (fid n cls : Nat) : Served s (s.fillRemote fid n cls) := by
  unfold State.fillRemote
  extract_lets fr home
  split
  · exact refl s
  · have h := askHome s fr.owner cls home 64 true
    generalize s.askHome fr.owner cls home 64 true = r at h ⊢
    obtain ⟨s1, bs, bad⟩ := r
    exact ((h.trans (mergeBytes s1 _ _ _)).trans (foldl (fun x _ => ite (poison x _ _) (refl x)) _ _)).trans (markValid _ _ _)

theorem fillFromVisible (s : State) (src fid n cls : Nat) : Served s (s.fillFromVisible src fid n cls) := by
  unfold State.fillFromVisible
  extract_lets fr from_ here
  split
  · have h := askHome s fr.owner cls (fr.backing + 64 * n) 64 false
    generalize s.askHome fr.owner cls (fr.backing + 64 * n) 64 false = r at h ⊢
    obtain ⟨s1, bs, bad⟩ := r
    exact ((h.trans (writeBytes s1 _ _)).trans (ite (poison _ _ _) (refl _))).trans (markValid _ _ _)
  · exact ((ite (fillRemote s _ _ _) (fillFromBacking s _ _)).trans (carry _ _ _ _)).trans (markValid _ _ _)

theorem mergeShadow (s : State) (fid n cls a : Nat) : Served s (s.mergeShadow fid n cls a) := by
  unfold State.mergeShadow
  split
  · exact (homeTouch s _ _ _ _).trans (mergeBytes _ _ _ _)
  · exact refl s

theorem fillFrom (s : State) (fid n cls : Nat) (p : State.Place) : Served s (s.fillFrom fid n cls p) := by
  unfold State.fillFrom
  extract_lets here
  split
  · exact (fillFromVisible s _ _ _ _).trans (ite (mergeShadow _ _ _ _ _) (refl _))
  · exact ((carry s _ _ _).trans (markValid _ _ _)).trans (mergeShadow _ _ _ _ _)
  · have h := askHome s (s.frame fid).owner cls (p.bare.backing s) 64 false
    generalize s.askHome (s.frame fid).owner cls (p.bare.backing s) 64 false = r at h ⊢
    obtain ⟨s1, bs, bad⟩ := r
    exact ((h.trans (writeBytes s1 _ _)).trans (ite (poison _ _ _) (refl _))).trans (markValid _ _ _)

theorem fillSector (s : State) (fid n cls : Nat) : Served s (s.fillSector fid n cls) := by
  unfold State.fillSector
  split
  · exact refl s
  · extract_lets fr
    split
    · exact fillRemote s _ _ _
    · exact fillFromBacking s _ _
    · exact fillFrom s _ _ _ _
    · split
      · exact fillFrom s _ _ _ _
      · exact fillFrom s _ _ _ _

theorem preserveShadow (s : State) (backing n : Nat) : Served s (s.preserveShadow backing n) :=
  foldl (fun x _ => ite (fillSector x _ _ _) (refl x)) _ s

theorem preserveLine (s : State) (line : Nat) : Served s (s.preserveLine line) := foldl (fun x _ => preserveShadow x _ _) _ s

theorem touchFrame (s : State) (fid t : Nat) : Served s (s.touchFrame fid t) := ite (updFrame s _ _) (refl s)

theorem frameRead (s : State) (t cls fid off n : Nat) : Served s (s.frameRead t cls fid off n).1 := by
  unfold State.frameRead
  extract_lets here fr masked
  have h1 : Served s (if s.sectorValid fid (off / 64) || masked then s else s.fillSector fid (off / 64) cls) :=
    ite (refl s) (fillSector s _ _ _)
  split
  · exact h1.trans (readBytes _ _ _)
  · exact h1.trans ((homeTouch _ _ _ _ _).trans (readBytes _ _ _))

theorem frameWrite (s : State) (t cls fid off : Nat) (bs : List Byte) : Served s (s.frameWrite t cls fid off bs) := by
  unfold State.frameWrite
  extract_lets fr n here
  split
  · exact (((preserveShadow s _ _).trans (ite (noteUncached _ _ _) (takeLine _ _ _ _))).trans (writeBytes _ _ _)).trans
      ((setMasks _ _ _ _).trans (markDirty _ _ _))
  · exact (((ite (refl s) (fillSector s _ _ _)).trans (writeBytes _ _ _)).trans (markValid _ _ _)).trans (markDirty _ _ _)
  · exact ((((preserveShadow s _ _).trans ((homeTouch _ _ _ _ _).trans (invalidateReplicas _ _ _))).trans
      (ite (refl _) (fillSector _ _ _ _))).trans (writeBytes _ _ _)).trans ((markValid _ _ _).trans (markDirty _ _ _))

/-! ## Frames that come and go (R297, R330 to R335) -/

theorem useFrame (s : State) (fid : Nat) (f : Frame) : Served s (s.useFrame fid f) := ⟨rfl, id⟩

theorem freeFrame (s : State) (fid : Nat) : Served s (s.freeFrame fid) := (clearBytes s _ _).trans (setFrame _ _ _)

theorem dropMove (s : State) (t vpn : Nat) : Served s (s.dropMove t vpn) := tables s _

theorem addForward (s : State) (t vpn backing fid horizon : Nat) (published : Bool) :
    Served s (s.addForward t vpn backing fid horizon published) := tables s _

theorem dropForward (s : State) (backing : Nat) : Served s (s.dropForward backing) := tables s _

theorem beginForwarding (s : State) (fid fwd horizon : Nat) (published : Bool) :
    Served s (s.beginForwarding fid fwd horizon published) := updFrame s _ _

/-- How a remote-line frame gives a line up: a write-back or a drop. -/
theorem leaveLine (s : State) (owned clean holds : Bool) (t line p : Nat) :
    Served s (if owned then (if clean then s.sendMessage t 0 2 (256 * line) else s).dirWriteBack line p false
      else if holds then (s.sendMessage t 0 2 (256 * line)).dirDrop line p else s) := by
  have hsend : Served s (s.sendMessage t 0 2 (256 * line)) := sendMessage s _ _ _ _ _ _
  exact ite ((ite hsend (refl s)).trans (dirWriteBack _ _ _ _)) (ite (hsend.trans (dirDrop _ _ _)) (refl s))

theorem leaveRemote (s : State) (fid : Nat) : Served s (s.leaveRemote fid) := by
  refine foldl (fun x n => ?_) _ s
  extract_lets line
  clear_value line
  split
  case h_1 =>
    rename_i clean y _ _ _
    have hy : Served x y := writeBackLine x fid n
    clear_value clean y
    exact hy.trans (leaveLine y _ _ _ _ _ _)
  case h_2 => exact writeBackLine x _ _

theorem writeBackFrame (s : State) (fid : Nat) : Served s (s.writeBackFrame fid) := by
  unfold State.writeBackFrame
  extract_lets fr
  split
  · exact leaveRemote s fid
  · refine foldl (fun x n => ite ?_ (refl x)) _ s
    extract_lets a
    exact (ite ((sendMessage x _ _ _ _ _ _).trans (dirHomeWrite _ _)) (refl x)).trans (carrySector _ _ _)

theorem giveBack (s : State) (fid horizon : Nat) : Served s (s.giveBack fid horizon) := by
  unfold State.giveBack
  extract_lets s1
  have h1 : Served s s1 := ((writeBackFrame s fid).trans (dropForward _ (s.frame fid).backing)).trans (beginForwarding _ fid _ _ _)
  exact h1.trans (updFrame s1 _ _)

theorem freePassed (s : State) (fid : Nat) : Served s (s.freePassed fid) := ite (freeFrame s fid) (refl s)

theorem freeAllPassed (s : State) : Served s s.freeAllPassed := foldl (fun x _ => freePassed x _) _ s

theorem copyFrame (s : State) (src dst : Nat) : Served s (s.copyFrame src dst) := by
  unfold State.copyFrame
  extract_lets fr a b s1
  have h1 : Served s s1 := foldl (fun x _ => ite (carrySector x _ _) (refl x)) _ s
  exact h1.trans (updFrame s1 _ _)

theorem moveLines (s : State) (src dst : Nat) : Served s (s.moveLines src dst) := by
  unfold State.moveLines
  extract_lets s1 fr s2
  have h2 : Served s s2 := (leaveRemote s src).trans (updFrame s1 _ _)
  split
  · exact h2.trans (updFrame s2 _ _)
  · exact h2.trans (foldl (fun x _ => ite (refl x) ((sendMessage x _ _ _ _ _ _).trans (dirRead _ _ _))) _ s2)

theorem releaseFrame (s : State) (fid : Nat) : Served s (s.releaseFrame fid) :=
  ite (refl s) ((giveBack s _ _).trans (freePassed _ _))

theorem dropSet (s : State) (t vpn : Nat) : Served s (s.dropSet t vpn) := tables s _

theorem beginMove {s t : State} {tenant vpn : Nat} {cols : List Nat} (h : s.beginMove tenant vpn cols = some t) : Served s t := by
  unfold State.beginMove at h
  split at h
  · extract_lets kind barred src role w0' s1 at h
    split at h
    · cases h
    · cases h
      have h1 : Served s s1 := ((checkWalk s _ _).trans (setRaw64 _ _ _)).trans (useFrame _ _ _)
      exact h1.trans (tables s1 _)
  · cases h

theorem beginEvict (s : State) (t vpn : Nat) : Served s (s.beginEvict t vpn) := by
  unfold State.beginEvict
  split
  · split
    · exact refl s
    · exact (((checkWalk s _ _).trans (setRaw64 _ _ _)).trans (updFrame _ _ _)).trans (tables _ _)
  · exact refl s

theorem beginReplicate {s t : State} {tenant vpn : Nat} (h : s.beginReplicate tenant vpn = some t) : Served s t := by
  unfold State.beginReplicate at h
  split at h
  · extract_lets master at h
    split at h
    · cases h
    · cases h
      refine Served.trans ?_ (tables _ _)
      exact ((checkWalk s _ _).trans (setRaw64 _ _ _)).trans (foldl (fun x _ => useFrame x _ _) _ _)
  · cases h

theorem beginCollapse (s : State) (t vpn : Nat) : Served s (s.beginCollapse t vpn) := by
  unfold State.beginCollapse
  split
  · exact refl s
  · extract_lets collapse
    have hc : ∀ x w0 w1, Served x (collapse x w0 w1) := fun x _ _ => tables x _
    split
    · exact refl s
    · split
      · extract_lets w0'
        exact ite (((checkWalk s _ _).trans (setRaw64 _ _ _)).trans (hc _ _ _)) (hc _ _ _)
      · exact hc _ _ _

theorem giveUp (s : State) (t vpn : Nat) : Served s (s.giveUp t vpn) := by
  unfold State.giveUp
  split
  · exact ite (beginCollapse s _ _) (beginEvict s _ _)
  · exact refl s

theorem giveUpFrame (s : State) (fid : Nat) : Served s (s.giveUpFrame fid) :=
  ite (giveUp s _ _) (ite (beginCollapse s _ _) (releaseFrame s _))

theorem makeRoom (s : State) (cols : List Nat) : Served s (s.makeRoom cols) := by
  unfold State.makeRoom
  split
  · exact refl s
  · split
    · exact giveUpFrame s _
    · exact refl s

theorem giveShadow {s t : State} {tenant vpn gcore : Nat} {copy : Bool} (h : s.giveShadow tenant vpn gcore copy = some t) : Served s t := by
  unfold State.giveShadow at h
  split at h
  · split at h
    · cases h
      refine Served.trans ?_ (ite (foldl (fun x _ => ite (preserveLine x _) (refl x)) _ _) (refl _))
      exact (((checkWalk s _ _).trans (setRaw64 _ _ _)).trans (useFrame _ _ _)).trans (tables _ _)
    · cases h
  · cases h

theorem fillFrame (s : State) (fid : Nat) : Served s ((List.range 64).foldl (fun s n => s.fillSector fid n) s) :=
  foldl (fun x n => fillSector x fid n _) _ s

theorem publishPage (s : State) (t vpn : Nat) : Served s (s.publishPage t vpn).1 := by
  unfold State.publishPage
  split
  case h_1 a w0 w1 sh _ _ =>
    refine Served.trans ?_ (tables _ _)
    refine Served.trans ?_ (setRaw64 _ a _)
    refine Served.trans ?_ (updFrame _ sh.fid _)
    refine ((checkWalk s t (vpn * 4096)).trans (fillFrame _ sh.fid)).trans ?_
    generalize (List.range 64).foldl (fun s n => s.fillSector sh.fid n) (s.checkWalk t (vpn * 4096)) = y
    split
    · refine (fillFrame y (Leaf.target w0)).trans ?_
      refine Served.trans ?_ (beginForwarding _ _ _ _ _)
      refine (updFrame _ (Leaf.target w0) (fun f => { f with dirty := 0 })).trans ?_
      exact ite ((setMasks _ _ _ _).trans (leaveRemote _ _)) (refl _)
    · exact addForward y _ _ _ _ _ _
  case h_2 => exact refl s

theorem publishPages (s : State) (t : Nat) (vs : List Nat) : Served s (s.publishPages t vs).1 := by
  induction vs generalizing s with
  | nil => exact refl s
  | cons v vs ih => exact (publishPage s t v).trans (ih _)

end Served

end Sys2Proof.Machine
end

section
/-! # Proofs: SHADOW and PUBLISH (R297 to R299, R331, R335) -/

namespace Sys2Proof.Machine

/-! ## What leaves the tables and the links alone -/

/-- Only memory and the dies' counts of errors have moved. -/
structure Stored (s t : State) : Prop where
  only : t = { s with mem := t.mem, dies := t.dies }

namespace Stored

theorem refl (s : State) : Stored s s := ⟨rfl⟩

theorem trans {s x t : State} (h : Stored s x) (h' : Stored x t) : Stored s t := ⟨by rw [h'.only, h.only]⟩

theorem foldl {α : Type} {g : State → α → State} (h : ∀ x a, Stored x (g x a)) (l : List α) (s : State) : Stored s (l.foldl g s) :=
  List.foldlRecOn l g (refl s) (fun x hx a _ => hx.trans (h x a))

theorem tables {s t : State} (h : Stored s t) : t.tables = s.tables := by rw [h.only]
theorem net {s t : State} (h : Stored s t) : t.net = s.net := by rw [h.only]

theorem setByte (s : State) (p : Nat) (b : Byte) : Stored s (s.setByte p b) := ⟨rfl⟩
theorem setSyndrome (s : State) (p : Nat) (x : Word) : Stored s (s.setSyndrome p x) := ⟨rfl⟩
theorem countCorrected (s : State) (p : Nat) : Stored s (s.countCorrected p) := ⟨rfl⟩
theorem countUncorrectable (s : State) (p : Nat) : Stored s (s.countUncorrectable p) := ⟨rfl⟩

theorem setBytes (s : State) (p : Nat) (bs : List Byte) : Stored s (s.setBytes p bs) := ⟨by rw [setBytes_eq]⟩

theorem readWordPart (s : State) (p n : Nat) : Stored s (s.readWordPart p n).1 := by
  unfold State.readWordPart
  split
  · exact refl s
  · exact countCorrected s p
  · exact countUncorrectable s p

theorem readFrom (s : State) (p n fuel : Nat) : Stored s (s.readFrom p n fuel).1 := by
  induction fuel generalizing s p n with
  | zero => exact refl s
  | succ fuel ih =>
    unfold State.readFrom
    split
    · exact refl s
    · exact (readWordPart s p _).trans (ih _ _ _)

theorem readBytes (s : State) (p n : Nat) : Stored s (s.readBytes p n).1 := readFrom s p n _

theorem readyWord (s : State) (p : Nat) : Stored s (s.readyWord p) := by
  unfold State.readyWord
  split
  · exact refl s
  · exact ((countCorrected s p).trans (setBytes _ _ _)).trans (setSyndrome _ _ _)
  · exact countUncorrectable s p

theorem writeWordPart (s : State) (p : Nat) (bs : List Byte) : Stored s (s.writeWordPart p bs) := by
  unfold State.writeWordPart
  split
  · exact (setBytes s _ _).trans (setSyndrome _ _ _)
  · exact (readyWord s p).trans (setBytes _ _ _)

theorem setRaw64 (s : State) (p : Nat) (x : DWord) : Stored s (s.setRaw64 p x) := writeWordPart s _ _

theorem checkWalk (s : State) (t va : Nat) : Stored s (s.checkWalk t va) := foldl (fun x _ => readBytes x _ _) _ s

theorem mergeWord (s : State) (p : Nat) (bs : List (Nat × Byte)) : Stored s (s.mergeWord p bs) := by
  have put : ∀ x : State, Stored x (bs.foldl (fun s b => s.setByte (p + b.1) b.2) x) := fun x => foldl (fun x b => setByte x _ _) bs x
  unfold State.mergeWord
  split
  · exact refl s
  · split
    · exact (put s).trans (setSyndrome _ _ _)
    · exact (readyWord s p).trans (put _)

theorem mergeBytes (s : State) (p words : Nat) (bs : List (Nat × Byte)) : Stored s (s.mergeBytes p words bs) :=
  foldl (fun x _ => mergeWord x _ _) _ s

theorem poison (s : State) (p n : Nat) : Stored s (s.poison p n) := foldl (fun x _ => setSyndrome x _ _) _ s

theorem setMask (s : State) (p : Nat) (b : Bool) : Stored s (s.setMask p b) := ⟨rfl⟩

theorem setMasks (s : State) (p n : Nat) (b : Bool) : Stored s (s.setMasks p n b) := foldl (fun x _ => setMask x _ _) _ s

end Stored

/-- The word of a table entry that has just been written. -/
theorem raw64_setRaw64 (s : State) (p : Nat) (x : DWord) : (s.setRaw64 p x).raw64 p = x := by
  have hlen : (leBytes 8 x.toNat).length = 8 := length_leBytes 8 _
  have hset : s.setRaw64 p x = (s.readyWord p).setBytes p (leBytes 8 x.toNat) := by
    rw [State.setRaw64, State.writeWordPart, if_neg (by rw [hlen]; decide)]
  have hraw : (s.setRaw64 p x).rawBytes p 8 = leBytes 8 x.toNat := by
    have h := State.rawBytes_setBytes (s.readyWord p) p (leBytes 8 x.toNat)
    rw [hlen] at h
    rw [hset, h]
  have hsyn : (s.setRaw64 p x).syndrome p = (s.readyWord p).syndrome p := by rw [hset, State.syndrome_setBytes]
  have hbytes : ((s.setRaw64 p x).readWordPart p 8).2.1 = leBytes 8 x.toNat := by
    rw [← hraw]
    rcases State.readyWord_class s p with h | h <;> simp only [State.readWordPart, hsyn, h]
  rw [State.raw64, hbytes]
  exact dword_leBytes x

theorem raw64_of_cells {s t : State} (hc : t.mem.cells = s.mem.cells) (he : t.mem.ecc = s.mem.ecc) (p : Nat) : t.raw64 p = s.raw64 p := by
  have hs : t.syndrome p = s.syndrome p := by rw [State.syndrome, he]; rfl
  have hb : ∀ q, t.byteAt q = s.byteAt q := fun q => by rw [State.byteAt, hc]; rfl
  have hr : t.rawBytes p 8 = s.rawBytes p 8 := rawBytes_congr (fun i _ => hb (p + i))
  simp only [State.raw64, State.readWordPart, hs, hb, hr]
  split <;> rfl

theorem frame_setFrame (s : State) (fid fid' : Nat) (x : Frame) : (s.setFrame fid x).frame fid' = if fid' = fid then x else s.frame fid' := by
  simp only [State.frame, State.setFrame, Sparse.get_set]

theorem frame_updFrame_self (s : State) (fid : Nat) (g : Frame → Frame) : (s.updFrame fid g).frame fid = g (s.frame fid) :=
  State.frame_setFrame_self s fid _

theorem frame_updFrame_other (s : State) {fid fid' : Nat} (h : fid' ≠ fid) (g : Frame → Frame) : (s.updFrame fid g).frame fid' = s.frame fid' := by
  rw [State.updFrame, frame_setFrame, if_neg h]

theorem frame_of_tables {s t : State} (h : t.tables = s.tables) (fid : Nat) : t.frame fid = s.frame fid := by
  rw [State.frame, h]
  rfl

/-! ## Lines that leave a remote-line frame -/

theorem tables_restoreWave (s : State) (d w : Nat) : (s.restoreWave d w).tables = s.tables := rfl

theorem tables_foldl {α : Type} {g : State → α → State} (h : ∀ x a, (g x a).tables = x.tables) (l : List α) (s : State) :
    (l.foldl g s).tables = s.tables :=
  List.foldlRecOn l g (motive := fun x => x.tables = s.tables) rfl (fun x hx a _ => (h x a).trans hx)

theorem tables_sendMessage (s : State) (t c vc a : Nat) (data : List Byte) (dst : Nat) :
    (s.sendMessage t c vc a data dst).tables = s.tables := by
  unfold State.sendMessage
  split
  · rfl
  · exact tables_foldl (fun x w => tables_restoreWave x _ w) _ s

theorem tables_dirWriteBack (s : State) (line p : Nat) (keep : Bool) : (s.dirWriteBack line p keep).tables = s.tables := by
  unfold State.dirWriteBack
  split
  · split
    · extract_lets holders
      split <;> rfl
    · rfl
  · rfl

theorem tables_dirDrop (s : State) (line p : Nat) : (s.dirDrop line p).tables = s.tables := by
  unfold State.dirDrop
  split
  · split
    · extract_lets holders
      split <;> rfl
    · rfl
  · rfl

theorem tables_sendMasked (s : State) (t here home : Nat) : (s.sendMasked t here home).tables = s.tables := by
  unfold State.sendMasked
  extract_lets masked
  split
  · rfl
  · have hread := (Stored.readBytes s here 64).tables
    generalize s.readBytes here 64 = r at hread ⊢
    obtain ⟨s1, bs, bad⟩ := r
    have hsend := tables_sendMessage s1 t 0 2 home bs (pkgOf home)
    dsimp only at hread ⊢
    generalize s1.sendMessage t 0 2 home bs = s2 at hsend ⊢
    have hmerge := (Stored.mergeBytes s2 home 2 (masked.map (fun i => (i, bs.getD i 0)))).tables
    rw [← hread, ← hsend, ← hmerge]
    split
    · exact (Stored.poison _ _ _).tables
    · rfl

/-- Lines that leave a frame make it no dirtier. -/
theorem leaveRemote_dirty {s : State} {fid : Nat} (h : (s.frame fid).dirty = 0) : ((s.leaveRemote fid).frame fid).dirty = 0 := by
  have hline : ∀ (x : State) (n : Nat), (x.frame fid).dirty = 0 → ((x.writeBackLine fid n).frame fid).dirty = 0 := by
    intro x n hx
    unfold State.writeBackLine
    extract_lets fr here home x1 x2
    have h1 : x1.tables = x.tables := tables_foldl (fun y i => tables_sendMasked y _ _ _) _ x
    have h2 : x2.tables = x1.tables := (Stored.setMasks x1 here 256 false).tables
    rw [frame_updFrame_self, frame_of_tables (h2.trans h1), hx]
    exact BitVec.zero_and
  unfold State.leaveRemote
  refine List.foldlRecOn (motive := fun x : State => (x.frame fid).dirty = 0) _ _ h (fun (x : State) hx n _ => ?_)
  extract_lets line
  split
  case h_1 =>
    rename_i clean y _ _ _
    have hy : (y.frame fid).dirty = 0 := hline x n hx
    have hsend : ∀ z : State, z.tables = y.tables → (z.frame fid).dirty = 0 := fun z hz => by rw [frame_of_tables hz, hy]
    split
    · refine hsend _ ((tables_dirWriteBack _ _ _ _).trans ?_)
      split
      · exact tables_sendMessage _ _ _ _ _ _ _
      · rfl
    · split
      · exact hsend _ ((tables_dirDrop _ _ _).trans (tables_sendMessage _ _ _ _ _ _ _))
      · exact hy
  case h_2 => exact hline x n hx

/-! ## One page -/

/-- A frame becomes the shadow of a page: its entry and the record. -/
def putShadow (s : State) (t v fid backing : Nat) (copy : Bool) : State :=
  let x := s.useFrame fid { state := .filling, role := .shadow, owner := t, vpn := v, backing := backing
                            valid := if copy then 0 else BitVec.allOnes 64 }
  { x with tables := { x.tables with shadows := x.tables.shadows ++ [{ tenant := t, vpn := v, fid, copy, filled := 0 }] } }

/-- A page has its shadow: the entry has SHD. -/
def shadowGiven (s : State) (t v a fid : Nat) (w0 w1 : DWord) (copy : Bool) : State :=
  putShadow ((s.checkWalk t (v * 4096)).setRaw64 a (Leaf.withBit w0 7 true)) t v fid w1.toNat copy

/-- The lines that another package may write without a request are copied at once (R335). -/
def copyForeign (line : Nat) (s : State) : State :=
  (List.range 16).foldl (fun s n =>
    if (s.dirEntry? (line + n)).any (fun e => e.state != .shared && e.owner != s.net.pkg) then s.preserveLine (line + n) else s) s

theorem giveShadow_eq {s : State} {t v gcore a fid : Nat} {w0 w1 : DWord} {copy : Bool} (hleaf : s.leafOf t v = some (a, w0, w1))
    (hfid : s.takeFrom (s.ownedCols t (State.shadowSilo w0 gcore)) = some fid) :
    s.giveShadow t v gcore copy =
      some (if copy then copyForeign (w1.toNat / 256) (shadowGiven s t v a fid w0 w1 copy) else shadowGiven s t v a fid w0 w1 copy) := by
  rw [State.giveShadow, hleaf]
  dsimp only
  rw [hfid]
  rfl

theorem copyForeign_none {s : State} {line : Nat}
    (h : ∀ i < 16, ∀ e, s.dirEntry? (line + i) = some e → e.state = .shared ∨ e.owner = s.net.pkg) : copyForeign line s = s := by
  refine List.foldlRecOn (motive := fun y => y = s) _ _ rfl (fun (y : State) hy n hn => ?_)
  subst hy
  have hany : (y.dirEntry? (line + n)).any (fun e => e.state != .shared && e.owner != y.net.pkg) = false := by
    cases he : y.dirEntry? (line + n) with
    | none => rfl
    | some e => rcases h n (List.mem_range.mp hn) e he with h | h <;> simp [h]
  rw [hany]
  rfl

theorem frame_putShadow (s : State) (t v fid backing : Nat) (copy : Bool) : (putShadow s t v fid backing copy).frame fid =
    { state := .filling, role := .shadow, owner := t, vpn := v, backing := backing, valid := if copy then 0 else BitVec.allOnes 64 } :=
  Sparse.get_set_self _ _ _ _

theorem putShadow_keeps (s : State) (t v fid backing : Nat) (copy : Bool) :
    (putShadow s t v fid backing copy).mem.cells = s.mem.cells ∧ (putShadow s t v fid backing copy).mem.ecc = s.mem.ecc ∧
    (putShadow s t v fid backing copy).net = s.net ∧
    (putShadow s t v fid backing copy).tables.shadows = s.tables.shadows ++ [{ tenant := t, vpn := v, fid, copy, filled := 0 }] :=
  ⟨rfl, rfl, rfl, rfl⟩

theorem frame_shadowGiven (s : State) (t v a fid : Nat) (w0 w1 : DWord) (copy : Bool) :
    (shadowGiven s t v a fid w0 w1 copy).frame fid =
      { state := .filling, role := .shadow, owner := t, vpn := v, backing := w1.toNat, valid := if copy then 0 else BitVec.allOnes 64 } :=
  frame_putShadow _ _ _ _ _ _

theorem raw64_shadowGiven (s : State) (t v a fid : Nat) (w0 w1 : DWord) (copy : Bool) :
    (shadowGiven s t v a fid w0 w1 copy).raw64 a = Leaf.withBit w0 7 true := by
  obtain ⟨hc, he, -⟩ := putShadow_keeps ((s.checkWalk t (v * 4096)).setRaw64 a (Leaf.withBit w0 7 true)) t v fid w1.toNat copy
  rw [shadowGiven, raw64_of_cells hc he, raw64_setRaw64]

theorem entryWritten_stored (s : State) (t v a : Nat) (x : DWord) : Stored s ((s.checkWalk t (v * 4096)).setRaw64 a x) :=
  (Stored.checkWalk s t _).trans (Stored.setRaw64 _ _ _)

theorem net_shadowGiven (s : State) (t v a fid : Nat) (w0 w1 : DWord) (copy : Bool) :
    (shadowGiven s t v a fid w0 w1 copy).net = s.net := by
  rw [shadowGiven, (putShadow_keeps _ _ _ _ _ _).2.2.1, (entryWritten_stored s t v a _).net]

theorem shadowOf_shadowGiven {s : State} {t v : Nat} (hnone : s.shadowOf t v = none) (a fid : Nat) (w0 w1 : DWord) (copy : Bool) :
    (shadowGiven s t v a fid w0 w1 copy).shadowOf t v = some { tenant := t, vpn := v, fid, copy, filled := 0 } := by
  have hshadows : (shadowGiven s t v a fid w0 w1 copy).tables.shadows =
      s.tables.shadows ++ [{ tenant := t, vpn := v, fid, copy, filled := 0 }] := by
    rw [shadowGiven, (putShadow_keeps _ _ _ _ _ _).2.2.2, (entryWritten_stored s t v a _).tables]
  have hfind : s.tables.shadows.find? (fun x => x.tenant == t && x.vpn == v) = none := hnone
  rw [State.shadowOf, hshadows, List.find?_append, hfind, Option.none_or, List.find?_cons_of_pos]
  simp

/-- A page's shadow is a shadow no more. -/
def dropShadow (s : State) (t v : Nat) : State :=
  { s with tables := { s.tables with shadows := s.tables.shadows.filter (fun x => !(x.tenant == t && x.vpn == v)) } }

/-- A page is published once its shadow, and what held it, are complete: the shadow's frame is the page's, and the entry names it. -/
def publishEnd (s : State) (t v a : Nat) (w0 : DWord) (fid : Nat) : State :=
  dropShadow ((s.updFrame fid (fun f =>
    { f with state := .mapped, role := .page, valid := BitVec.allOnes 64, dirty := BitVec.allOnes 64 })).setRaw64 a
      (Leaf.withBit (Leaf.withTarget w0 1 fid) 7 false)) t v

/-- What held a page in a frame forwards to the shadow. -/
def retireFrame (s : State) (old fid horizon : Nat) : State :=
  let s := (List.range 64).foldl (fun s n => s.fillSector old n) s
  let s := s.updFrame old (fun f => { f with dirty := 0 })
  let s := if (s.frame old).role == FrameRole.remoteLine then (s.setMasks (frameLoc old 0).phys 4096 false).leaveRemote old else s
  s.beginForwarding old fid horizon true

/-- The shadow's sectors that are still to be filled. -/
def shadowFilled (s : State) (t v fid : Nat) : State :=
  (List.range 64).foldl (fun s n => s.fillSector fid n) (s.checkWalk t (v * 4096))

theorem publishPage_eq {s : State} {t v a : Nat} {w0 w1 : DWord} {sh : Shadow} (hleaf : s.leafOf t v = some (a, w0, w1))
    (hsh : s.shadowOf t v = some sh) :
    s.publishPage t v = (publishEnd (if Leaf.kind w0 == 1 then
        retireFrame (shadowFilled s t v sh.fid) (Leaf.target w0) sh.fid (s.horizon t v)
      else (shadowFilled s t v sh.fid).addForward t v w1.toNat sh.fid (s.horizon t v) true) t v a w0 sh.fid, s.horizon t v) := by
  rw [State.publishPage, hleaf, hsh]
  rfl

theorem dropShadow_keeps (s : State) (t v : Nat) :
    (dropShadow s t v).mem = s.mem ∧ (dropShadow s t v).tables.frames = s.tables.frames ∧
    (dropShadow s t v).tables.forwards = s.tables.forwards := ⟨rfl, rfl, rfl⟩

theorem shadowOf_dropShadow (s : State) (t v : Nat) : (dropShadow s t v).shadowOf t v = none := by
  rw [State.shadowOf, dropShadow, List.find?_eq_none]
  intro x hx
  have h := (List.mem_filter.mp hx).2
  simp only [Bool.not_eq_true', Bool.eq_false_iff] at h
  exact h

theorem frame_publishEnd (s : State) (t v a : Nat) (w0 : DWord) (fid i : Nat) :
    (publishEnd s t v a w0 fid).frame i = (s.updFrame fid (fun f =>
      { f with state := .mapped, role := .page, valid := BitVec.allOnes 64, dirty := BitVec.allOnes 64 })).frame i := by
  rw [publishEnd, State.frame, (dropShadow_keeps _ _ _).2.1, (Stored.setRaw64 _ _ _).tables]
  rfl

theorem raw64_publishEnd (s : State) (t v a : Nat) (w0 : DWord) (fid : Nat) :
    (publishEnd s t v a w0 fid).raw64 a = Leaf.withBit (Leaf.withTarget w0 1 fid) 7 false := by
  obtain ⟨hm, -⟩ := dropShadow_keeps ((s.updFrame fid (fun f =>
    { f with state := .mapped, role := .page, valid := BitVec.allOnes 64, dirty := BitVec.allOnes 64 })).setRaw64 a
      (Leaf.withBit (Leaf.withTarget w0 1 fid) 7 false)) t v
  rw [publishEnd, raw64_of_cells (congrArg Mem.cells hm) (congrArg Mem.ecc hm), raw64_setRaw64]

theorem forwards_publishEnd (s : State) (t v a : Nat) (w0 : DWord) (fid : Nat) :
    (publishEnd s t v a w0 fid).tables.forwards = s.tables.forwards := by
  rw [publishEnd, (dropShadow_keeps _ _ _).2.2, (Stored.setRaw64 _ _ _).tables]
  rfl

theorem frame_retireFrame (s : State) (old fid horizon : Nat) :
    ((retireFrame s old fid horizon).frame old).state = .forwarding ∧ ((retireFrame s old fid horizon).frame old).fwd = fid ∧
      ((retireFrame s old fid horizon).frame old).horizon = horizon ∧ ((retireFrame s old fid horizon).frame old).published = true ∧
      ((retireFrame s old fid horizon).frame old).dirty = 0 := by
  unfold retireFrame
  extract_lets s1 s2 s3
  have h2 : (s2.frame old).dirty = 0 := by rw [frame_updFrame_self]
  have h3 : (s3.frame old).dirty = 0 := by
    refine iteInduction (motive := fun x : State => (x.frame old).dirty = 0) (fun _ => ?_) (fun _ => h2)
    refine leaveRemote_dirty ?_
    rw [frame_of_tables (Stored.setMasks s2 _ _ _).tables, h2]
  rw [State.beginForwarding, frame_updFrame_self]
  exact ⟨rfl, rfl, rfl, rfl, h3⟩

/-! ## The instructions -/

theorem rangeTrap_none {start : DWord} {n : Nat} (hs : start.toNat % 4096 = 0) (hn : n % 4096 = 0) (hmax : n ≤ 2 ^ 28) :
    rangeTrap start n = none := by
  have hle : ¬ n > 0x10000000 := Nat.not_lt.mpr hmax
  rw [rangeTrap, if_neg (by simp [hs, hn]), if_neg hle]

theorem noteStore_unparked {b : State} {wid t : Nat} (h : (b.warp wid).parkedSince = none) :
    ((b.noteStore wid t).warp wid).parkedSince = none := (Noted.noteStore wid b t).unparked h

theorem shadow_completes {s b : State} {f : Fields} (hi : Issuing (.shadow f) f s) (hne : (s.ctx f).active ≠ 0)
    (hr : rangeTrap (rangeStart (s.ctx f) f) (rangeLen (s.ctx f) f) = none)
    (htrap : shadowRangeTrap s (s.ctx f).w.tenant (s.ctx f).w.gcore (rangePages (rangeStart (s.ctx f) f) (rangeLen (s.ctx f) f)) = none)
    (hmig : anyMig s (s.ctx f).w.tenant (rangePages (rangeStart (s.ctx f) f) (rangeLen (s.ctx f) f)) = false)
    (hgive : giveShadows s (s.ctx f).w.tenant (s.ctx f).w.gcore f.mod5 (rangePages (rangeStart (s.ctx f) f) (rangeLen (s.ctx f) f)) = .ok b)
    (hp : (b.warp (s.ctx f).wid).parkedSince = none) :
    ∃ t, exec (.shadow f) s = .next t ∧ CompletedNext (b.noteStore (s.ctx f).wid b.gt) (s.ctx f) (fun _ => []) id t := by
  obtain ⟨t, ht, hdone⟩ := finish_doneAll (i := .shadow f) (c := s.ctx f) (b := b.noteStore (s.ctx f).wid b.gt) hi.split
    (noteStore_unparked hp)
  refine ⟨t, ?_, hdone⟩
  have hx : exec (.shadow f) s = execShadow f s := rfl
  rw [hx, execShadow, performWarp_active hi hne, perform_first hi, ← ht]
  simp only [hr, htrap, hmig, hgive, Bool.false_eq_true, if_false]

theorem publish_completes {s b : State} {f : Fields} {h : Nat} (hi : Issuing (.publish f) f s) (hne : (s.ctx f).active ≠ 0)
    (hr : rangeTrap (rangeStart (s.ctx f) f) (rangeLen (s.ctx f) f) = none)
    (hall : ∀ v ∈ rangePages (rangeStart (s.ctx f) f) (rangeLen (s.ctx f) f), (s.shadowOf (s.ctx f).w.tenant v).isSome = true)
    (hord : s.storesComplete (s.ctx f).wid = true)
    (hpub : s.publishable (s.ctx f).w.tenant (rangePages (rangeStart (s.ctx f) f) (rangeLen (s.ctx f) f)) = true)
    (hb : s.publishPages (s.ctx f).w.tenant (rangePages (rangeStart (s.ctx f) f) (rangeLen (s.ctx f) f)) = (b, h))
    (hp : (b.warp (s.ctx f).wid).parkedSince = none) :
    ∃ t, exec (.publish f) s = .next t ∧ CompletedNext (((rangePages (rangeStart (s.ctx f) f) (rangeLen (s.ctx f) f)).foldl
      (fun s' v => s'.dropStale (s.ctx f).w.gcore (s.ctx f).w.tenant v) b).noteStore (s.ctx f).wid h) (s.ctx f) (fun _ => []) id t := by
  set vs := rangePages (rangeStart (s.ctx f) f) (rangeLen (s.ctx f) f) with hvs
  have hfirst : firstUnshadowed s (s.ctx f).w.tenant vs = none := by
    rw [firstUnshadowed, List.find?_eq_none]
    intro v hv hn
    have h1 := hall v hv
    rw [Option.isNone_iff_eq_none.mp hn] at h1
    cases h1
  have hstale : ((vs.foldl (fun s' v => s'.dropStale (s.ctx f).w.gcore (s.ctx f).w.tenant v) b).warp (s.ctx f).wid).parkedSince = none :=
    List.foldlRecOn (motive := fun x : State => (x.warp (s.ctx f).wid).parkedSince = none) vs _ hp (fun _ hx _ _ => hx)
  obtain ⟨t, ht, hdone⟩ := finish_doneAll (i := .publish f) (c := s.ctx f) (b := (vs.foldl
    (fun s' v => s'.dropStale (s.ctx f).w.gcore (s.ctx f).w.tenant v) b).noteStore (s.ctx f).wid h) hi.split (noteStore_unparked hstale)
  refine ⟨t, ?_, hdone⟩
  have hx : exec (.publish f) s = execPublish f s := rfl
  rw [hx, execPublish, performWarp_active hi hne, perform_first hi, ← ht]
  simp only [hr, ← hvs, hfirst, releasing_ordered (fun _ => hord), hpub, if_true, hb]

theorem walk_dram {s : State} {t v a : Nat} {w0 w1 : DWord} (h : s.leafOf t v = some (a, w0, w1)) (hk : Leaf.kind w0 = 0) :
    s.walk t (v * 4096) = .leaf a w0 w1 := by
  unfold State.leafOf at h
  rw [State.walk]
  cases hr : s.rawWalk t (v * 4096) with
  | leaf a' w0' w1' =>
    rw [hr] at h
    cases h
    simp only [hk]
    rfl
  | noMapping => rw [hr] at h; cases h
  | forbidden => rw [hr] at h; cases h
  | hole x => rw [hr] at h; cases h

theorem takeFrom_nonempty {s : State} {cols : List Nat} {fid : Nat} (h : s.takeFrom cols = some fid) : cols.isEmpty = false := by
  cases cols with
  | nil => cases h
  | cons c cs => rfl

/-- A page of DRAM kind that its tenant may write passes the checks of R297. -/
theorem shadowTrap_dram {s : State} {t v a gcore fid : Nat} {w0 w1 : DWord} (hv : v < 2 ^ 44) (hleaf : s.leafOf t v = some (a, w0, w1))
    (hkind : Leaf.kind w0 = 0) (hshr : Leaf.shr w0 = false) (hsup : Leaf.sup w0 = false) (hw : Leaf.w w0 = true)
    (hown : s.ownsChannel t w1.toNat = true) (hnone : s.shadowOf t v = none) (hquota : s.framesOf t < (s.tenant t).frameq)
    (hfid : s.takeFrom (s.ownedCols t (State.shadowSilo w0 gcore)) = some fid) (row : Nat) : shadowTrap s t gcore row v 0 = none := by
  have hpage : pageWritable s t v w0 w1 = true := by
    have hg : s.grantee t v w0 = false := by rw [State.grantee, hshr, Bool.and_false, Bool.false_and]
    simp only [pageWritable, hkind, hg, Bool.false_eq_true, if_false, hown, hw, hsup, Bool.not_false, Bool.true_or, Bool.and_self]
  have hframes : ¬ s.framesOf t + 0 + 1 > (s.tenant t).frameq := by omega
  rw [shadowTrap, if_neg (Nat.not_le.mpr hv), walk_dram hleaf hkind]
  simp only [hpage, Bool.not_true, Bool.and_false, Bool.false_eq_true, if_false, hnone, Option.isSome_none, hframes, decide_false,
    takeFrom_nonempty hfid, Bool.or_self]

theorem anyMig_one {s : State} {t v a : Nat} {w0 w1 : DWord} (h : s.leafOf t v = some (a, w0, w1)) (hm : Leaf.mig w0 = false) :
    anyMig s t [v] = false := by
  simp only [anyMig, List.any_cons, List.any_nil, Bool.or_false, h, hm]

theorem gwct_noteStore_served {s b : State} (h : Served s b) (wid t : Nat) :
    ((b.noteStore wid t).warp wid).gwct = max (s.warp wid).gwct t := by rw [gwct_noteStore, h.warp]

theorem rangePages_one (start : DWord) : rangePages start 4096 = [start.toNat / 4096] := rfl

theorem raw64_of_mem {s t : State} (h : t.mem = s.mem) (p : Nat) : t.raw64 p = s.raw64 p :=
  raw64_of_cells (congrArg Mem.cells h) (congrArg Mem.ecc h) p

theorem shadowOf_of_tables {s t : State} (h : t.tables = s.tables) (tenant v : Nat) : t.shadowOf tenant v = s.shadowOf tenant v := by
  rw [State.shadowOf, h]
  rfl

/-- SHADOW of one page (R297). -/
theorem shadow_page {s : State} {f : Fields} {v a fid : Nat} {w0 w1 : DWord} (hi : Issuing (.shadow f) f s) (hne : (s.ctx f).active ≠ 0)
    (hr : rangeTrap (rangeStart (s.ctx f) f) (rangeLen (s.ctx f) f) = none)
    (hpages : rangePages (rangeStart (s.ctx f) f) (rangeLen (s.ctx f) f) = [v])
    (hleaf : s.leafOf (s.ctx f).w.tenant v = some (a, w0, w1)) (hmig : Leaf.mig w0 = false)
    (htrap : ∀ row, shadowTrap s (s.ctx f).w.tenant (s.ctx f).w.gcore row v 0 = none)
    (hnone : s.shadowOf (s.ctx f).w.tenant v = none)
    (hfid : s.takeFrom (s.ownedCols (s.ctx f).w.tenant (State.shadowSilo w0 (s.ctx f).w.gcore)) = some fid)
    (hlines : f.mod5 = true → ∀ i < 16, ∀ e, s.dirEntry? (w1.toNat / 256 + i) = some e → e.state = .shared ∨ e.owner = s.net.pkg) :
    ∃ b t, exec (.shadow f) s = .next t ∧ CompletedNext b (s.ctx f) (fun _ => []) id t ∧
      b.frame fid = { state := .filling, role := .shadow, owner := (s.ctx f).w.tenant, vpn := v, backing := w1.toNat
                      valid := if f.mod5 then 0 else BitVec.allOnes 64 } ∧
      b.raw64 a = Leaf.withBit w0 7 true ∧
      b.shadowOf (s.ctx f).w.tenant v = some { tenant := (s.ctx f).w.tenant, vpn := v, fid, copy := f.mod5, filled := 0 } ∧
      (b.warp (s.ctx f).wid).gwct = max (s.ctx f).w.gwct s.gt := by
  have hgive : s.giveShadow (s.ctx f).w.tenant v (s.ctx f).w.gcore f.mod5 =
      some (shadowGiven s (s.ctx f).w.tenant v a fid w0 w1 f.mod5) := by
    rw [giveShadow_eq hleaf hfid]
    split
    case isTrue hc =>
      rw [copyForeign_none (fun i hi' e he => ?_)]
      rw [State.dirEntry?, net_shadowGiven] at he
      rw [net_shadowGiven]
      exact hlines hc i hi' e he
    case isFalse => rfl
  have hserved := Served.giveShadow hgive
  have hframe := frame_shadowGiven s (s.ctx f).w.tenant v a fid w0 w1 f.mod5
  have hraw := raw64_shadowGiven s (s.ctx f).w.tenant v a fid w0 w1 f.mod5
  have hshadow := shadowOf_shadowGiven hnone a fid w0 w1 f.mod5
  generalize shadowGiven s (s.ctx f).w.tenant v a fid w0 w1 f.mod5 = b at hgive hserved hframe hraw hshadow
  have hrange : shadowRangeTrap s (s.ctx f).w.tenant (s.ctx f).w.gcore [v] = none := by
    simp only [shadowRangeTrap, List.zipIdx_cons, List.zipIdx_nil, List.findSome?_cons, List.findSome?_nil, htrap, Option.map_none]
  obtain ⟨t, ht, hdone⟩ := shadow_completes hi hne hr (by rw [hpages]; exact hrange) (by rw [hpages]; exact anyMig_one hleaf hmig)
    (b := b) (by rw [hpages]; simp only [giveShadows, hgive]) (by rw [hserved.warp]; exact hi.unparked)
  have htables : (b.noteStore (s.ctx f).wid b.gt).tables = b.tables := rfl
  have hmem : (b.noteStore (s.ctx f).wid b.gt).mem = b.mem := rfl
  refine ⟨_, t, ht, hdone, ?_, ?_, ?_, ?_⟩
  · rw [frame_of_tables htables, hframe]
  · rw [raw64_of_mem hmem, hraw]
  · rw [shadowOf_of_tables htables, hshadow]
  · rw [gwct_noteStore_served hserved, hserved.gt]
    rfl

/-- What PUBLISH leaves of one page, its shadow and what held it (R335). -/
structure PagePublished (s : State) (t v a : Nat) (w0 w1 : DWord) (fid : Nat) (b : State) : Prop where
  frame : (b.frame fid).state = .mapped ∧ (b.frame fid).role = .page ∧ (b.frame fid).valid = BitVec.allOnes 64 ∧
    (b.frame fid).dirty = BitVec.allOnes 64
  shadow : b.shadowOf t v = none
  entry : b.raw64 a = Leaf.withBit (Leaf.withTarget w0 1 fid) 7 false
  old : if Leaf.kind w0 = 1 then
      let old := b.frame (Leaf.target w0)
      old.state = .forwarding ∧ old.fwd = fid ∧ old.horizon = s.horizon t v ∧ old.published = true ∧ old.dirty = 0
    else ∃ x ∈ b.tables.forwards, x.page = w1.toNat / 4096 ∧ x.fid = fid ∧ x.horizon = s.horizon t v ∧ x.published = true

theorem publishEnd_page {x : State} {t v a : Nat} {w0 : DWord} {fid : Nat} :
    ((publishEnd x t v a w0 fid).frame fid).state = .mapped ∧ ((publishEnd x t v a w0 fid).frame fid).role = .page ∧
    ((publishEnd x t v a w0 fid).frame fid).valid = BitVec.allOnes 64 ∧ ((publishEnd x t v a w0 fid).frame fid).dirty = BitVec.allOnes 64 := by
  rw [frame_publishEnd, frame_updFrame_self]
  exact ⟨rfl, rfl, rfl, rfl⟩

theorem publishPage_page {s b : State} {t v a h : Nat} {w0 w1 : DWord} {sh : Shadow} (hleaf : s.leafOf t v = some (a, w0, w1))
    (hsh : s.shadowOf t v = some sh) (hkind : Leaf.kind w0 = 0 ∨ Leaf.kind w0 = 1 ∧ Leaf.target w0 ≠ sh.fid)
    (hb : s.publishPage t v = (b, h)) : h = s.horizon t v ∧ PagePublished s t v a w0 w1 sh.fid b := by
  rw [publishPage_eq hleaf hsh] at hb
  obtain ⟨rfl, rfl⟩ := Prod.mk.inj hb
  refine ⟨rfl, publishEnd_page, shadowOf_dropShadow _ _ _, raw64_publishEnd _ _ _ _ _ _, ?_⟩
  rcases hkind with hk | ⟨hk, hne⟩
  · have hk1 : (Leaf.kind w0 == 1) = false := by rw [hk]; rfl
    rw [if_neg (by rw [hk]; decide), hk1, forwards_publishEnd]
    exact ⟨_, List.mem_append_right _ (List.mem_singleton.mpr rfl), rfl, rfl, rfl, rfl⟩
  · have hk1 : (Leaf.kind w0 == 1) = true := by rw [hk]; rfl
    rw [if_pos hk, hk1, frame_publishEnd, frame_updFrame_other _ hne]
    exact frame_retireFrame _ _ _ _

theorem PagePublished.of_kept {s b x : State} {t v a : Nat} {w0 w1 : DWord} {fid : Nat} (h : PagePublished s t v a w0 w1 fid b)
    (ht : x.tables = b.tables) (hm : x.mem = b.mem) : PagePublished s t v a w0 w1 fid x := by
  refine ⟨?_, ?_, ?_, ?_⟩
  · rw [frame_of_tables ht]; exact h.frame
  · rw [shadowOf_of_tables ht]; exact h.shadow
  · rw [raw64_of_mem hm]; exact h.entry
  · rw [frame_of_tables ht, ht]; exact h.old

/-- PUBLISH of one page (R299, R335). -/
theorem publish_page {s : State} {f : Fields} {v a : Nat} {w0 w1 : DWord} {sh : Shadow} (hi : Issuing (.publish f) f s)
    (hne : (s.ctx f).active ≠ 0) (hr : rangeTrap (rangeStart (s.ctx f) f) (rangeLen (s.ctx f) f) = none)
    (hpages : rangePages (rangeStart (s.ctx f) f) (rangeLen (s.ctx f) f) = [v])
    (hleaf : s.leafOf (s.ctx f).w.tenant v = some (a, w0, w1)) (hmig : Leaf.mig w0 = false)
    (hkind : Leaf.kind w0 = 0 ∨ Leaf.kind w0 = 1 ∧ Leaf.target w0 ≠ sh.fid) (hsh : s.shadowOf (s.ctx f).w.tenant v = some sh)
    (hord : s.storesComplete (s.ctx f).wid = true) (hfwd : Leaf.kind w0 = 0 → s.forwardsOn w1.toNat < 64)
    (hremote : pkgOf w1.toNat = s.net.pkg ∨ s.remoteWaits w1.toNat = false) :
    ∃ b t, exec (.publish f) s = .next t ∧ CompletedNext b (s.ctx f) (fun _ => []) id t ∧
      PagePublished s (s.ctx f).w.tenant v a w0 w1 sh.fid b ∧
      (b.warp (s.ctx f).wid).gwct = max (s.ctx f).w.gwct (max (s.horizon (s.ctx f).w.tenant v) s.gt) := by
  have hpub : s.publishable (s.ctx f).w.tenant [v] = true := by
    have hremote' : (pkgOf w1.toNat == s.net.pkg || !s.remoteWaits w1.toNat) = true := by
      rcases hremote with h | h <;> simp [h]
    have hfwd' : (Leaf.kind w0 != 0 || decide (s.forwardsOn w1.toNat < 64)) = true := by
      by_cases hk : Leaf.kind w0 = 0
      · simp [hk, hfwd hk]
      · simp [hk]
    simp only [State.publishable, List.all_cons, List.all_nil, Bool.and_true, hleaf, hmig, Bool.not_false, hfwd', hremote']
  have hserved := Served.publishPage s (s.ctx f).w.tenant v
  obtain ⟨b, h, hb⟩ : ∃ b h, s.publishPage (s.ctx f).w.tenant v = (b, h) := ⟨_, _, rfl⟩
  obtain ⟨rfl, hpage⟩ := publishPage_page hleaf hsh hkind hb
  rw [hb] at hserved
  have hgt : b.gt = s.gt := hserved.gt
  obtain ⟨t, ht, hdone⟩ := publish_completes hi hne hr (b := b) (h := max (s.horizon (s.ctx f).w.tenant v) s.gt)
    (by rw [hpages]; intro u hu; rw [List.mem_singleton.mp hu]; exact Option.isSome_iff_exists.mpr ⟨sh, hsh⟩) hord
    (by rw [hpages]; exact hpub) (by rw [hpages]; simp only [State.publishPages, hb, hgt])
    (by rw [hserved.warp]; exact hi.unparked)
  rw [hpages] at hdone
  refine ⟨_, t, ht, hdone, hpage.of_kept rfl rfl, ?_⟩
  have hstale : ∀ i, ((b.dropStale (s.ctx f).w.gcore (s.ctx f).w.tenant v).warp i) = b.warp i := fun _ => rfl
  rw [List.foldl_cons, List.foldl_nil, gwct_noteStore, hstale, hserved.warp]
  rfl

/-- Settles O37: the checks of R297 and R299 pass, and the pages change one after another. -/
theorem shadowPublishResults : Obligations.ShadowPublishResults := by
  unfold Obligations.ShadowPublishResults
  refine ⟨?_, ?_⟩
  · intro s b f h c start n vs hne hs hn hmax hp
    have hr : rangeTrap (rangeStart c f) (rangeLen c f) = none := rangeTrap_none hs hn hmax
    exact ⟨fun hi htrap hmig hgive => shadow_completes hi hne hr htrap hmig hgive hp,
      fun hi hall hord hpub hb => publish_completes hi hne hr hall hord hpub hb hp⟩
  · intro s f a fid w0 w1 sh c t' start v hne hs hrange hlen hleaf hmig
    have hn : rangeLen c f = 4096 := congrArg BitVec.toNat hlen
    have hpages : rangePages (rangeStart c f) (rangeLen c f) = [v] := by rw [hn, rangePages_one]; rfl
    have hr : rangeTrap (rangeStart c f) (rangeLen c f) = none := rangeTrap_none hs (by rw [hn]) (by rw [hn]; decide)
    have hv : v < 2 ^ 44 := Nat.div_lt_of_lt_mul hrange
    refine ⟨fun hi hkind hshr hsup hw hown hnone hquota hfid hlines => ?_, fun hi hkind hsh hord hfwd hremote => ?_⟩
    · have hsilo : s.takeFrom (s.ownedCols t' (State.shadowSilo w0 c.w.gcore)) = some fid := by
        rw [State.shadowSilo, hkind]
        exact hfid
      exact shadow_page hi hne hr hpages hleaf hmig (shadowTrap_dram hv hleaf hkind hshr hsup hw hown hnone hquota hsilo) hnone hsilo hlines
    · obtain ⟨b, t, ht, hdone, ⟨hframe, hshadow, hentry, hold⟩, hgwct⟩ :=
        publish_page hi hne hr hpages hleaf hmig hkind hsh hord hfwd hremote
      obtain ⟨hstate, hrole, hvalid, hdirty⟩ := hframe
      exact ⟨b, t, ht, hdone, hstate, hrole, hvalid, hdirty, hshadow, hentry, hgwct, hold⟩

end Sys2Proof.Machine
end

section
/-! # Proofs: PLACE, REPL and PROBE (R220, R341, R342) -/

namespace Sys2Proof.Machine

/-! ## The lanes of PLACE and REPL -/

theorem placeLane_writes (s : State) (c : Ctx) (i : Instr) (f : Fields) (l : Nat) (o : LaneOutcome)
    (h : (placeLane s c i f l).2 = some o) : WritesInRange o := by
  have hdone : ∀ b, WritesInRange (.done (dstP f.dst b) none) := fun b => WritesInRange.done (inRange_dstP _ _) _
  unfold placeLane at h
  extract_lets va r answer s1 at h
  split at h
  · cases h; exact hdone _
  · split at h
    · cases h
      intro _ _ e
      cases e
    · extract_lets silo at h
      split at h
      · cases h
      · split at h
        case h_4 => cases h
        all_goals
          cases h
          exact hdone _

/-- Each lane of PLACE and REPL that has an outcome has it in its turn. -/
theorem placeLanes_outs (c : Ctx) (i : Instr) (f : Fields) (ls : List Nat) (p : Performed) :
    ∃ xs, (placeLanes c i f p ls).outs = p.outs ++ xs ∧ xs.map (·.1) = ls.take xs.length ∧ ∀ x ∈ xs, WritesInRange x.2 := by
  induction ls generalizing p with
  | nil => exact ⟨[], (List.append_nil _).symm, rfl, fun x hx => absurd hx List.not_mem_nil⟩
  | cons l ls ih =>
    have hcons : ∀ (q : Performed) (o : LaneOutcome), q.outs = p.outs ++ [(l, o)] → WritesInRange o →
        ∃ xs, (placeLanes c i f q ls).outs = p.outs ++ xs ∧ xs.map (·.1) = (l :: ls).take xs.length ∧ ∀ x ∈ xs, WritesInRange x.2 := by
      intro q o hq ho
      obtain ⟨xs, h1, h2, h3⟩ := ih q
      refine ⟨(l, o) :: xs, ?_, ?_, ?_⟩
      · rw [h1, hq, List.append_assoc]; rfl
      · rw [List.map_cons, h2, List.length_cons, List.take_succ_cons]
      · intro x hx
        rcases List.mem_cons.mp hx with rfl | hx
        · exact ho
        · exact h3 x hx
    have hstop : ∀ s : State, ∃ xs, ({ p with s } : Performed).outs = p.outs ++ xs ∧ xs.map (·.1) = (l :: ls).take xs.length ∧
        ∀ x ∈ xs, WritesInRange x.2 :=
      fun _ => ⟨[], (List.append_nil _).symm, rfl, fun x hx => absurd hx List.not_mem_nil⟩
    have hnone : ∀ o : LaneOutcome, (∀ ws d, o ≠ .done ws d) → WritesInRange o := fun o h ws d e => absurd e (h ws d)
    rw [placeLanes]
    split
    · exact hcons _ _ rfl (hnone _ (fun _ _ => by simp))
    · exact hcons _ _ rfl (hnone _ (fun _ _ => by simp))
    · exact hstop _
    · exact hcons _ _ rfl (WritesInRange.done (inRange_dstP _ _) _)
    · split
      case h_1 x s1 o heq => exact hcons _ _ rfl (placeLane_writes _ _ _ _ _ o (by rw [heq]))
      case h_2 => exact hstop _

/-- PLACE or REPL, once every lane has its answer. -/
theorem place_completes {i : Instr} {s : State} {f : Fields} {q : Performed} {ws : List (Nat × List RegWrite)} (hi : Issuing i f s)
    (hbody : exec i s = finish i (s.ctx f) (placeAll (s.ctx f) s i f))
    (hq : placeLanes (s.ctx f) i f { s } (s.ctx f).active.lanes = q) (houts : q.outs = completedLanes ws)
    (hlen : ws.length = (s.ctx f).active.lanes.length) (hp : (q.s.warp (s.ctx f).wid).parkedSince = none) :
    ∃ t, exec i s = .next t ∧ CompletedNext q.s (s.ctx f) (writesOf ws) id t := by
  obtain ⟨xs, hxs, hkeys, hw⟩ := placeLanes_outs (s.ctx f) i f (s.ctx f).active.lanes { s }
  have hxs' : xs = completedLanes ws := by rw [← houts, ← hq, hxs]; rfl
  subst hxs'
  have hlen' : (completedLanes ws).length = (s.ctx f).active.lanes.length := (List.length_map _).trans hlen
  have hlanes : ws.map (·.1) = (s.ctx f).active.lanes := by
    rw [hlen', List.take_length, completedLanes, List.map_map] at hkeys
    exact hkeys
  obtain ⟨t, ht, hdone⟩ := finish_completes (i := i) (c := s.ctx f) (dest := fun _ => none) (ws := writesOf ws)
    (r := { s := q.s, outs := completedLanes ws }) hi.split hp
    (fun l hl => hw (l, .done (writesOf ws l) none) (List.mem_map.mpr ⟨_, writesOf_mem hlanes hl, rfl⟩) _ _ rfl)
    (completedLanes_eq hlanes) rfl rfl rfl rfl rfl rfl
  refine ⟨t, ?_, hdone⟩
  rw [hbody, placeAll, hq, ← ht]
  simp only [houts, hlen', if_true]

/-- Settles O39: the answers of PLACE and REPL, and what PROBE shows. -/
theorem placeAndProbeResults : Obligations.PlaceAndProbeResults := by
  unfold Obligations.PlaceAndProbeResults
  intro s f q ws c fid named
  refine ⟨fun p hp hi hq houts hlen hpark => ?_, fun i l a w0 w1 hva => ?_, fun hi hva => ?_, fun hi hsup => ?_⟩
  · rcases List.mem_cons.mp hp with rfl | hp
    · have hx : exec (.place f) s = execPlace f s := rfl
      exact place_completes hi (by rw [hx, execPlace, perform_first hi]) hq houts hlen hpark
    · rw [List.mem_singleton.mp hp] at hi hq ⊢
      have hx : exec (.repl f) s = execRepl f s := rfl
      exact place_completes hi (by rw [hx, execRepl, perform_first hi]) hq houts hlen hpark
  · intro r q silo hleaf hroom hwork
    have hvn : ¬ (c.w.addr l f).toNat ≥ 2 ^ 56 := Nat.not_le.mpr hva
    rw [placeLane, if_neg hvn]
    dsimp only
    rw [show (s.checkWalk (gleanerReq s c i f l).tenant (4096 * (gleanerReq s c i f l).vpn)).leafOf (gleanerReq s c i f l).tenant
      (gleanerReq s c i f l).vpn = some (a, w0, w1) from hleaf]
    dsimp only
    rw [if_neg (Nat.not_le.mpr hroom)]
    simp only [show requestAnswer (s.checkWalk (gleanerReq s c i f l).tenant (4096 * (gleanerReq s c i f l).vpn))
      (gleanerReq s c i f l) w0 = .work from hwork]
    rfl
  · intro b hp
    have ha := hi.dst_aligned (i := .probe f) rfl rfl
    obtain ⟨t, ht, hdone⟩ := finish_completes (i := .probe f) (c := c) (dest := fun _ => none)
      (ws := fun l => dst128 f.dst (probePage s c.w.tenant c.w.gcore (c.w.addr l f).toNat))
      (r := { s := b, outs := doneOuts c.active (fun l => dst128 f.dst (probePage s c.w.tenant c.w.gcore (c.w.addr l f).toNat))
                (fun _ => none) }) hi.split hp
      (fun l _ => inRange_dst128 _ _ (fun n hn => aligned_v ha n hn)) rfl rfl rfl rfl rfl rfl rfl
    refine ⟨t, ?_, hdone⟩
    have hx : exec (.probe f) s = execProbe f s := rfl
    have houts : c.active.lanes.map (fun l => (l, if (c.w.addr l f).toNat ≥ 2 ^ 56 then LaneOutcome.trap Cause.permission (c.w.addr l f) 0
        else .done (dst128 f.dst (probePage s c.w.tenant c.w.gcore (c.w.addr l f).toNat)) none)) =
        doneOuts c.active (fun l => dst128 f.dst (probePage s c.w.tenant c.w.gcore (c.w.addr l f).toNat)) (fun _ => none) :=
      List.map_congr_left (fun l hl => by rw [if_neg (Nat.not_le.mpr (hva l (LaneMask.mem_lanes.mp hl)))])
    rw [hx, execProbe, perform_first hi, ← ht, ← houts]
  · have ha := hi.dst_aligned (i := .probeF f) rfl rfl
    obtain ⟨t, ht, hdone⟩ := finish_completes (i := .probeF f) (c := c) (dest := fun _ => none)
      (ws := fun l => dst128 f.dst (if named l then BitVec.ofNat 128 (probeFrame (s.frame (fid l))) else 0))
      (r := { s := s, outs := doneOuts c.active (fun l => dst128 f.dst (if named l then BitVec.ofNat 128 (probeFrame (s.frame (fid l))) else 0))
                (fun _ => none) }) hi.split hi.unparked
      (fun l _ => inRange_dst128 _ _ (fun n hn => aligned_v ha n hn)) rfl rfl rfl rfl rfl rfl rfl
    refine ⟨t, ?_, hdone⟩
    have hx : exec (.probeF f) s = execProbeF f s := rfl
    have hpass : ∀ l, c.active.has l = true → (!c.w.supervisor && (!named l || (s.frame (fid l)).owner != c.w.tenant)) = false := by
      intro l hl
      rcases hsup with h | h
      · rw [h]; rfl
      · rw [(h l hl).1, (h l hl).2, bne_self_eq_false, Bool.not_true, Bool.or_self, Bool.and_false]
    have houts : c.active.lanes.map (fun l => (l, if !c.w.supervisor && (!named l || (s.frame (fid l)).owner != c.w.tenant) then
        LaneOutcome.trap Cause.permission 0 0
        else .done (dst128 f.dst (if named l then BitVec.ofNat 128 (probeFrame (s.frame (fid l))) else 0)) none)) =
        doneOuts c.active (fun l => dst128 f.dst (if named l then BitVec.ofNat 128 (probeFrame (s.frame (fid l))) else 0)) (fun _ => none) :=
      List.map_congr_left (fun l hl => by rw [hpass l (LaneMask.mem_lanes.mp hl)]; rfl)
    rw [hx, execProbeF, perform_first hi, ← ht, ← houts]

end Sys2Proof.Machine
end

section
/-! # Proofs: barriers and the recall of translations (R340, R374 to R380) -/

namespace Sys2Proof.Machine

/-! ## Walks read memory, links and partitions alone (R323) -/

theorem walkFrom_congr {s t : State} (hm : t.mem = s.mem) (hl : t.loft = s.loft) (hn : t.net = s.net) (tenant va : Nat) (levels : List Nat)
    (table : Nat) : t.walkFrom tenant va levels table = s.walkFrom tenant va levels table := by
  have hown : ∀ a, t.ownsChannel tenant a = s.ownsChannel tenant a := fun a => by
    simp only [State.ownsChannel, State.partOf, State.partition, State.tenant, hl]
  have hlocal : ∀ a, t.local_ a = s.local_ a := fun a => by rw [State.local_, hn]; rfl
  have hraw : ∀ a, t.raw64 a = s.raw64 a := raw64_of_mem hm
  induction levels generalizing table with
  | nil => simp only [State.walkFrom, hown, hlocal, hraw]
  | cons sh rest ih => simp only [State.walkFrom, hown, hlocal, hraw, ih]

theorem leafOf_congr {s t : State} (hm : t.mem = s.mem) (hl : t.loft = s.loft) (hn : t.net = s.net) (tenant v : Nat) :
    t.leafOf tenant v = s.leafOf tenant v := by
  have hroot : (t.tenant tenant).ptroot = (s.tenant tenant).ptroot := by simp only [State.tenant, hl]
  simp only [State.leafOf, State.rawWalk, hroot, walkFrom_congr hm hl hn]

theorem anyMig_congr {s t : State} (hm : t.mem = s.mem) (hl : t.loft = s.loft) (hn : t.net = s.net) (tenant : Nat) (vs : List Nat) :
    anyMig t tenant vs = anyMig s tenant vs := by
  simp only [anyMig, leafOf_congr hm hl hn]

/-! ## Retirement with what it does to the warp -/

theorem rob_retired (w : Warp) (pc : DWord) (lanes active : LaneMask) (ws : Nat → List RegWrite) (dest : Nat → Option DWord) (once : Bool)
    (flags : FpFlags) : (((w.writeDone (doneOuts active ws dest)).advance pc lanes active (doneOuts active ws dest) once).raise flags).rob =
      w.rob := by
  rw [advance_rest, writeDone_done]
  split
  · rfl
  · rw [writeK_rest, writeLanes_rest]
    rfl

/-- What an entry does to a warp with no unretired entry counts only there. -/
theorem retire_own_congr {b : State} {wid : Nat} {pc : DWord} {word : BitVec 96} {lanes active : LaneMask} {ws : Nat → List RegWrite}
    {dest : Nat → Option DWord} {flags : FpFlags} {g h : Warp → Warp} (hrob : (b.warp wid).rob = []) (hgh : ∀ w, w.rob = [] → g w = h w) :
    b.retire wid pc word lanes active (doneOuts active ws dest) flags g = b.retire wid pc word lanes active (doneOuts active ws dest) flags h := by
  have e := hgh _ ((rob_retired (b.warp wid) pc lanes active ws dest (actsOnce word) flags).trans hrob)
  simp only [State.retire, State.updWarp, e]

/-! ## TCINV and TCRCL (R340) -/

theorem recallTrap_none {start : DWord} {n : Nat} (hs : start.toNat % 4096 = 0) (hn : n % 4096 = 0) (hmax : n ≤ 2 ^ 28)
    (hend : start.toNat + n ≤ 2 ^ 56) : recallTrap start n = none := by
  have hle : ¬ n > 0x10000000 := Nat.not_lt.mpr hmax
  rw [recallTrap, if_neg (by simp [hs, hn]), if_neg (Nat.not_lt.mpr hend), if_neg hle]

theorem performThrough_none {s : State} {t : Nat} {p : Nat → Bool} (h : s.leftThrough t p = []) : s.performThrough t p = s := by
  rw [State.performThrough, h]
  rfl

/-- Lines of a range that a warp has fetched fall away. -/
def dropLines (start : DWord) (n : Nat) (w : Warp) : Warp :=
  { w with lines := w.lines.filter (fun x => !(start.toNat ≤ x.1.toNat && x.1.toNat < start.toNat + n)) }

theorem Own.dropLines (start : DWord) (n : Nat) : Own (dropLines start n) :=
  ⟨fun _ _ _ _ _ _ => rfl, fun _ => rfl, fun _ => rfl, fun _ => rfl⟩

theorem refetch_empty {w : Warp} (h : w.rob = []) : w.refetch = w := by
  have hd : w.discard [] = w := rfl
  have hrob : ∀ r, w.rob = r → { w with rob := r } = w := by
    rintro _ rfl
    rfl
  rw [Warp.refetch, h, hd, hrob [] h]

theorem tcinv_completes {s : State} {f : Fields} (hi : Issuing (.tcinv f) f s) (hne : (s.ctx f).active ≠ 0)
    (hr : recallTrap (rangeStart (s.ctx f) f) (rangeLen (s.ctx f) f) = none)
    (hleft : s.leftThrough (s.ctx f).w.tenant (inPages ((rangeStart (s.ctx f) f).toNat / 4096) (rangeLen (s.ctx f) f / 4096)) = []) :
    ∃ t, exec (.tcinv f) s = .next t ∧ CompletedNext
      ((s.updCore (s.ctx f).w.gcore (fun x => { x with tcache := x.tcache.filter (fun y =>
          !y.inRange (s.ctx f).w.tenant ((rangeStart (s.ctx f) f).toNat / 4096) (rangeLen (s.ctx f) f / 4096)) })).updDie
        (dieOf (s.ctx f).w.gcore) (fun d => { d with ftcache := d.ftcache.filter (fun y =>
          !y.inRange (s.ctx f).w.tenant ((rangeStart (s.ctx f) f).toNat / 4096) (rangeLen (s.ctx f) f / 4096)) })) (s.ctx f)
      (fun _ => []) (dropLines (rangeStart (s.ctx f) f) (rangeLen (s.ctx f) f)) t := by
  set b := (s.updCore (s.ctx f).w.gcore (fun x => { x with tcache := x.tcache.filter (fun y =>
      !y.inRange (s.ctx f).w.tenant ((rangeStart (s.ctx f) f).toNat / 4096) (rangeLen (s.ctx f) f / 4096)) })).updDie
    (dieOf (s.ctx f).w.gcore) (fun d => { d with ftcache := d.ftcache.filter (fun y =>
      !y.inRange (s.ctx f).w.tenant ((rangeStart (s.ctx f) f).toNat / 4096) (rangeLen (s.ctx f) f / 4096)) }) with hb
  obtain ⟨t, ht, hdone⟩ := finish_done (i := .tcinv f) (c := s.ctx f) (ws := fun _ => []) (dest := fun _ => none)
    (r := { s := b, outs := doneAll (s.ctx f), onWarp := dropLines (rangeStart (s.ctx f) f) (rangeLen (s.ctx f) f) })
    (by simp only [raise_zero]; exact Own.dropLines _ _) hi.split hi.unparked (fun _ _ => inRange_nil) rfl rfl rfl rfl rfl
  simp only [raise_zero] at hdone
  refine ⟨t, ?_, hdone⟩
  have hx : exec (.tcinv f) s = execTcinv f s := rfl
  rw [hx, execTcinv, performWarp_active hi hne, perform_first hi, ← ht]
  simp only [hr, performThrough_none hleft]
  have hrob : ((b.countIssue (s.ctx f).wid).warp (s.ctx f).wid).rob = [] := by
    rw [State.countIssue, State.warp_updWarp_self]
    exact hi.first
  simp only [finish, Bool.false_eq_true, if_false, if_true]
  exact congrArg _ (retire_own_congr (b := b.countIssue (s.ctx f).wid) (ws := fun _ => []) (dest := fun _ => none) hrob
    (fun w hw => by simp only [refetch_empty hw]; rfl))

theorem recallWhere_range {s : State} {t first pages : Nat} (h : anyMig s t ((List.range pages).map (fun i => first + i)) = false) :
    recallWhere s t (fun v => inPages first pages v && !anyMig s t [v]) = recallRange s t first pages := by
  have hp : (fun v => inPages first pages v && !anyMig s t [v]) = inPages first pages := by
    funext v
    by_cases hv : inPages first pages v = true
    · have hmem : v ∈ (List.range pages).map (fun i => first + i) := by
        simp only [inPages, Bool.and_eq_true, decide_eq_true_eq] at hv
        exact List.mem_map.mpr ⟨v - first, List.mem_range.mpr (by omega), by omega⟩
      have hone : anyMig s t [v] = false := by
        rw [anyMig, List.any_eq_false] at h
        simpa [anyMig] using h v hmem
      rw [hv, hone]
      rfl
    · simp only [Bool.not_eq_true] at hv
      rw [hv, Bool.false_and]
  rw [recallRange, hp]

theorem tcrcl_completes {s : State} {f : Fields} (hi : Issuing (.tcrcl f) f s) (hne : (s.ctx f).active ≠ 0)
    (hr : recallTrap (rangeStart (s.ctx f) f) (rangeLen (s.ctx f) f) = none) (hn : rangeLen (s.ctx f) f ≠ 0)
    (hord : s.storesComplete (s.ctx f).wid = true)
    (hleft : s.leftThrough f.auxHigh (inPages ((rangeStart (s.ctx f) f).toNat / 4096) (rangeLen (s.ctx f) f / 4096)) = [])
    (hmig : anyMig s f.auxHigh (rangePages (rangeStart (s.ctx f) f) (rangeLen (s.ctx f) f)) = false)
    (hadd : addendsThrough (recallRange s f.auxHigh ((rangeStart (s.ctx f) f).toNat / 4096) (rangeLen (s.ctx f) f / 4096)) f.auxHigh
      ((rangeStart (s.ctx f) f).toNat / 4096) (rangeLen (s.ctx f) f / 4096) = false) {b : State}
    (hb : b = (rangePages (rangeStart (s.ctx f) f) (rangeLen (s.ctx f) f)).foldl (fun x v => endHorizon x f.auxHigh v)
      (recallRange s f.auxHigh ((rangeStart (s.ctx f) f).toNat / 4096) (rangeLen (s.ctx f) f / 4096)))
    (hp : (b.warp (s.ctx f).wid).parkedSince = none) :
    ∃ t, exec (.tcrcl f) s = .next t ∧ CompletedNext b (s.ctx f) (fun _ => []) id t := by
  obtain ⟨t, ht, hdone⟩ := finish_doneAll (i := .tcrcl f) (c := s.ctx f) (b := b) hi.split hp
  refine ⟨t, ?_, hdone⟩
  have hx : exec (.tcrcl f) s = execTcrcl f s := rfl
  set q := recallRange s f.auxHigh ((rangeStart (s.ctx f) f).toNat / 4096) (rangeLen (s.ctx f) f / 4096) with hq
  have hmig' : anyMig q f.auxHigh (rangePages (rangeStart (s.ctx f) f) (rangeLen (s.ctx f) f)) = false := by
    rw [anyMig_congr (s := s) (t := q) rfl rfl rfl, hmig]
  have hleft' : q.leftThrough f.auxHigh (inPages ((rangeStart (s.ctx f) f).toNat / 4096) (rangeLen (s.ctx f) f / 4096)) = [] := hleft
  rw [hx, execTcrcl, performWarp_active hi hne, perform_first hi, ← ht]
  simp only [hr, hn, if_false, releasing_ordered (fun _ => hord), performThrough_none hleft, recallWhere_range hmig, ← hq, hmig', hadd, hleft',
    List.isEmpty_nil, Bool.not_true, Bool.or_self, Bool.false_eq_true, ← hb]

/-! ## Barriers (R374 to R380) -/

theorem noteOf_none {c : Ctx} (b : Barrier) (h : c.w.notes = []) : noteOf c b = none := by
  rw [noteOf, h]
  rfl

theorem none_or_else (x : Option Nat) : (none <|> x) = x := rfl

theorem arrive_counted {s : State} {id wid : Nat} {now : Barrier} (hb : s.barrier? id = some now) (hc : now.arr.contains wid = false) :
    s.arrive id wid none false = (s.updBarrier id (fun x => { x with arr := x.arr ++ [wid] }), some now.phase, false) := by
  simp only [State.arrive, hb, hc, Bool.false_eq_true, if_false, Bool.not_false, if_true]

/-- An instruction that arrives at a barrier, counted in the phase that it finds, and whose wait is over then. -/
theorem barrierInstr_arrives {i : Instr} {f : Fields} {s : State} {bar now : Barrier} {ws : List RegWrite} (hi : Issuing i f s)
    (harr : State.arrives i = true) (hne : (s.ctx f).active ≠ 0) (hbar : namedBarrier s (s.ctx f) f = some bar)
    (hbroken : bar.broken = false) (hnow : (s.completePhase bar.id).barrier? bar.id = some now)
    (hnotes : ((s.completePhase bar.id).warp (s.ctx f).wid).notes = []) (hnew : now.arr.contains (s.ctx f).wid = false)
    (hord : (s.completePhase bar.id).storesComplete (s.ctx f).wid = true) {t : State}
    (ht : t = ((dropNote (s.completePhase bar.id) (s.ctx f) bar).updBarrier bar.id
      (fun x => { x with arr := x.arr ++ [(s.ctx f).wid] })).completePhase bar.id)
    (hdone : ∀ phase, (∀ x, t.barrier? bar.id = some x → phase = x.phase) → State.barrierDone i (some now.phase) none phase = some ws) :
    barrierInstr i f s (fun _ => none) =
      finish i (s.ctx f) { s := t, outs := allLanes (s.ctx f).active (.done ws none) } := by
  rw [barrierInstr, performWarp_active hi hne, perform_first hi]
  congr 1
  have hn := noteOf_none (c := { s.ctx f with w := (s.completePhase bar.id).warp (s.ctx f).wid }) bar hnotes
  have hdrop : dropNote (s.completePhase bar.id) { s.ctx f with w := (s.completePhase bar.id).warp (s.ctx f).wid } bar =
      dropNote (s.completePhase bar.id) (s.ctx f) bar := rfl
  have harrive : (dropNote (s.completePhase bar.id) (s.ctx f) bar).arrive bar.id (s.ctx f).wid none false = _ :=
    arrive_counted (show (dropNote (s.completePhase bar.id) (s.ctx f) bar).barrier? bar.id = some now from hnow) hnew
  rw [hbar]
  dsimp only
  rw [hbroken]
  simp only [Bool.false_eq_true, if_false, hn, Option.isNone_none, Bool.not_false, Bool.and_true, Option.bind_none, harr, if_true]
  rw [releasing_ordered (c := { s.ctx f with w := (s.completePhase bar.id).warp (s.ctx f).wid }) (fun _ => hord), hdrop, harrive]
  dsimp only
  rw [← ht]
  cases hb : t.barrier? bar.id with
  | none =>
    have hd := hdone bar.phase (fun x hx => by rw [hb] at hx; cases hx)
    simp only [none_or_else, hd]
  | some x =>
    have hd := hdone x.phase (fun y hy => by rw [hb] at hy; cases hy; rfl)
    simp only [none_or_else, hd]

/-- BARW, whose phase has passed. -/
theorem barrierInstr_waits {i : Instr} {f : Fields} {s : State} {bar : Barrier} {target : Ctx → Option Nat} {n : Nat} (hi : Issuing i f s)
    (harr : State.arrives i = false) (hne : (s.ctx f).active ≠ 0) (hbar : namedBarrier s (s.ctx f) f = some bar)
    (hbroken : bar.broken = false) (hnotes : ((s.completePhase bar.id).warp (s.ctx f).wid).notes = []) {t : State}
    (htarget : target { s.ctx f with w := (s.completePhase bar.id).warp (s.ctx f).wid } = some n)
    (ht : t = (dropNote (s.completePhase bar.id) (s.ctx f) bar).completePhase bar.id) {x : Barrier} (hx : t.barrier? bar.id = some x)
    (hdone : State.barrierDone i none (some n) x.phase = some []) :
    barrierInstr i f s target = finish i (s.ctx f) { s := t, outs := doneAll (s.ctx f) } := by
  rw [barrierInstr, performWarp_active hi hne, perform_first hi]
  congr 1
  have hn := noteOf_none (c := { s.ctx f with w := (s.completePhase bar.id).warp (s.ctx f).wid }) bar hnotes
  have hdrop : dropNote (s.completePhase bar.id) { s.ctx f with w := (s.completePhase bar.id).warp (s.ctx f).wid } bar =
      dropNote (s.completePhase bar.id) (s.ctx f) bar := rfl
  rw [hbar]
  dsimp only
  rw [hbroken]
  simp only [Bool.false_eq_true, if_false, hn, Option.bind_none, harr, Bool.false_and]
  rw [releasing_ordered (c := { s.ctx f with w := (s.completePhase bar.id).warp (s.ctx f).wid }) (fun h => absurd h (by decide)), hdrop]
  rw [← ht, hx, htarget]
  simp only [none_or_else, hdone]
  rfl

/-- Settles O38: a barrier instruction arrives and finds its phase over or not, and what TCINV and TCRCL recall is gone. -/
theorem barrierAndInvalidateResults : Obligations.BarrierAndInvalidateResults := by
  unfold Obligations.BarrierAndInvalidateResults
  refine ⟨?_, ?_⟩
  · intro s f bar c s0 arrived target live hne hbar hbroken
    refine ⟨fun now hnow hnotes hnew hord hp => ⟨fun hi => ?_, fun hi hpass => ?_⟩, fun hi hnotes => ?_, fun hi => ?_⟩
    · have hbody := barrierInstr_arrives (ws := dst32 f.dst (BitVec.ofNat 32 now.phase)) hi rfl hne hbar hbroken hnow hnotes hnew hord
        (t := arrived) rfl (fun _ _ => rfl)
      obtain ⟨t, ht, hdone⟩ := finish_completes (i := .bara f) (c := c) (dest := fun _ => none)
        (ws := fun _ => dst32 f.dst (BitVec.ofNat 32 now.phase))
        (r := { s := arrived, outs := allLanes c.active (.done (dst32 f.dst (BitVec.ofNat 32 now.phase)) none) }) hi.split hp
        (fun _ _ => inRange_dst32 _ _) rfl rfl rfl rfl rfl rfl rfl
      have hx : exec (.bara f) s = execBara f s := rfl
      exact ⟨t, by rw [hx, execBara, hbody]; exact ht, hdone⟩
    · obtain ⟨x, hx, hphase⟩ := (Option.any_eq_true _ _).mp hpass
      have hbody := barrierInstr_arrives (i := .bars f) (ws := []) hi rfl hne hbar hbroken hnow hnotes hnew hord (t := arrived) rfl
        (fun phase h => by rw [h x hx]; simp only [State.barrierDone, Option.bind_some, hphase, if_true])
      obtain ⟨t, ht, hdone⟩ := finish_doneAll (i := .bars f) (c := c) (b := arrived) hi.split hp
      have hx : exec (.bars f) s = execBars f s := rfl
      exact ⟨t, by rw [hx, execBars, hbody]; exact ht, hdone⟩
    · intro b hp hpass
      obtain ⟨x, hx, hphase⟩ := (Option.any_eq_true _ _).mp hpass
      have hbody := barrierInstr_waits (i := .barw f) (target := fun c => some (c.w.src32 c.low f.sa 0).toNat) hi rfl hne hbar hbroken hnotes
        rfl (t := b) rfl hx (by simp only [State.barrierDone, Option.bind_some]; exact if_pos hphase)
      obtain ⟨t, ht, hdone⟩ := finish_doneAll (i := .barw f) (c := c) (b := b) hi.split hp
      have hx : exec (.barw f) s = execBarw f s := rfl
      exact ⟨t, by rw [hx, execBarw, hbody]; exact ht, hdone⟩
    · have ha := hi.dst_aligned (i := .barq f) rfl rfl
      obtain ⟨t, ht, hdone⟩ := finish_completes (i := .barq f) (c := c) (dest := fun _ => none)
        (ws := fun _ => dst128 f.dst (barrierWord s bar))
        (r := { s := s, outs := allLanes c.active (.done (dst128 f.dst (barrierWord s bar)) none) }) hi.split hi.unparked
        (fun _ _ => inRange_dst128 _ _ (fun n hn => aligned_v ha n hn)) rfl rfl rfl rfl rfl rfl rfl
      refine ⟨t, ?_, hdone⟩
      have hx : exec (.barq f) s = execBarq f s := rfl
      rw [hx, execBarq, performWarp_active hi hne, perform_first hi, ← ht]
      rw [hbar]
  · intro s b f c start n vs out through hne hs hn hmax hend
    have hr : recallTrap (rangeStart c f) (rangeLen c f) = none := recallTrap_none hs hn hmax hend
    exact ⟨fun hi hleft => tcinv_completes hi hne hr hleft,
      fun hi hn0 hord hleft hmig hadd hb hp => tcrcl_completes hi hne hr hn0 hord hleft hmig hadd hb hp⟩

end Sys2Proof.Machine
end

section
/-! # Proofs: operand maps, tiles and product steps (R176 to R199) -/

namespace Sys2Proof.Machine

/-! ## Effects on a warp's map, convergence and tile registers -/

theorem Own.comp {g h : Warp → Warp} (hg : Own g) (hh : Own h) : Own (fun w => g (h w)) :=
  ⟨fun w v k p ls n => by rw [hh.comm, hg.comm], fun w => by rw [hg.parked, hh.parked], fun w => by rw [hg.issued, hh.issued],
    fun w => by rw [hg.retired, hh.retired]⟩

theorem Own.updateOm (n : Nat) (x : BitVec 256 → BitVec 256) : Own (fun w => w.setOm n (x (w.getOm n))) :=
  ⟨fun _ _ _ _ _ _ => rfl, fun _ => rfl, fun _ => rfl, fun _ => rfl⟩

theorem Own.updateCv (n : Nat) (x : DWord → DWord) : Own (fun w => w.setCv n (x (w.getCv n))) :=
  ⟨fun _ _ _ _ _ _ => rfl, fun _ => rfl, fun _ => rfl, fun _ => rfl⟩

theorem Own.clearSigned (n : Nat) : Own (fun w => w.clearSigned n) := Own.updateCv n (fun x => cvOf (cvMembers x) 0)

theorem Own.setTile (o : Opnd) (t : List Word) : Own (fun w => w.setTile o t) := by
  cases o
  case acc | pf => exact ⟨fun _ _ _ _ _ _ => rfl, fun _ => rfl, fun _ => rfl, fun _ => rfl⟩
  all_goals exact Own.id

/-! ## Map.store (R178) -/

theorem keepMask_low : ∀ i < 128, Map.keepMask.getLsbD i = true := by decide
theorem keepMask_fmt : ∀ i < 4, Map.keepMask.getLsbD (128 + i) = false := by decide
theorem keepMask_reserved : ∀ i < 111, Map.keepMask.getLsbD (145 + i) = false := by decide

/-- The FMT that a map stores. -/
def storedFmt (x : BitVec 256) : Nat := if Map.fmt x ≤ 4 then Map.fmt x else 0

theorem storedFmt_lt (x : BitVec 256) : storedFmt x < 2 ^ 4 := by
  rw [storedFmt]
  split <;> omega

/-- Bit `i` of what a map stores. -/
theorem getLsbD_store (x : BitVec 256) {i : Nat} (hi : i < 256) : (Map.store x).getLsbD i =
    (x.getLsbD i && Map.keepMask.getLsbD i || (decide (128 ≤ i) && (storedFmt x).testBit (i - 128))) := by
  have e : Map.store x = (x &&& Map.keepMask) ||| BitVec.ofNat 256 (storedFmt x * 2 ^ 128) := rfl
  rw [e, BitVec.getLsbD_or, BitVec.getLsbD_and, BitVec.getLsbD_ofNat, Nat.testBit_mul_two_pow]
  simp only [hi, decide_true, Bool.true_and]

theorem store_reserved (x : BitVec 256) : (Map.store x).extractLsb' 145 111 = 0 := by
  apply BitVec.eq_of_getLsbD_eq
  intro i hi
  have hbit : (storedFmt x).testBit (145 + i - 128) = false :=
    Nat.testBit_lt_two_pow (Nat.lt_of_lt_of_le (storedFmt_lt x) (Nat.pow_le_pow_right (by omega) (by omega)))
  rw [BitVec.getLsbD_extractLsb', getLsbD_store x (by omega), keepMask_reserved i hi, hbit]
  simp

theorem base_store (x : BitVec 256) : Map.base (Map.store x) = Map.base x := by
  apply BitVec.eq_of_getLsbD_eq
  intro i hi
  rw [Map.base, Map.base, BitVec.getLsbD_extractLsb', BitVec.getLsbD_extractLsb', getLsbD_store x (by omega),
    keepMask_low (0 + i) (by omega), decide_eq_false (show ¬ 128 ≤ 0 + i by omega)]
  simp

theorem fmt_store (x : BitVec 256) : Map.fmt (Map.store x) = storedFmt x := by
  have e : (Map.store x).extractLsb' 128 4 = BitVec.ofNat 4 (storedFmt x) := by
    apply BitVec.eq_of_getLsbD_eq
    intro i hi
    rw [BitVec.getLsbD_extractLsb', getLsbD_store x (by omega), keepMask_fmt i hi, Nat.add_sub_cancel_left, BitVec.getLsbD_ofNat]
    simp
  rw [Map.fmt, e, BitVec.toNat_ofNat, Nat.mod_eq_of_lt (storedFmt_lt x)]

/-! ## Tiles (R87) -/

theorem cells_eq {α : Type} (g : Nat → Nat → α) (n : Nat) :
    (List.range n).flatMap (fun i => (List.range 64).map (g i)) = (List.range (64 * n)).map (fun k => g (k / 64) (k % 64)) := by
  induction n with
  | zero => rfl
  | succ n ih =>
    have hrow : (List.range 64).map (g n) = (List.range 64).map (fun j => g ((64 * n + j) / 64) ((64 * n + j) % 64)) := by
      apply List.map_congr_left
      intro j hj
      have := List.mem_range.mp hj
      rw [show (64 * n + j) / 64 = n by omega, show (64 * n + j) % 64 = j by omega]
    rw [List.range_succ (n := n), List.flatMap_append, ih, Nat.mul_succ, List.range_add, List.map_append, List.map_map,
      List.flatMap_cons, List.flatMap_nil, List.append_nil, hrow]
    rfl

theorem getD_cells {α : Type} (g : Nat → Nat → α) (d : α) {i j : Nat} (hi : i < 64) (hj : j < 64) :
    ((List.range 64).flatMap (fun i => (List.range 64).map (g i))).getD (64 * i + j) d = g i j := by
  have hk : 64 * i + j < 64 * 64 := by omega
  rw [cells_eq, List.getD_eq_getElem?_getD, List.getElem?_map, List.getElem?_range hk, Option.map_some, Option.getD_some,
    show (64 * i + j) / 64 = i by omega, show (64 * i + j) % 64 = j by omega]

/-- The zero tile reads like the list of its elements. -/
theorem tileElem_short (t : List Word) (i j : Nat) : tileElem (if t.all (· == 0) then [] else t) i j = tileElem t i j := by
  split
  · rename_i h
    have hz : ∀ x ∈ t, x = 0 := fun x hx => eq_of_beq (List.all_eq_true.mp h x hx)
    rw [tileElem, tileElem, List.getD_eq_getElem?_getD, List.getD_eq_getElem?_getD]
    cases ht : t[64 * i + j]? with
    | none => rfl
    | some x => rw [hz x (List.mem_of_getElem? ht)]; rfl
  · rfl

theorem tileElem_tileOf (g : Nat → Nat → Word) {i j : Nat} (hi : i < 64) (hj : j < 64) : tileElem (tileOf g) i j = g i j := by
  rw [tileOf, tileElem_short, tileElem, getD_cells g 0 hi hj]

theorem tileElem_tileWithFlags (g : Nat → Nat → Nat × FpFlags) {i j : Nat} (hi : i < 64) (hj : j < 64) :
    tileElem (tileWithFlags g).1 i j = BitVec.ofNat 32 (g i j).1 := by
  have h : ((List.range 64).flatMap (fun i => (List.range 64).map (g i))).map (fun x => BitVec.ofNat 32 x.1) =
      (List.range 64).flatMap (fun i => (List.range 64).map (fun j => BitVec.ofNat 32 (g i j).1)) := by
    rw [cells_eq, cells_eq, List.map_map]
    rfl
  rw [tileWithFlags, tileElem_short, h, tileElem, getD_cells (fun i j => BitVec.ofNat 32 (g i j).1) 0 hi hj]

theorem flags_tileWithFlags (g : Nat → Nat → Nat × FpFlags) (n : Nat) :
    (tileWithFlags g).2.getLsbD n = true ↔ ∃ i < 64, ∃ j < 64, (g i j).2.getLsbD n = true := by
  have hz : BitVec.getLsbD (0 : FpFlags) n = false := BitVec.getLsbD_zero
  simp only [tileWithFlags, getLsbD_foldl_or, hz, Bool.false_eq_true, false_or, List.mem_flatMap, List.mem_map, List.mem_range]
  constructor
  · rintro ⟨_, ⟨i, hi, j, hj, rfl⟩, h⟩
    exact ⟨i, hi, j, hj, h⟩
  · rintro ⟨i, hi, j, hj, h⟩
    exact ⟨_, ⟨i, hi, j, hj, rfl⟩, h⟩

theorem getD_toArray {α : Type} (l : List α) (k : Nat) (d : α) : l.toArray.getD k d = l.getD k d := by
  rw [Array.getD_eq_getD_getElem?, List.getElem?_toArray, List.getD_eq_getElem?_getD]

/-- Row `i` of a matrix whose elements have been read by `g`. -/
theorem getD_readRows {α β : Type} (g : α → β) (rows : List (List α)) (i : Nat) :
    (rows.map (fun row => row.map g)).toArray.getD i [] = (rows.getD i []).map g := by
  rw [getD_toArray, List.getD_eq_getElem?_getD, List.getElem?_map, List.getD_eq_getElem?_getD]
  cases rows[i]? <;> rfl

theorem zipWith_mul_map {α : Type} (g : α → Int) (xs ys : List α) :
    List.zipWith (· * ·) (xs.map g) (ys.map g) = List.zipWith (fun x y => g x * g y) xs ys := by
  rw [List.zipWith_map]

/-! ## Tile instructions (R183 to R185) -/

/-- A tile instruction of a ready split runs its body. -/
theorem performTile_convened {i : Instr} {f : Fields} {s : State} {body : Ctx → Result} (hi : Issuing i f s)
    (hc : Convened (s.ctx f) f) : performTile i f s body = finish i (s.ctx f) (body (s.ctx f)) := by
  obtain ⟨hready, hmembers, hne⟩ := hc
  rw [performTile, perform_first hi]
  congr 1
  simp only [hready, tileSigned_of_ready hready, ite_self, Bool.not_true, Bool.false_eq_true, if_false, hne,
    ne_eq, ← hmembers, not_true_eq_false]

/-- A tile instruction completes whose body ends without an enabled exception. -/
theorem tile_completes {i : Instr} {f : Fields} {s b : State} {body : Ctx → Result} {fl : FpFlags} {own : Warp → Warp}
    (hx : exec i s = performTile i f s body) (hi : Issuing i f s) (hc : Convened (s.ctx f) f)
    (hbody : body (s.ctx f) = tileDone (s.ctx f) f b fl own)
    (hfl : fl &&& (s.ctx f).w.enabledFlags = 0) (ho : Own own) (hp : (b.warp (s.ctx f).wid).parkedSince = none) :
    ∃ t, exec i s = .next t ∧
      CompletedNext b (s.ctx f) (fun _ => []) (fun w => (own (w.raise fl)).clearSigned (cvNo f.sc)) t := by
  obtain ⟨t, ht, hdone⟩ := finish_done (i := i) (c := s.ctx f) (ws := fun _ => []) (dest := fun _ => none)
    (r := { s := b, outs := doneAll (s.ctx f), flags := fl, onWarp := fun w => (own w).clearSigned (cvNo f.sc) })
    ((Own.clearSigned _).comp (ho.comp (Own.raise fl))) hi.split hp (fun _ _ => inRange_nil) rfl rfl rfl rfl rfl
  refine ⟨t, ?_, hdone⟩
  rw [hx, performTile_convened hi hc, hbody, tileDone, if_neg (not_not.mpr hfl), ht]

/-- The same where no flag rises. -/
theorem tile_completes_quiet {i : Instr} {f : Fields} {s b : State} {body : Ctx → Result} {own : Warp → Warp}
    (hx : exec i s = performTile i f s body) (hi : Issuing i f s) (hc : Convened (s.ctx f) f)
    (hbody : body (s.ctx f) = tileDone (s.ctx f) f b 0 own) (ho : Own own)
    (hp : (b.warp (s.ctx f).wid).parkedSince = none) :
    ∃ t, exec i s = .next t ∧
      CompletedNext b (s.ctx f) (fun _ => []) (fun w => (own w).clearSigned (cvNo f.sc)) t := by
  obtain ⟨t, ht, hdone⟩ := tile_completes hx hi hc hbody BitVec.zero_and ho hp
  simp only [raise_zero] at hdone
  exact ⟨t, ht, hdone⟩

theorem useAnvil_warps (s : State) (gcore cycles : Nat) (memory : Bool) : (useAnvil s gcore cycles memory).warps = s.warps := by
  cases memory <;> rfl

theorem useAnvil_warp (s : State) (gcore cycles : Nat) (memory : Bool) (wid : Nat) :
    (useAnvil s gcore cycles memory).warp wid = s.warp wid := by
  rw [State.warp, State.warp, useAnvil_warps]

/-! ## O20 -/

/-- The gather fields that GIDX sets. -/
def gatherOf (o : Opnd) (x : BitVec 256) : BitVec 256 :=
  match o with
  | .v n => Map.setGather x true n.val
  | _ => Map.setGather x false 0

/-- An instruction of the maps and convergence registers. -/
theorem own_completes {i : Instr} {f : Fields} {s b : State} {body : Ctx → Result} {own : Warp → Warp}
    (hx : exec i s = performWarp i f s body) (hi : Issuing i f s) (hne : (s.ctx f).active ≠ 0)
    (hbody : body (s.ctx f) = { s := b, outs := doneAll (s.ctx f), onWarp := own }) (ho : Own own)
    (hp : (b.warp (s.ctx f).wid).parkedSince = none) :
    ∃ t, exec i s = .next t ∧ CompletedNext b (s.ctx f) (fun _ => []) own t := by
  rw [hx, performWarp_active hi hne, perform_first hi, hbody]
  exact finish_alike ho hi.split hp inRange_nil

/-- Settles O20: each body writes a map, a convergence register or a tile. -/
theorem mapAndTileMoveResults : Obligations.MapAndTileMoveResults := by
  unfold Obligations.MapAndTileMoveResults
  refine ⟨?_, ?_⟩
  · intro s s' b f places bytes c w k
    refine ⟨fun x => ⟨store_reserved x, base_store x, fmt_store x⟩, fun hne => ⟨fun hi => ?_, fun hi hal hset hread hp => ?_,
      fun hi => ?_, fun hi => ?_, fun hi => ?_⟩⟩
    · have hx : exec (.omset f) s = execOmset f s := rfl
      rw [execOmset] at hx
      exact own_completes hx hi hne rfl (Own.updateOm _ (fun _ => _)) hi.unparked
    · have hx : exec (.omld f) s = execOmld f s := rfl
      rw [execOmld] at hx
      refine own_completes hx hi hne ?_ (Own.updateOm (mapNo f) (fun _ => Map.store (leWord 256 bytes))) hp
      have hal' : ((s.ctx f).w.getK (kNo f.sb)).toNat % 32 = 0 := hal
      have hset' : settle (s.ctx f) none none (checkSpans s (s.ctx f).agent (s.ctx f).low .read
        [{ va := (s.ctx f).w.getK (kNo f.sb), len := 32 }]) = .ok (s', places) := hset
      have hread' : readPlaces s' (s.ctx f).w.tenant (s'.classOf (s.ctx f).w) places = (b, bytes, none) := hread
      simp only [hal', if_true, hset', hread']
    · have hx : exec (.gidx f) s = execGidx f s := rfl
      rw [execGidx] at hx
      refine own_completes hx hi hne ?_ (Own.updateOm (mapNo f) (gatherOf f.sb)) hi.unparked
      cases f.sb <;> rfl
    · have hx : exec (.cvdecl f) s = execCvdecl f s := rfl
      rw [execCvdecl] at hx
      exact own_completes hx hi hne rfl (Own.updateCv (cvNo f.dst) (fun _ => _)) hi.unparked
    · have hx : exec (.cvsign f) s = execCvsign f s := rfl
      rw [execCvsign] at hx
      exact own_completes hx hi hne rfl (Own.updateCv (cvNo f.dst) (fun x => cvOf (cvMembers x)
        (cvSigned x ||| (c.active &&& cvMembers x)))) hi.unparked
  · intro s f c busy hc
    refine ⟨fun hi => ?_, fun hi => ?_, fun hi => ?_⟩
    · have hx : exec (.accz f) s = execAccz f s := rfl
      rw [execAccz] at hx
      exact tile_completes_quiet hx hi hc rfl (Own.setTile _ _) hi.unparked
    · have hx : exec (.accmov f) s = execAccmov f s := rfl
      rw [execAccmov] at hx
      exact tile_completes_quiet hx hi hc rfl (Own.setTile _ _) hi.unparked
    · have hx : exec (.iacc f) s = execIacc f s := rfl
      rw [execIacc] at hx
      obtain ⟨t, ht, hdone⟩ := tile_completes_quiet hx hi hc rfl (Own.setTile _ _) hi.unparked
      refine ⟨_, t, fun i hi j hj => ?_, ht, hdone⟩
      rw [tileElem_tileOf _ hi hj, saturate32_eq, if_neg (by decide)]

/-! ## Product steps (R189 to R192) -/

theorem tileElem_tileInt8 (xs ys : List (List Nat)) {i j : Nat} (hi : i < 64) (hj : j < 64) : tileElem (tileInt8 xs ys).1 i j =
    BitVec.ofInt 32 ((List.zipWith (fun x y => signedOf 8 x * signedOf 8 y) (xs.getD i []) (ys.getD j [])).foldl (· + ·) 0) := by
  rw [tileInt8]
  dsimp only
  rw [tileElem_tileOf _ hi hj, getD_readRows, getD_readRows, zipWith_mul_map]

theorem tileElem_tileE4m3 (xs ys : List (List Nat)) {i j : Nat} (hi : i < 64) (hj : j < 64) : tileElem (tileE4m3 xs ys).1 i j =
    BitVec.ofNat 32 (dotE4m3 ((xs.getD i []).map (fun x => (e4m3Int x, x.testBit 7)))
      ((ys.getD j []).map (fun x => (e4m3Int x, x.testBit 7)))).1 := by
  rw [tileE4m3]
  dsimp only
  rw [tileElem_tileWithFlags _ hi hj, getD_readRows, getD_readRows]

/-- A product step whose accesses pass ends with the tile of what it read. -/
theorem productStep_read {c : Ctx} {f : Fields} {s s0 s1 s2 : State} {e n : Nat}
    {g : List (List Nat) → List (List Nat) → List Word × FpFlags} {places : List (Span × State.Place)} {xs ys : List (List Nat)}
    {rowsA rowsB : List RowSpan} {outside : Option DWord}
    (hA : rowsA = if Map.gen (mapA c.w f) then gatherSpans c.w (cvMembers (c.w.getCv (cvNo f.sc))) (mapA c.w f) e n
      else mapSpans (mapA c.w f) e n)
    (hB : rowsB = mapSpans (mapB c.w f) e n) (hout : outside = if Map.gen (mapA c.w f) then outsideScratch rowsA else none)
    (hset : settle c (misaligned e (rowsA ++ rowsB)) outside
      (checkSpans s c.agent c.low .read ((rowsA ++ rowsB).map (·.span))) = .ok (s0, places))
    (hx : readRows c s0 (s0.classOf c.w) e n none rowsA = .ok (s1, xs))
    (hy : readRows c s1 (s1.classOf c.w) e n none rowsB = .ok (s2, ys)) :
    productStep f s e n c g =
      tileDone c f (useAnvil s2 c.w.gcore 64 false) (g xs ys).2 (fun w => w.setTile f.dst (g xs ys).1) := by
  subst hout hB
  simp only [productStep, ← hA, hset, hx, hy]

/-- Settles O21: the four steps share `productStep` and differ in the tile. -/
theorem productStepResults : Obligations.ProductStepResults := by
  unfold Obligations.ProductStepResults
  refine ⟨fun xs ys i hi j hj => tileElem_tileInt8 xs ys hi hj, fun xs ys i hi j hj => tileElem_tileE4m3 xs ys hi hj, ?_⟩
  have step : ∀ {i : Instr} {e n : Nat} {g : List (List Nat) → List (List Nat) → List Word × FpFlags} {s s0 s1 s2 : State}
      {f : Fields} {places : List (Span × State.Place)} {xs ys : List (List Nat)} {rowsA rowsB : List RowSpan},
      (rowsA = if Map.gen (mapA (s.ctx f).w f) then gatherSpans (s.ctx f).w (s.ctx f).active (mapA (s.ctx f).w f) e n
        else mapSpans (mapA (s.ctx f).w f) e n) →
      rowsB = mapSpans (mapB (s.ctx f).w f) e n →
      exec i s = performTile i f s (fun c => productStep f s e n c g) → Issuing i f s → Convened (s.ctx f) f →
      settle (s.ctx f) (misaligned e (rowsA ++ rowsB)) (if Map.gen (mapA (s.ctx f).w f) then outsideScratch rowsA else none)
        (checkSpans s (s.ctx f).agent (s.ctx f).low .read ((rowsA ++ rowsB).map (·.span))) = .ok (s0, places) →
      readRows (s.ctx f) s0 (s0.classOf (s.ctx f).w) e n none rowsA = .ok (s1, xs) →
      readRows (s.ctx f) s1 (s1.classOf (s.ctx f).w) e n none rowsB = .ok (s2, ys) →
      (s2.warp (s.ctx f).wid).parkedSince = none → (g xs ys).2 &&& (s.ctx f).w.enabledFlags = 0 →
      ∃ t, exec i s = .next t ∧
        CompletedNext (s2.updCore (s.ctx f).w.gcore (fun x => { x with anvil := x.anvil + 64 })) (s.ctx f) (fun _ => [])
          (fun w => ((w.raise (g xs ys).2).setTile f.dst (g xs ys).1).clearSigned (cvNo f.sc)) t := by
    intro i e n g s s0 s1 s2 f places xs ys rowsA rowsB hA hB hx hi hc hset hxs hys hp hfl
    rw [hc.members] at hA
    exact tile_completes hx hi hc (productStep_read hA hB rfl hset hxs hys) hfl (Own.setTile _ _) hp
  intro p hp
  simp only [List.mem_cons, List.not_mem_nil, or_false] at hp
  rcases hp with rfl | rfl | rfl | rfl
  all_goals
    intro s s0 s1 s2 f places xs ys
    dsimp only
    intro hi hc hset hx hy hp hfl
  · have hexec : exec (.mma8 f) s = execMma8 f s := rfl
    rw [execMma8] at hexec
    exact step rfl rfl hexec hi hc hset hx hy hp hfl
  · have hexec : exec (.mmah f) s = execMmah f s := rfl
    rw [execMmah] at hexec
    exact step rfl rfl hexec hi hc hset hx hy hp hfl
  · have hexec : exec (.mmab f) s = execMmab f s := rfl
    rw [execMmab] at hexec
    exact step rfl rfl hexec hi hc hset hx hy hp hfl
  · have hexec : exec (.mmai f) s = execMmai f s := rfl
    rw [execMmai] at hexec
    exact step rfl rfl hexec hi hc hset hx hy hp hfl

/-! ## Accumulate steps, tile moves and drains (R193 to R201) -/

theorem tileElem_tileOfRows (rows : List (List Nat)) {i j : Nat} (hi : i < 64) (hj : j < 64) :
    tileElem (tileOfRows (rows.map (fun r => r.map (BitVec.ofNat 32)))) i j = BitVec.ofNat 32 ((rows.getD i []).getD j 0) := by
  rw [tileOfRows, tileElem_tileOf _ hi hj]
  simp only [List.getD_eq_getElem?_getD, List.getElem?_map]
  cases rows[i]? with
  | none => rfl
  | some r =>
    rw [Option.map_some, Option.getD_some, Option.getD_some, List.getElem?_map]
    cases r[j]? <;> rfl

/-- Flags of which none is enabled, taken together. -/
theorem tileWithFlags_quiet {g : Nat → Nat → Nat × FpFlags} {m : FpFlags} (h : ∀ i < 64, ∀ j < 64, (g i j).2 &&& m = 0) :
    (tileWithFlags g).2 &&& m = 0 := by
  apply BitVec.eq_of_getLsbD_eq
  intro n _
  rw [BitVec.getLsbD_and, show BitVec.getLsbD (0 : FpFlags) n = false from BitVec.getLsbD_zero, Bool.and_eq_false_iff]
  by_contra hn
  simp only [not_or, Bool.not_eq_false] at hn
  obtain ⟨hf, hm⟩ := hn
  obtain ⟨i, hi, j, hj, hb⟩ := (flags_tileWithFlags g n).mp hf
  have := congrArg (fun x => BitVec.getLsbD x n) (h i hi j hj)
  simp only [BitVec.getLsbD_and, hb, hm] at this
  exact absurd this (by simp)

/-- Settles O22: each body reads or writes the rows of its map and ends with its tile. -/
theorem tileMemoryResults : Obligations.TileMemoryResults := by
  unfold Obligations.TileMemoryResults
  refine ⟨?_, ?_⟩
  · intro s b f rows
    dsimp only
    intro hc hp
    refine ⟨fun hi hrows hquiet => ?_, fun hi hrows => ?_⟩
    · have hx : exec (.sacc f) s = execSacc f s := rfl
      rw [execSacc] at hx
      obtain ⟨t, ht, hdone⟩ := tile_completes hx hi hc (by simp only [hrows, getD_toArray]; rfl) (tileWithFlags_quiet hquiet)
        (Own.setTile _ _) (by rw [useAnvil_warp]; exact hp)
      exact ⟨_, _, t, fun i hi j hj => tileElem_tileWithFlags _ hi hj, flags_tileWithFlags _, ht, hdone⟩
    · have hx : exec (.accld f) s = execAccld f s := rfl
      rw [execAccld] at hx
      obtain ⟨t, ht, hdone⟩ := tile_completes_quiet hx hi hc (by simp only [hrows]; rfl) (Own.setTile _ _)
        (by rw [useAnvil_warp]; exact hp)
      exact ⟨_, t, fun i hi j hj => tileElem_tileOfRows rows hi hj, ht, hdone⟩
  · intro s s' f places
    dsimp only
    intro hc
    refine ⟨fun hi hset hp => ?_, fun hi hset htrap hfl hp => ?_, fun hi hset htrap hp => ?_⟩
    · have hx : exec (.accst f) s = execAccst f s := rfl
      rw [execAccst] at hx
      exact tile_completes hx hi hc (by simp only [hset]) BitVec.zero_and Own.id (by rw [useAnvil_warp]; exact hp)
    · have hx : exec (.drain f) s = execDrain f s := rfl
      rw [execDrain] at hx
      exact tile_completes hx hi hc (by simp only [hset, htrap, hfl, Bool.false_eq_true, if_false, ne_eq, not_true_eq_false]) hfl
        (Own.countBound _ _) (by rw [useAnvil_warp]; exact hp)
    · have hx : exec (.draina f) s = execDraina f s := rfl
      rw [execDraina] at hx
      exact tile_completes hx hi hc (by simp only [hset, htrap, Bool.false_eq_true, if_false]; rfl) BitVec.zero_and (Own.countBound _ _)
        (by rw [useAnvil_warp]; exact hp)

end Sys2Proof.Machine
end

section
/-! # Proofs: one step of the machine (R33, R38, R53, R109, R428) -/

namespace Sys2Proof.Machine

/-! ## Nothing is owed -/

/-- No unretired entry has been overtaken through an edge of narrow scope. -/
def NothingOwed (s : State) : Prop := ∀ x ∈ s.warps, ∀ e ∈ x.2.rob, e.owed = none

theorem owedWhere_nothing {s : State} (h : NothingOwed s) (p : Nat → Warp → Nat → Bool) : owedWhere s p = [] := by
  rw [owedWhere, List.flatMap_eq_nil_iff]
  intro x hx
  rw [List.map_eq_nil_iff, List.filter_eq_nil_iff]
  intro y hy
  rw [h x hx y.1 (List.fst_mem_of_mem_zipIdx hy)]
  simp

theorem payOwed_nothing {s : State} (h : NothingOwed s) (p : State → Nat → Warp → Nat → Bool) (fuel : Nat) : payOwed s p fuel = s := by
  cases fuel with
  | zero => rfl
  | succ n => rw [payOwed, owedWhere_nothing h]

theorem payBefore_nothing {s : State} (h : NothingOwed s) (wid : Nat) : payBefore s wid = s := payOwed_nothing h _ _

theorem owing_nothing {s : State} (h : NothingOwed s) (wid : Nat) : owing s wid = false := by
  rw [owing, owedWhere_nothing h]
  rfl

theorem happen_nothing {s : State} (h : NothingOwed s) (i : Instr) : happen i s = exec i s := by
  have hpay : payAll s i = s := by
    rw [payAll]
    split
    · rfl
    · exact payOwed_nothing h _ _
  have hwait : mustWait s i = false := by
    rw [mustWait, owedWhere_nothing h]
    simp
  simp only [happen, hpay, hwait, Bool.false_eq_true, if_false]

/-! ## A fetch slot -/

theorem step_serve {s : State} {p : Pick} {rest : List Pick} (h : s.chosen = p :: rest) :
    step s = serve p { s with chosen := rest } := by
  rw [step, h]

theorem serve_owing {s : State} {p : Pick} (h : owing (payBefore s p.wid) p.wid = true) :
    serve p s = .next (dropPick (payBefore s p.wid) p) := if_pos h

section
variable {s t : State} {p : Pick} (h : owing (payBefore s p.wid) p.wid = false)
include h

theorem serve_run {i : Instr} (hf : frontEnd (payBefore s p.wid) p = .run t i) : serve p s = exec i t := by
  simp only [serve, h, hf, Bool.false_eq_true, if_false]

theorem serve_done (hf : frontEnd (payBefore s p.wid) p = .done t) : serve p s = .next t := by
  simp only [serve, h, hf, Bool.false_eq_true, if_false]

end

section
variable {s : State} {p : Pick} (hplace : p.place = none) (hstands : pickStands (s.warp p.wid) p = true)
include hplace hstands

/-- The front end of a split that still stands, at a checked target: its word decodes, or traps. -/
theorem frontEnd_stands (htarget : (s.warp p.wid).starting = true → p.target = true) {i : Instr} (hi : decodeWord p.word = .ok i) :
    frontEnd s p = .run { (takeLate (s.updWarp p.wid (fun w => { w with starting := false })) i) with cur := {
      wid := p.wid, pc := p.pc, lanes := p.lanes, word := p.word
      late := leftInFlight (s.updWarp p.wid (fun w => { w with starting := false })) i, op := (s.warp p.wid).wissued.toNat } } i := by
  have hbad : ((s.warp p.wid).starting && !p.target) = false := by
    cases hs : (s.warp p.wid).starting with
    | false => rfl
    | true => rw [htarget hs]; rfl
  simp only [frontEnd, hplace, hstands, hbad, hi, Bool.not_true, Bool.false_eq_true, if_false]

theorem frontEnd_illop (hstart : (s.warp p.wid).starting = false) (hrob : (s.warp p.wid).rob = []) {why : Reject}
    (hw : decodeWord p.word = .error why) :
    frontEnd s p = .done (((s.updWarp p.wid (fun w => { w with starting := false })).countIssue p.wid).trapSplit p.wid p.pc p.word p.lanes
      Cause.illop) := by
  simp only [frontEnd, hplace, hstands, hstart, hrob, hw, Bool.not_true, Bool.false_and, Bool.false_eq_true, if_false, List.isEmpty_nil,
    if_true]

end

/-- The front end of a slot that names an unretired entry. -/
theorem frontEnd_entry {s : State} {p : Pick} {n : Nat} {e : Entry} (hplace : p.place = some n) (he : (s.warp p.wid).rob[n]? = some e)
    (hon : (s.warp p.wid).onCore = true) (hw : e.wait ≠ .nothing) : frontEnd s p = .run (s.atEntry p.wid n e) e.instr := by
  have hd : e.decided = false := beq_eq_false_iff_ne.mpr hw
  simp only [frontEnd, hplace, he, hon, hd, Bool.not_false, Bool.and_self, if_true]

/-- Settles O56: what is owed is performed, then the front end decodes the slot. -/
theorem stepRunsDecoded : Obligations.StepRunsDecoded := by
  unfold Obligations.StepRunsDecoded
  intro s p rest h q w
  refine ⟨fun ho => ?_, fun i => ?_, fun n e ho hplace he hon hw => ?_, fun hno => ?_, fun v wid x bits hbits => ?_⟩
  · rw [step_serve h, serve_owing ho]
  · intro b ho hplace hstands htarget hi
    rw [step_serve h, serve_run ho (frontEnd_stands hplace hstands htarget hi)]
  · rw [step_serve h, serve_run ho (frontEnd_entry hplace he hon hw)]
    rfl
  · have hno' : NothingOwed { s with chosen := rest } := hno
    have hq : q = { s with chosen := rest } := payBefore_nothing hno' p.wid
    exact ⟨hq, by rw [hq]; exact owing_nothing hno' p.wid⟩
  · simp only [pickOf, hbits, Option.getD_some, and_self]

/-! ## Without a fetch slot -/

theorem step_due {s t : State} {i : Instr} (h : s.chosen = []) (hdue : takeDue s = some (t, i)) (hmay : mayHappen t i = true) :
    step s = happen i t := by
  rw [step, h]
  simp only [hdue, hmay, if_true]

theorem step_idle {s : State} (h : s.chosen = []) (hdue : takeDue s = none) : step s = idleStep s := by
  rw [step, h]
  simp only [hdue]

/-- Settles O57: the trap of the front end, and the three places from which an event comes. -/
theorem stepOtherwise : Obligations.StepOtherwise := by
  unfold Obligations.StepOtherwise
  refine ⟨?_, ?_⟩
  · intro s p rest why w b c h hplace hno hstands hrob hstart hparked hw hcan
    have hno' : NothingOwed b := hno
    refine ⟨_, ?_, retire_trapped (b := b.updWarp p.wid (fun w => { w with starting := false })) (c := c) (cause := 0x01) (by decide) 0 0
      ?_ ?_ ?_⟩
    · have hpay := payBefore_nothing hno' p.wid
      rw [step_serve h, serve_done (by rw [hpay]; exact owing_nothing hno' _) (by
        rw [hpay]
        exact frontEnd_illop (s := b) hplace hstands hstart hrob hw)]
      rfl
    · rw [State.warp_updWarp_self]; exact hparked
    · rw [State.warp_updWarp_self]; rfl
    · rw [State.warp_updWarp_self]
      exact ⟨hcan.lanes, hcan.handler, hcan.tags, hcan.room⟩
  · intro s e rest happens h
    refine ⟨fun hs htime hf hpow => ?_, fun hs hpow => ?_, fun hpow hs => ?_, fun hno i => happen_nothing hno i⟩
    · refine step_due (t := { s with schedule := rest }) h ?_ ?_
      · have hdue : (decide (e.time ≤ s.gt) || !s.fw.powered) = true := by
          rcases htime with ht | ht <;> simp [ht]
        simp only [takeDue, hs, hdue, if_true]
      · have hpow' : (s.fw.powered || e.op == .loftReset) = true := by
          rcases hpow with hp | hp <;> simp [hp]
        simp only [mayHappen, hf, hpow', Option.isNone_none, Bool.and_self]
    · rw [step_idle h (by rw [takeDue, hs]), idleStep, hpow]
      rfl
    · have hdue : takeDue s = none := by
        rcases hs with hs | ⟨hs, ht⟩
        · rw [takeDue, hs]
        · have hlate : (decide (e.time ≤ s.gt) || !s.fw.powered) = false := by
            rw [hpow, decide_eq_false (by omega)]
            rfl
          simp only [takeDue, hs, hlate, Bool.false_eq_true, if_false]
      rw [step_idle h hdue, idleStep, if_pos hpow]
      rfl

end Sys2Proof.Machine
end

section
/-! # Proofs: the events that retire entries, and entries that go on behind others (R108 to R111, R139 to R142, R321) -/

namespace Sys2Proof.Machine

/-! ## Registers after an entry whose lanes have all completed -/

section
variable (w : Warp) (m : LaneMask) {ws : Nat → List RegWrite} (dest : Nat → Option DWord)

theorem writeDone_rest (ws : Nat → List RegWrite) : w.writeDone (doneOuts m ws dest) = { w with
    v := (w.writeDone (doneOuts m ws dest)).v, k := (w.writeDone (doneOuts m ws dest)).k, p := (w.writeDone (doneOuts m ws dest)).p } := by
  rw [writeDone_done]
  split
  · rfl
  · rw [writeK_rest, writeLanes_rest]

theorem writeDone_v (hw : ∀ l, inRange (ws l)) {i j : Nat} (hj : j < 128) : (w.writeDone (doneOuts m ws dest)).getV i j =
    if m.has i then afterV (ws i) j (w.getV i j) else w.getV i j := by
  rw [writeDone_done]
  by_cases h0 : m = 0
  · rw [if_pos h0, h0, LaneMask.has_zero]
    rfl
  · have hk : ((writeLanes w m.lanes ws).writeK (ws m.lowest)).getV i j = (writeLanes w m.lanes ws).getV i j := by
      rw [writeK_rest]
      rfl
    rw [if_neg h0, hk, writeLanes_v _ _ _ (LaneMask.lanes_nodup _) (fun l _ => hw l) hj]
    simp only [LaneMask.mem_lanes]

theorem writeDone_p (hw : ∀ l, inRange (ws l)) {i j : Nat} (hj : j < 8) : (w.writeDone (doneOuts m ws dest)).getP i j =
    if m.has i then afterP (ws i) j (w.getP i j) else w.getP i j := by
  rw [writeDone_done]
  by_cases h0 : m = 0
  · rw [if_pos h0, h0, LaneMask.has_zero]
    rfl
  · have hk : ((writeLanes w m.lanes ws).writeK (ws m.lowest)).getP i j = (writeLanes w m.lanes ws).getP i j := by
      rw [writeK_rest]
      rfl
    rw [if_neg h0, hk, writeLanes_p _ _ _ (LaneMask.lanes_nodup _) (fun l _ => hw l) hj]
    simp only [LaneMask.mem_lanes]

theorem writeDone_k (ws : Nat → List RegWrite) (n : Nat) : (w.writeDone (doneOuts m ws dest)).getK n =
    if m = 0 then w.getK n else afterK (ws m.lowest) n (w.getK n) := by
  rw [writeDone_done]
  by_cases h0 : m = 0
  · rw [if_pos h0, if_pos h0]
  · have hv : (writeLanes w m.lanes ws).getK n = w.getK n := by
      rw [writeLanes_rest]
      rfl
    rw [if_neg h0, if_neg h0, writeK_k, hv]

theorem cleanOuts_done (ws : Nat → List RegWrite) : cleanOuts (doneOuts m ws dest) = true := by
  simp [cleanOuts, doneOuts]

end

theorem inCore_iadd (f : Fields) : (Instr.iadd f).inCore = true := by
  have h : (Instr.iadd f).opClass = 0 := by simp [Instr.opClass, Instr.opcode, Instr.row, row3]
  have hx : (Instr.iadd f).inCore = decide ((Instr.iadd f).opClass < 2) := rfl
  rw [hx, h]
  rfl

theorem inCore_isub (f : Fields) : (Instr.isub f).inCore = true := by
  have h : (Instr.isub f).opClass = 0 := by simp [Instr.opClass, Instr.opcode, Instr.row, row3]
  have hx : (Instr.isub f).inCore = decide ((Instr.isub f).opClass < 2) := rfl
  rw [hx, h]
  rfl

theorem traps_done {e : Entry} {ws : Nat → List RegWrite} {dest : Nat → Option DWord} (h : e.outs = doneOuts e.active ws dest) :
    e.traps = false := by
  rw [Entry.traps, h]
  simp [doneOuts]

/-! ## The oldest entry -/

theorem head?_eq_some {s : State} {wid : Nat} {e : Entry} (h : s.head? wid = some e) :
    (s.warp wid).onCore = true ∧ ∃ es, (s.warp wid).rob = e :: es := by
  simp only [State.head?] at h
  by_cases hon : (s.warp wid).onCore = true
  · rw [if_pos hon] at h
    cases hr : (s.warp wid).rob with
    | nil => rw [hr] at h; cases h
    | cons x es =>
      rw [hr] at h
      cases h
      exact ⟨hon, es, rfl⟩
  · rw [if_neg hon] at h
    cases h

/-- The grant order of the core does not hold the warp, or another of its entries still asks for a block. -/
def KeepsPlace (s : State) (wid : Nat) : Prop := (s.core (s.warp wid).gcore).extQueue.contains wid = false ∨
  (s.warp wid).rob.any (fun e => e.instr.asksBlock && e.wait != .nothing) = true

theorem leaveExtQueue_keeps {s : State} {wid : Nat} (h : KeepsPlace s wid) : s.leaveExtQueue wid = s := by
  unfold State.leaveExtQueue
  rcases h with h | h
  · simp only [h, Bool.not_false, Bool.true_or, if_true]
  · simp only [h, Bool.or_true, if_true]

theorem retireOldest_done {s : State} {wid : Nat} {e : Entry} {ws : Nat → List RegWrite} {dest : Nat → Option DWord} (own : Warp → Warp)
    (houts : e.outs = doneOuts e.active ws dest) (hmoved : e.moved = false)
    (hplace : KeepsPlace (s.updWarp wid (fun w => { w with rob := w.rob.drop 1 })) wid) :
    s.retireOldest wid e own = (s.updWarp wid (fun w => { w with rob := w.rob.drop 1 })).retire wid e.pc e.word e.lanes
      e.active (doneOuts e.active ws dest) e.flags own := by
  rw [State.retireOldest, hmoved, traps_done houts, houts]
  simp only [Bool.false_and, Bool.or_self, Bool.false_eq_true, if_false, leaveExtQueue_keeps hplace]

/-- A block that is granted as an entry without writes retires may as well be granted before. -/
theorem retire_takeExt (s : State) (wid : Nat) (pc : DWord) (word : BitVec 96) (lanes active : LaneMask) (dest : Nat → Option DWord)
    (flags : FpFlags) : s.retire wid pc word lanes active (doneOuts active (fun _ => []) dest) flags Warp.takeExt =
      (s.updWarp wid Warp.takeExt).retire wid pc word lanes active (doneOuts active (fun _ => []) dest) flags id := by
  simp only [State.retire, State.updWarp, State.warp_setWarp_self, State.setWarp_setWarp, writeDone_nothing, Apart.takeExt.advance]
  rfl

/-- The oldest entry, which has waited for a block, retires with it. -/
theorem retireOldest_grant {s : State} {wid : Nat} {e : Entry} {dest : Nat → Option DWord}
    (houts : e.outs = doneOuts e.active (fun _ => []) dest) (hmoved : e.moved = false)
    (hq : (s.core (s.warp wid).gcore).extQueue.contains wid = false) :
    s.retireOldest wid e Warp.takeExt = (s.updWarp wid Warp.takeExt).retireOldest wid e id := by
  rw [retireOldest_done _ houts hmoved, retireOldest_done _ houts hmoved, retire_takeExt]
  · simp only [State.updWarp, State.warp_setWarp_self, State.setWarp_setWarp]
    rfl
  · left
    rw [State.warp_updWarp_self, State.warp_updWarp_self]
    exact hq
  · left
    rw [State.warp_updWarp_self]
    exact hq

section
variable {s : State} {wid : Nat} {e : Entry} {ws : Nat → List RegWrite} {dest : Nat → Option DWord}
  (houts : e.outs = doneOuts e.active ws dest) (hin : ∀ l, inRange (ws l)) (hpark : (s.warp wid).parkedSince = none)
include houts hin hpark

/-- The oldest entry, whose split has waited, retires as an instruction that completes at once does. -/
theorem retireOldest_retired (hlanes : e.lanes ≠ 0) (hmoved : e.moved = false)
    (hplace : KeepsPlace (s.updWarp wid (fun w => { w with rob := w.rob.drop 1 })) wid) :
    Retired s wid e ws (fun l => (dest l).getD (nextPc e.pc)) (fun w => w.raise e.flags) (s.retireOldest wid e id) := by
  have hissue : (s.updWarp wid (fun w => { w with rob := w.rob.drop 1, wissued := w.wissued - 1 })).countIssue wid =
      s.updWarp wid (fun w => { w with rob := w.rob.drop 1 }) := by
    simp only [State.countIssue, State.updWarp, State.warp_setWarp_self, State.setWarp_setWarp, BitVec.sub_add_cancel]
  have h := retire_done (b := s.updWarp wid (fun w => { w with rob := w.rob.drop 1, wissued := w.wissued - 1 }))
    (c := s.entryCtx wid e) (ws := ws) (dest := dest) (flags := e.flags) (own := id) (Own.raise _) hlanes
    (by rw [State.entryCtx, State.warp_updWarp_self]; exact hpark) (fun l _ => hin l)
  rw [show (s.entryCtx wid e).wid = wid from rfl, hissue] at h
  rw [retireOldest_done id houts hmoved hplace]
  exact h

/-- The oldest entry, whose split has gone on before, retires. -/
theorem retireOldest_retiredAfter (hmoved : e.moved = true) (hrun : ∃ l < 32, ((s.warp wid).lane l).status = .running) :
    RetiredAfter s wid e ws (s.retireOldest wid e id) := by
  obtain ⟨l, hl, hrun⟩ := hrun
  set w := (s.warp wid).writeDone (doneOuts e.active ws dest) with hw
  have hrest : w = { s.warp wid with v := w.v, k := w.k, p := w.p } := writeDone_rest ..
  set t : Warp := { ({ w with rob := (s.warp wid).rob.drop 1 } : Warp).raise e.flags with
    wretired := (s.warp wid).wretired + 1, hangBase := s.runsFrom (s.warp wid).gcore } with ht
  have hgo : s.retireOldest wid e id = s.setWarp wid t := by
    have hbranch : s.retireOldest wid e id = ((s.setWarp wid t).settleParked wid).endWarp wid := by
      rw [State.retireOldest, hmoved, houts, cleanOuts_done]
      rfl
    rw [hbranch]
    refine goes_on hl ?_ ?_
    · rw [State.warp_setWarp_self, ht, hrest]
      exact hrun
    · rw [State.warp_setWarp_self, ht, hrest]
      exact hpark
  rw [hgo]
  refine ⟨by simp, fun i j _ hj => ?_, fun i j _ hj => ?_, fun n => ?_, ?_⟩
  · rw [State.warp_setWarp_self, ← writeDone_v (s.warp wid) e.active dest hin hj]
    rfl
  · rw [State.warp_setWarp_self, ← writeDone_p (s.warp wid) e.active dest hin hj]
    rfl
  · rw [State.warp_setWarp_self, ← writeDone_k (s.warp wid) e.active dest ws n]
    rfl
  · rw [State.warp_setWarp_self, ht, hrest]
    rfl

end

/-! ## Pauses that end -/

/-- The lanes of a pause that is over go on. -/
theorem endPause_woken {s : State} {wid : Nat} {e : Entry} {ws : Nat → List RegWrite} {dest : Nat → Option DWord}
    (houts : e.outs = doneOuts e.active ws dest) (hpark : (s.warp wid).parkedSince = none) (hlanes : e.lanes ≠ 0) :
    Woken s wid e (fun l => (dest l).getD (nextPc e.pc)) (endPause s wid e) := by
  set w := (s.warp wid).advance e.pc e.lanes e.active (doneOuts e.active ws dest) with hw
  have hrest : w = { s.warp wid with lanes := w.lanes } := advance_rest ..
  have hlane : ∀ i, w.lane i = if e.active.has i then landAt e.pc (dest i) ((s.warp wid).lane i)
      else if e.lanes.has i then landAt e.pc none ((s.warp wid).lane i) else (s.warp wid).lane i := fun i => advance_lane ..
  set t : Warp := { w with pauses := (s.warp wid).pauses.filter (fun x => !(x.pc == e.pc && x.lanes == e.lanes)) } with ht
  have hgo : endPause s wid e = s.setWarp wid t := by
    obtain ⟨l, hl⟩ := LaneMask.exists_has hlanes
    have hbranch : endPause s wid e = (s.setWarp wid t).settleParked wid := by
      rw [endPause, houts]
      rfl
    rw [hbranch]
    refine settleParked_running (LaneMask.has_lt hl) ?_ ?_
    · rw [State.warp_setWarp_self, show t.lane l = w.lane l from rfl, hlane]
      by_cases ha : e.active.has l = true <;> simp [ha, hl, landAt]
    · rw [State.warp_setWarp_self, ht, hrest]
      exact hpark
  rw [hgo]
  refine ⟨by simp, fun l _ => ?_, ?_⟩
  · rw [State.warp_setWarp_self, show t.lane l = w.lane l from rfl, hlane]
    rfl
  · rw [State.warp_setWarp_self, ht, hrest]

/-! ## What an entry of its turn waits for -/

theorem headReady_nothing {s : State} {wid : Nat} {e : Entry} (h : e.wait = .nothing) : s.headReady wid e = true := by
  rw [State.headReady, h]
  rfl

/-- The wait of a FENCE is over once its time has come and no store of the warp is on its way. -/
theorem headReady_fence {s : State} {wid g : Nat} {e : Entry} (h : e.wait = .fence g) (hg : g ≤ s.gt) (ha : s.addendsOf wid = false)
    (hm : ∀ m ∈ s.tables.moves, ∀ x ∈ m.writers, x.1 ≠ wid) : s.headReady wid e = true := by
  have hheld : s.writesHeld wid = false := by
    rw [State.writesHeld, List.any_eq_false]
    intro m hmem hany
    obtain ⟨x, hx, hxw⟩ := List.any_eq_true.mp hany
    exact hm m hmem x hx (eq_of_beq hxw)
  rw [State.headReady, State.fenceOver, h]
  simp [hg, ha, hheld]

theorem headReady_pause {s : State} {wid : Nat} {e : Entry}
    (h : (∃ g, e.wait = .sleep g) ∨ (∃ g n, e.wait = .idle g n) ∨ ∃ m, e.wait = .wsync m) :
    s.headReady wid e = false ∧ isPause e = true := by
  rcases h with ⟨g, h⟩ | ⟨g, n, h⟩ | ⟨m, h⟩ <;> exact ⟨by rw [State.headReady, State.fenceOver, h]; rfl, by rw [isPause, h]⟩

theorem headReady_turn {s : State} {wid : Nat} {e : Entry} (h : e.wait = .turn) : s.headReady wid e = false ∧ isPause e = false :=
  ⟨by rw [State.headReady, State.fenceOver, h]; rfl, by rw [isPause, h]⟩

/-- With no choice given the oldest entry that may be performed is taken. -/
theorem takeTurn_oldest {s : State} {wid : Nat} {e : Entry} {es : List Entry} (hrob : (s.warp wid).rob = e :: es) (hw : e.wait = .turn)
    (hlate : s.late = []) (hmay : s.mayPerform wid 0 e.instr e.lanes = true) :
    takeTurn s wid = { s with chosen := { wid, pc := e.pc, lanes := e.lanes, place := some 0 } :: s.chosen } := by
  obtain ⟨ns, hns⟩ : ∃ ns, performable s wid (fun e => e.wait == .turn || e.wait == .sent) = 0 :: ns := by
    rw [performable, hrob, List.zipIdx_cons, List.filter_cons_of_pos (by simp [hw, hmay])]
    exact ⟨_, rfl⟩
  have hchoose : chooseEntry s (0 :: ns) = some (s, 0) := by
    cases ns with
    | nil => rfl
    | cons n ns => simp only [chooseEntry, hlate]
  have h0 : (s.warp wid).rob[0]? = some e := by rw [hrob]; rfl
  simp only [takeTurn, hns, hchoose, h0, hw, beq_self_eq_true, if_true]

/-- The first of the grant order, whose request is its oldest entry, is granted a block. -/
theorem nextGrant_first {s : State} {core wid : Nat} {rest : List Nat} {e : Entry} (hq : (s.core core).extQueue = wid :: rest)
    (hfree : s.extHeld core < 8) (hhead : s.head? wid = some e) (hw : e.wait = .extBlock) : nextGrant s core = some wid := by
  have hasked : askedBefore (wid :: rest) wid = 0 := by simp [askedBefore]
  have hext : extFree s core wid = true := by
    rw [extFree, hq, hasked]
    exact decide_eq_true hfree
  rw [nextGrant, hq, List.find?_cons_of_pos (by simp [hext, hhead, hw])]

/-! ## Behind unretired entries (R108, R109) -/

/-- An instruction of the core alone overtakes every entry. -/
theorem overtakes_inCore {s : State} {wid n : Nat} {i : Instr} {lanes : LaneMask} (hi : i.inCore = true) (ha : i.access = false) :
    ∀ x ∈ s.overtakes wid n i lanes, x = .free := by
  have hfree : ∀ (y o : Mover), y.instr = i → overtake y o = .free := fun y o hy => by
    rw [overtake, hy, hi]
    rfl
  have hpass : ∀ (y : Mover) j e, y.instr = i → s.passes wid y j e = .free := fun y j e hy => by
    by_cases hu : e.unperformed = true
    · simp only [State.passes, hu, hfree y _ hy, hy, ha, Bool.not_true, Bool.false_and, Bool.false_eq_true, if_false]
    · simp only [State.passes, hu, Bool.not_false, if_true]
  intro x hx
  obtain ⟨j, hj, rfl⟩ := List.mem_mapIdx.mp hx
  exact hpass _ j _ rfl

/-- Where every older entry is overtaken freely, nothing is owed. -/
theorem owe_free {s : State} {wid n : Nat} {i : Instr} {lanes : LaneMask} (h : ∀ x ∈ s.overtakes wid n i lanes, x = .free) :
    s.owe wid n i lanes = s.setWarp wid (s.warp wid) := by
  have hrob : (s.warp wid).rob.mapIdx (fun j e => match (s.overtakes wid n i lanes)[j]? with
      | some (.within x) => { e with owed := some (max x (e.owed.getD 0)) }
      | _ => e) = (s.warp wid).rob := by
    refine List.ext_getElem (List.length_mapIdx) (fun j _ _ => ?_)
    rw [List.getElem_mapIdx]
    cases ho : (s.overtakes wid n i lanes)[j]? with
    | none => rfl
    | some x => rw [h x (List.mem_of_getElem? ho)]
  have hw : ∀ r, r = (s.warp wid).rob → { s.warp wid with rob := r } = s.warp wid := by
    rintro _ rfl
    rfl
  exact congrArg (s.setWarp wid) (hw _ hrob)

/-- The warp once a completed instruction has joined its unretired entries. -/
def wentOn (w : Warp) (e : Entry) (n : Nat) : Warp :=
  let w := w.advance e.pc e.lanes e.active e.outs
  { w with rob := w.rob.take n ++ { e with moved := true } :: w.rob.drop (n + 1) }

theorem keepEntry_goes {s : State} {wid n : Nat} {e : Entry} (hw : e.wait = .nothing) (hc : cleanOuts e.outs = true)
    (hm : e.moved = false) : s.keepEntry wid n e = (s.updWarp wid (fun w => wentOn w e n)).leaveExtQueue wid := by
  have hd : e.decided = true := beq_iff_eq.mpr hw
  simp only [State.keepEntry, hd, hc, hm, Bool.and_self, if_true, Bool.false_eq_true, if_false]
  rfl

/-- An instruction of the core alone that has its registers is performed behind unretired entries. -/
theorem performLanes_wentOn {i : Instr} {f : Fields} {s : State} {lane : Ctx → Nat → List RegWrite} {c : Ctx}
    (hcx : c = s.ctxOf f ((s.warp s.cur.wid).ahead (s.warp s.cur.wid).rob)) (hi : i.inCore = true) (ha : i.access = false)
    (hr : ∀ n, s.readsInOrder s.cur.wid n i = true) (hrob : (s.warp s.cur.wid).rob ≠ []) (hplace : s.cur.place = none)
    (hlate : s.cur.late = false) (hdec : decodeCause s c i = none) (hfeeds : ∀ e ∈ (s.warp s.cur.wid).rob, e.feeds c.lanes i = false)
    (hq : (s.core (s.warp s.cur.wid).gcore).extQueue.contains s.cur.wid = false) :
    ∃ t, performLanes i f s lane = .next t ∧
      WentOn s c (entryOf s c i (c.active.lanes.map (fun l => (l, .done (lane c l) none))) .nothing) t := by
  set w := s.warp s.cur.wid with hw
  have hwid : c.wid = s.cur.wid := by rw [hcx]; rfl
  have hsub : ∀ l, c.active.has l = true → c.lanes.has l = true := fun l hl => by
    rw [hcx] at hl ⊢
    have hl' : (activeMask (w.ahead w.rob) s.cur.lanes f).has l = true := hl
    simp only [activeMask, LaneMask.has_ofPred, Bool.and_eq_true] at hl'
    exact hl'.2.1
  set e := entryOf s c i (c.active.lanes.map (fun l => (l, .done (lane c l) none))) .nothing with he
  set n := w.rob.length with hn
  have htake : w.rob.take n = w.rob := List.take_length
  have hfed : s.mayPerform c.wid n i c.lanes = true := by
    rw [hwid]
    have hany : (w.rob.any (fun e => e.feeds c.lanes i)) = false := by
      rw [List.any_eq_false]
      exact fun e he => by rw [hfeeds e he]; decide
    simp only [State.mayPerform, State.fed, ← hw, htake, hany, hr n, hi, Bool.not_false, Bool.true_or, Bool.and_self]
  have hatOnce : atOnce s = false := by
    simp only [atOnce, ← hw, List.isEmpty_eq_false_iff.mpr hrob, Bool.false_and]
  have hctx : ({ wid := c.wid, w := c.w, pc := c.pc, lanes := c.lanes, active := c.active, word := c.word, since := s.gt } : Ctx) = c := by
    rw [hcx]
    rfl
  have hbehind : performLanes i f s lane =
      .next (((s.owe c.wid n i c.lanes).countIssue c.wid).keepEntry c.wid n e) := by
    have hn0 : n ≠ 0 := fun h => hrob (List.eq_nil_of_length_eq_zero h)
    simp only [performLanes, perform, hatOnce, Bool.not_false, if_true, performBehind, hplace, Option.getD_none, Option.bind_none, ← hw,
      ← hn, htake, ← hcx, Option.map_none, hctx, hdec, hfed, Bool.true_or, Bool.not_true, Bool.false_eq_true, if_false, hlate,
      Bool.false_and, List.isEmpty_eq_false_iff.mpr hrob, hn0, decide_false, Option.isNone_none]
    rfl
  set v : Warp := { w with wissued := w.wissued + 1 } with hv
  have howe : (s.owe c.wid n i c.lanes).countIssue c.wid = s.setWarp c.wid v := by
    rw [owe_free (overtakes_inCore hi ha), hwid, ← hw]
    simp only [State.countIssue, State.updWarp, State.warp_setWarp_self, State.setWarp_setWarp, hv]
  set a := v.advance c.pc c.lanes c.active (doneOuts c.active (lane c) (fun _ => none)) with hadef
  have ha : a = { v with lanes := a.lanes } := advance_rest ..
  have hlane : ∀ l, a.lane l = if c.active.has l then landAt c.pc none (w.lane l) else if c.lanes.has l then landAt c.pc none (w.lane l)
      else w.lane l := fun l => advance_lane ..
  have harob : a.rob = w.rob := by rw [ha]
  have hwent : wentOn v e n = { v with lanes := a.lanes, rob := w.rob ++ [{ e with moved := true }] } := by
    have hx : wentOn v e n = { a with rob := a.rob.take n ++ { e with moved := true } :: a.rob.drop (n + 1) } := rfl
    rw [hx, harob, htake, List.drop_eq_nil_of_le (by omega), ha]
  have hkeep : ((s.owe c.wid n i c.lanes).countIssue c.wid).keepEntry c.wid n e = s.setWarp c.wid (wentOn v e n) := by
    rw [howe, keepEntry_goes rfl (cleanOuts_done c.active (fun _ => none) (lane c)) rfl, leaveExtQueue_keeps]
    · simp only [State.updWarp, State.warp_setWarp_self, State.setWarp_setWarp]
    · left
      rw [State.warp_updWarp_self, State.warp_setWarp_self, hwent, hwid]
      exact hq
  refine ⟨_, hbehind, ?_⟩
  rw [hkeep]
  refine ⟨by simp, fun l hl => ?_, ?_⟩
  · rw [State.warp_setWarp_self, hwent, show Warp.lane { v with lanes := a.lanes, rob := w.rob ++ [{ e with moved := true }] } l = a.lane l
      from rfl, hlane, hwid, ← hw]
    by_cases hact : c.active.has l = true
    · rw [if_pos hact, if_pos (hsub l hact)]
      rfl
    · rw [if_neg hact]
      rfl
  · rw [State.warp_setWarp_self, hwent, hwid]

/-! ## The events -/

/-- Settles O43: each event finds its entry, and IADD and ISUB go on behind others. -/
theorem retirementEvents : Obligations.RetirementEvents := by
  unfold Obligations.RetirementEvents
  refine ⟨?_, ?_⟩
  · intro s wid e ws dest w goto own keepsPlace houts hin hlanes hsub hpark
    refine ⟨fun hhead => ⟨fun hover => ?oldest, fun hpause => ?pause, fun hturn hlate hmay hbehind => ?turn,
      fun f rest hq hfree hinstr hws hext hrest hmoved => ?grant⟩, fun hon hone hnone => ?sleep, fun hon hone => ?idle⟩
    case oldest =>
      have hready : s.headReady wid e = true := by
        rcases hover with h | ⟨g, h, hg, ha, hm⟩
        · exact headReady_nothing h
        · exact headReady_fence h hg ha hm
      have hx : exec (.entryRetire wid) s = .next (s.retireOldest wid e id) := by
        have hx : exec (.entryRetire wid) s = execEntryRetire wid s := rfl
        simp only [hx, execEntryRetire, hhead, hready, if_true]
      refine ⟨fun hmoved hkeep => ⟨_, hx, ?_⟩, fun hmoved hrun => ⟨_, hx, retireOldest_retiredAfter houts hin hpark hmoved hrun⟩⟩
      refine retireOldest_retired houts hin hpark hlanes hmoved ?_
      rw [KeepsPlace, State.warp_updWarp_self]
      exact hkeep
    case pause =>
      obtain ⟨hready, hp⟩ := headReady_pause (s := s) (wid := wid) hpause
      have hx : exec (.entryRetire wid) s = execEntryRetire wid s := rfl
      simp only [hx, execEntryRetire, hhead, hready, hp, Bool.false_eq_true, if_false, if_true, State.pauseOldest, State.pause,
        State.updWarp, State.warp_setWarp_self, State.setWarp_setWarp]
      rfl
    case turn =>
      obtain ⟨hready, hp⟩ := headReady_turn (s := s) (wid := wid) hturn
      obtain ⟨-, es, hrob⟩ := head?_eq_some hhead
      have hx : exec (.entryRetire wid) s = execEntryRetire wid s := rfl
      simp only [hx, execEntryRetire, hhead, hready, hp, hbehind, Bool.false_eq_true, if_false, takeTurn_oldest hrob hturn hlate hmay]
    case grant =>
      have hnil : ws = fun _ => [] := funext hws
      have hfilter : (wid :: rest).filter (· != wid) = rest := by
        rw [List.filter_cons_of_neg (by simp), List.filter_eq_self]
        intro x hx
        have : x ≠ wid := fun h => by
          rw [List.contains_eq_mem, decide_eq_false_iff_not] at hrest
          exact hrest (h ▸ hx)
        simpa using this
      set x := s.updCore w.gcore (fun c => { c with extQueue := rest }) with hxdef
      have hcore : (x.core w.gcore).extQueue = rest := by
        rw [hxdef, State.updCore, State.core_setCore_self]
      have hgrant : x.retireOldest wid e Warp.takeExt = (x.updWarp wid Warp.takeExt).retireOldest wid e id :=
        retireOldest_grant (dest := dest) (hnil ▸ houts) hmoved (by rw [show (x.warp wid).gcore = w.gcore from rfl, hcore]; exact hrest)
      refine ⟨_, ?_, retireOldest_retired houts hin (by rw [State.warp_updWarp_self]; exact hpark) hlanes hmoved ?_⟩
      · have hx : exec (.rgacqGrant w.gcore) s = execRgacqGrant w.gcore s := rfl
        have hupd : s.updCore w.gcore (fun c => { c with extQueue := c.extQueue.filter (· != wid) }) = x := by
          rw [hxdef, State.updCore, State.updCore, hq, hfilter]
        simp only [hx, execRgacqGrant, nextGrant_first hq hfree hhead hext, hhead, hupd, hinstr]
        exact congrArg _ hgrant
      · left
        rw [State.warp_updWarp_self, State.warp_updWarp_self]
        rw [show (x.warp wid).takeExt.gcore = w.gcore from rfl]
        exact (congrArg (fun q => q.contains wid) hcore).trans hrest
    case sleep =>
      have hend := endPause_woken (ws := ws) (dest := dest) houts hpark hlanes
      refine ⟨_, ?_, hend⟩
      have hrob : ((endPause s wid e).warp wid).rob = (s.warp wid).rob := by rw [hend.rest]
      have hgt : (endPause s wid e).gt = s.gt := by rw [hend.only]; rfl
      have hfind : (s.warp wid).rob.zipIdx.find? (fun x => sleepOver s.gt x.1) = none :=
        List.find?_eq_none.mpr (fun x hx => by rw [hnone x.1 (List.fst_mem_of_mem_zipIdx hx)]; decide)
      have hnext : (endPause s wid e).entryWhere wid (sleepOver (endPause s wid e).gt) = none := by
        simp only [State.entryWhere, hrob, hgt, hfind, Option.map_none, ite_self]
      have hx : exec (.sleepWake wid) s = execSleepWake wid s := rfl
      have hon' : (s.warp wid).onCore = true := hon
      have hone' : (s.warp wid).pauses.filter (sleepOver s.gt) = [e] := hone
      simp only [hx, execSleepWake, hon', hone', Bool.not_true, Bool.false_eq_true, if_false, List.foldl_cons, List.foldl_nil, hnext]
    case idle =>
      refine ⟨_, ?_, endPause_woken (ws := ws) (dest := dest) houts hpark hlanes⟩
      have hx : exec (.idleWake wid) s = execIdleWake wid s := rfl
      have hon' : (s.warp wid).onCore = true := hon
      have hone' : (s.warp wid).pauses.filter (idleOver s (s.warp wid)) = [e] := hone
      simp only [hx, execIdleWake, hon', hone', if_true, List.foldl_cons, List.foldl_nil]
  · intro s f p hp w c sum hsat hrob hplace hlate hdec hfeeds hq
    simp only [List.mem_cons, List.not_mem_nil, or_false] at hp
    have hlane : ∀ sub l, lanes2 f (addSub32 sub f.mod5 f.mod6) c l = dst32 f.dst
        (if sub then c.w.src32 l f.sa f.imm - c.w.src32 l f.sb f.imm else c.w.src32 l f.sa f.imm + c.w.src32 l f.sb f.imm) := by
      intro sub l
      rw [lanes2, hsat, addSub32_eq, if_pos rfl]
    rcases hp with rfl | rfl
    · have hx : exec (.iadd f) s = execIadd f s := rfl
      obtain ⟨t, ht, hwent⟩ := performLanes_wentOn (i := .iadd f) (lane := lanes2 f (addSub32 false f.mod5 f.mod6)) (c := c) rfl
        (inCore_iadd f) rfl (fun _ => rfl) hrob hplace hlate hdec hfeeds hq
      simp only [hlane] at hwent
      exact ⟨t, by rw [hx, execIadd, ht], hwent⟩
    · have hx : exec (.isub f) s = execIsub f s := rfl
      obtain ⟨t, ht, hwent⟩ := performLanes_wentOn (i := .isub f) (lane := lanes2 f (addSub32 true f.mod5 f.mod6)) (c := c) rfl
        (inCore_isub f) rfl (fun _ => rfl) hrob hplace hlate hdec hfeeds hq
      simp only [hlane] at hwent
      exact ⟨t, by rw [hx, execIsub, ht], hwent⟩

end Sys2Proof.Machine
end

section
/-! # Proofs: the ends of waits (R206, R211, R227, R286, R304, R306, R341, R353, R374 to R376, R384) -/

namespace Sys2Proof.Machine

/-! ## The oldest entry of a warp -/

section
variable {s : State} {wid : Nat} {e : Entry} (hhead : s.head? wid = some e)
include hhead

/-- The oldest entry is the first that is as `p` says, if it is so itself. -/
theorem entryWhere_head {p : Entry → Bool} (hp : p e = true) : s.entryWhere wid p = some (0, e) := by
  obtain ⟨hon, es, hrob⟩ := head?_eq_some hhead
  simp only [State.entryWhere, hon, if_true, hrob, List.zipIdx_cons]
  rw [List.find?_cons_of_pos (by exact hp)]
  rfl

omit hhead in
/-- Nothing of the reorder buffer stands before the oldest entry. -/
theorem ctx_head : ({ s.entryCtx wid e with w := (s.warp wid).ahead ((s.warp wid).rob.take 0) } : Ctx) = s.entryCtx wid e := rfl

end

/-- The oldest entry, whose split has waited, is given outcomes. -/
theorem decideAt_head {s : State} {wid : Nat} {e : Entry} {os : List (Nat × LaneOutcome)} (hmoved : e.moved = false) :
    s.decideAt wid 0 e os none = s.setHead wid (e.decide os) := by
  simp only [State.decideAt, hmoved, Bool.not_false, Bool.and_true, decide_true, if_true]

/-- The oldest entry that is not at its turn is the first that may be performed, and with no choice given it is taken. -/
theorem chooseEntry_oldest {s : State} {wid : Nat} {e : Entry} {es : List Entry} {p : Entry → Bool} (hrob : (s.warp wid).rob = e :: es)
    (hp : p e = true) (hlate : s.late = []) (hmay : s.mayPerform wid 0 e.instr e.lanes = true) :
    chooseEntry s (performable s wid p) = some (s, 0) := by
  obtain ⟨ns, hns⟩ : ∃ ns, performable s wid p = 0 :: ns := by
    rw [performable, hrob, List.zipIdx_cons, List.filter_cons_of_pos (by simp [hp, hmay])]
    exact ⟨_, rfl⟩
  rw [hns]
  cases ns with
  | nil => rfl
  | cons n ns => simp only [chooseEntry, hlate]

/-- A load that is the oldest entry is performed, and its lanes stay where they have gone. -/
theorem performLeft_load {s : State} {wid : Nat} {e : Entry} {f : Fields} (hhead : s.head? wid = some e) (hwait : e.wait = .loadData)
    (hinstr : e.instr = .ld f) (hmoved : e.moved = true)
    (hsure : sureResult (loadLanes (s.entryCtx wid e) (s.atEntry wid 0 e) f) = true) : s.performLeft wid 0 =
      { ((loadLanes (s.entryCtx wid e) (s.atEntry wid 0 e) f).s.setHead wid { e with
          outs := (loadLanes (s.entryCtx wid e) (s.atEntry wid 0 e) f).outs
          flags := (loadLanes (s.entryCtx wid e) (s.atEntry wid 0 e) f).flags, wait := .nothing }).leaveExtQueue wid with
        cur := s.cur } := by
  obtain ⟨-, es, hrob⟩ := head?_eq_some hhead
  have h0 : (s.warp wid).rob[0]? = some e := by rw [hrob]; rfl
  generalize hr : loadLanes (s.entryCtx wid e) (s.atEntry wid 0 e) f = r at hsure ⊢
  have hconsumed : r.consumed = none := by
    simp only [sureResult, Bool.and_eq_true, Option.isNone_iff_eq_none] at hsure
    exact hsure.1.2
  have hclean : cleanOuts r.outs = true := by
    simp only [sureResult, Bool.and_eq_true] at hsure
    exact hsure.1.1.1.2
  have hbody : leftBody { s.entryCtx wid e with w := (s.warp wid).ahead ((s.warp wid).rob.take 0) } (s.atEntry wid 0 e) e.instr = r := by
    rw [ctx_head, hinstr, ← hr]
    rfl
  have hd : e.decided = false := by rw [Entry.decided, hwait]; rfl
  have hkeep : (r.s.owe wid 0 e.instr e.lanes).keepEntry wid 0 { e with outs := r.outs, flags := r.flags, wait := .nothing } =
      (r.s.setHead wid { e with outs := r.outs, flags := r.flags, wait := .nothing }).leaveExtQueue wid := by
    rw [owe_free (fun x hx => by simp [State.overtakes] at hx)]
    simp only [State.keepEntry, Entry.decided, beq_self_eq_true, hclean, hmoved, Bool.and_self, if_true, State.updWarp,
      State.warp_setWarp_self, State.setWarp_setWarp, State.setHead]
    rfl
  have hleft : (!e.moved || e.decided || e.wait == .turn) = false := by rw [hmoved, hd, hwait]; rfl
  simp only [State.performLeft, h0, hleft, hbody, hsure, hconsumed, Bool.true_or, if_true, Bool.false_eq_true, if_false, hkeep]

/-! ## Phases of a barrier (R374, R379) -/

/-- The phase of a barrier of this number. -/
def phaseOf (s : State) (id : Nat) : Option Nat := (s.barrier? id).map (·.phase)

theorem barrier?_updBarrier (s : State) (id j : Nat) {f : Barrier → Barrier} (hid : ∀ b, b.id = id → (f b).id = id) :
    (s.updBarrier id f).barrier? j = (s.barrier? j).map (fun b => if b.id == id then f b else b) := by
  have hp : (fun b : Barrier => (if b.id == id then f b else b).id == j) = fun b => b.id == j := by
    funext b
    by_cases h : b.id = id
    · rw [if_pos (beq_iff_eq.mpr h), hid b h, h]
    · rw [if_neg (fun hh => h (beq_iff_eq.mp hh))]
  rw [State.barrier?, State.barrier?, State.updBarrier]
  rw [List.find?_map]
  exact congrArg (Option.map _) (congrArg (fun p => s.loft.barriers.find? p) hp)

/-- The barriers are the same, but for arrivals. -/
def SamePhases (s t : State) : Prop := ∀ id, phaseOf t id = phaseOf s id

theorem SamePhases.refl (s : State) : SamePhases s s := fun _ => rfl
theorem SamePhases.trans {s t u : State} (h : SamePhases s t) (g : SamePhases t u) : SamePhases s u := fun id => (g id).trans (h id)

theorem SamePhases.updBarrier (s : State) (id : Nat) {f : Barrier → Barrier} (hid : ∀ b, (f b).id = b.id)
    (hph : ∀ b, (f b).phase = b.phase) : SamePhases s (s.updBarrier id f) := by
  intro j
  rw [phaseOf, phaseOf, barrier?_updBarrier s id j (fun b h => (hid b).trans h), Option.map_map]
  congr 1
  funext b
  by_cases h : (b.id == id) = true
  · simp only [Function.comp, h, if_true, hph]
  · simp only [Function.comp, h, Bool.false_eq_true, if_false]

theorem SamePhases.arrive (s : State) (id wid : Nat) (counted : Option Nat) (pend : Bool) :
    SamePhases s (s.arrive id wid counted pend).1 := by
  cases counted with
  | some n => exact SamePhases.refl s
  | none =>
    cases hb : s.barrier? id with
    | none => simp only [State.arrive, hb]; exact SamePhases.refl s
    | some b =>
      simp only [State.arrive, hb]
      split
      · exact SamePhases.refl s
      · split
        · exact SamePhases.updBarrier s id (fun _ => rfl) (fun _ => rfl)
        · split
          · exact SamePhases.updBarrier s id (fun _ => rfl) (fun _ => rfl)
          · exact SamePhases.refl s

theorem SamePhases.renewEntry (s : State) (b : Barrier) (wid : Nat) (e : Entry) : SamePhases s (s.renewEntry b wid e).1 := by
  cases hw : e.wait with
  | barrier id counted pend target =>
    have harr : ∀ n, SamePhases s (if State.arrives e.instr then s.arrive id wid n false else (s, n, false)).1 := fun n => by
      split
      · exact SamePhases.arrive s id wid n false
      · exact SamePhases.refl s
    simp only [State.renewEntry, hw]
    split
    · exact SamePhases.refl s
    · split
      · exact harr _
      · exact harr _
  | _ =>
    simp only [State.renewEntry, hw]
    exact SamePhases.refl s

theorem SamePhases.renewEntries (s : State) (b : Barrier) (wid : Nat) (es : List Entry) : SamePhases s (s.renewEntries b wid es).1 := by
  induction es generalizing s with
  | nil => exact SamePhases.refl s
  | cons e es ih => exact (SamePhases.renewEntry s b wid e).trans (ih _)

/-- What one member warp sees of a phase that has ended. -/
def renewMember (b : Barrier) (s : State) (wid : Nat) : State :=
  let (s, rob) := s.renewEntries b wid (s.warp wid).rob
  let s := s.updWarp wid (fun w => { w with rob, notes := w.notes.map (State.renewNote b) })
  s.blockEvent (s.warp wid).grid (s.warp wid).block

theorem SamePhases.renewMember (b : Barrier) (s : State) (wid : Nat) : SamePhases s (renewMember b s wid) :=
  (SamePhases.renewEntries s b wid (s.warp wid).rob).trans (fun _ => rfl)

theorem SamePhases.renewMembers (b : Barrier) (s : State) (ws : List Nat) : SamePhases s (ws.foldl (Machine.renewMember b) s) := by
  induction ws generalizing s with
  | nil => exact SamePhases.refl s
  | cons wid ws ih => exact (SamePhases.renewMember b s wid).trans (ih _)

/-- The barrier once its phase has ended. -/
def nextPhase (b : Barrier) : Barrier := { b with phase := (b.phase + 1) % 2 ^ 16, arr := b.pend, pend := [] }

/-- The machine once a phase of a barrier has ended. -/
def endPhase (s : State) (id : Nat) (b : Barrier) : State :=
  let s := s.updBarrier id (fun _ => nextPhase b)
  (s.members (nextPhase b)).foldl (renewMember (nextPhase b)) s

theorem completePhases_ready {s : State} {id : Nat} {b : Barrier} (hb : s.barrier? id = some b) (hr : s.phaseReady b = true) (fuel : Nat) :
    s.completePhases id (fuel + 1) = (endPhase s id b).completePhases id fuel := by
  simp only [State.completePhases, hb, hr, Bool.not_true, Bool.false_eq_true, if_false]
  rfl

theorem completePhases_notReady {s : State} {id : Nat} {b : Barrier} (hb : s.barrier? id = some b) (hr : s.phaseReady b = false)
    (fuel : Nat) : s.completePhases id fuel = s := by
  cases fuel with
  | zero => rfl
  | succ n => simp only [State.completePhases, hb, hr, Bool.not_false, if_true]

theorem phaseOf_endPhase {s : State} {id : Nat} {b : Barrier} (hb : s.barrier? id = some b) :
    phaseOf (endPhase s id b) id = some ((b.phase + 1) % 2 ^ 16) := by
  have hid : b.id = id := eq_of_beq (List.find?_some (p := fun b : Barrier => b.id == id) hb)
  have h := SamePhases.renewMembers (nextPhase b) (s.updBarrier id (fun _ => nextPhase b))
    ((s.updBarrier id (fun _ => nextPhase b)).members (nextPhase b)) id
  rw [endPhase, h, phaseOf, barrier?_updBarrier s id id (f := fun _ => nextPhase b) (fun _ _ => hid), hb, Option.map_some,
    if_pos (beq_iff_eq.mpr hid)]
  rfl

/-- Phases that complete one after another are counted. -/
theorem completePhases_count (fuel : Nat) : ∀ {s : State} {id ph : Nat}, phaseOf s id = some ph → ph < 2 ^ 16 →
    ∃ n ≤ fuel, phaseOf (s.completePhases id fuel) id = some ((ph + n) % 2 ^ 16) := by
  induction fuel with
  | zero => exact fun h hlt => ⟨0, le_rfl, by rw [State.completePhases, h, Nat.add_zero, Nat.mod_eq_of_lt hlt]⟩
  | succ fuel ih =>
    intro s id ph h hlt
    obtain ⟨b, hb, rfl⟩ := Option.map_eq_some_iff.mp h
    by_cases hr : s.phaseReady b = true
    · obtain ⟨n, hn, hp⟩ := ih (phaseOf_endPhase hb) (Nat.mod_lt _ (by decide))
      refine ⟨n + 1, by omega, ?_⟩
      rw [completePhases_ready hb hr, hp]
      congr 1
      omega
    · refine ⟨0, by omega, ?_⟩
      rw [completePhases_notReady hb (eq_false_of_ne_true hr), h, Nat.add_zero, Nat.mod_eq_of_lt hlt]

/-- A phase that may complete is the next one; further ones complete only while arrivals make them ready. -/
theorem completePhases_next {s : State} {id fuel : Nat} {b : Barrier} (hb : s.barrier? id = some b) (hr : s.phaseReady b = true) :
    ∃ y z n, (s.completePhases id (fuel + 1)).barrier? id = some y ∧ (s.completePhases id 1).barrier? id = some z ∧
      z.phase = (b.phase + 1) % 2 ^ 16 ∧ 1 ≤ n ∧ n ≤ fuel + 1 ∧ y.phase = (b.phase + n) % 2 ^ 16 ∧
      ((s.completePhases id 1).phaseReady z = false → n = 1 ∧ s.completePhases id (fuel + 1) = s.completePhases id 1) := by
  have hone : s.completePhases id 1 = endPhase s id b := completePhases_ready hb hr 0
  obtain ⟨z, hz, hzph⟩ := Option.map_eq_some_iff.mp (phaseOf_endPhase hb)
  rw [hone, completePhases_ready hb hr]
  by_cases hzr : (endPhase s id b).phaseReady z = true
  · obtain ⟨n, hn, hp⟩ := completePhases_count fuel (phaseOf_endPhase hb) (Nat.mod_lt _ (by decide))
    obtain ⟨y, hy, hyph⟩ := Option.map_eq_some_iff.mp hp
    refine ⟨y, z, n + 1, hy, hz, hzph, by omega, by omega, ?_, fun h => absurd hzr (by rw [h]; decide)⟩
    rw [hyph]
    omega
  · have hstop := completePhases_notReady hz (eq_false_of_ne_true hzr) fuel
    exact ⟨z, z, 1, by rw [hstop]; exact hz, hz, hzph, le_rfl, by omega, hzph, fun _ => ⟨rfl, hstop⟩⟩

/-! ## The events -/

theorem payBefore_unowed {s : State} {wid : Nat} (h : owedWhere s (owesTo wid s) = []) : payBefore s wid = s ∧ owing s wid = false := by
  have hpay : payOwed s (owesTo wid) (255 + 1) = s := by rw [payOwed, h]
  exact ⟨hpay, by rw [owing, h]; rfl⟩

/-- A resident warp whose hang count has reached its tenant's limit in force. -/
theorem hung_iff {s : State} {w : Warp} : hung s w = true ↔ w.onCore = true ∧
    (if (s.tenant w.tenant).limitFrom ≤ s.gt then (s.tenant w.tenant).wdoglim else (s.tenant w.tenant).limitBefore) ≠ 0 ∧
    w.parkedSince = none ∧ struckLanes w ≠ [] ∧
    w.hangBase + (if (s.tenant w.tenant).limitFrom ≤ s.gt then (s.tenant w.tenant).wdoglim else (s.tenant w.tenant).limitBefore) ≤ s.gt := by
  simp only [hung, overLimit, hangLimit, Bool.and_eq_true, bne_iff_ne, Option.isNone_iff_eq_none, Bool.not_eq_true',
    List.isEmpty_eq_false_iff, ge_iff_le, decide_eq_true_eq, and_assoc]

/-- Settles O44: each event finds the oldest entry, and serves it. -/
theorem waitOutcomeEvents : Obligations.WaitOutcomeEvents := by
  unfold Obligations.WaitOutcomeEvents
  intro s wid lane e f
  dsimp only
  refine ⟨fun hhead => ⟨fun hwait hinstr hmoved hlate howed hsure => ?load, fun hmoved => ⟨fun hwait hinstr hc => ?bcwait,
    fun r hr hwf hlim hdue => ?timeout, fun r g hr hwid hwf hinstr hfull hbad => ?serve, fun rest hws hwait hf => ?kick⟩,
    fun addr rest hlen hws hwait => ?pcmd⟩, fun silo => ⟨fun hws => ?gleaner, fun hws hhead hmoved hwf hf => ?placing⟩,
    fun hparked hon => ⟨fun b hb => ?handed, fun hb => ?noMapping, fun hb => ?permission⟩, ⟨?watchdog, fun hrob => ?settled⟩,
    fun bar x hx => ⟨?phase, fun hpod hready => ?phases⟩⟩
  case load =>
    obtain ⟨hon, es, hrob⟩ := head?_eq_some hhead
    obtain ⟨hpay, howing⟩ := payBefore_unowed howed
    have hmay : s.mayPerform wid 0 e.instr e.lanes = true := by
      rw [hinstr]
      simp [State.mayPerform, State.fed, State.readsInOrder]
    have hchoose := chooseEntry_oldest (p := fun e => e.wait == .loadData) hrob (by rw [hwait]; rfl) hlate hmay
    have hx : exec (.loadDataReturn wid) s = execLoadDataReturn wid s := rfl
    simp only [hx, execLoadDataReturn, hpay, howing, hon, Bool.not_true, Bool.or_self, Bool.false_eq_true, if_false, hchoose,
      performLeft_load hhead hwait hinstr hmoved hsure]
  case bcwait =>
    have hx : exec (.bcwaitReturn wid) s = execBcwaitReturn wid s := rfl
    simp only [hx, execBcwaitReturn, entryWhere_head hhead (p := fun e => e.wait == .byteCount) (by rw [hwait]; rfl), hinstr, ctx_head, hc,
      decideAt_head hmoved]
  case timeout =>
    have hx : exec (.feTimeout wid lane) s = execFeTimeout wid lane s := rfl
    have hover : (decide ((s.warp wid).feLimit = 0) || decide (s.gt < r.since + (s.warp wid).feLimit.toNat)) = false := by
      rw [decide_eq_false hlim, decide_eq_false (by omega)]
      rfl
    simp only [hx, execFeTimeout, entryWhere_head hhead hwf, hr, hover, Bool.false_eq_true, if_false, decideAt_head hmoved]
    rfl
  case serve =>
    have hx : exec (.ldfeServe g) s = execLdfeServe g s := rfl
    subst hwid
    have hahead : (s.warp r.wid).ahead ((s.warp r.wid).rob.take 0) = s.warp r.wid := rfl
    simp only [hx, execLdfeServe, hr, entryWhere_head hhead hwf, hinstr, hfull, Bool.not_true, Bool.false_eq_true, if_false, hahead, hbad,
      decideAt_head hmoved]
  case kick =>
    have hx : exec (.kickQueueFree (kickEngine e.instr (s.warp wid))) s = execKickQueueFree (kickEngine e.instr (s.warp wid)) s := rfl
    have hentry := entryWhere_head hhead
      (p := fun x => x.wait == .kickQueue && kickEngine x.instr (s.warp wid) == kickEngine e.instr (s.warp wid)) (by rw [hwait]; simp)
    have hahead : (s.warp wid).ahead ((s.warp wid).rob.take 0) = s.warp wid := rfl
    simp only [hx, execKickQueueFree, hws, hentry, hf, hahead, decideAt_head hmoved]
  case pcmd =>
    have hx : exec .pcmdQueueFree s = execPcmdQueueFree s := rfl
    simp only [hx, execPcmdQueueFree, Nat.not_le.mpr hlen, if_false, hws, hhead, hwait]
    rfl
  case gleaner =>
    have hx : exec (.gleanerQueueFree silo) s = execGleanerQueueFree silo s := rfl
    simp only [hx, execGleanerQueueFree, hws, List.foldl_nil]
  case placing =>
    have hx : exec (.gleanerQueueFree silo) s = execGleanerQueueFree silo s := rfl
    have hentry := entryWhere_head hhead
      (p := fun e => waitsForSilo (serveGleaner s silo) silo e ((serveGleaner s silo).warp wid)) hwf
    simp only [hx, execGleanerQueueFree, hws, List.foldl_cons, List.foldl_nil, servePlacing, hentry, hf, ctx_head, decideAt_head hmoved]
  case handed =>
    have hx : exec (.translationWalk wid lane) s = execTranslationWalk wid lane s := rfl
    simp only [hx, execTranslationWalk, hparked, hon, hb, bne_self_eq_false, Bool.not_true, Bool.or_self, Bool.false_eq_true, if_false]
  case noMapping =>
    have hx : exec (.translationWalk wid lane) s = execTranslationWalk wid lane s := rfl
    simp only [hx, execTranslationWalk, hparked, hon, hb, bne_self_eq_false, Bool.not_true, Bool.or_self, Bool.false_eq_true, if_false]
    rfl
  case permission =>
    have hx : exec (.translationWalk wid lane) s = execTranslationWalk wid lane s := rfl
    simp only [hx, execTranslationWalk, hparked, hon, hb, bne_self_eq_false, Bool.not_true, Bool.or_self, Bool.false_eq_true, if_false]
    rfl
  case watchdog =>
    have hx : exec (.watchdog wid) s = execWatchdog wid s := rfl
    rw [hx, execWatchdog]
    by_cases hh : hung s (s.warp wid) = true
    · rw [if_pos (hung_iff.mp hh), hh]
      rfl
    · rw [if_neg (fun h => hh (hung_iff.mpr h)), eq_false_of_ne_true hh]
      rfl
  case settled =>
    have hnone : s.head? wid = none := by
      rw [State.head?, hrob]
      simp
    rw [State.settleBuffer, hnone]
  case phase =>
    have hx' : exec (.barrierPhaseComplete bar) s = execBarrierPhaseComplete bar s := rfl
    simp only [hx', execBarrierPhaseComplete, hx]
  case phases =>
    obtain ⟨y, z, n, h⟩ := completePhases_next (fuel := (s.members x).foldl (fun m wid => max m (s.warp wid).rob.length) 0 + 2) hx hready
    refine ⟨_, y, z, n, ?_, h⟩
    have hx' : exec (.barrierPhaseComplete bar) s = execBarrierPhaseComplete bar s := rfl
    simp only [hx', execBarrierPhaseComplete, hx, hpod, Bool.false_eq_true, if_false, State.completePhase]

end Sys2Proof.Machine
end

section
/-! # Proofs: the host's enqueues, placement, restores and lost contexts (R19, R207, R265 to R273, R305, R308) -/

namespace Sys2Proof.Machine

/-! ## Pod barriers that open (R14, R22) -/

/-- The launch queues and the records of the grids are the same. -/
structure SameWork (s t : State) : Prop where
  queue : ∀ q, t.queue q = s.queue q
  record : ∀ g, (t.grid g).record = (s.grid g).record

theorem SameWork.refl (s : State) : SameWork s s := ⟨fun _ => rfl, fun _ => rfl⟩
theorem SameWork.trans {s t u : State} (h : SameWork s t) (g : SameWork t u) : SameWork s u :=
  ⟨fun q => (g.queue q).trans (h.queue q), fun n => (g.record n).trans (h.record n)⟩

theorem get_map_keys {β : Type} (d : β) (m : Sparse β) (f : Nat × β → Nat × β) (hf : ∀ e, (f e).1 = e.1) (P : β → β → Prop) (hd : P d d)
    (hP : ∀ e, P (f e).2 e.2) (k : Nat) : P (Sparse.get d (m.map f) k) (Sparse.get d m k) := by
  induction m with
  | nil => exact hd
  | cons e m ih =>
    obtain ⟨j, x⟩ := e
    have hj := hf (j, x)
    have hx := hP (j, x)
    rw [List.map_cons]
    generalize f (j, x) = e' at hj hx
    obtain ⟨j', x'⟩ := e'
    obtain rfl : j' = j := hj
    by_cases hk : j' = k
    · rw [Sparse.get, Sparse.get, if_pos hk, if_pos hk]
      exact hx
    · rw [Sparse.get, Sparse.get, if_neg hk, if_neg hk]
      exact ih

theorem SameWork.notePods (s : State) : SameWork s s.notePods := by
  refine ⟨fun _ => rfl, fun g => ?_⟩
  refine get_map_keys {} s.loft.grids _ (fun e => ?_) (fun x y => x.record = y.record) rfl (fun e => ?_) g
  · dsimp only
    split <;> rfl
  · dsimp only
    split <;> rfl

theorem SameWork.addBarriers (s : State) (scope g owner n : Nat) : SameWork s (s.addBarriers scope g owner n) := by
  rw [State.addBarriers]
  exact List.foldlRecOn (motive := fun x : State => SameWork s x) (List.range n) _ (SameWork.refl s)
    (fun x hx i _ => hx.trans ⟨fun _ => rfl, fun _ => rfl⟩)

theorem SameWork.openPods (s : State) : SameWork s s.openPods := by
  rw [State.openPods]
  refine List.foldlRecOn (motive := fun x : State => SameWork s x) _ _ (SameWork.notePods s) (fun x hx g _ => ?_)
  dsimp only
  split
  · exact hx.trans (SameWork.addBarriers ..)
  · exact hx

/-! ## Acceptance (R264 to R267) -/

theorem grid_retain (s : State) (g : Grid) : (retain s g).1.grid (retain s g).2 = g := Sparse.get_set_self _ _ _ _

theorem queue_setQueue_self (s : State) (q : Nat) (l : List Nat) : (s.setQueue q l).queue q = l := Sparse.get_set_self _ _ _ _

/-- A grid record that passes its checks is retained and queued. -/
theorem acceptRecord_accepts {s : State} {r : BitVec 2048} (hkind : Rec.kind r ≠ 1) (hok : gridStatus s .supervisor r = 0)
    (hroom : queueEntries s (Rec.tenant r) (Rec.prio r) < 64) :
    (acceptRecord s .supervisor r).2.1 = 0 ∧
      ((acceptRecord s .supervisor r).1.grid (acceptRecord s .supervisor r).2.2).record = r ∧
      (acceptRecord s .supervisor r).1.queue (4 * Rec.tenant r + Rec.prio r) =
        s.queue (4 * Rec.tenant r + Rec.prio r) ++ [(acceptRecord s .supervisor r).2.2] := by
  set g : Grid := { record := r, enqgt := s.gt, gen := (s.tenant (Rec.tenant r)).gen, tenant := Rec.tenant r } with hg
  set q := 4 * Rec.tenant r + Rec.prio r with hq
  set b := (retain s g).1.setQueue q ((retain s g).1.queue q ++ [(retain s g).2]) with hb
  have h : acceptRecord s .supervisor r = (b.openPods, 0, (retain s g).2) := by
    simp only [acceptRecord, ownRecord, hkind, if_false, hok, ne_eq, not_true_eq_false, Nat.not_le.mpr hroom]
    rfl
  rw [h]
  refine ⟨rfl, ?_, ?_⟩
  · rw [(SameWork.openPods b).record, hb, show (State.setQueue (retain s g).1 q _).grid (retain s g).2 = (retain s g).1.grid (retain s g).2
      from rfl, grid_retain]
  · rw [(SameWork.openPods b).queue, hb, queue_setQueue_self]
    rfl

/-- A grid record that fails a check is refused. -/
theorem acceptRecord_refuses {s : State} {r : BitVec 2048} (hkind : Rec.kind r ≠ 1) (hbad : gridStatus s .supervisor r ≠ 0) :
    (acceptRecord s .supervisor r).2 = (gridStatus s .supervisor r, 0) ∧ ((acceptRecord s .supervisor r).1.grid 0).state = .refused ∧
      ((acceptRecord s .supervisor r).1.grid 0).reason = gridStatus s .supervisor r := by
  have h : acceptRecord s .supervisor r = refuse s
      { record := r, enqgt := s.gt, gen := (s.tenant (Rec.tenant r)).gen, tenant := Rec.tenant r } (gridStatus s .supervisor r) := by
    simp only [acceptRecord, ownRecord, hkind, if_false, hbad, ne_eq, not_false_eq_true, if_true]
  rw [h, refuse]
  exact ⟨rfl, by rw [State.grid_setGrid_self], by rw [State.grid_setGrid_self]⟩

/-! ## Placement (R18 to R20, R268, R273) -/

theorem gangPlacement_places {s o b : State} {queue quad base g gang : Nat} (ho : s.openPods = o) (hg : o.placingGrid queue = some g)
    (hserved : o.servedNow queue = true) (hmay : o.mayPlace g = true) (hwhole : o.placedWhole g = false)
    (hfits : o.gangFits g quad base = true) (htake : o.takeGang g = some (gang, b)) :
    exec (.gangPlacement queue quad base) s = .next ((b.addGang g gang quad base none).settlePlacement g) := by
  have hx : exec (.gangPlacement queue quad base) s = execGangPlacement queue quad base s := rfl
  simp only [hx, execGangPlacement, ho, hg, hserved, hmay, hwhole, hfits, htake, Bool.not_true, Bool.or_self, Bool.false_eq_true, if_false]

theorem coresidentPlacement_places {s o : State} {queue g : Nat} {places : List (Nat × Nat)} (ho : s.openPods = o)
    (hg : o.placingGrid queue = some g) (hserved : o.servedNow queue = true) (hmay : o.mayPlace g = true) (hwhole : o.placedWhole g = true)
    (hlen : places.length = (gangsToPlace (o.grid g)).length)
    (hquads : places.all (fun p => baseAllowed (Rec.g (o.grid g).record) p.2 && (o.workQuads g).contains p.1) = true) {wait : State}
    (hwait : wait = State.updGrid { o with loft := { o.loft with targets := keepTarget o.loft.targets (o.targetOf g places) } } g
      (fun x => { x with state := .placing })) :
    exec (.coresidentPlacement queue places) s =
      .next (((placeWhole wait g places).map (fun b => b.settlePlacement g)).getD wait) := by
  have hx : exec (.coresidentPlacement queue places) s = execCoresidentPlacement queue places s := rfl
  simp only [hx, execCoresidentPlacement, ho, hg, hserved, hmay, hwhole, hlen, hquads, ← hwait, Bool.not_true, Bool.or_self,
    Bool.false_eq_true, if_false, ne_eq, not_true_eq_false, decide_false]
  cases placeWhole wait g places <;> rfl

theorem stageReady_room {s : State} {p i : Nat} {st : Stage} (hst : (s.pipeline p).stages[i]? = some st) (hend : st.ended = false)
    (hitems : st.items ≠ [])
    (hroom : ∀ nx, (s.pipeline p).stages[i + 1]? = some nx → st.outmax ≤ outputRoom s p (i + 1) nx) : stageReady s p i = true := by
  simp only [stageReady, hst, hend, Bool.not_false, List.isEmpty_eq_false_iff.mpr hitems, Bool.and_self, Bool.true_and]
  cases hn : (s.pipeline p).stages[i + 1]? with
  | none => rfl
  | some nx => exact decide_eq_true (hroom nx hn)

theorem stageLaunch_launches {s : State} {pipe stage quad base : Nat} {st : Stage} (hst : (s.pipeline pipe).stages[stage]? = some st)
    (hend : st.ended = false) (hitems : st.items ≠ [])
    (hroom : ∀ nx, (s.pipeline pipe).stages[stage + 1]? = some nx → st.outmax ≤ outputRoom s pipe (stage + 1) nx)
    (hnone : s.loft.grids.find? (fun (e : Nat × Grid) =>
      e.2.pipe == some pipe && e.2.stage == stage && !e.2.relaunch.isEmpty && e.2.state != .retired) = none) {x : State × Nat}
    (hx : x = retain s { record := st.record, enqgt := s.gt, gen := (s.tenant (s.pipeline pipe).tenant).gen
                         tenant := (s.pipeline pipe).tenant, pipe := some pipe, stage })
    (hmay : x.1.mayPlace x.2 = true) (hfits : x.1.gangFits x.2 quad base = true) :
    exec (.stageLaunch pipe stage quad base) s = .next (launchStage x.1 pipe stage x.2 quad base st) := by
  have hgrid : stageGrid s pipe stage = some (x.1, x.2) := by
    rw [stageGrid, hst, Option.map_some, hnone, hx]
  have hexec : exec (.stageLaunch pipe stage quad base) s = .next (stageAt s pipe stage quad base) := rfl
  simp only [hexec, stageAt, hst, hgrid, stageReady_room hst hend hitems hroom, hmay, hfits, Bool.not_true, Bool.or_self,
    Bool.false_eq_true, if_false]

/-! ## Clearing (R207) -/

theorem byteAt_clearBytes (s : State) (p n a : Nat) : (s.clearBytes p n).byteAt a = if p ≤ a ∧ a < p + n then 0 else s.byteAt a := by
  have h := get_filter_key (0 : Byte) s.mem.cells (fun k => decide (k * 1 < p) || decide (p + n ≤ k * 1)) a
  have hx : (s.clearBytes p n).byteAt a = Sparse.get 0 (s.mem.cells.filter (fun e => decide (e.1 * 1 < p) || decide (p + n ≤ e.1 * 1))) a :=
    rfl
  rw [hx, h]
  by_cases ha : p ≤ a ∧ a < p + n
  · rw [if_pos ha, if_neg]
    simp only [Bool.or_eq_true, decide_eq_true_eq, not_or]
    omega
  · rw [if_neg ha, if_pos]
    · rfl
    · simp only [Bool.or_eq_true, decide_eq_true_eq]
      omega

theorem settleAddends_keeps (s : State) (p n : Nat) :
    (s.settleAddends p n).mem.cells = s.mem.cells ∧ (s.settleAddends p n).loft = s.loft := by
  rw [State.settleAddends]
  refine List.foldlRecOn (motive := fun x : State => x.mem.cells = s.mem.cells ∧ x.loft = s.loft) _ _ ⟨rfl, rfl⟩ (fun x hx a _ => ?_)
  split
  · exact hx
  · exact hx

theorem finishClearing_clears (s : State) (c : Nat × Nat × Nat) :
    (s.finishClearing c).loft.clearing = s.loft.clearing.filter (fun x => x != c) ∧
      ∀ a, (s.finishClearing c).byteAt a =
        if (scratchLoc c.1 c.2.1 0).phys ≤ a ∧ a < (scratchLoc c.1 c.2.1 0).phys + 4096 * c.2.2 then 0 else s.byteAt a := by
  obtain ⟨hcells, hloft⟩ := settleAddends_keeps s (scratchLoc c.1 c.2.1 0).phys (4096 * c.2.2)
  refine ⟨?_, fun a => ?_⟩
  · have hx : (s.finishClearing c).loft.clearing =
        (s.settleAddends (scratchLoc c.1 c.2.1 0).phys (4096 * c.2.2)).loft.clearing.filter (fun x => x != c) := rfl
    rw [hx, hloft]
  · have hx : (s.finishClearing c).byteAt a = ((s.settleAddends (scratchLoc c.1 c.2.1 0).phys (4096 * c.2.2)).clearBytes
        (scratchLoc c.1 c.2.1 0).phys (4096 * c.2.2)).byteAt a := rfl
    have hb : (s.settleAddends (scratchLoc c.1 c.2.1 0).phys (4096 * c.2.2)).byteAt a = s.byteAt a := congrArg (fun m => Sparse.get 0 m a) hcells
    rw [hx, byteAt_clearBytes, hb]

/-! ## Lost contexts (R305, R308) -/

theorem killDie_empty {s : State} {die : Nat} (h : ∀ b ∈ s.loft.blocks, b.alive = true → dieOf b.gcore ≠ die) : killDie s die = s := by
  have hnone : gangsOnDie s die = [] := by
    rw [gangsOnDie, List.filter_eq_nil_iff.mpr (fun b hb hx => ?_)]
    · rfl
    · simp only [Bool.and_eq_true, beq_iff_eq] at hx
      exact h b hb hx.1 hx.2
  rw [killDie, hnone]
  rfl

/-- Settles O45: each event meets its conditions and does its work. -/
theorem placementEvents : Obligations.PlacementEvents := by
  unfold Obligations.PlacementEvents
  intro s queue quad base g
  refine ⟨fun p hp r => ?enqueue, ?place, fun pipe stage st hst hend hitems hroom hnone => ?stage, fun col unit n hc => ?clear,
    fun wid hsaved => ⟨?expiry, fun hres hmode => ?restore⟩, fun die => ⟨rfl, killDie_empty⟩⟩
  case enqueue =>
    refine ⟨?_, acceptRecord_accepts, acceptRecord_refuses⟩
    simp only [List.mem_cons, List.not_mem_nil, or_false] at hp
    rcases hp with rfl | rfl
    · rfl
    · rfl
  case place =>
    intro o hg hserved hmay
    refine ⟨fun gang b hwhole hfits htake => gangPlacement_places rfl hg hserved hmay hwhole hfits htake, fun places => ?_⟩
    intro hwhole hlen hquads wait
    have h := coresidentPlacement_places rfl hg hserved hmay hwhole hlen hquads (wait := wait) rfl
    rw [h]
    cases placeWhole wait g places <;> rfl
  case stage =>
    intro t x hmay hfits
    exact stageLaunch_launches hst hend hitems hroom hnone rfl hmay hfits
  case clear =>
    intro p
    obtain ⟨hclear, hbytes⟩ := finishClearing_clears s (col, unit, n)
    refine ⟨s.finishClearing (col, unit, n), ?_, hclear, fun a => ?_⟩
    · have hx : exec (.allocationClearDone col unit) s = execAllocationClearDone col unit s := rfl
      simp only [hx, execAllocationClearDone, hc]
    · have ha := hbytes a
      split
      · rw [ha, if_pos (by assumption)]
      · rw [ha, if_neg (by assumption)]
  case expiry =>
    have hx : exec (.saveBoundExpiry wid) s = execSaveBoundExpiry wid s := rfl
    simp only [hx, execSaveBoundExpiry, hsaved, Bool.not_true, Bool.false_eq_true, if_false]
  case restore =>
    have hx : exec (.contextRestore wid) s = execContextRestore wid s := rfl
    simp only [hx, execContextRestore, hsaved, hres, hmode, Option.any_none, Bool.not_true, Bool.or_self, Bool.false_eq_true, if_false]

end Sys2Proof.Machine
end

section
/-! # Proofs: the SPLIT register and the events of the copy engines (R214, R287, R288, R291, R318, R398) -/

namespace Sys2Proof.Machine

/-! ## A write of SPLIT (R214) -/

/-- A column after a write of SPLIT with DONE cleared where the write asks for it. -/
def doneCleared (c : Column) (val : DWord) : Column := if val.getLsbD 30 then { c with done := false } else c

/-- The size that a write of SPLIT asks for. -/
def askedSize (val : DWord) : Nat := (val.extractLsb' 0 4).toNat

theorem grownFrames_shrink {col old new : Nat} (h : new ≤ old) : State.grownFrames col old new = [] := by
  simp [State.grownFrames, Nat.sub_eq_zero_of_le h]

theorem splitWrite_same {s : State} {col : Nat} {val : DWord} (h : askedSize val = (doneCleared (s.column col) val).scrmib) :
    s.splitWrite col val = s.setColumn col { doneCleared (s.column col) val with refused := false, evicted := 0 } := if_pos h

theorem splitWrite_refused {s : State} {col : Nat} {val : DWord} (h : askedSize val ≠ (doneCleared (s.column col) val).scrmib)
    (hr : askedSize val > 8 ∨ (doneCleared (s.column col) val).busy = true ∨ s.cutsBlock col (askedSize val) = true) :
    s.splitWrite col val = s.setColumn col { doneCleared (s.column col) val with refused := true } := by
  refine (if_neg h).trans (if_pos ?_)
  change (decide (askedSize val > 8) || (doneCleared (s.column col) val).busy || s.cutsBlock col (askedSize val) || _) = true
  rcases hr with h8 | hb | hc
  · simp [h8]
  · simp [hb]
  · simp [hc]

/-- Neither the same size nor refused: the size changes. -/
theorem splitWrite_changes {s : State} {col : Nat} {val : DWord} (h : askedSize val ≠ (doneCleared (s.column col) val).scrmib)
    (h8 : askedSize val ≤ 8) (hb : (doneCleared (s.column col) val).busy = false) (hc : s.cutsBlock col (askedSize val) = false)
    (hp : s.pinnedIn (State.grownFrames col (doneCleared (s.column col) val).scrmib (askedSize val)) = false) :
    s.splitWrite col val =
      (if askedSize val < (doneCleared (s.column col) val).scrmib then
        ((State.grownFrames col (askedSize val) (doneCleared (s.column col) val).scrmib).foldl (fun s fid => s.freeFrame fid)
          ((s.loft.clearing.filter (fun x => x.1 == col && x.2.1 < 4096 - 256 * askedSize val)).foldl
            (fun s x => s.finishClearing x) s)).setColumn col
          { doneCleared (s.column col) val with
            scrmib := askedSize val, oldmib := (doneCleared (s.column col) val).scrmib, refused := false
            evicted := 256 * ((doneCleared (s.column col) val).scrmib - askedSize val), done := true }
      else s.setColumn col { doneCleared (s.column col) val with
            scrmib := askedSize val, oldmib := (doneCleared (s.column col) val).scrmib, refused := false
            evicted := 256 * (askedSize val - (doneCleared (s.column col) val).scrmib), busy := true }) := by
  refine (if_neg h).trans (if_neg ?_)
  change ¬ (decide (askedSize val > 8) || (doneCleared (s.column col) val).busy || s.cutsBlock col (askedSize val) ||
    s.pinnedIn (State.grownFrames col (doneCleared (s.column col) val).scrmib (askedSize val))) = true
  simp [hb, hc, hp, h8]

/-- A smaller size is in force at once; no frame of a shrink can be pinned, since none of them holds a page yet. -/
theorem splitWrite_shrinks {s : State} {col : Nat} {val : DWord} (h : askedSize val < (doneCleared (s.column col) val).scrmib)
    (h8 : askedSize val ≤ 8) (hb : (doneCleared (s.column col) val).busy = false) (hc : s.cutsBlock col (askedSize val) = false) :
    (s.splitWrite col val).column col = { doneCleared (s.column col) val with
      scrmib := askedSize val, oldmib := (doneCleared (s.column col) val).scrmib, refused := false, done := true
      evicted := 256 * ((doneCleared (s.column col) val).scrmib - askedSize val) } := by
  have hp : s.pinnedIn (State.grownFrames col (doneCleared (s.column col) val).scrmib (askedSize val)) = false := by
    rw [grownFrames_shrink h.le]; rfl
  rw [splitWrite_changes h.ne h8 hb hc hp, if_pos h, State.column_setColumn_self]

theorem splitWrite_grows {s : State} {col : Nat} {val : DWord} (h : (doneCleared (s.column col) val).scrmib < askedSize val)
    (h8 : askedSize val ≤ 8) (hb : (doneCleared (s.column col) val).busy = false) (hc : s.cutsBlock col (askedSize val) = false)
    (hp : s.pinnedIn (State.grownFrames col (doneCleared (s.column col) val).scrmib (askedSize val)) = false) :
    s.splitWrite col val = s.setColumn col { doneCleared (s.column col) val with
      scrmib := askedSize val, oldmib := (doneCleared (s.column col) val).scrmib, refused := false, busy := true
      evicted := 256 * (askedSize val - (doneCleared (s.column col) val).scrmib) } := by
  rw [splitWrite_changes h.ne' h8 hb hc hp, if_neg (Nat.not_lt.mpr h.le)]

/-! ## The steps of an engine (R287, R291) -/

theorem engineStep_fetch (s : State) (id : Nat) : s.engineStep id 0 = .next (State.fetchRequest { s with cur := {} } id) := rfl

theorem engineStep_found {s : State} {id serial : Nat} {r : Request} (h : serial ≠ 0)
    (hf : (s.engine id).progress.find? (fun r => r.serial == serial) = some r) :
    s.engineStep id serial = State.advanceRequest { s with cur := {} } id r := by
  have hf' : (State.engine { s with cur := {} } id).progress.find? (fun r => r.serial == serial) = some r := hf
  simp only [State.engineStep, if_neg h, hf']

theorem advanceRequest_passes {s b : State} {id : Nat} {r : Request} (hc : r.checked = false) (h : s.checkRequest r = .passed b) :
    s.advanceRequest id r = .next (b.setRequest id { r with checked := true, todo := List.range r.pieces.length }) := by
  simp [State.advanceRequest, hc, h]

theorem advanceRequest_faults {s b : State} {id cause : Nat} {r : Request} (hc : r.checked = false)
    (h : s.checkRequest r = .faulted b cause) : s.advanceRequest id r = .next (b.faultRequest id r cause) := by
  simp [State.advanceRequest, hc, h]

theorem advanceRequest_copies {s b : State} {id : Nat} {r : Request} (hc : r.checked = true) (hp : r.pos < r.total)
    (he : ∀ x ∈ (s.engine id).progress, x.kick = r.kick → x.offset < r.offset → x.checked = true)
    (h : s.copyPiece id r = .passed b) : s.advanceRequest id r = .next b := by
  have hany : (s.engine id).progress.any (fun x => x.kick == r.kick && decide (x.offset < r.offset) && !x.checked) = false := by
    refine List.any_eq_false.mpr (fun x hx => ?_)
    by_cases hk : x.kick = r.kick <;> by_cases ho : x.offset < r.offset <;> simp [hk, ho]
    exact he x hx hk ho
  simp [State.advanceRequest, hc, Nat.not_le.mpr hp, hany, h]

theorem engineComplete_leaves {s : State} {id serial : Nat} {r : Request}
    (hf : (s.engine id).progress.find? (fun r => r.serial == serial) = some r) (hc : r.checked = true) (hp : r.total ≤ r.pos)
    (hpub : r.pub = false) : s.engineComplete id serial = s.leaveRequest id r 1 := by
  simp [State.engineComplete, hf, State.completeRequest, hc, Nat.not_lt.mpr hp, hpub]

/-! ## Register writes (R318, R398) -/

theorem retrainFailed_waves {x : LinkDir} {e : Nat × Wave} (h : e ∈ (retrainFailed x).waves) : e.2.state ≠ .failed := by
  obtain ⟨y, -, rfl⟩ := List.mem_map.mp h
  by_cases hy : y.2.state = .failed
  · simp [hy]
  · simp [hy]

/-- Settles O48: the outcomes of a write of SPLIT by its cases, and one step of an engine by what its checks find. -/
theorem splitAndEngineEvents : Obligations.SplitAndEngineEvents := by
  unfold Obligations.SplitAndEngineEvents
  refine ⟨fun s col val => ⟨splitWrite_same, fun h hr => splitWrite_refused h (hr.imp_right .inl), fun h h8 hb hc => ?_⟩,
    fun s core die engine serial dir val r => ?_⟩
  · have := splitWrite_shrinks h h8 hb hc
    exact ⟨congrArg Column.scrmib this, (congrArg Column.busy this).trans hb, congrArg Column.done this⟩
  · dsimp only
    have hcore : ∀ n, core < 384 → exec (.wainRequest core n) s = s.engineStep core n := fun n h => by
      change s.engineStep (core % 384) n = _
      rw [Nat.mod_eq_of_lt h]
    refine ⟨fun h => hcore 0 h, fun hd he hn => ?_, fun h hs hf => ?_, ?_, ?_⟩
    · change execDieEngineRequest die engine 0 s = _
      simp only [execDieEngineRequest, Nat.mod_eq_of_lt hd, Nat.mod_eq_of_lt he, hn, engineStep_fetch]
    · rw [hcore serial h, engineStep_found hs hf]
      refine ⟨fun b hc hp => advanceRequest_passes hc hp, fun b cause hc hp => advanceRequest_faults hc hp,
        fun b hc hp he hcp => advanceRequest_copies hc hp he hcp, fun hc hp hpub => ?_⟩
      change Host.Outcome.next (s.engineComplete (core % 384) serial) = _
      rw [Nat.mod_eq_of_lt h, engineComplete_leaves hf hc hp hpub]
    · refine ⟨_, rfl, fun h => ?_, fun h => if_neg (by rw [h]; exact Bool.false_ne_true)⟩
      rw [if_pos h]
      exact congrArg Die.elast (State.die_setDie_self s die _)
    · refine ⟨_, rfl, ?_, ?_, ?_, fun d hd => Sparse.get_set_other _ _ _ hd⟩
      · rw [State.linkDir_setLinkDir_self]; rfl
      · rw [State.linkDir_setLinkDir_self]; rfl
      · rw [State.linkDir_setLinkDir_self]; exact fun e he => retrainFailed_waves he

end Sys2Proof.Machine
end

section
/-! # Proofs: what the gleaner's switches leave (R331 to R334, R338) -/

namespace Sys2Proof.Machine

/-! ## Memory alone -/

theorem Stored.ite {p : Prop} [Decidable p] {s a b : State} (ha : Stored s a) (hb : Stored s b) : Stored s (if p then a else b) := by
  split
  · exact ha
  · exact hb

theorem Stored.carrySector (s : State) (src dst : Nat) : Stored s (s.carrySector src dst) := by
  unfold State.carrySector
  have hread := Stored.readBytes s src 64
  generalize s.readBytes src 64 = r at hread ⊢
  obtain ⟨x, bs, bad⟩ := r
  exact ((hread.trans (Stored.setBytes x dst bs)).trans ((Stored.setSyndrome _ _ _).trans (Stored.setSyndrome _ _ _))).trans
    (Stored.ite (Stored.poison _ _ _) (Stored.refl _))

theorem Stored.frame {s t : State} (h : Stored s t) (fid : Nat) : t.frame fid = s.frame fid := frame_of_tables h.tables fid

/-! ## The number of the package -/

/-- The package keeps its number. -/
structure SamePkg (s t : State) : Prop where
  pkg : t.net.pkg = s.net.pkg

namespace SamePkg

theorem refl (s : State) : SamePkg s s := ⟨rfl⟩
theorem trans {s x t : State} (h : SamePkg s x) (h' : SamePkg x t) : SamePkg s t := ⟨h'.pkg.trans h.pkg⟩

theorem ite {p : Prop} [Decidable p] {s a b : State} (ha : SamePkg s a) (hb : SamePkg s b) : SamePkg s (if p then a else b) := by
  split
  · exact ha
  · exact hb

theorem foldl {α : Type} {g : State → α → State} (h : ∀ x a, SamePkg x (g x a)) (l : List α) (s : State) : SamePkg s (l.foldl g s) :=
  List.foldlRecOn l g (refl s) (fun x hx a _ => hx.trans (h x a))

theorem of_stored {s t : State} (h : Stored s t) : SamePkg s t := ⟨congrArg Net.pkg h.net⟩

theorem restoreWave (s : State) (d w : Nat) : SamePkg s (s.restoreWave d w) := ⟨rfl⟩
theorem setDirEntry (s : State) (e : DirEntry) : SamePkg s (s.setDirEntry e) := ⟨rfl⟩
theorem dropDirEntry (s : State) (line : Nat) : SamePkg s (s.dropDirEntry line) := ⟨rfl⟩
theorem setExported (s : State) (line : Nat) (b : Bool) : SamePkg s (s.setExported line b) := ⟨rfl⟩
theorem updFrame (s : State) (fid : Nat) (f : Frame → Frame) : SamePkg s (s.updFrame fid f) := ⟨rfl⟩
theorem dropForward (s : State) (backing : Nat) : SamePkg s (s.dropForward backing) := ⟨rfl⟩
theorem beginForwarding (s : State) (fid fwd h : Nat) (b : Bool) : SamePkg s (s.beginForwarding fid fwd h b) := ⟨rfl⟩

theorem setLinkDir (s : State) (d : Nat) (x : LinkDir) : SamePkg s (s.setLinkDir d x) := ⟨rfl⟩

theorem putFlit (s : State) (link : Nat) (f : Flit) : SamePkg s (s.putFlit link f) :=
  (foldl (fun x w => restoreWave x _ w) _ s).trans (setLinkDir _ _ _)

theorem sendMessage (s : State) (t c vc a : Nat) (data : List Byte) (dst : Nat) : SamePkg s (s.sendMessage t c vc a data dst) := by
  unfold State.sendMessage
  split
  · exact refl s
  · rename_i link _
    exact ⟨(putFlit s link { gen := (s.tenant t).gen, tenant := t, tclass := c, vc, dpkg := dst, payload := messagePayload vc a data }).pkg⟩

theorem sendMasked (s : State) (t here home : Nat) : SamePkg s (s.sendMasked t here home) := by
  unfold State.sendMasked
  extract_lets masked
  split
  · exact refl s
  · exact ((of_stored (Stored.readBytes s here 64)).trans (sendMessage _ t 0 2 home _ _)).trans
      ((of_stored (Stored.mergeBytes _ home 2 _)).trans (ite (of_stored (Stored.poison _ _ _)) (refl _)))

theorem writeBackLine (s : State) (fid n : Nat) : SamePkg s (s.writeBackLine fid n) := by
  unfold State.writeBackLine
  extract_lets fr here home s1 s2
  have h1 : SamePkg s s1 := foldl (fun x _ => sendMasked x _ _ _) _ s
  exact (h1.trans (of_stored (Stored.setMasks s1 _ _ _))).trans (updFrame s2 _ _)

theorem dirWriteBack (s : State) (line p : Nat) (keep : Bool) : SamePkg s (s.dirWriteBack line p keep) := by
  unfold State.dirWriteBack
  split
  · exact ite (ite ((dropDirEntry s _).trans (setExported _ _ _)) (setDirEntry s _)) (refl s)
  · exact refl s

theorem dirDrop (s : State) (line p : Nat) : SamePkg s (s.dirDrop line p) := by
  unfold State.dirDrop
  split
  · exact ite (ite ((dropDirEntry s _).trans (setExported _ _ _)) (setDirEntry s _)) (setDirEntry s _)
  · exact refl s

theorem invalidateReplicas (s : State) (master n : Nat) : SamePkg s (s.invalidateReplicas master n) :=
  foldl (fun x _ => ite (foldl (fun y _ => updFrame y _ _) _ x) (refl x)) _ s

theorem putHome (s : State) (line : Nat) (bytes : List (Nat × Byte)) : SamePkg s (s.putHome line bytes) := by
  have hmerge : ∀ (x : State) (p w : Nat) (bs : List (Nat × Byte)), SamePkg x (x.mergeBytes p w bs) :=
    fun x p w bs => of_stored (Stored.mergeBytes x p w bs)
  refine foldl (fun x i => ?_) _ s
  extract_lets here n
  split
  · exact (ite (refl x) (invalidateReplicas x _ _)).trans (ite (hmerge _ _ _ _) ((hmerge _ _ _ _).trans (updFrame _ _ _)))
  · exact hmerge x _ _ _

theorem dropLine (s : State) (fid n : Nat) : SamePkg s (s.dropLine fid n) := by
  unfold State.dropLine
  extract_lets s1
  exact (of_stored (Stored.setMasks s _ _ _)).trans (updFrame s1 _ _)

theorem loseLine (s : State) (line : Nat) (owned : Bool) : SamePkg s (s.loseLine line owned) := by
  unfold State.loseLine
  split
  · exact (ite (writeBackLine s _ _) (refl s)).trans (dropLine _ _ _)
  · exact refl s

theorem invalidateHolders (s : State) (e : DirEntry) (keep : Option Nat) : SamePkg s (s.invalidateHolders e keep) := by
  have hsettle : SamePkg s (s.settleOwner e.line) := by
    unfold State.settleOwner
    split
    · exact putHome s _ _
    · exact refl s
  exact (ite hsettle (refl s)).trans (ite (loseLine _ _ _) (refl _))

theorem countResolved (s : State) (p : Nat) (forwarded : Bool) : SamePkg s (s.countResolved p forwarded) :=
  ite (refl s) (ite ⟨rfl⟩ ⟨rfl⟩)

theorem dirHomeWrite (s : State) (line : Nat) : SamePkg s (s.dirHomeWrite line) := by
  unfold State.dirHomeWrite
  extract_lets home
  split
  · exact (((invalidateHolders s _ _).trans (dropDirEntry _ _)).trans (setExported _ _ _)).trans (countResolved _ _ _)
  · exact (setExported s _ _).trans (countResolved _ _ _)

theorem leaveRemote (s : State) (fid : Nat) : SamePkg s (s.leaveRemote fid) := by
  refine foldl (fun x n => ?_) _ s
  extract_lets line
  clear_value line
  split
  case h_1 =>
    rename_i clean y _ _ _
    have hy : SamePkg x y := writeBackLine x fid n
    have hsend : SamePkg y (y.sendMessage (s.frame fid).owner 0 2 (256 * line)) := sendMessage y _ _ _ _ _ _
    clear_value clean y
    exact hy.trans (ite ((ite hsend (refl y)).trans (dirWriteBack _ _ _ _)) (ite (hsend.trans (dirDrop _ _ _)) (refl y)))
  case h_2 => exact writeBackLine x _ _

theorem writeBackFrame (s : State) (fid : Nat) : SamePkg s (s.writeBackFrame fid) := by
  unfold State.writeBackFrame
  extract_lets fr
  split
  · exact leaveRemote s fid
  · refine foldl (fun x n => ite ?_ (refl x)) _ s
    extract_lets a
    exact (ite ((sendMessage x _ _ _ _ _ _).trans (dirHomeWrite _ _)) (refl x)).trans (of_stored (Stored.carrySector _ _ _))

theorem giveBack (s : State) (fid horizon : Nat) : SamePkg s (s.giveBack fid horizon) := by
  unfold State.giveBack
  extract_lets s1
  have h1 : SamePkg s s1 := ((writeBackFrame s fid).trans (dropForward _ (s.frame fid).backing)).trans (beginForwarding _ fid _ _ _)
  exact h1.trans (updFrame s1 _ _)

end SamePkg

/-! ## The parts of a switch -/

theorem settleWriters_warps (s : State) (m : Move) : s.settleWriters m = { s with warps := (s.settleWriters m).warps } := by
  refine List.foldlRecOn (motive := fun x : State => x = { s with warps := x.warps }) m.writers _ rfl (fun x hx y _ => ?_)
  rw [hx]
  split <;> rfl

theorem frame_settleWriters (s : State) (m : Move) (fid : Nat) : (s.settleWriters m).frame fid = s.frame fid := by
  rw [settleWriters_warps]; rfl

theorem net_settleWriters (s : State) (m : Move) : (s.settleWriters m).net = s.net := by
  rw [settleWriters_warps]

theorem frame_dropMove (s : State) (t v fid : Nat) : (s.dropMove t v).frame fid = s.frame fid := rfl
theorem raw64_dropMove (s : State) (t v p : Nat) : (s.dropMove t v).raw64 p = s.raw64 p :=
  raw64_of_mem (s := s) (t := s.dropMove t v) rfl p
theorem forwards_dropMove (s : State) (t v : Nat) : (s.dropMove t v).tables.forwards = s.tables.forwards := rfl

theorem moveOf_dropMove (s : State) (t v : Nat) : (s.dropMove t v).moveOf t v = none := by
  refine List.find?_eq_none.mpr (fun m hm => ?_)
  have h := (List.mem_filter.mp hm).2
  simp only [Bool.not_eq_true', Bool.eq_false_iff] at h
  exact h

/-- The end of a switch: the entry is written and the move is over. -/
theorem raw64_switched (s : State) (a : Nat) (x : DWord) (t v : Nat) : ((s.setRaw64 a x).dropMove t v).raw64 a = x := by
  rw [raw64_dropMove, raw64_setRaw64]

theorem frame_switched (s : State) (a : Nat) (x : DWord) (t v fid : Nat) : ((s.setRaw64 a x).dropMove t v).frame fid = s.frame fid := by
  rw [frame_dropMove, (Stored.setRaw64 s a x).frame]

theorem forwards_switched (s : State) (a : Nat) (x : DWord) (t v : Nat) :
    ((s.setRaw64 a x).dropMove t v).tables.forwards = s.tables.forwards := by
  rw [forwards_dropMove, (Stored.setRaw64 s a x).tables]

theorem frame_copyFrame_src (s : State) {src dst : Nat} (h : src ≠ dst) : (s.copyFrame src dst).frame src = s.frame src := by
  unfold State.copyFrame
  extract_lets fr a b s1
  have h1 : Stored s s1 := Stored.foldl (fun x _ => Stored.ite (Stored.carrySector x _ _) (Stored.refl x)) _ s
  rw [frame_updFrame_other _ h, h1.frame]

/-- The frame that a move leaves, before it forwards. -/
def leftFrame (s : State) (f fid : Nat) : State :=
  let s := s.copyFrame f fid
  if (s.frame f).role == FrameRole.remoteLine then s.moveLines f fid else s

theorem frame_leftFrame {s : State} {f fid : Nat} (h : f ≠ fid) (hr : (s.frame f).role ≠ .remoteLine) :
    (leftFrame s f fid).frame f = s.frame f := by
  have hcopy := frame_copyFrame_src s h
  have hno : ((s.copyFrame f fid).frame f).role ≠ .remoteLine := by rwa [hcopy]
  rw [leftFrame, if_neg (by simpa using hno), hcopy]

theorem frame_beginForwarding (s : State) (fid fwd h : Nat) (b : Bool) :
    (s.beginForwarding fid fwd h b).frame fid = { s.frame fid with state := .forwarding, fwd := fwd, horizon := h, published := b } :=
  frame_updFrame_self s fid _

theorem frame_giveBack (s : State) (fid h : Nat) : ((s.giveBack fid h).frame fid).state = .forwarding ∧
    ((s.giveBack fid h).frame fid).fwd = 0x1FFFFF ∧ ((s.giveBack fid h).frame fid).dirty = 0 ∧
    ((s.giveBack fid h).frame fid).horizon = h := by
  unfold State.giveBack
  extract_lets s1
  have h1 := frame_beginForwarding ((s.writeBackFrame fid).dropForward (s.frame fid).backing) fid 0x1FFFFF h false
  rw [frame_updFrame_self, h1]
  exact ⟨rfl, rfl, rfl, rfl⟩

/-- The entry that a move writes. -/
def movedEntry (w0 : DWord) (kind target : Nat) : DWord := Leaf.withBit (Leaf.withTarget w0 kind target) 8 false

/-- Frames and forward entries of a move whose entry has kept the gleaner's words. -/
def movedTo (s : State) (m : Move) (fid : Nat) : State :=
  let h := s.horizon m.tenant m.vpn
  let s := s.settleWriters m
  let s := match m.src with
    | some f => (leftFrame s f fid).beginForwarding f fid h false
    | none => if Leaf.kind m.word0 == 0 then s.addForward m.tenant m.vpn m.word1.toNat fid h false else s
  s.updFrame fid (fun f => { f with state := .mapped })

theorem switchMove_kept {s : State} {m : Move} {a fid : Nat} {rest : List Nat} (ha : s.entryKept m = some a) (hd : m.dst = fid :: rest)
    (hl : m.src.any s.linesHeld = false) :
    s.switchMove m = ((movedTo s m fid).setRaw64 a (movedEntry m.word0 1 fid)).dropMove m.tenant m.vpn := by
  have hany : m.src.any (fun f => (s.frame f).role == FrameRole.remoteLine && s.linesHeld f) = false := by
    cases hs : m.src with
    | none => rfl
    | some f =>
      rw [hs] at hl
      have hf : s.linesHeld f = false := hl
      simp [hf]
  rw [State.switchMove, hany, ha, hd, if_neg Bool.false_ne_true]
  rfl

theorem frame_movedTo (s : State) (m : Move) (fid : Nat) : ((movedTo s m fid).frame fid).state = .mapped := by
  rw [movedTo, frame_updFrame_self]

theorem frame_movedTo_src {s : State} {m : Move} {fid src : Nat} (hs : m.src = some src) (hne : src ≠ fid) :
    (movedTo s m fid).frame src = { (leftFrame (s.settleWriters m) src fid).frame src with
      state := .forwarding, fwd := fid, horizon := s.horizon m.tenant m.vpn, published := false } := by
  rw [movedTo, frame_updFrame_other _ hne, hs]
  exact frame_beginForwarding _ _ _ _ _

theorem forwards_movedTo {s : State} {m : Move} {fid : Nat} (hs : m.src = none) (hk : Leaf.kind m.word0 = 0) :
    ∃ x ∈ (movedTo s m fid).tables.forwards, x.page = m.word1.toNat / 4096 ∧ x.fid = fid ∧ x.horizon = s.horizon m.tenant m.vpn := by
  have hf : (movedTo s m fid).tables.forwards = ((s.settleWriters m).addForward m.tenant m.vpn m.word1.toNat fid
      (s.horizon m.tenant m.vpn) false).tables.forwards := by
    rw [movedTo, hs]
    simp only [hk, beq_self_eq_true, if_true]
    rfl
  rw [hf]
  exact ⟨_, List.mem_append_right _ (List.mem_singleton_self _), rfl, rfl, rfl⟩

/-- The switch of a move (R331): what held the page forwards to the frame that the entry names now. -/
theorem switchMove_leaves {s : State} {m : Move} {a dst : Nat} {rest : List Nat} (ha : s.entryKept m = some a) (hd : m.dst = dst :: rest)
    (hl : m.src.any s.linesHeld = false) (hsrc : m.src = none ∨ ∃ src, m.src = some src ∧ src ≠ dst) :
    (s.switchMove m).moveOf m.tenant m.vpn = none ∧ ((s.switchMove m).frame dst).state = .mapped ∧
      (s.switchMove m).raw64 a = movedEntry m.word0 1 dst ∧
      (∀ src, m.src = some src → ((s.switchMove m).frame src).state = .forwarding ∧ ((s.switchMove m).frame src).fwd = dst ∧
        ((s.switchMove m).frame src).horizon = s.horizon m.tenant m.vpn ∧ ((s.switchMove m).frame src).published = false ∧
        ((s.frame src).role ≠ .remoteLine → (s.switchMove m).frame src =
          { s.frame src with state := .forwarding, fwd := dst, horizon := s.horizon m.tenant m.vpn, published := false })) ∧
      (m.src = none → Leaf.kind m.word0 = 0 → ∃ x ∈ (s.switchMove m).tables.forwards,
        x.page = m.word1.toNat / 4096 ∧ x.fid = dst ∧ x.horizon = s.horizon m.tenant m.vpn) := by
  rw [switchMove_kept ha hd hl]
  refine ⟨moveOf_dropMove _ _ _, ?_, raw64_switched _ _ _ _ _, fun src hs => ?_, fun hs hk => ?_⟩
  · rw [frame_switched]; exact frame_movedTo s m dst
  · have hne : src ≠ dst := by
      rcases hsrc with h | ⟨x, hx, hxd⟩
      · rw [h] at hs; cases hs
      · rw [hs] at hx; cases hx; exact hxd
    rw [frame_switched, frame_movedTo_src hs hne]
    refine ⟨rfl, rfl, rfl, rfl, fun hr => ?_⟩
    rw [frame_leftFrame hne (by rwa [frame_settleWriters]), frame_settleWriters]
  · rw [forwards_switched]; exact forwards_movedTo hs hk

/-- The switch of an eviction (R332): the frame forwards to the backing, which the entry names. -/
theorem switchEvict_leaves {s : State} {m : Move} {a src : Nat} (ha : s.entryKept m = some a) (hs : m.src = some src)
    (hl : s.linesHeld src = false) :
    (s.switchEvict m).moveOf m.tenant m.vpn = none ∧ ((s.switchEvict m).frame src).state = .forwarding ∧
      ((s.switchEvict m).frame src).fwd = 0x1FFFFF ∧ ((s.switchEvict m).frame src).dirty = 0 ∧
      ((s.switchEvict m).frame src).horizon = s.horizon m.tenant m.vpn ∧
      (s.switchEvict m).raw64 a = movedEntry m.word0 (if pkgOf m.word1.toNat = s.net.pkg then 0 else 3) 0 := by
  have hany : m.src.any s.linesHeld = false := by rw [hs]; exact hl
  have hpkg : ((s.settleWriters m).giveBack src (s.horizon m.tenant m.vpn)).net.pkg = s.net.pkg :=
    (SamePkg.giveBack _ _ _).pkg.trans (congrArg Net.pkg (net_settleWriters s m))
  have hkind : Leaf.backingKind s.net.pkg m.word1.toNat = if pkgOf m.word1.toNat = s.net.pkg then 0 else 3 := by
    simp [Leaf.backingKind]
  have heq : s.switchEvict m = (((s.settleWriters m).giveBack src (s.horizon m.tenant m.vpn)).setRaw64 a
      (movedEntry m.word0 (if pkgOf m.word1.toNat = s.net.pkg then 0 else 3) 0)).dropMove m.tenant m.vpn := by
    rw [State.switchEvict, hany, if_neg Bool.false_ne_true, ha, hs]
    dsimp only
    rw [hpkg, hkind]
    rfl
  obtain ⟨h1, h2, h3, h4⟩ := frame_giveBack (s.settleWriters m) src (s.horizon m.tenant m.vpn)
  rw [heq, frame_switched]
  exact ⟨moveOf_dropMove _ _ _, h1, h2, h3, h4, raw64_switched _ _ _ _ _⟩

theorem frame_foldl_mapped {l : List Nat} {s : State} {f : Nat} (h : f ∈ l ∨ (s.frame f).state = .mapped) :
    ((l.foldl (fun s f => s.updFrame f (fun x => { x with state := .mapped })) s).frame f).state = .mapped := by
  induction l generalizing s with
  | nil => exact h.resolve_left List.not_mem_nil
  | cons x xs ih =>
    refine ih ?_
    by_cases hx : f = x
    · exact .inr (by rw [hx, frame_updFrame_self])
    · exact (h.imp_left (fun hm => (List.mem_cons.mp hm).resolve_left hx)).imp_right
        (fun hs => by rw [frame_updFrame_other _ hx]; exact hs)

/-- The switch of REPL (R334). -/
theorem switchReplicate_leaves {s : State} {m : Move} {a n : Nat} {set : ReplicaSet} (ha : s.entryKept m = some a)
    (hset : s.setOf m.tenant m.vpn = some (n, set)) :
    (s.switchReplicate m).moveOf m.tenant m.vpn = none ∧ (∀ f ∈ m.dst, ((s.switchReplicate m).frame f).state = .mapped) ∧
      (s.switchReplicate m).raw64 a = movedEntry m.word0 2 n := by
  have heq : s.switchReplicate m = ((m.dst.foldl (fun s f => s.updFrame f (fun x => { x with state := .mapped })) s).setRaw64 a
      (movedEntry m.word0 2 n)).dropMove m.tenant m.vpn := by
    rw [State.switchReplicate, ha, hset]
    rfl
  rw [heq]
  refine ⟨moveOf_dropMove _ _ _, fun f hf => ?_, raw64_switched _ _ _ _ _⟩
  rw [frame_switched]
  exact frame_foldl_mapped (.inl hf)

/-! ## Frames that become FREE -/

theorem frame_freeFrame (s : State) (fid f : Nat) : (s.freeFrame fid).frame f = if f = fid then {} else s.frame f :=
  frame_setFrame _ _ _ _

theorem frame_foldl_free {l : List Nat} {s : State} {f : Nat} (h : f ∈ l ∨ s.frame f = {}) :
    (l.foldl (fun s f => s.freeFrame f) s).frame f = {} := by
  induction l generalizing s with
  | nil => exact h.resolve_left List.not_mem_nil
  | cons x xs ih =>
    refine ih ?_
    by_cases hx : f = x
    · exact .inr (by rw [hx, frame_freeFrame, if_pos rfl])
    · exact (h.imp_left (fun hm => (List.mem_cons.mp hm).resolve_left hx)).imp_right
        (fun hs => by rw [frame_freeFrame, if_neg hx]; exact hs)

/-- An entry in HBM keeps its word while bytes of the bins are cleared. -/
theorem raw64_clearBytes {s : State} {a p n : Nat} (ha : a + 8 ≤ binBase) (hp : binBase ≤ p) : (s.clearBytes p n).raw64 a = s.raw64 a := by
  have hb : ∀ q < binBase, (s.clearBytes p n).byteAt q = s.byteAt q := fun q hq => by
    rw [byteAt_clearBytes, if_neg (fun h => absurd (lt_of_lt_of_le hq hp) (Nat.not_lt.mpr h.1))]
  have hs : (s.clearBytes p n).syndrome a = s.syndrome a := by
    have h := get_filter_key (0 : Word) s.mem.ecc (fun k => decide (k * 32 < p) || decide (p + n ≤ k * 32)) (a / 32)
    have hin : (decide (a / 32 * 32 < p) || decide (p + n ≤ a / 32 * 32)) = true := by
      have : a / 32 * 32 < p := by omega
      simp [this]
    rw [hin, if_pos rfl] at h
    exact h
  have hr : (s.clearBytes p n).rawBytes a 8 = s.rawBytes a 8 := rawBytes_congr (fun i hi => hb (a + i) (by omega))
  have hf : ∀ flip, (List.range 8).map (fun i => flipByte flip (a + i) ((s.clearBytes p n).byteAt (a + i))) =
      (List.range 8).map (fun i => flipByte flip (a + i) (s.byteAt (a + i))) := fun flip =>
    List.map_congr_left (fun i hi => by rw [hb (a + i) (by have := List.mem_range.mp hi; omega)])
  simp only [State.raw64, State.readWordPart, hs, hr]
  split
  · rfl
  · simp only [hf]
  · rfl

theorem binBase_le_frameLoc (fid : Nat) : binBase ≤ (frameLoc fid 0).phys := Nat.le_trans (Nat.le_add_right _ _) (Nat.le_add_right _ _)

theorem raw64_freeFrame {a : Nat} (ha : a + 8 ≤ binBase) (s : State) (fid : Nat) : (s.freeFrame fid).raw64 a = s.raw64 a := by
  have h : (s.freeFrame fid).raw64 a = (s.clearBytes (frameLoc fid 0).phys 4096).raw64 a :=
    raw64_of_mem (s := s.clearBytes (frameLoc fid 0).phys 4096) (t := s.freeFrame fid) rfl a
  rw [h, raw64_clearBytes ha (binBase_le_frameLoc fid)]

theorem raw64_freeFrames {a : Nat} (ha : a + 8 ≤ binBase) (l : List Nat) (s : State) :
    (l.foldl (fun s f => s.freeFrame f) s).raw64 a = s.raw64 a :=
  List.foldlRecOn (motive := fun x : State => x.raw64 a = s.raw64 a) l _ rfl
    (fun x hx f _ => (raw64_freeFrame ha x f).trans hx)

theorem frame_dropSet (s : State) (t v fid : Nat) : (s.dropSet t v).frame fid = s.frame fid := rfl
theorem raw64_dropSet (s : State) (t v p : Nat) : (s.dropSet t v).raw64 p = s.raw64 p :=
  raw64_of_mem (s := s) (t := s.dropSet t v) rfl p
theorem setOf_dropMove (s : State) (t v t' v' : Nat) : (s.dropMove t v).setOf t' v' = s.setOf t' v' := rfl

theorem setOf_dropSet (s : State) (t v : Nat) : (s.dropSet t v).setOf t v = none := by
  refine List.find?_eq_none.mpr (fun m hm => ?_)
  have h := (List.mem_filter.mp hm).2
  simp only [Bool.not_eq_true', Bool.eq_false_iff] at h
  exact h

/-- The end of a collapse (R334): the entry names the master, and the replicas are FREE. -/
theorem finishCollapse_leaves {s : State} {m : Move} {a master : Nat} (ha : s.entryKept m = some a) (hs : m.src = some master)
    (hbin : a + 8 ≤ binBase) :
    (s.finishCollapse m).moveOf m.tenant m.vpn = none ∧ (s.finishCollapse m).setOf m.tenant m.vpn = none ∧
      (∀ f ∈ m.dst, (s.finishCollapse m).frame f = {}) ∧ (s.finishCollapse m).raw64 a = movedEntry m.word0 1 master := by
  have heq : s.finishCollapse m = (((m.dst.foldl (fun s f => s.freeFrame f) (s.setRaw64 a (movedEntry m.word0 1 master))).dropSet
      m.tenant m.vpn).dropMove m.tenant m.vpn) := by
    rw [State.finishCollapse, ha, hs]
    rfl
  rw [heq]
  refine ⟨moveOf_dropMove _ _ _, ?_, fun f hf => ?_, ?_⟩
  · rw [setOf_dropMove, setOf_dropSet]
  · rw [frame_dropMove, frame_dropSet, frame_foldl_free (.inl hf)]
  · rw [raw64_dropMove, raw64_dropSet, raw64_freeFrames hbin, raw64_setRaw64]

/-! ## What the gleaner's policy begins (R338) -/

/-- The gleaner begins an operation. -/
def addMove (s : State) (m : Move) : State := { s with tables := { s.tables with moves := s.tables.moves ++ [m] } }

theorem frame_addMove (s : State) (m : Move) (fid : Nat) : (addMove s m).frame fid = s.frame fid := rfl
theorem raw64_addMove (s : State) (m : Move) (p : Nat) : (addMove s m).raw64 p = s.raw64 p :=
  raw64_of_mem (s := s) (t := addMove s m) rfl p

theorem moveOf_addMove {s : State} {m : Move} (h : s.moveOf m.tenant m.vpn = none) : (addMove s m).moveOf m.tenant m.vpn = some m := by
  have hfind : s.tables.moves.find? (fun x => x.tenant == m.tenant && x.vpn == m.vpn) = none := h
  change (s.tables.moves ++ [m]).find? _ = _
  rw [List.find?_append, hfind, Option.none_or, List.find?_cons_of_pos (by simp)]

theorem moveOf_of_tables {s t : State} (h : t.tables = s.tables) (tenant v : Nat) : t.moveOf tenant v = s.moveOf tenant v := by
  rw [State.moveOf, h]
  rfl

theorem frame_useFrame (s : State) (fid : Nat) (x : Frame) : (s.useFrame fid x).frame fid = x := Sparse.get_set_self _ _ _ _
theorem raw64_useFrame (s : State) (fid : Nat) (x : Frame) (p : Nat) : (s.useFrame fid x).raw64 p = s.raw64 p :=
  raw64_of_cells (s := s) (t := s.useFrame fid x) rfl rfl p
theorem moveOf_useFrame (s : State) (fid : Nat) (x : Frame) (t v : Nat) : (s.useFrame fid x).moveOf t v = s.moveOf t v := rfl
theorem raw64_updFrame (s : State) (fid : Nat) (g : Frame → Frame) (p : Nat) : (s.updFrame fid g).raw64 p = s.raw64 p :=
  raw64_of_mem (s := s) (t := s.updFrame fid g) rfl p
theorem moveOf_updFrame (s : State) (fid : Nat) (g : Frame → Frame) (t v : Nat) : (s.updFrame fid g).moveOf t v = s.moveOf t v := rfl

/-- A move of a page of DRAM kind into a column. -/
theorem beginMove_dram {s : State} {t v a fid : Nat} {w0 w1 : DWord} {cols : List Nat} (hleaf : s.leafOf t v = some (a, w0, w1))
    (hfid : s.takeFrom cols = some fid) (hk : Leaf.kind w0 = 0) (hshr : Leaf.shr w0 = false) (hown : s.ownsChannel t w1.toNat = true)
    (hfwd : s.forwardsOn w1.toNat < 64) (hm : s.moveOf t v = none) :
    ∃ b, s.beginMove t v cols = some b ∧ b.frame fid = { state := .filling, owner := t, vpn := v, backing := w1.toNat } ∧
      b.raw64 a = Leaf.withBit w0 8 true ∧ b.moveOf t v = some
        { kind := .place, tenant := t, vpn := v, word0 := Leaf.withBit w0 8 true, word1 := w1, src := none, dst := [fid] } := by
  have hg : s.grantee t v w0 = false := by simp [State.grantee, hshr]
  have hst := entryWritten_stored s t v a (Leaf.withBit w0 8 true)
  have hlt : ¬ s.forwardsOn w1.toNat ≥ 64 := Nat.not_le.mpr hfwd
  have heq : s.beginMove t v cols = some (addMove (((s.checkWalk t (v * 4096)).setRaw64 a (Leaf.withBit w0 8 true)).useFrame fid
      { state := .filling, owner := t, vpn := v, backing := w1.toNat })
      { kind := .place, tenant := t, vpn := v, word0 := Leaf.withBit w0 8 true, word1 := w1, src := none, dst := [fid] }) := by
    rw [State.beginMove, hleaf, hfid]
    simp [hk, hg, hown, hlt, addMove]
  refine ⟨_, heq, ?_, ?_, moveOf_addMove ?_⟩
  · rw [frame_addMove, frame_useFrame]
  · rw [raw64_addMove, raw64_useFrame, raw64_setRaw64]
  · rw [moveOf_useFrame, moveOf_of_tables hst.tables, hm]

/-- An eviction of a page from its frame. -/
theorem beginEvict_frame {s : State} {t v a : Nat} {w0 w1 : DWord} (hleaf : s.leafOf t v = some (a, w0, w1))
    (hk : Leaf.kind w0 = 1) (hm : s.moveOf t v = none) :
    (s.beginEvict t v).frame (Leaf.target w0) = { s.frame (Leaf.target w0) with state := .draining } ∧
      (s.beginEvict t v).raw64 a = Leaf.withBit w0 8 true ∧ (s.beginEvict t v).moveOf t v = some
        { kind := .evict, tenant := t, vpn := v, word0 := Leaf.withBit w0 8 true, word1 := w1, src := some (Leaf.target w0), dst := [] } := by
  have hst := entryWritten_stored s t v a (Leaf.withBit w0 8 true)
  have heq : s.beginEvict t v = addMove (((s.checkWalk t (v * 4096)).setRaw64 a (Leaf.withBit w0 8 true)).updFrame (Leaf.target w0)
      (fun f => { f with state := .draining }))
      { kind := .evict, tenant := t, vpn := v, word0 := Leaf.withBit w0 8 true, word1 := w1, src := some (Leaf.target w0), dst := [] } := by
    rw [State.beginEvict, hleaf]
    simp only [hk, bne_self_eq_false, Bool.false_eq_true, if_false, addMove]
  rw [heq]
  refine ⟨?_, ?_, moveOf_addMove ?_⟩
  · rw [frame_addMove, frame_updFrame_self, hst.frame]
  · rw [raw64_addMove, raw64_updFrame, raw64_setRaw64]
  · rw [moveOf_updFrame, moveOf_of_tables hst.tables, hm]

/-- A request for a page that no operation holds and that is neither pinned nor shared nor shadowed. -/
def openEntry (w0 : DWord) : Prop := Leaf.mig w0 = false ∧ Leaf.shd w0 = false ∧ Leaf.pin w0 = false ∧ Leaf.shr w0 = false

theorem placeAnswer_place {s : State} {r : GleanerReq} {w0 : DWord} (ho : openEntry w0) (hk : Leaf.kind w0 = 0) (hd : r.dram = false)
    (hc : r.cols ≠ []) (hq : s.framesOf r.tenant < (s.tenant r.tenant).frameq) : placeAnswer s r w0 = .work := by
  obtain ⟨hmig, hshd, hpin, hshr⟩ := ho
  have hg : s.grantee r.tenant r.vpn w0 = false := by simp [State.grantee, hshr]
  have he : r.cols.isEmpty = false := by simpa using hc
  simp [placeAnswer, hd, he, hg, hmig, hshd, hpin, hk, Nat.not_le.mpr hq]

theorem placeAnswer_evict {s : State} {r : GleanerReq} {w0 : DWord} (ho : openEntry w0) (hk : Leaf.kind w0 = 1) (hd : r.dram = true) :
    placeAnswer s r w0 = .work := by
  obtain ⟨hmig, hshd, hpin, hshr⟩ := ho
  have hg : s.grantee r.tenant r.vpn w0 = false := by simp [State.grantee, hshr]
  simp [placeAnswer, hd, hg, hmig, hshd, hpin, hk]

/-- The request that the gleaner's policy makes. -/
def policyReq (s : State) (tenant vpn : Nat) (target : Option Nat) : GleanerReq :=
  { tenant, gen := (s.tenant tenant).gen, vpn, cols := target.toList.filter (s.ownsColumn tenant), repl := false, dram := target.isNone }

theorem policyReq_again (s : State) (tenant vpn : Nat) (target : Option Nat) :
    { policyReq s tenant vpn target with cols := (policyReq s tenant vpn target).cols.filter (s.ownsColumn tenant) } =
      policyReq s tenant vpn target := by
  simp [policyReq, List.filter_filter]

theorem policyMove_starts {s : State} {tenant vpn a : Nat} {target : Option Nat} {w0 w1 : DWord}
    (hleaf : s.leafOf tenant vpn = some (a, w0, w1)) (hk : Leaf.kind w0 ≠ 2) (hmig : Leaf.mig w0 = false)
    (hw : placeAnswer s (policyReq s tenant vpn target) w0 = .work) :
    exec (.gleanerPolicyMove tenant vpn target) s = .next
      (if target.isNone then
        if s.backingHeld (s.frame (Leaf.target w0)).backing then s else s.beginEvict tenant vpn
      else ((s.beginMove tenant vpn (policyReq s tenant vpn target).cols).map (·, true)).getD
        (if (s.takeFrom (policyReq s tenant vpn target).cols).isNone then s.makeRoom (policyReq s tenant vpn target).cols else s, false) |>.1) := by
  have hx : exec (.gleanerPolicyMove tenant vpn target) s = execGleanerPolicyMove tenant vpn target s := rfl
  have hstart : execGleanerPolicyMove tenant vpn target s = .next (startRequest s (policyReq s tenant vpn target)).1 := by
    rw [execGleanerPolicyMove, hleaf]
    simp only [beq_eq_false_iff_ne.mpr hk, Bool.and_false, Bool.false_and, Bool.false_eq_true, if_false, hmig, Bool.false_or]
    refine if_neg ?_
    change ¬ (placeAnswer s (policyReq s tenant vpn target) w0 != .work) = true
    rw [hw]
    exact Bool.false_ne_true
  rw [hx, hstart]
  refine congrArg Host.Outcome.next ?_
  unfold startRequest
  extract_lets r
  have hr : r = policyReq s tenant vpn target := policyReq_again s tenant vpn target
  clear_value r
  subst hr
  have hleaf' : s.leafOf (policyReq s tenant vpn target).tenant (policyReq s tenant vpn target).vpn = some (a, w0, w1) := hleaf
  have hgen : ((policyReq s tenant vpn target).gen != (s.tenant (policyReq s tenant vpn target).tenant).gen) = false := bne_self_eq_false _
  have hreq : requestAnswer s (policyReq s tenant vpn target) w0 = .work := hw
  have hrepl : (policyReq s tenant vpn target).repl = false := rfl
  simp only [hleaf', hgen, hmig, hreq, hrepl, Bool.false_eq_true, if_false]
  cases target with
  | none =>
    change (if s.backingHeld (s.frame (Leaf.target w0)).backing = true then (s, false) else (s.beginEvict tenant vpn, true)).1 = _
    simp only [Option.isNone_none, if_true]
    split <;> rfl
  | some col =>
    have hdram : (policyReq s tenant vpn (some col)).dram = false := rfl
    simp only [hdram, Option.isNone_some, Bool.false_eq_true, if_false]
    change _ = (((s.beginMove (policyReq s tenant vpn (some col)).tenant (policyReq s tenant vpn (some col)).vpn
      (policyReq s tenant vpn (some col)).cols).map (·, true)).getD _).1
    cases s.beginMove (policyReq s tenant vpn (some col)).tenant (policyReq s tenant vpn (some col)).vpn
      (policyReq s tenant vpn (some col)).cols <;> rfl

theorem policyMove_place {s : State} {tenant vpn a col fid : Nat} {w0 w1 : DWord} (hleaf : s.leafOf tenant vpn = some (a, w0, w1))
    (hm : s.moveOf tenant vpn = none) (ho : openEntry w0) (hk : Leaf.kind w0 = 0) (hcol : s.ownsColumn tenant col = true)
    (hown : s.ownsChannel tenant w1.toNat = true) (hq : s.framesOf tenant < (s.tenant tenant).frameq)
    (hfwd : s.forwardsOn w1.toNat < 64) (hfid : s.takeFrom [col] = some fid) :
    ∃ t, exec (.gleanerPolicyMove tenant vpn (some col)) s = .next t ∧
      t.frame fid = { state := .filling, owner := tenant, vpn, backing := w1.toNat } ∧
      t.raw64 a = Leaf.withBit w0 8 true ∧ t.moveOf tenant vpn = some
        { kind := .place, tenant, vpn, word0 := Leaf.withBit w0 8 true, word1 := w1, src := none, dst := [fid] } := by
  have hcols : (policyReq s tenant vpn (some col)).cols = [col] := List.filter_cons_of_pos hcol
  have hw : placeAnswer s (policyReq s tenant vpn (some col)) w0 = .work :=
    placeAnswer_place ho hk rfl (by rw [hcols]; exact List.cons_ne_nil _ _) hq
  obtain ⟨b, hb, hframe, hraw, hmove⟩ := beginMove_dram hleaf hfid hk ho.2.2.2 hown hfwd hm
  refine ⟨b, ?_, hframe, hraw, hmove⟩
  rw [policyMove_starts hleaf (by rw [hk]; decide) ho.1 hw, hcols, hb]
  rfl

theorem policyMove_evict {s : State} {tenant vpn a : Nat} {w0 w1 : DWord} (hleaf : s.leafOf tenant vpn = some (a, w0, w1))
    (hm : s.moveOf tenant vpn = none) (ho : openEntry w0) (hk : Leaf.kind w0 = 1)
    (hheld : s.backingHeld (s.frame (Leaf.target w0)).backing = false) :
    ∃ t, exec (.gleanerPolicyMove tenant vpn none) s = .next t ∧
      t.frame (Leaf.target w0) = { s.frame (Leaf.target w0) with state := .draining } ∧
      t.raw64 a = Leaf.withBit w0 8 true ∧ t.moveOf tenant vpn = some
        { kind := .evict, tenant, vpn, word0 := Leaf.withBit w0 8 true, word1 := w1, src := some (Leaf.target w0), dst := [] } := by
  refine ⟨s.beginEvict tenant vpn, ?_, beginEvict_frame hleaf hk hm⟩
  rw [policyMove_starts hleaf (by rw [hk]; decide) ho.1 (placeAnswer_evict ho hk rfl), hheld]
  rfl

end Sys2Proof.Machine
end

section
/-! # Proofs: additions, sector fills and resizes (R199, R200, R214, R216, R330, R343) -/

namespace Sys2Proof.Machine

/-! ## Addends at their homes (R199, R200) -/

/-- Addends in flight and ticket counters stay. -/
structure KeepsAddends (s t : State) : Prop where
  addends : t.mem.addends = s.mem.addends
  tickets : t.mem.tickets = s.mem.tickets

namespace KeepsAddends

theorem refl (s : State) : KeepsAddends s s := ⟨rfl, rfl⟩

theorem trans {s x t : State} (h : KeepsAddends s x) (h' : KeepsAddends x t) : KeepsAddends s t :=
  ⟨h'.addends.trans h.addends, h'.tickets.trans h.tickets⟩

theorem setBytes (s : State) (p : Nat) (bs : List Byte) : KeepsAddends s (s.setBytes p bs) := by
  rw [setBytes_eq]
  exact ⟨rfl, rfl⟩

theorem setSyndrome (s : State) (p : Nat) (x : Word) : KeepsAddends s (s.setSyndrome p x) := ⟨rfl, rfl⟩
theorem countCorrected (s : State) (p : Nat) : KeepsAddends s (s.countCorrected p) := ⟨rfl, rfl⟩
theorem countUncorrectable (s : State) (p : Nat) : KeepsAddends s (s.countUncorrectable p) := ⟨rfl, rfl⟩
theorem noteStore (s : State) (wid t : Nat) : KeepsAddends s (s.noteStore wid t) := ⟨rfl, rfl⟩

theorem readWordPart (s : State) (p n : Nat) : KeepsAddends s (s.readWordPart p n).1 := by
  unfold State.readWordPart
  split
  · exact refl s
  · exact countCorrected s p
  · exact countUncorrectable s p

theorem readFrom (s : State) (p n fuel : Nat) : KeepsAddends s (s.readFrom p n fuel).1 := by
  induction fuel generalizing s p n with
  | zero => exact refl s
  | succ fuel ih =>
    unfold State.readFrom
    split
    · exact refl s
    · exact (readWordPart s p _).trans (ih _ _ _)

theorem readBytes (s : State) (p n : Nat) : KeepsAddends s (s.readBytes p n).1 := readFrom s p n _

theorem readyWord (s : State) (p : Nat) : KeepsAddends s (s.readyWord p) := by
  unfold State.readyWord
  split
  · exact refl s
  · exact ((countCorrected s p).trans (setBytes _ _ _)).trans (setSyndrome _ _ _)
  · exact countUncorrectable s p

theorem writeWordPart (s : State) (p : Nat) (bs : List Byte) : KeepsAddends s (s.writeWordPart p bs) := by
  unfold State.writeWordPart
  split
  · exact (setBytes s _ _).trans (setSyndrome _ _ _)
  · exact (readyWord s p).trans (setBytes _ _ _)

theorem writeFrom (s : State) (p : Nat) (bs : List Byte) (fuel : Nat) : KeepsAddends s (s.writeFrom p bs fuel) := by
  induction fuel generalizing s p bs with
  | zero => exact refl s
  | succ fuel ih =>
    unfold State.writeFrom
    split
    · exact refl s
    · exact (writeWordPart s p _).trans (ih _ _ _)

theorem writeBytes (s : State) (p : Nat) (bs : List Byte) : KeepsAddends s (s.writeBytes p bs) := writeFrom s p bs _

end KeepsAddends

/-- What an addend makes of the four bytes at its home. -/
def addedBytes (a : Addend) (bs : List Byte) : List Byte :=
  leBytes 4 (roundVal .fp32 .matrix false (addVal .matrix (.ofBits .fp32 (leNat bs)) (.ofBits .fp32 a.value.toNat)).1).1

/-- An addend in scratch. -/
def addScratch (s : State) (a : Addend) : State :=
  let t := (s.readBytes a.loc.phys 4).1.writeBytes a.loc.phys (addedBytes a (s.readBytes a.loc.phys 4).2.1)
  if Sparse.mem t.warps a.wid then t.noteStore a.wid t.gt else t

theorem applyAddend_scratch {s : State} {a : Addend} (h : a.fid = none) : applyAddend s a = some (addScratch s a) := by
  simp only [applyAddend, addendAccess, h, State.readAt, State.Place.bare, State.writeAt]
  rfl

theorem KeepsAddends.addScratch (s : State) (a : Addend) : KeepsAddends s (addScratch s a) := by
  unfold Machine.addScratch
  extract_lets t
  have ht : KeepsAddends s t := (KeepsAddends.readBytes s a.loc.phys 4).trans (KeepsAddends.writeBytes _ _ _)
  split
  · exact ht.trans (KeepsAddends.noteStore t a.wid t.gt)
  · exact ht

/-- A group of addends in scratch is applied in full. -/
theorem foldlM_addScratch {l : List Addend} (h : ∀ a ∈ l, a.fid = none) (s : State) :
    ∃ t, l.foldlM applyAddend s = some t ∧ KeepsAddends s t := by
  induction l generalizing s with
  | nil => exact ⟨s, rfl, KeepsAddends.refl s⟩
  | cons a as ih =>
    obtain ⟨t, ht, hk⟩ := ih (fun x hx => h x (List.mem_cons_of_mem _ hx)) (addScratch s a)
    refine ⟨t, ?_, (KeepsAddends.addScratch s a).trans hk⟩
    rw [List.foldlM_cons, applyAddend_scratch (h a List.mem_cons_self)]
    exact ht

theorem length_addedBytes (a : Addend) (bs : List Byte) : (addedBytes a bs).length = 4 := length_leBytes 4 _

/-- In a clean word the addend's sum replaces the four bytes, and no other byte changes. -/
theorem byteAt_addScratch {s : State} {a : Addend} (hp : a.loc.phys % 4 = 0) (hc : eccClass (s.syndrome a.loc.phys) = .clean) (x : Nat) :
    (addScratch s a).byteAt x = (s.setBytes a.loc.phys (addedBytes a (s.rawBytes a.loc.phys 4))).byteAt x := by
  obtain ⟨h0, hfit, h32⟩ := fits_word (size := 2) (by decide) hp
  have hread : s.readBytes a.loc.phys 4 = (s, s.rawBytes a.loc.phys 4, false) := readBytes_clean (by decide) hfit hc
  have hlen := length_addedBytes a (s.rawBytes a.loc.phys 4)
  have hwrite : s.writeBytes a.loc.phys (addedBytes a (s.rawBytes a.loc.phys 4)) = s.setBytes a.loc.phys (addedBytes a (s.rawBytes a.loc.phys 4)) :=
    writeBytes_clean (by rw [hlen]; decide) (by rw [hlen]; exact hfit) (by rw [hlen]; decide) hc
  unfold addScratch
  rw [hread]
  dsimp only
  rw [hwrite]
  split <;> rfl

theorem takeAddend_at {s : State} {n : Nat} {a : Addend} (h : s.mem.addends[n]? = some a) :
    takeAddend s n = some ({ s with mem := { s.mem with addends := s.mem.addends.eraseIdx n } }, a) := by
  rw [takeAddend, h]

theorem drainaAddition_applies {s b : State} {n : Nat} {a : Addend} (h : s.mem.addends[n]? = some a) (ht : a.ticket = none)
    (hb : applyAddend { s with mem := { s.mem with addends := s.mem.addends.eraseIdx n } } a = some b) :
    exec (.drainaAddition n) s = .next b := by
  have hx : exec (.drainaAddition n) s = execDrainaAddition n s := rfl
  rw [hx, execDrainaAddition, takeAddend_at h]
  simp only [ht, Option.isNone_none, if_true, hb, Option.getD_some]

/-- One addition into clean scratch (R199). -/
theorem drainaAddition_scratch {s : State} {n : Nat} {a : Addend} (h : s.mem.addends[n]? = some a) (ht : a.ticket = none) (hf : a.fid = none)
    (hp : a.loc.phys % 4 = 0) (hc : eccClass (s.syndrome a.loc.phys) = .clean) :
    ∃ t, exec (.drainaAddition n) s = .next t ∧ t.mem.addends = s.mem.addends.eraseIdx n ∧
      t.rawBytes a.loc.phys 4 = addedBytes a (s.rawBytes a.loc.phys 4) ∧
      ∀ x, (x < a.loc.phys ∨ a.loc.phys + 4 ≤ x) → t.byteAt x = s.byteAt x := by
  set b : State := { s with mem := { s.mem with addends := s.mem.addends.eraseIdx n } } with hb
  have hbyte : ∀ x, (addScratch b a).byteAt x = (s.setBytes a.loc.phys (addedBytes a (s.rawBytes a.loc.phys 4))).byteAt x := fun x => by
    rw [byteAt_addScratch (s := b) hp hc, State.byteAt_setBytes, State.byteAt_setBytes]
    rfl
  have hlen := length_addedBytes a (s.rawBytes a.loc.phys 4)
  refine ⟨_, drainaAddition_applies h ht (applyAddend_scratch hf), (KeepsAddends.addScratch b a).addends, ?_, fun x hx => ?_⟩
  · have h4 := State.rawBytes_setBytes s a.loc.phys (addedBytes a (s.rawBytes a.loc.phys 4))
    rw [hlen] at h4
    exact (rawBytes_congr (fun i _ => hbyte (a.loc.phys + i))).trans h4
  · rw [hbyte, State.byteAt_setBytes, hlen, if_neg (by omega)]

/-- The ticketed addends of a group at a line. -/
def mineAt (s : State) (line g : Nat) (a : Addend) : Bool := a.ticket.isSome && a.group == g && addendLine s a == line

/-- The state in which a due group is applied: its addends are taken, and the line's counter has gone on. -/
def groupTaken (s : State) (line g : Nat) : State :=
  { s with mem := { s.mem with
      addends := s.mem.addends.filter (fun a => !mineAt s line g a)
      tickets := Sparse.set 0 s.mem.tickets line ((Sparse.get 0 s.mem.tickets line + 1) % 2 ^ 16) } }

theorem ordGroupApply_scratch {s : State} {line g : Nat} (h : dueGroup s line = some g)
    (hf : ∀ a ∈ s.mem.addends, mineAt s line g a = true → a.fid = none) :
    ∃ t, exec (.ordGroupApply line) s = .next t ∧ (s.mem.addends.filter (mineAt s line g)).foldlM applyAddend (groupTaken s line g) = some t ∧
      t.mem.addends = s.mem.addends.filter (fun a => !mineAt s line g a) ∧
      Sparse.get 0 t.mem.tickets line = (Sparse.get 0 s.mem.tickets line + 1) % 2 ^ 16 := by
  obtain ⟨t, ht, hk⟩ := foldlM_addScratch (l := s.mem.addends.filter (mineAt s line g))
    (fun a ha => hf a (List.mem_filter.mp ha).1 (List.mem_filter.mp ha).2) (groupTaken s line g)
  refine ⟨t, ?_, ht, hk.addends, ?_⟩
  · have hx : exec (.ordGroupApply line) s = execOrdGroupApply line s := rfl
    rw [hx, execOrdGroupApply, h]
    exact congrArg (fun o => Host.Outcome.next (Option.getD o s)) ht
  · rw [hk.tickets]
    exact Sparse.get_set_self _ _ _ _

/-! ## Sector fills (R216) -/

/-- A read of a sector whose two words are clean. -/
theorem readBytes_sector {s : State} {p : Nat} (hp : p % 32 = 0) (h0 : eccClass (s.syndrome p) = .clean)
    (h1 : eccClass (s.syndrome (p + 32)) = .clean) : s.readBytes p 64 = (s, s.rawBytes p 64, false) := by
  have hq : (p + 32) % 32 = 0 := by omega
  have hsplit : s.rawBytes p 32 ++ s.rawBytes (p + 32) 32 = s.rawBytes p 64 := by
    simp only [State.rawBytes, Nat.add_assoc]
    rfl
  have hm64 : min 64 32 = 32 := rfl
  simp only [State.readBytes, State.readFrom, State.readWordPart, hp, hq, h0, h1, Nat.reduceSub, Nat.sub_zero, if_false,
    if_true, hm64, min_self, OfNat.ofNat_ne_zero, Nat.reduceDiv, Nat.sub_self, List.append_nil, Bool.or_self, hsplit]

/-- One clean sector is copied: its bytes, with clean words. -/
theorem carrySector_clean {s : State} {src dst : Nat} (hp : src % 32 = 0) (h0 : eccClass (s.syndrome src) = .clean)
    (h1 : eccClass (s.syndrome (src + 32)) = .clean) :
    s.carrySector src dst = ((s.setBytes dst (s.rawBytes src 64)).setSyndrome dst 0).setSyndrome (dst + 32) 0 := by
  rw [State.carrySector, readBytes_sector hp h0 h1]
  rfl

theorem fillSector_page {s : State} {fid n : Nat} (hv : (s.frame fid).valid.getLsbD n = false) (hrole : (s.frame fid).role = .page) :
    s.fillSector fid n = (s.carrySector ((s.frame fid).backing + 64 * n) (frameLoc fid (64 * n)).phys).markValid fid n := by
  have hsec : s.sectorValid fid n = false := hv
  simp only [State.fillSector, hsec, Bool.false_eq_true, if_false, hrole, State.fillFromBacking, State.carry, Nat.reduceDiv, List.range_one,
    List.foldl_cons, List.foldl_nil, Nat.mul_zero, Nat.add_zero]

theorem sectorFill_copies {s : State} {fid sector : Nat} (hn : sector < 64)
    (hst : (s.frame fid).state = .mapped ∨ (s.frame fid).state = .draining) (hrole : (s.frame fid).role = .page)
    (hv : (s.frame fid).valid.getLsbD sector = false)
    (hw : pkgOf (s.frame fid).backing = s.net.pkg ∨ s.remoteWaits ((s.frame fid).backing + 64 * sector) = false) :
    exec (.sectorFill fid sector) s =
      .next ((s.carrySector ((s.frame fid).backing + 64 * sector) (frameLoc fid (64 * sector)).phys).markValid fid sector) := by
  have hx : exec (.sectorFill fid sector) s = execSectorFill fid sector s := rfl
  have hfill : fillable (s.frame fid) = true := by
    rcases hst with h | h <;> simp [fillable, h]
  have hfar : (((s.frame fid).role == FrameRole.remoteLine || pkgOf (s.frame fid).backing != s.net.pkg) &&
      s.remoteWaits ((s.frame fid).backing + 64 * sector)) = false := by
    rcases hw with h | h
    · simp [hrole, h]
    · simp [h]
  have hgo : (decide (sector < 64) && fillable (s.frame fid) && !(((s.frame fid).role == FrameRole.remoteLine ||
      pkgOf (s.frame fid).backing != s.net.pkg) && s.remoteWaits ((s.frame fid).backing + 64 * sector))) = true := by
    rw [hfill, hfar, decide_eq_true hn]
    rfl
  rw [hx, ← fillSector_page hv hrole]
  exact if_pos hgo

theorem frameLoc_phys (fid b : Nat) : (frameLoc fid b).phys = (frameLoc fid 0).phys + b := by
  simp only [frameLoc, Loc.phys]
  omega

/-- SECTOR_FILL of a page frame over clean words (R216). -/
theorem sectorFill_leaves {s : State} {fid sector : Nat} (hn : sector < 64)
    (hst : (s.frame fid).state = .mapped ∨ (s.frame fid).state = .draining) (hrole : (s.frame fid).role = .page)
    (hv : (s.frame fid).valid.getLsbD sector = false) (hb : (s.frame fid).backing % 64 = 0)
    (h0 : eccClass (s.syndrome ((s.frame fid).backing + 64 * sector)) = .clean)
    (h1 : eccClass (s.syndrome ((s.frame fid).backing + 64 * sector + 32)) = .clean)
    (hw : pkgOf (s.frame fid).backing = s.net.pkg ∨ s.remoteWaits ((s.frame fid).backing + 64 * sector) = false) :
    ∃ t, exec (.sectorFill fid sector) s = .next t ∧
      t.frame fid = { s.frame fid with valid := (s.frame fid).valid ||| State.sectorBit sector } ∧
      ∀ x, t.byteAt x = if (frameLoc fid 0).phys + 64 * sector ≤ x ∧ x < (frameLoc fid 0).phys + 64 * sector + 64
        then s.byteAt ((s.frame fid).backing + (x - (frameLoc fid 0).phys)) else s.byteAt x := by
  have hp : ((s.frame fid).backing + 64 * sector) % 32 = 0 := by omega
  refine ⟨_, sectorFill_copies hn hst hrole hv hw, ?_, fun x => ?_⟩
  · rw [State.markValid, frame_updFrame_self, (Stored.carrySector _ _ _).frame]
  · rw [carrySector_clean hp h0 h1, frameLoc_phys]
    have hbyte : ∀ y : State, ∀ d : Nat, (((y.setSyndrome d 0).setSyndrome (d + 32) 0).markValid fid sector).byteAt x = y.byteAt x :=
      fun _ _ => rfl
    rw [hbyte, State.byteAt_setBytes]
    have hlen : (s.rawBytes ((s.frame fid).backing + 64 * sector) 64).length = 64 := by simp [State.rawBytes]
    rw [hlen]
    split
    · rename_i h
      obtain ⟨hlo, hhi⟩ := h
      have hi : x - ((frameLoc fid 0).phys + 64 * sector) < 64 := by omega
      have hin : (frameLoc fid 0).phys ≤ x := Nat.le_trans (Nat.le_add_right _ _) hlo
      rw [List.getD_eq_getElem _ _ (by rw [hlen]; exact hi)]
      simp only [State.rawBytes, List.getElem_map, List.getElem_range]
      congr 1
      omega
    · rfl

/-- FORWARDING_FREE once the horizon has passed (R330). -/
theorem forwardingFree_leaves {s : State} {fid : Nat} (hst : (s.frame fid).state = .forwarding) (hh : (s.frame fid).horizon ≤ s.gt) :
    ∃ t, exec (.forwardingFree fid) s = .next t ∧ t.frame fid = {} ∧
      ∀ x, t.byteAt x = if (frameLoc fid 0).phys ≤ x ∧ x < (frameLoc fid 0).phys + 4096 then 0 else s.byteAt x := by
  have hx : exec (.forwardingFree fid) s = .next (s.freeFrame fid) := by
    refine congrArg Host.Outcome.next (if_pos ?_)
    simp [hst, hh]
  refine ⟨_, hx, ?_, fun x => ?_⟩
  · rw [frame_freeFrame, if_pos rfl]
  · exact byteAt_clearBytes s _ _ x

/-! ## Switches by their events -/

theorem moveOf_names {s : State} {tenant vpn : Nat} {m : Move} (h : s.moveOf tenant vpn = some m) : m.tenant = tenant ∧ m.vpn = vpn := by
  have hp := List.find?_some h
  simpa using hp

theorem switchOf_found {s : State} {tenant vpn : Nat} {m : Move} {k : MoveKind} (h : s.moveOf tenant vpn = some m) (hk : m.kind = k)
    (g : State → Move → State) : switchOf s tenant vpn k g = g s m := by
  simp [switchOf, h, hk]

/-! ## The end of a resize (R214) -/

theorem resizeStep_idle {s : State} {col : Nat} (h : (s.column col).busy = false) : s.resizeStep col = s := by
  simp [State.resizeStep, h]

theorem resizeStep_completes {s : State} {col : Nat} (h : (s.column col).busy = true)
    (hf : ∀ f ∈ State.grownFrames col (s.column col).oldmib (s.column col).scrmib, (s.frame f).state = .free) :
    s.resizeStep col = ((State.grownFrames col (s.column col).oldmib (s.column col).scrmib).foldl (fun s f => s.freeFrame f) s).setColumn col
      { s.column col with busy := false, done := true } := by
  have hall : (State.grownFrames col (s.column col).oldmib (s.column col).scrmib).all (fun f => (s.frame f).state == .free) = true :=
    List.all_eq_true.mpr (fun f hm => by simp [hf f hm])
  simp only [State.resizeStep, h, Bool.not_true, Bool.false_eq_true, if_false, hall, if_true]

theorem resizeStep_goes {s : State} {col : Nat} (h : (s.column col).busy = true)
    (hf : ∃ f ∈ State.grownFrames col (s.column col).oldmib (s.column col).scrmib, (s.frame f).state ≠ .free) :
    s.resizeStep col = (State.grownFrames col (s.column col).oldmib (s.column col).scrmib).foldl (fun s f => s.vacate f) s := by
  have hall : (State.grownFrames col (s.column col).oldmib (s.column col).scrmib).all (fun f => (s.frame f).state == .free) = false := by
    obtain ⟨f, hm, hne⟩ := hf
    exact List.all_eq_false.mpr ⟨f, hm, by simpa using hne⟩
  simp only [State.resizeStep, h, Bool.not_true, Bool.false_eq_true, if_false, hall]

/-- Settles O47: each event by the lemma that says what its operation leaves. -/
theorem homeEvents : Obligations.HomeEvents := by
  unfold Obligations.HomeEvents
  intro s tenant vpn fid sector col m fr here
  refine ⟨fun n a ha ht => ⟨fun b hb => drainaAddition_applies ha ht hb, fun hf hp hc => drainaAddition_scratch ha ht hf hp hc⟩,
    fun line g hg => ?_, fun hn hst hrole hv hb h0 h1 hw => sectorFill_leaves hn hst hrole hv hb h0 h1 hw,
    fun hst hh => forwardingFree_leaves hst hh, fun a hm ha hbin => ?_, fun a w0 w1 hleaf hm hmig hshd hpin hshr => ?_, fun val => ?_, ?_⟩
  · intro mine next b hfid
    exact ordGroupApply_scratch hg hfid
  · obtain ⟨ht, hv⟩ := moveOf_names hm
    refine ⟨fun hk hl dst rest hd hsrc => ?_, fun hk src hs hl => ?_, fun hk n set hset => ?_, fun hk hh master hs => ?_⟩
    · obtain ⟨h1, h2, h3, h4, h5⟩ := switchMove_leaves ha hd hl hsrc
      refine ⟨s.switchMove m, congrArg Host.Outcome.next (switchOf_found hm hk _), ?_⟩
      rw [ht, hv] at h1 h4 h5
      exact ⟨h1, h2, h3, h4, h5⟩
    · obtain ⟨h1, h2, h3, h4, h5, h6⟩ := switchEvict_leaves ha hs hl
      refine ⟨s.switchEvict m, congrArg Host.Outcome.next (switchOf_found hm hk _), ?_⟩
      rw [ht, hv] at h1 h5
      exact ⟨h1, h2, h3, h4, h5, h6⟩
    · obtain ⟨h1, h2, h3⟩ := switchReplicate_leaves ha (by rw [ht, hv]; exact hset)
      refine ⟨s.switchReplicate m, congrArg Host.Outcome.next (switchOf_found hm hk _), ?_⟩
      rw [ht, hv] at h1
      exact ⟨h1, h2, h3⟩
    · obtain ⟨h1, h2, h3, h4⟩ := finishCollapse_leaves ha hs hbin
      refine ⟨s.finishCollapse m, congrArg Host.Outcome.next ((switchOf_found hm hk _).trans (if_pos hh)), ?_⟩
      rw [ht, hv] at h1 h2
      exact ⟨h1, h2, h3, h4⟩
  · exact ⟨fun hk hcol hown hq hfwd hfid => policyMove_place hleaf hm ⟨hmig, hshd, hpin, hshr⟩ hk hcol hown hq hfwd hfid,
      fun hk hheld => policyMove_evict hleaf hm ⟨hmig, hshd, hpin, hshr⟩ hk hheld⟩
  · have hx : exec (.splitResize col val) s = .next (s.splitWrite col val) := rfl
    rw [hx]
    exact ⟨fun h => congrArg Host.Outcome.next (splitWrite_same h), fun h hr => congrArg Host.Outcome.next (splitWrite_refused h hr),
      fun h h8 hb hc _ => ⟨_, rfl, splitWrite_shrinks h h8 hb hc⟩, fun h h8 hb hc hp => congrArg Host.Outcome.next (splitWrite_grows h h8 hb hc hp)⟩
  · have hx : exec (.resizeComplete col) s = .next (s.resizeStep col) := rfl
    intro c fids
    rw [hx]
    refine ⟨fun h => congrArg Host.Outcome.next (resizeStep_idle h), fun h hf => ⟨_, rfl, ?_, fun f hm => ?_⟩,
      fun h hf => congrArg Host.Outcome.next (resizeStep_goes h hf)⟩
    · rw [resizeStep_completes h hf, State.column_setColumn_self]
    · rw [resizeStep_completes h hf]
      exact frame_foldl_free (s := s) (.inl hm)

end Sys2Proof.Machine
end

section
/-! # Proofs: the directions of the links and their wavelengths (R394 to R401) -/

namespace Sys2Proof.Machine

/-! ## Directions -/

theorem linkDir_setLinkDir (s : State) (d d' : Nat) (x : LinkDir) : (s.setLinkDir d x).linkDir d' = if d' = d then x else s.linkDir d' := by
  simp only [State.linkDir, State.setLinkDir, Sparse.get_set]

theorem linkDir_setLinkDir_other (s : State) {d d' : Nat} (h : d' ≠ d) (x : LinkDir) : (s.setLinkDir d x).linkDir d' = s.linkDir d' := by
  rw [linkDir_setLinkDir, if_neg h]

theorem linkDir_notify (s : State) (code arg d : Nat) : (s.notify code arg).linkDir d = s.linkDir d := rfl

/-- A wavelength of a direction. -/
def waveOf (x : LinkDir) (w : Nat) : Wave := Sparse.get {} x.waves w

theorem wave_eq (s : State) (d w : Nat) : s.wave d w = waveOf (s.linkDir d) w := rfl

/-- Counters of flits and errors, and how long wavelengths have been in use, may differ; the wavelengths themselves do not. -/
structure SameWaves (x y : LinkDir) : Prop where
  down : y.down = x.down
  downevt : y.downevt = x.downevt
  restored : y.restored = x.restored
  trainmax : y.trainmax = x.trainmax
  seq : y.seq = x.seq
  state : ∀ w, (waveOf y w).state = (waveOf x w).state

namespace SameWaves

theorem refl (x : LinkDir) : SameWaves x x := ⟨rfl, rfl, rfl, rfl, rfl, fun _ => rfl⟩

theorem trans {x y z : LinkDir} (h : SameWaves x y) (h' : SameWaves y z) : SameWaves x z :=
  ⟨h'.down.trans h.down, h'.downevt.trans h.downevt, h'.restored.trans h.restored, h'.trainmax.trans h.trainmax, h'.seq.trans h.seq,
    fun w => (h'.state w).trans (h.state w)⟩

end SameWaves

theorem waveOf_set (x : LinkDir) (w w' : Nat) (v : Wave) :
    Sparse.get {} (Sparse.set {} x.waves w v) w' = if w' = w then v else waveOf x w' := Sparse.get_set _ _ _ _ _

/-! ## What is settled before a wavelength changes -/

theorem settleErrors_self (s : State) (d w : Nat) : (s.settleErrors d w).linkDir d =
    { s.linkDir d with feccor := (s.linkDir d).feccor + BitVec.ofNat 64 (s.correctedOn d w)
                       waves := Sparse.set {} (s.linkDir d).waves w { s.wave d w with checked := s.gt } } :=
  State.linkDir_setLinkDir_self s d _

theorem settleErrors_other (s : State) {d d' : Nat} (h : d' ≠ d) (w : Nat) : (s.settleErrors d w).linkDir d' = s.linkDir d' :=
  linkDir_setLinkDir_other s h _

theorem settleErrors_same (s : State) (d w : Nat) : SameWaves (s.linkDir d) ((s.settleErrors d w).linkDir d) := by
  rw [settleErrors_self]
  refine ⟨rfl, rfl, rfl, rfl, rfl, fun v => ?_⟩
  refine (congrArg Wave.state (waveOf_set (s.linkDir d) w v _)).trans ?_
  split
  · rename_i h; rw [h]; rfl
  · rfl

theorem settleFlits_self (s : State) (d : Nat) : ∃ a b, (s.settleFlits d).linkDir d =
    { s.linkDir d with slots := a, redSlots := b, counted := s.gt } := ⟨_, _, State.linkDir_setLinkDir_self s d _⟩

theorem settleFlits_other (s : State) {d d' : Nat} (h : d' ≠ d) : (s.settleFlits d).linkDir d' = s.linkDir d' :=
  linkDir_setLinkDir_other s h _

theorem settleFlits_same (s : State) (d : Nat) : SameWaves (s.linkDir d) ((s.settleFlits d).linkDir d) := by
  obtain ⟨a, b, h⟩ := settleFlits_self s d
  rw [h]
  exact ⟨rfl, rfl, rfl, rfl, rfl, fun _ => rfl⟩

theorem settleAllErrors_same (s : State) (d d' : Nat) : SameWaves (s.linkDir d') ((s.settleAllErrors d).linkDir d') := by
  refine List.foldlRecOn (motive := fun x : State => SameWaves (s.linkDir d') (x.linkDir d')) _ _ (SameWaves.refl _) (fun x hx w _ => hx.trans ?_)
  by_cases h : d' = d
  · rw [h]; exact settleErrors_same x d w
  · rw [settleErrors_other x h]; exact SameWaves.refl _

/-- Errors and flits of a direction are settled. -/
theorem settled_same (s : State) (d d' : Nat) : SameWaves (s.linkDir d') (((s.settleAllErrors d).settleFlits d).linkDir d') := by
  refine (settleAllErrors_same s d d').trans ?_
  by_cases h : d' = d
  · rw [h]; exact settleFlits_same _ d
  · rw [settleFlits_other _ h]; exact SameWaves.refl _

/-! ## A wavelength is replaced -/

/-- What holds a wavelength's place once it is set: from when it has carried beats is its own. -/
def setWith (s : State) (d w : Nat) (x : Wave) : Wave :=
  { x with checked := s.gt, since := if x.state.carries && !(s.wave d w).state.carries then s.gt else x.since }

/-- The wavelengths of a direction are replaced. -/
def putWaves (s : State) (d : Nat) (waves : Sparse Wave) : State := s.setLinkDir d { s.linkDir d with waves }

/-- Where the active set changes, the flits are settled first. -/
def settleFor (s : State) (d : Nat) (waves : Sparse Wave) : State :=
  if State.carrying { s.linkDir d with waves } == State.carrying (s.linkDir d) then s else s.settleFlits d

theorem setWave_eq {s y : State} {d w : Nat} (x : Wave) (hy : y = s.settleErrors d w) :
    s.setWave d w x = putWaves (settleFor y d (Sparse.set {} (y.linkDir d).waves w (setWith s d w x))) d
      (Sparse.set {} (y.linkDir d).waves w (setWith s d w x)) := by
  have hstate : (y.wave d w).state = (s.wave d w).state := by rw [hy]; exact (settleErrors_same s d w).state w
  have hgt : y.gt = s.gt := by rw [hy]; rfl
  have hset : setWith s d w x = { x with checked := y.gt, since := if x.state.carries && !(y.wave d w).state.carries then y.gt else x.since } := by
    rw [hstate, hgt]; rfl
  rw [hset, hy]
  rfl

theorem settleFor_other (s : State) {d d' : Nat} (h : d' ≠ d) (waves : Sparse Wave) : (settleFor s d waves).linkDir d' = s.linkDir d' := by
  unfold settleFor
  split
  · rfl
  · exact settleFlits_other s h

theorem settleFor_self (s : State) (d : Nat) (waves : Sparse Wave) : ∃ a b c, (settleFor s d waves).linkDir d =
    { s.linkDir d with slots := a, redSlots := b, counted := c } := by
  unfold settleFor
  split
  · exact ⟨_, _, _, rfl⟩
  · obtain ⟨a, b, h⟩ := settleFlits_self s d
    exact ⟨a, b, _, h⟩

theorem setWave_other (s : State) {d d' : Nat} (h : d' ≠ d) (w : Nat) (x : Wave) : (s.setWave d w x).linkDir d' = s.linkDir d' := by
  rw [setWave_eq x rfl, putWaves, linkDir_setLinkDir_other _ h, settleFor_other _ h, settleErrors_other s h]

/-- The direction of a wavelength that is set: the wavelength, the errors counted, and the flits settled. -/
theorem setWave_self (s : State) (d w : Nat) (x : Wave) : ∃ a b c, (s.setWave d w x).linkDir d =
    { s.linkDir d with feccor := (s.linkDir d).feccor + BitVec.ofNat 64 (s.correctedOn d w), slots := a, redSlots := b, counted := c
                       waves := Sparse.set {} (Sparse.set {} (s.linkDir d).waves w { s.wave d w with checked := s.gt }) w
                         (setWith s d w x) } := by
  have hy := settleErrors_self s d w
  generalize hg : s.settleErrors d w = y at hy
  obtain ⟨a, b, c, h⟩ := settleFor_self y d (Sparse.set {} (y.linkDir d).waves w (setWith s d w x))
  rw [setWave_eq x hg.symm, putWaves, State.linkDir_setLinkDir_self, h, hy]
  exact ⟨a, b, c, rfl⟩

theorem wave_setWave_self (s : State) (d w : Nat) (x : Wave) : (s.setWave d w x).wave d w = setWith s d w x := by
  obtain ⟨a, b, c, h⟩ := setWave_self s d w x
  rw [wave_eq, h]
  exact Sparse.get_set_self _ _ _ _

theorem wave_setWave_other (s : State) {d w d' w' : Nat} (h : d' ≠ d ∨ w' ≠ w) (x : Wave) : (s.setWave d w x).wave d' w' = s.wave d' w' := by
  by_cases hd : d' = d
  · subst hd
    have hw := h.resolve_left (fun hne => hne rfl)
    obtain ⟨a, b, c, he⟩ := setWave_self s d' w x
    rw [wave_eq, he]
    exact (Sparse.get_set_other _ _ _ hw).trans (Sparse.get_set_other _ _ _ hw)
  · rw [wave_eq, setWave_other s hd, wave_eq]

/-- A wavelength that carries no beat from now on. -/
theorem wave_setWave_quiet (s : State) (d w : Nat) {x : Wave} (h : x.state.carries = false) :
    (s.setWave d w x).wave d w = { x with checked := s.gt } := by
  rw [wave_setWave_self, setWith, h]
  rfl

theorem feccor_setWave (s : State) (d w : Nat) (x : Wave) :
    ((s.setWave d w x).linkDir d).feccor = (s.linkDir d).feccor + BitVec.ofNat 64 (s.correctedOn d w) := by
  obtain ⟨a, b, c, h⟩ := setWave_self s d w x
  rw [h]

/-! ## Flits that are sent -/

theorem restoreWave_other (s : State) {d d' : Nat} (h : d' ≠ d) (w : Nat) : (s.restoreWave d w).linkDir d' = s.linkDir d' :=
  (linkDir_setLinkDir_other (s.settleFlits d) h _).trans (settleFlits_other s h)

/-- A wavelength is ACTIVE again: the others, and the numbers of the flits, are as before. -/
theorem restoreWave_self (s : State) (d w : Nat) : ((s.restoreWave d w).linkDir d).seq = (s.linkDir d).seq ∧
    ((s.restoreWave d w).linkDir d).restored = (s.linkDir d).restored + 1 ∧
    (waveOf ((s.restoreWave d w).linkDir d) w).state = .active ∧
    ∀ w', w' ≠ w → waveOf ((s.restoreWave d w).linkDir d) w' = waveOf (s.linkDir d) w' := by
  obtain ⟨a, b, hf⟩ := settleFlits_self s d
  have h : (s.restoreWave d w).linkDir d = { (s.settleFlits d).linkDir d with
      restored := ((s.settleFlits d).linkDir d).restored + 1
      waves := Sparse.set {} ((s.settleFlits d).linkDir d).waves w { waveOf ((s.settleFlits d).linkDir d) w with
        state := .active, attempts := 0, spare := false, boundary := none, checked := s.gt, since := s.gt } } :=
    State.linkDir_setLinkDir_self (s.settleFlits d) d _
  rw [h, hf]
  refine ⟨rfl, rfl, congrArg Wave.state (Sparse.get_set_self _ _ _ _), fun w' hw => Sparse.get_set_other _ _ _ hw⟩

theorem reachBoundary_other (s : State) {d d' : Nat} (h : d' ≠ d) : (s.reachBoundary d).linkDir d' = s.linkDir d' :=
  List.foldlRecOn (motive := fun x : State => x.linkDir d' = s.linkDir d') _ _ rfl (fun x hx w _ => (restoreWave_other x h w).trans hx)

/-- Only RESTORING wavelengths change at a boundary. -/
theorem reachBoundary_self (s : State) (d : Nat) : ((s.reachBoundary d).linkDir d).seq = (s.linkDir d).seq ∧
    ∀ w, (s.wave d w).state ≠ .restoring → (s.reachBoundary d).wave d w = s.wave d w := by
  refine List.foldlRecOn (motive := fun x : State => (x.linkDir d).seq = (s.linkDir d).seq ∧
    ∀ w, (s.wave d w).state ≠ .restoring → x.wave d w = s.wave d w) _ _ ⟨rfl, fun _ _ => rfl⟩ (fun x hx w hw => ?_)
  obtain ⟨hseq, -, -, hother⟩ := restoreWave_self x d w
  refine ⟨hseq.trans hx.1, fun w' hr => (hother w' (fun heq => ?_)).trans (hx.2 w' hr)⟩
  have hres := (List.mem_filter.mp hw).2
  rw [Bool.and_eq_true] at hres
  exact hr (by rw [heq]; exact eq_of_beq hres.1)

theorem putFlit_other (s : State) {link d : Nat} (h : d ≠ 2 * link) (f : Flit) : (s.putFlit link f).linkDir d = s.linkDir d :=
  (linkDir_setLinkDir_other (s.reachBoundary (2 * link)) h _).trans (reachBoundary_other s h)

/-- One flit goes out: its number is taken, and wavelengths that are not RESTORING are as before. -/
theorem putFlit_self (s : State) (link : Nat) (f : Flit) : ((s.putFlit link f).linkDir (2 * link)).seq = ((s.linkDir (2 * link)).seq + 1) % 4096 ∧
    ∀ w, (s.wave (2 * link) w).state ≠ .restoring → (s.putFlit link f).wave (2 * link) w = s.wave (2 * link) w := by
  obtain ⟨hseq, hwave⟩ := reachBoundary_self s (2 * link)
  have h := State.linkDir_setLinkDir_self (s.reachBoundary (2 * link)) (2 * link)
  refine ⟨?_, fun w hw => ?_⟩
  · rw [State.putFlit, h, hseq]
  · rw [wave_eq, State.putFlit, h]
    exact hwave w hw

/-- Wavelengths and the state of a direction are as before; flits of it may have been sent. -/
structure Traffic (x y : LinkDir) : Prop where
  waves : y.waves = x.waves
  down : y.down = x.down
  downevt : y.downevt = x.downevt
  restored : y.restored = x.restored

theorem Traffic.refl (x : LinkDir) : Traffic x x := ⟨rfl, rfl, rfl, rfl⟩

theorem Traffic.trans {x y z : LinkDir} (h : Traffic x y) (h' : Traffic y z) : Traffic x z :=
  ⟨h'.waves.trans h.waves, h'.down.trans h.down, h'.downevt.trans h.downevt, h'.restored.trans h.restored⟩

theorem traffic_setLinkDir {s : State} {d : Nat} {x : LinkDir} (h : Traffic (s.linkDir d) x) (d' : Nat) :
    Traffic (s.linkDir d') ((s.setLinkDir d x).linkDir d') := by
  rw [linkDir_setLinkDir]
  split
  · rename_i hd; rw [hd]; exact h
  · exact Traffic.refl _

theorem traffic_noteLost (s : State) (d n d' : Nat) : Traffic (s.linkDir d') ((s.noteLost d n).linkDir d') :=
  traffic_setLinkDir (by exact ⟨rfl, rfl, rfl, rfl⟩) d'

theorem traffic_sendHeld (s : State) (d : Nat) (flits : List Flit) (d' : Nat) : Traffic (s.linkDir d') ((s.sendHeld d flits).linkDir d') :=
  (traffic_setLinkDir (s := s) (d := d) (by exact ⟨rfl, rfl, rfl, rfl⟩) d').trans (traffic_noteLost (State.setLinkDir s d _) d flits.length d')

theorem traffic_passHeld (s : State) (link : Nat) (flits : List Flit) (d' : Nat) :
    Traffic (s.linkDir d') ((s.passHeld link flits).linkDir d') := by
  unfold State.passHeld
  split
  · exact traffic_setLinkDir (by exact ⟨rfl, rfl, rfl, rfl⟩) d'
  · exact traffic_sendHeld s _ flits d'

theorem linkDir_beginPortDown (s : State) (link d : Nat) : (s.beginPortDown link).linkDir d = s.linkDir d := by
  unfold State.beginPortDown
  extract_lets k
  split <;> rfl

/-! ## A direction goes DOWN or comes UP (R399) -/

/-- All wavelengths of a direction train. -/
def allTraining (m : Sparse Wave) : Sparse Wave :=
  (List.range 8).foldl (fun (m : Sparse Wave) w => Sparse.set {} m w { Sparse.get {} m w with state := .training, attempts := 0 }) m

theorem get_foldl_training {l : List Nat} {m : Sparse Wave} {w : Nat} (h : w ∈ l ∨ (Sparse.get {} m w).state = .training) :
    (Sparse.get {} (l.foldl (fun (m : Sparse Wave) w => Sparse.set {} m w { Sparse.get {} m w with state := .training, attempts := 0 }) m)
      w).state = .training := by
  induction l generalizing m with
  | nil => exact h.resolve_left List.not_mem_nil
  | cons v vs ih =>
    refine ih ?_
    by_cases hv : w = v
    · exact .inr (by rw [hv, Sparse.get_set_self])
    · exact (h.imp_left (fun hm => (List.mem_cons.mp hm).resolve_left hv)).imp_right
        (fun hs => by rw [Sparse.get_set_other _ _ _ hv]; exact hs)

theorem allTraining_state (m : Sparse Wave) {w : Nat} (h : w < 8) : (Sparse.get {} (allTraining m) w).state = .training :=
  get_foldl_training (.inl (List.mem_range.mpr h))

/-- A direction whose errors and flits are settled goes DOWN. -/
def setDown (s : State) (d : Nat) : State :=
  s.setLinkDir d { s.linkDir d with waves := allTraining (s.linkDir d).waves, down := true
                                    downevt := (s.linkDir d).downevt + 1, failedReplays := 0 }

/-- What the link of a DOWN direction holds for replay goes to the other link. -/
def passReplay (s : State) (link : Nat) : State :=
  (((s.setLinkDir (2 * link) { s.linkDir (2 * link) with replay := [] }).passHeld link
    (State.undelivered (s.linkDir (2 * link)))).notify 0x05 link).beginPortDown link

theorem goDown_eq {s x : State} {d : Nat} (hx : x = (s.settleAllErrors d).settleFlits d) : s.goDown d =
    if (x.linkDir d).down then x else if x.linkDown (d / 2) then setDown x d else passReplay (setDown x d) (d / 2) := by
  subst hx
  rfl

theorem traffic_passReplay (s : State) (link d : Nat) : Traffic (s.linkDir d) ((passReplay s link).linkDir d) := by
  rw [passReplay, linkDir_beginPortDown, linkDir_notify]
  exact (traffic_setLinkDir (s := s) (by exact ⟨rfl, rfl, rfl, rfl⟩) d).trans (traffic_passHeld (State.setLinkDir s (2 * link) _) link _ d)

theorem goDown_down {s : State} {d : Nat} (h : (s.linkDir d).down = false) :
    ((s.goDown d).linkDir d).down = true ∧ ((s.goDown d).linkDir d).downevt = (s.linkDir d).downevt + 1 ∧
      ∀ w < 8, ((s.goDown d).wave d w).state = .training := by
  have hset := settled_same s d d
  generalize hx : (s.settleAllErrors d).settleFlits d = x at hset
  have hdown : (x.linkDir d).down = false := hset.down.trans h
  have hend : ∀ y : State, Traffic ((setDown x d).linkDir d) (y.linkDir d) → (y.linkDir d).down = true ∧
      (y.linkDir d).downevt = (s.linkDir d).downevt + 1 ∧ ∀ w < 8, (y.wave d w).state = .training := by
    intro y hy
    rw [setDown, State.linkDir_setLinkDir_self] at hy
    generalize hm : allTraining (x.linkDir d).waves = m at hy
    refine ⟨hy.down, hy.downevt.trans (congrArg (· + 1) hset.downevt), fun w hw => ?_⟩
    have hwaves : (y.linkDir d).waves = m := hy.waves
    rw [wave_eq, waveOf, hwaves, ← hm, allTraining_state (x.linkDir d).waves hw]
  rw [goDown_eq hx.symm, if_neg (by rw [hdown]; exact Bool.false_ne_true)]
  split
  · exact hend _ (Traffic.refl _)
  · exact hend _ (traffic_passReplay _ _ d)

theorem goDown_isDown (s : State) (d : Nat) : ((s.goDown d).linkDir d).down = true := by
  by_cases h : (s.linkDir d).down = false
  · exact (goDown_down h).1
  · have hset := settled_same s d d
    generalize hx : (s.settleAllErrors d).settleFlits d = x at hset
    have hdown : (x.linkDir d).down = true := hset.down.trans (Bool.eq_true_of_not_eq_false h)
    rw [goDown_eq hx.symm, if_pos hdown, hdown]

/-- States of wavelengths, and how often they were restored. -/
structure SameLit (x y : LinkDir) : Prop where
  state : ∀ w, (waveOf y w).state = (waveOf x w).state
  restored : y.restored = x.restored

theorem SameLit.refl (x : LinkDir) : SameLit x x := ⟨fun _ => rfl, rfl⟩

theorem SameLit.trans {x y z : LinkDir} (h : SameLit x y) (h' : SameLit y z) : SameLit x z :=
  ⟨fun w => (h'.state w).trans (h.state w), h'.restored.trans h.restored⟩

theorem SameWaves.lit {x y : LinkDir} (h : SameWaves x y) : SameLit x y := ⟨h.state, h.restored⟩

theorem Traffic.lit {x y : LinkDir} (h : Traffic x y) : SameLit x y :=
  ⟨fun w => congrArg (fun m => (Sparse.get ({} : Wave) m w).state) h.waves, h.restored⟩

theorem lit_setLinkDir {s : State} {d : Nat} {x : LinkDir} (h : SameLit (s.linkDir d) x) (d' : Nat) :
    SameLit (s.linkDir d') ((s.setLinkDir d x).linkDir d') := by
  rw [linkDir_setLinkDir]
  split
  · rename_i hd; rw [hd]; exact h
  · exact SameLit.refl _

theorem siblingOf_ne (link : Nat) : State.siblingOf link ≠ link := by
  unfold State.siblingOf
  split <;> omega

/-- A link is UP: its outbound direction starts with the next flit. -/
def upOut (s : State) (link : Nat) : State :=
  s.setLinkDir (2 * link) { s.linkDir (2 * link) with
    down := false, heldFlits := [], replay := [], expected := (s.linkDir (2 * link)).seq, failedReplays := 0 }

/-- The flits that wait at a DOWN sibling. -/
def siblingHeld (s : State) (link : Nat) : List Flit :=
  if s.linkDown (State.siblingOf link) then (s.linkDir (2 * State.siblingOf link)).heldFlits else []

/-- Flits are taken from a direction. -/
def takeHeld (s : State) (d : Nat) (flits : List Flit) : State :=
  if flits.isEmpty then s else s.setLinkDir d { s.linkDir d with heldFlits := [] }

/-- The inbound direction of a link is UP. -/
def upIn (s : State) (d : Nat) : State := s.setLinkDir d { s.linkDir d with down := false, resync := true, failedReplays := 0 }

/-- What a link has sent first once it is UP, and the end of port-down. -/
def linkUp (s : State) (link : Nat) (flits : List Flit) : State :=
  let s := s.sendHeld (2 * link) flits
  let s : State := { s with net := { s.net with
    portdown := Sparse.del s.net.portdown (State.switchOf link), expired := s.net.expired.filter (· != State.switchOf link) } }
  s.notify 0x06 link

/-- Errors and flits of the DOWN directions of a link are settled. -/
def settleDown (s : State) (link : Nat) : State :=
  [2 * link, 2 * link + 1].foldl (fun s d => if (s.linkDir d).down then (s.settleAllErrors d).settleFlits d else s) s

theorem comeUp_eq {s x : State} {link : Nat} (hx : x = settleDown s link) : s.comeUp link =
    if s.linkDown link && s.activeCount (2 * link) ≥ 4 && s.activeCount (2 * link + 1) ≥ 4 then
      linkUp (upIn (takeHeld (upOut x link) (2 * State.siblingOf link) (siblingHeld x link)) (2 * link + 1)) link
        ((x.linkDir (2 * link)).heldFlits ++ siblingHeld x link)
    else s := by
  have hsib : 2 * State.siblingOf link ≠ 2 * link := fun h => siblingOf_ne link (Nat.eq_of_mul_eq_mul_left (by decide) h)
  have hy : (upOut x link).linkDir (2 * State.siblingOf link) = x.linkDir (2 * State.siblingOf link) := linkDir_setLinkDir_other x hsib _
  subst hx
  unfold takeHeld
  rw [hy]
  rfl

theorem settleDown_lit (s : State) (link d : Nat) : SameLit (s.linkDir d) ((settleDown s link).linkDir d) := by
  refine List.foldlRecOn (motive := fun x : State => SameLit (s.linkDir d) (x.linkDir d)) _ _ (SameLit.refl _) (fun y hy e _ => hy.trans ?_)
  split
  · exact (settled_same y e d).lit
  · exact SameLit.refl _

theorem takeHeld_lit (s : State) (e : Nat) (flits : List Flit) (d : Nat) : SameLit (s.linkDir d) ((takeHeld s e flits).linkDir d) := by
  unfold takeHeld
  split
  · exact SameLit.refl _
  · exact lit_setLinkDir (by exact ⟨fun _ => rfl, rfl⟩) d

theorem comeUp_lit (s : State) (link d : Nat) : SameLit (s.linkDir d) ((s.comeUp link).linkDir d) := by
  have h1 := settleDown_lit s link d
  generalize hx : settleDown s link = x at h1
  rw [comeUp_eq hx.symm]
  split
  · have h2 : SameLit (x.linkDir d) ((upOut x link).linkDir d) := lit_setLinkDir (by exact ⟨fun _ => rfl, rfl⟩) d
    have h3 := takeHeld_lit (upOut x link) (2 * State.siblingOf link) (siblingHeld x link) d
    generalize takeHeld (upOut x link) (2 * State.siblingOf link) (siblingHeld x link) = y at h3
    have h4 : SameLit (y.linkDir d) ((upIn y (2 * link + 1)).linkDir d) := lit_setLinkDir (by exact ⟨fun _ => rfl, rfl⟩) d
    exact (((h1.trans h2).trans h3).trans h4).trans (traffic_sendHeld _ _ _ d).lit
  · exact SameLit.refl _

end Sys2Proof.Machine
end

section
/-! # Proofs: the events of the links (R394 to R401) -/

namespace Sys2Proof.Machine

/-! ## Flits received (R396) -/

theorem flitReceive_intact {s : State} {dir : Nat} {bytes : List Byte} (hd : dir < 512) (hdown : (s.linkDir dir).down = false)
    (hok : crcOk bytes = true) (ht : (parseFlit bytes).type ≠ 0)
    (hseq : (parseFlit bytes).seq = (s.linkDir dir).expected ∨ (s.linkDir dir).resync = true) :
    exec (.flitReceive dir bytes) s = .next (s.setLinkDir dir { s.linkDir dir with
      expected := ((parseFlit bytes).seq + 1) % 4096, failedReplays := 0, resync := false }) := by
  have hx : exec (.flitReceive dir bytes) s = execFlitReceive dir bytes s := rfl
  have hskip : ((parseFlit bytes).type == 0 || ((parseFlit bytes).seq != (s.linkDir dir).expected && !(s.linkDir dir).resync)) = false := by
    rcases hseq with h | h <;> simp [ht, h]
  simp only [hx, execFlitReceive, Nat.not_le.mpr hd, hdown, hok, hskip, decide_false, Bool.or_self, Bool.not_true,
    Bool.false_eq_true, if_false]

theorem flitReceive_passes {s : State} {dir : Nat} {bytes : List Byte} (hd : dir < 512) (hdown : (s.linkDir dir).down = false)
    (hok : crcOk bytes = true)
    (h : (parseFlit bytes).type = 0 ∨ ((parseFlit bytes).seq ≠ (s.linkDir dir).expected ∧ (s.linkDir dir).resync = false)) :
    exec (.flitReceive dir bytes) s = .next s := by
  have hx : exec (.flitReceive dir bytes) s = execFlitReceive dir bytes s := rfl
  have hskip : ((parseFlit bytes).type == 0 || ((parseFlit bytes).seq != (s.linkDir dir).expected && !(s.linkDir dir).resync)) = true := by
    rcases h with h | ⟨h, hr⟩
    · simp [h]
    · simp [h, hr]
  simp only [hx, execFlitReceive, Nat.not_le.mpr hd, hdown, hok, hskip, decide_false, Bool.or_self, Bool.not_true,
    Bool.false_eq_true, if_false, if_true]

theorem flitReceive_damaged {s : State} {dir : Nat} {bytes : List Byte} (hd : dir < 512) (hdown : (s.linkDir dir).down = false)
    (hok : crcOk bytes = false) : exec (.flitReceive dir bytes) s = .next (replayFlit s dir) := by
  have hx : exec (.flitReceive dir bytes) s = execFlitReceive dir bytes s := rfl
  simp only [hx, execFlitReceive, Nat.not_le.mpr hd, hdown, hok, decide_false, Bool.or_self, Bool.not_false,
    Bool.false_eq_true, if_false, if_true]

theorem noteLost_self (s : State) (d n : Nat) : (s.noteLost d n).linkDir d = { s.linkDir d with
    lost := (s.linkDir d).lost + BitVec.ofNat 64 n
    redLost := (s.linkDir d).redLost + (if s.activeWaves d < 8 then BitVec.ofNat 64 n else 0) } := State.linkDir_setLinkDir_self s d _

/-- A control flit on the reverse direction changes nothing of an inbound one. -/
theorem linkDir_sendControl_inbound (s : State) {d : Nat} (h : d % 2 = 1) (what : List Byte) :
    (s.sendControl (d / 2) what).linkDir d = s.linkDir d := putFlit_other s (by omega) _

/-- A replay that is asked for: its flits count as sent again. -/
theorem linkDir_replayFlit {s : State} {d : Nat} (h : (s.linkDir d).failedReplays < 8) :
    (replayFlit s d).linkDir d = { s.linkDir d with
      crcerr := (s.linkDir d).crcerr + 1, replays := (s.linkDir d).replays + BitVec.ofNat 64 (resentFlits s d)
      failedReplays := (s.linkDir d).failedReplays + 1, lost := (s.linkDir d).lost + BitVec.ofNat 64 (resentFlits s d)
      redLost := if s.activeWaves d < 8 then (s.linkDir d).redLost + BitVec.ofNat 64 (resentFlits s d) else (s.linkDir d).redLost } := by
  set y : LinkDir := { s.linkDir d with crcerr := (s.linkDir d).crcerr + 1, failedReplays := (s.linkDir d).failedReplays + 1
                                        replays := (s.linkDir d).replays + BitVec.ofNat 64 (resentFlits s d) } with hy
  have hself : (s.fresh.setLinkDir d y).linkDir d = y := State.linkDir_setLinkDir_self s.fresh d y
  have hactive : (s.fresh.setLinkDir d y).activeWaves d = s.activeWaves d := by rw [State.activeWaves, hself]; rfl
  have hlost : ((s.fresh.setLinkDir d y).noteLost d (resentFlits s d)).linkDir d = { y with
      lost := y.lost + BitVec.ofNat 64 (resentFlits s d)
      redLost := if s.activeWaves d < 8 then y.redLost + BitVec.ofNat 64 (resentFlits s d) else y.redLost } := by
    rw [noteLost_self, hself, hactive]
    split
    · rfl
    · rw [show y.redLost + 0 = y.redLost from BitVec.add_zero _]
  have heq : replayFlit s d = if d % 2 = 1 then ((s.fresh.setLinkDir d y).noteLost d (resentFlits s d)).askReplay (d / 2) (s.linkDir d).expected
      else (s.fresh.setLinkDir d y).noteLost d (resentFlits s d) := if_neg (Nat.not_le.mpr h)
  rw [heq]
  split
  · rename_i hodd
    rw [State.askReplay, linkDir_sendControl_inbound _ hodd, hlost]
  · exact hlost

theorem replayFlit_down {s : State} {d : Nat} (h : 8 ≤ (s.linkDir d).failedReplays) : ((replayFlit s d).linkDir d).down = true := by
  have heq : ∃ x : State, replayFlit s d = x.goDown d := ⟨_, if_pos h⟩
  obtain ⟨x, hx⟩ := heq
  rw [hx, goDown_isDown]

/-! ## Check intervals, training and hand-back (R397, R398) -/

/-- The wavelengths beside one that carry beats or will soon. -/
def otherWaves (s : State) (dir wave : Nat) : Nat :=
  ((List.range 8).filter (fun w => w != wave && ((s.wave dir w).state == .active || (s.wave dir w).state == .restoring))).length

/-- The counters of a direction at the end of a check interval. -/
def intervalCounted (s : State) (dir errors : Nat) (event out : Bool) : State :=
  s.setLinkDir dir { s.linkDir dir with
    feccor := (s.linkDir dir).feccor + BitVec.ofNat 64 errors, berevt := (s.linkDir dir).berevt + (if event then 1 else 0)
    withdraw := (s.linkDir dir).withdraw + (if out then 1 else 0) }

/-- The receiver asks for a withdrawal on the reverse direction. -/
def asked (s : State) (dir wave : Nat) : State := if dir % 2 = 1 then s.askWave dir wave else s

theorem linkDir_asked (s : State) (dir wave : Nat) : (asked s dir wave).linkDir dir = s.linkDir dir := by
  unfold asked
  split
  · rename_i h; exact linkDir_sendControl_inbound s h _
  · rfl

theorem putFlit_gt (s : State) (link : Nat) (f : Flit) : (s.putFlit link f).gt = s.gt := (Served.putFlit s link f).gt

theorem asked_gt (s : State) (dir wave : Nat) : (asked s dir wave).gt = s.gt := by
  unfold asked
  split
  · exact putFlit_gt s _ _
  · rfl

/-- The errors to be counted are those of the wavelength as it stands. -/
theorem correctedOn_congr {s t : State} {d w : Nat} (hw : t.wave d w = s.wave d w) (hd : (t.linkDir d).down = (s.linkDir d).down)
    (hg : t.gt = s.gt) : t.correctedOn d w = s.correctedOn d w := by
  simp only [State.correctedOn, hw, hd, hg]

/-- More errors than the threshold allows in a check interval. -/
def badInterval (s : State) (dir wave errors : Nat) : Bool :=
  (s.wave dir wave).state == .active &&
    decide (s.intervalErrors dir wave errors (s.wave dir wave).since * 2 ^ 12 > (s.linkDir dir).errth)

/-- The wavelength is withdrawn for them. -/
def withdrawn (s : State) (dir wave errors : Nat) : Bool := badInterval s dir wave errors && decide (otherWaves s dir wave ≥ 4)

theorem checkIntervalEnd_eq {s : State} {dir wave errors : Nat} (hd : dir < 512) (hw : wave < 8) (hcar : (s.wave dir wave).state.carries = true)
    (hdown : (s.linkDir dir).down = false) : execCheckIntervalEnd dir wave errors s =
      if withdrawn s dir wave errors then
        .next (((asked (intervalCounted s dir errors (badInterval s dir wave errors) (withdrawn s dir wave errors)) dir wave).setWave dir wave
          { s.wave dir wave with state := .withdrawing }).notify 0x01 (State.waveArg dir wave))
      else .next (intervalCounted s dir errors (badInterval s dir wave errors) (withdrawn s dir wave errors)) := by
  have hgo : ¬ (decide (dir ≥ 512) || decide (wave ≥ 8) || !(s.wave dir wave).state.carries || (s.linkDir dir).down) = true := by
    simp [hd, hw, hcar, hdown]
  exact if_neg hgo

theorem linkDir_intervalCounted (s : State) (dir errors : Nat) (event out : Bool) : (intervalCounted s dir errors event out).linkDir dir =
    { s.linkDir dir with
      feccor := (s.linkDir dir).feccor + BitVec.ofNat 64 errors, berevt := (s.linkDir dir).berevt + (if event then 1 else 0)
      withdraw := (s.linkDir dir).withdraw + (if out then 1 else 0) } := State.linkDir_setLinkDir_self s dir _

theorem wave_intervalCounted (s : State) (dir wave errors : Nat) (event out : Bool) :
    (intervalCounted s dir errors event out).wave dir wave = s.wave dir wave := by
  rw [wave_eq, linkDir_intervalCounted]; rfl

theorem checkIntervalEnd_counts {s : State} {dir wave errors : Nat} (hd : dir < 512) (hw : wave < 8) (hst : (s.wave dir wave).state = .active)
    (hdown : (s.linkDir dir).down = false) :
    ∃ t, exec (.checkIntervalEnd dir wave errors) s = .next t ∧
      (t.linkDir dir).feccor = (s.linkDir dir).feccor + BitVec.ofNat 64 errors +
        (if s.intervalErrors dir wave errors (s.wave dir wave).since * 2 ^ 12 > (s.linkDir dir).errth ∧ 4 ≤ otherWaves s dir wave
          then BitVec.ofNat 64 (s.correctedOn dir wave) else 0) ∧
      (t.wave dir wave).state = if s.intervalErrors dir wave errors (s.wave dir wave).since * 2 ^ 12 > (s.linkDir dir).errth ∧
        4 ≤ otherWaves s dir wave then .withdrawing else .active := by
  have hx : exec (.checkIntervalEnd dir wave errors) s = execCheckIntervalEnd dir wave errors s := rfl
  have hout : withdrawn s dir wave errors = true ↔
      s.intervalErrors dir wave errors (s.wave dir wave).since * 2 ^ 12 > (s.linkDir dir).errth ∧ 4 ≤ otherWaves s dir wave := by
    simp [withdrawn, badInterval, hst]
  rw [hx, checkIntervalEnd_eq hd hw (by rw [hst]; rfl) hdown]
  have hdir := linkDir_intervalCounted s dir errors (badInterval s dir wave errors) (withdrawn s dir wave errors)
  have hwave := wave_intervalCounted s dir wave errors (badInterval s dir wave errors) (withdrawn s dir wave errors)
  have hgt : (intervalCounted s dir errors (badInterval s dir wave errors) (withdrawn s dir wave errors)).gt = s.gt := rfl
  generalize intervalCounted s dir errors (badInterval s dir wave errors) (withdrawn s dir wave errors) = c at hdir hwave hgt
  by_cases h : withdrawn s dir wave errors = true
  · have ha := linkDir_asked c dir wave
    have hcor : (asked c dir wave).correctedOn dir wave = s.correctedOn dir wave :=
      correctedOn_congr (by rw [wave_eq, ha, ← wave_eq, hwave]) (by rw [ha, hdir]) ((asked_gt c dir wave).trans hgt)
    rw [if_pos h, if_pos (hout.mp h), if_pos (hout.mp h)]
    refine ⟨_, rfl, ?_, ?_⟩
    · rw [linkDir_notify, feccor_setWave, hcor, ha, hdir]
    · rw [wave_eq, linkDir_notify, ← wave_eq, wave_setWave_self]
      rfl
  · rw [if_neg h, if_neg (fun hc => h (hout.mpr hc)), if_neg (fun hc => h (hout.mpr hc))]
    refine ⟨_, rfl, ?_, hwave ▸ hst⟩
    rw [hdir, show (s.linkDir dir).feccor + BitVec.ofNat 64 errors + 0 = (s.linkDir dir).feccor + BitVec.ofNat 64 errors from BitVec.add_zero _]

/-- A boundary of an outbound direction is announced on it. -/
theorem announce_self (s : State) {d : Nat} (h : d % 2 = 0) : ((s.announce d).linkDir d).seq = ((s.linkDir d).seq + 1) % 4096 ∧
    ∀ w, (s.wave d w).state ≠ .restoring → (s.announce d).wave d w = s.wave d w := by
  have hd : 2 * (d / 2) = d := by omega
  have hf := putFlit_self s (d / 2) { type := 2, vc := 3, payload := messagePayload 3 (d / 2) (leBytes 2 (((s.linkDir d).seq + 1) % 4096)) }
  rw [hd] at hf
  exact hf

theorem withdrawMsg_trains {s : State} {dir wave : Nat} (h : (s.wave dir wave).state = .withdrawing) :
    ∃ t, exec (.withdrawMsg dir wave) s = .next t ∧
      t.wave dir wave = { s.wave dir wave with state := .training, attempts := 0, checked := s.gt } := by
  set y := if dir % 2 = 0 then s.announce dir else s with hy
  have hgt : y.gt = s.gt := by
    rw [hy]
    split
    · exact putFlit_gt s _ _
    · rfl
  have hx : exec (.withdrawMsg dir wave) s = .next (y.setWave dir wave { s.wave dir wave with state := .training, attempts := 0 }) := by
    refine congrArg Host.Outcome.next (if_pos ?_)
    rw [h]; rfl
  refine ⟨_, hx, ?_⟩
  rw [wave_setWave_quiet y dir wave (by rfl), hgt]

theorem trainingAttemptEnd_passes {s : State} {dir wave errors : Nat} (hd : dir < 512) (hw : wave < 8) (h : (s.wave dir wave).state = .training)
    (he : s.intervalErrors dir wave errors 0 * 2 ^ 14 ≤ (s.linkDir dir).errth) :
    ∃ t, exec (.trainingAttemptEnd dir wave errors) s = .next t ∧
      t.wave dir wave = { s.wave dir wave with state := .ready, checked := s.gt } := by
  have hx : exec (.trainingAttemptEnd dir wave errors) s = .next (s.setWave dir wave { s.wave dir wave with state := .ready }) := by
    have hex : exec (.trainingAttemptEnd dir wave errors) s = execTrainingAttemptEnd dir wave errors s := rfl
    have hb : ((s.wave dir wave).state != WaveState.training) = false := by rw [h]; rfl
    simp only [hex, execTrainingAttemptEnd, Nat.not_le.mpr hd, Nat.not_le.mpr hw, decide_false, hb, Bool.or_self,
      Bool.false_eq_true, if_false, he, if_true]
  exact ⟨_, hx, wave_setWave_quiet s dir wave (by rfl)⟩

/-- The state in which RESTORE has reached the sender of a direction. -/
def restoreAsked (s : State) (dir wave : Nat) : State := if dir % 2 = 1 then s.askWave dir wave else s.announce dir

theorem restoreAsked_dir {s : State} {dir wave : Nat} (h : (s.wave dir wave).state ≠ .restoring) :
    (restoreAsked s dir wave).wave dir wave = s.wave dir wave ∧ (restoreAsked s dir wave).gt = s.gt ∧
      (dir % 2 ≠ 1 → ((restoreAsked s dir wave).linkDir dir).seq = ((s.linkDir dir).seq + 1) % 4096) := by
  unfold restoreAsked
  split
  · rename_i hodd
    refine ⟨?_, putFlit_gt s _ _, fun hne => absurd hodd hne⟩
    rw [wave_eq, State.askWave, linkDir_sendControl_inbound s hodd, wave_eq]
  · rename_i hev
    obtain ⟨hseq, hwave⟩ := announce_self s (d := dir) (by omega)
    exact ⟨hwave wave h, putFlit_gt s _ _, fun _ => hseq⟩

theorem restoreMsg_ready {s : State} {dir wave : Nat} (h : (s.wave dir wave).state = .ready) :
    ∃ t, exec (.restoreMsg dir wave) s = .next t ∧ t.wave dir wave = { s.wave dir wave with
      state := .restoring, checked := s.gt
      boundary := if dir % 2 = 1 then none else some (((s.linkDir dir).seq + 1) % 4096) } := by
  obtain ⟨hwave, hgt, hseq⟩ := restoreAsked_dir (s := s) (dir := dir) (wave := wave) (by rw [h]; decide)
  have hx : exec (.restoreMsg dir wave) s = .next ((restoreAsked s dir wave).setWave dir wave
      { (restoreAsked s dir wave).wave dir wave with
        state := .restoring, boundary := if dir % 2 = 1 then none else some ((restoreAsked s dir wave).linkDir dir).seq }) := by
    have hex : exec (.restoreMsg dir wave) s = execRestoreMsg dir wave s := rfl
    rw [hex, execRestoreMsg]
    simp only [h]
    rfl
  refine ⟨_, hx, ?_⟩
  rw [wave_setWave_quiet _ dir wave (by rfl), hwave, hgt]
  by_cases hodd : dir % 2 = 1
  · rw [if_pos hodd, if_pos hodd]
  · rw [if_neg hodd, if_neg hodd, hseq hodd]

theorem restoreMsg_restoring {s : State} {dir wave : Nat} (h : (s.wave dir wave).state = .restoring) :
    ∃ t, exec (.restoreMsg dir wave) s = .next t ∧ (t.wave dir wave).state = .active ∧
      (t.linkDir dir).restored = (s.linkDir dir).restored + 1 := by
  have hx : exec (.restoreMsg dir wave) s = .next (((s.settleErrors dir wave).restoreWave dir wave).comeUp (dir / 2)) := by
    have hex : exec (.restoreMsg dir wave) s = execRestoreMsg dir wave s := rfl
    rw [hex, execRestoreMsg]
    simp only [h]
  have hlit := comeUp_lit ((s.settleErrors dir wave).restoreWave dir wave) (dir / 2) dir
  obtain ⟨-, hres, hact, -⟩ := restoreWave_self (s.settleErrors dir wave) dir wave
  refine ⟨_, hx, ?_, ?_⟩
  · rw [wave_eq, hlit.state, hact]
  · rw [hlit.restored, hres, (settleErrors_same s dir wave).restored]

/-- Settles O52: each event by what it does to its direction. -/
theorem linkEvents : Obligations.LinkEvents := by
  unfold Obligations.LinkEvents
  intro s dir wave errors lost bytes x v e tested n others
  refine ⟨fun hd hdown => ⟨fun hok ht hseq => flitReceive_intact hd hdown hok ht hseq, fun hok h => flitReceive_passes hd hdown hok h,
    fun hok hf => ⟨_, flitReceive_damaged hd hdown hok, linkDir_replayFlit hf⟩,
    fun hok hf => ⟨_, flitReceive_damaged hd hdown hok, replayFlit_down hf⟩⟩,
    fun hd hw hst hdown => checkIntervalEnd_counts hd hw hst hdown, fun h => withdrawMsg_trains h,
    fun hd hw h he => trainingAttemptEnd_passes hd hw h he, fun h => restoreMsg_ready h, fun h => restoreMsg_restoring h,
    fun hd hl hdown => ?_⟩
  have hx : exec (.lossOfLock dir lost) s = .next (s.goDown dir) := by
    refine congrArg Host.Outcome.next (if_pos ?_)
    rw [decide_eq_true hd, decide_eq_true hl]
    rfl
  exact ⟨_, hx, goDown_down hdown⟩

end Sys2Proof.Machine
end

section
/-! # Proofs: boot and power (R417 to R419, R428) -/

namespace Sys2Proof.Machine

theorem mem_of_get {β : Type} (d : β) (m : Sparse β) (k : Nat) : Sparse.get d m k = d ∨ (k, Sparse.get d m k) ∈ m := by
  induction m with
  | nil => exact .inl rfl
  | cons e m ih =>
    obtain ⟨i, x⟩ := e
    by_cases h : i = k
    · right
      simp [Sparse.get, h]
    · simp only [Sparse.get, h, if_false]
      exact ih.imp_right (List.mem_cons_of_mem _)

/-- An entry for every number below `n`. -/
theorem get_range_map {β : Type} (d : β) (n : Nat) (g : Nat → β) {k : Nat} (h : k < n) :
    Sparse.get d ((List.range n).map (fun i => (i, g i))) k = g k := by
  refine get_of_mem d ?_ (e := (k, g k)) (List.mem_map.mpr ⟨k, List.mem_range.mpr h, rfl⟩)
  rw [List.map_map]
  exact (List.map_id _).symm ▸ List.nodup_range

/-! ## Step 4: channels (R417) -/

theorem getLsbD_without {w : Nat} (m : BitVec w) (l : List Nat) {c : Nat} (hc : c < w) :
    (without m l).getLsbD c = (m.getLsbD c && !l.contains c) := by
  induction l generalizing m with
  | nil => simp [without]
  | cons i l ih =>
    have h := ih (m &&& ~~~BitVec.ofNat w (2 ^ i))
    have hbit : (BitVec.ofNat w (2 ^ i)).getLsbD c = decide (i = c) := by
      rw [BitVec.getLsbD_ofNat, Nat.testBit_two_pow]
      simp [hc]
    change (without (m &&& ~~~BitVec.ofNat w (2 ^ i)) l).getLsbD c = _
    rw [h, BitVec.getLsbD_and, BitVec.getLsbD_not, hbit, List.contains_cons]
    by_cases hi : i = c
    · simp [hi]
    · have hci : (c == i) = false := beq_eq_false_iff_ne.mpr (Ne.symm hi)
      simp [hi, hci, hc]

theorem foldl_notify (code : Nat) (l : List Nat) (s : State) : l.foldl (fun s c => s.notify code c) s =
    { s with fw := { s.fw with notifications := s.fw.notifications ++ l.map (fun c => (code, c)) } } := by
  induction l generalizing s with
  | nil => rw [List.map_nil, List.append_nil]; rfl
  | cons c l ih =>
    rw [List.foldl_cons, ih]
    simp [State.notify, List.append_assoc]

theorem trainChannels_eq (s : State) (failed : List Nat) : trainChannels s failed =
    { s with
      mem := { s.mem with leftOut := failed }
      loft := (s.setPartition 0 { s.partition 0 with chans := without (s.partition 0).chans failed }).loft
      fw := { s.fw with notifications := s.fw.notifications ++ failed.map (fun c => (0x0A, c)) } } := by
  rw [trainChannels, foldl_notify]
  rfl

theorem chans_setPartition (s : State) (p n : Nat) (x : Partition) :
    ((s.setPartition p x).partition n).chans = if n = p then x.chans else (s.partition n).chans := by
  simp only [State.partition, State.setPartition, Sparse.get_set]
  split <;> rfl

/-! ## Step 5: wavelengths (R398, R417) -/

/-- A spare of a fibre direction is taken: it is counted, and the host is told. -/
def spareTaken (s : State) (d w : Nat) : State :=
  let y := s.setLinkDir d { s.linkDir d with spareuse := (s.linkDir d).spareuse + 1 }
  State.notify { y with net := { y.net with
    sparesUsed := Sparse.set 0 y.net.sparesUsed (2 * (d / 4) + d % 2) (Sparse.get 0 y.net.sparesUsed (2 * (d / 4) + d % 2) + 1) } }
    0x03 (State.waveArg d w)

theorem takeSpare_eq {s y : State} {d w : Nat} {x : Wave} (hy : y = s.setWave d w x) : s.takeSpare d w x = spareTaken y d w := by
  subst hy
  rfl

theorem linkDir_spareTaken (s : State) (d w d' : Nat) : (spareTaken s d w).linkDir d' =
    if d' = d then { s.linkDir d with spareuse := (s.linkDir d).spareuse + 1 } else s.linkDir d' := linkDir_setLinkDir s d d' _

/-- Links are trained: directions and spares change, and the host is told of spares and failures. -/
structure LinksTrained (s t : State) : Prop where
  only : t = { s with net := { s.net with dirs := t.net.dirs, sparesUsed := t.net.sparesUsed }
                      fw := { s.fw with notifications := t.fw.notifications } }
  told : ∃ l, t.fw.notifications = s.fw.notifications ++ l ∧ ∀ n ∈ l, n.1 = 3 ∨ n.1 = 4

namespace LinksTrained

theorem refl (s : State) : LinksTrained s s := ⟨rfl, [], by simp⟩

theorem trans {s x t : State} (h : LinksTrained s x) (h' : LinksTrained x t) : LinksTrained s t := by
  obtain ⟨l, hl, hc⟩ := h.told
  obtain ⟨l', hl', hc'⟩ := h'.told
  refine ⟨by rw [h'.only, h.only], l ++ l', by rw [hl', hl, List.append_assoc], fun n hn => ?_⟩
  exact (List.mem_append.mp hn).elim (hc n) (hc' n)

theorem foldl {α : Type} {g : State → α → State} (h : ∀ x a, LinksTrained x (g x a)) (l : List α) (s : State) : LinksTrained s (l.foldl g s) :=
  List.foldlRecOn l g (refl s) (fun x hx a _ => hx.trans (h x a))

theorem setLinkDir (s : State) (d : Nat) (x : LinkDir) : LinksTrained s (s.setLinkDir d x) := ⟨rfl, [], by simp [State.setLinkDir]⟩

theorem settleFor (s : State) (d : Nat) (waves : Sparse Wave) : LinksTrained s (settleFor s d waves) := by
  unfold Machine.settleFor
  split
  · exact refl s
  · exact setLinkDir s d _

theorem setWave (s : State) (d w : Nat) (x : Wave) : LinksTrained s (s.setWave d w x) := by
  rw [setWave_eq x rfl]
  exact ((setLinkDir s d _).trans (settleFor _ d _)).trans (setLinkDir _ d _)

theorem notify (s : State) {code : Nat} (h : code = 3 ∨ code = 4) (arg : Nat) : LinksTrained s (s.notify code arg) :=
  ⟨rfl, [(code, arg)], rfl, fun n hn => by rw [List.mem_singleton.mp hn]; exact h⟩

theorem spares (s : State) (x : Sparse Nat) : LinksTrained s { s with net := { s.net with sparesUsed := x } } := ⟨rfl, [], by simp⟩

theorem takeSpare (s : State) (d w : Nat) (x : Wave) : LinksTrained s (s.takeSpare d w x) := by
  rw [takeSpare_eq rfl, spareTaken]
  exact (((setWave s d w x).trans (setLinkDir _ d _)).trans (spares _ _)).trans (notify _ (.inl rfl) _)

theorem failWave (s : State) (x : Nat × Nat) : LinksTrained s (failWave s x) := by
  unfold Machine.failWave
  split
  · exact refl s
  · split
    · exact takeSpare s _ _ _
    · exact (setWave s _ _ _).trans (notify _ (.inr rfl) _)

theorem trainLinks (s : State) (failed : List (Nat × Nat)) : LinksTrained s (trainLinks s failed) := by
  unfold Machine.trainLinks
  extract_lets s1
  exact (foldl failWave failed s).trans (foldl (fun x _ => setLinkDir x _ _) _ s1)

end LinksTrained

theorem down_setWave (s : State) (d w : Nat) (x : Wave) (d' : Nat) : ((s.setWave d w x).linkDir d').down = (s.linkDir d').down := by
  by_cases h : d' = d
  · obtain ⟨a, b, c, he⟩ := setWave_self s d w x
    rw [h, he]
  · rw [setWave_other s h]

/-- A wavelength that fails changes no other, and no direction goes DOWN for it. -/
theorem failWave_dir (s : State) (x : Nat × Nat) (d : Nat) : ((failWave s x).linkDir d).down = (s.linkDir d).down ∧
    ∀ w, (d, w) ≠ x → (failWave s x).wave d w = s.wave d w := by
  obtain ⟨a, b⟩ := x
  have hother : ∀ (v : Wave) (w : Nat), (d, w) ≠ (a, b) → (s.setWave a b v).wave d w = s.wave d w := fun v w hne =>
    wave_setWave_other s (by by_contra hc; push Not at hc; exact hne (Prod.ext hc.1 hc.2)) v
  unfold failWave
  split
  · exact ⟨rfl, fun _ _ => rfl⟩
  · split
    · have hdown := down_setWave s a b { spare := true } d
      have hwave := hother { spare := true }
      generalize hy : s.setWave a b { spare := true } = y at hdown hwave
      have hdir : ((spareTaken y a b).linkDir d).down = (y.linkDir d).down ∧ ((spareTaken y a b).linkDir d).waves = (y.linkDir d).waves := by
        rw [linkDir_spareTaken]
        split
        · rename_i hd; rw [hd]; exact ⟨rfl, rfl⟩
        · exact ⟨rfl, rfl⟩
      rw [takeSpare_eq hy.symm]
      exact ⟨hdir.1.trans hdown, fun w hne => (congrArg (fun m => Sparse.get ({} : Wave) m w) hdir.2).trans (hwave w hne)⟩
    · have hdown := down_setWave s a b { state := .failed } d
      have hwave := hother { state := .failed }
      generalize s.setWave a b { state := .failed } = y at hdown hwave
      exact ⟨hdown, hwave⟩

/-- After the failures no direction is DOWN, and every other wavelength is as it was. -/
theorem foldl_failWave_dir (failed : List (Nat × Nat)) (s : State) (d : Nat) : ((failed.foldl failWave s).linkDir d).down = (s.linkDir d).down ∧
    ∀ w, (d, w) ∉ failed → (failed.foldl failWave s).wave d w = s.wave d w := by
  refine List.foldlRecOn (motive := fun x : State => (x.linkDir d).down = (s.linkDir d).down ∧
    ∀ w, (d, w) ∉ failed → x.wave d w = s.wave d w) failed failWave ⟨rfl, fun _ _ => rfl⟩ (fun x hx a ha => ?_)
  obtain ⟨hdown, hwave⟩ := failWave_dir x a d
  exact ⟨hdown.trans hx.1, fun w hw => (hwave w (fun he => hw (he ▸ ha))).trans (hx.2 w hw)⟩

/-- A direction goes DOWN at boot: its wavelengths train. -/
def downAtBoot (s : State) (d : Nat) : State := s.setLinkDir d
  { s.linkDir d with down := true, waves := (List.range 8).map (fun w => (w, { s.wave d w with state := .training })) }

theorem foldl_downAtBoot (l : List Nat) (s : State) (d : Nat) :
    (((l.foldl downAtBoot s).linkDir d).down = true ∧ ∀ w < 8, ((l.foldl downAtBoot s).wave d w).state = .training) ∨
      (l.foldl downAtBoot s).linkDir d = s.linkDir d := by
  refine List.foldlRecOn (motive := fun x : State => ((x.linkDir d).down = true ∧ ∀ w < 8, (x.wave d w).state = .training) ∨
    x.linkDir d = s.linkDir d) l downAtBoot (.inr rfl) (fun x hx e _ => ?_)
  by_cases h : d = e
  · subst h
    left
    refine ⟨by rw [downAtBoot, State.linkDir_setLinkDir_self], fun w hw => ?_⟩
    rw [wave_eq, downAtBoot, State.linkDir_setLinkDir_self]
    exact congrArg Wave.state (get_range_map ({} : Wave) 8 (fun w => { x.wave d w with state := .training }) hw)
  · have hne : (downAtBoot x e).linkDir d = x.linkDir d := linkDir_setLinkDir_other x h _
    simp only [wave_eq, hne]
    exact hx

theorem trainLinks_dirs (s : State) (failed : List (Nat × Nat)) (d : Nat) (hs : (s.linkDir d).down = false) :
    (((trainLinks s failed).linkDir d).down = true → ∀ w < 8, ((trainLinks s failed).wave d w).state = .training) ∧
      (((trainLinks s failed).linkDir d).down = false → ∀ w, (d, w) ∉ failed → (trainLinks s failed).wave d w = s.wave d w) := by
  obtain ⟨hdown, hwave⟩ := foldl_failWave_dir failed s d
  have heq : trainLinks s failed = (((failed.map (·.1)).eraseDups.filter (fun d => (failed.foldl failWave s).activeCount d < 4)).foldl downAtBoot
      (failed.foldl failWave s)) := rfl
  rw [heq]
  generalize failed.foldl failWave s = x at hdown hwave
  rcases foldl_downAtBoot ((failed.map (·.1)).eraseDups.filter (fun d => x.activeCount d < 4)) x d with ⟨hd, ht⟩ | hsame
  · exact ⟨fun _ => ht, fun hf => absurd (hd.symm.trans hf) (by decide)⟩
  · refine ⟨fun hd => absurd ((hsame ▸ hd : (x.linkDir d).down = true).symm.trans (hdown.trans hs)) (by decide), fun _ w hw => ?_⟩
    rw [wave_eq, hsame, ← wave_eq, hwave w hw]

/-! ## Step 7: dies (R8, R417) -/

/-- The tests of the dies withdraw quads: dies and the QUADS of partitions change. -/
structure DiesTested (s t : State) : Prop where
  only : t = { s with dies := t.dies, loft := { s.loft with partitions := t.loft.partitions } }
  chans : ∀ n, (t.partition n).chans = (s.partition n).chans

theorem DiesTested.refl (s : State) : DiesTested s s := ⟨rfl, fun _ => rfl⟩

theorem DiesTested.trans {s x t : State} (h : DiesTested s x) (h' : DiesTested x t) : DiesTested s t :=
  ⟨by rw [h'.only, h.only], fun n => (h'.chans n).trans (h.chans n)⟩

theorem DiesTested.foldl {α : Type} {g : State → α → State} (h : ∀ x a, DiesTested x (g x a)) (l : List α) (s : State) :
    DiesTested s (l.foldl g s) := List.foldlRecOn l g (refl s) (fun x hx a _ => hx.trans (h x a))

theorem DiesTested.withdrawQuads (s : State) (die : Nat) (lost : List Nat) : DiesTested s (withdrawQuads s die lost) := by
  unfold Machine.withdrawQuads
  extract_lets s1
  have h1 : DiesTested s s1 := ⟨rfl, fun _ => rfl⟩
  refine h1.trans (foldl (fun x n => ⟨rfl, fun m => ?_⟩) _ s1)
  refine (chans_setPartition x n m _).trans ?_
  split
  · rename_i h; rw [h]
  · rfl

/-- What the tests of the dies leave as it is. -/
theorem DiesTested.rest {s t : State} (h : DiesTested s t) : t.gt = s.gt ∧ t.warps = s.warps ∧ t.mem = s.mem ∧ t.tables = s.tables ∧
    t.net = s.net ∧ t.cores = s.cores ∧ t.fw = s.fw ∧ t.loft.grids = s.loft.grids ∧ t.loft.pcmd = s.loft.pcmd ∧
    t.loft.blocks = s.loft.blocks ∧ t.loft.period = s.loft.period := by
  rw [h.only]
  exact ⟨rfl, rfl, rfl, rfl, rfl, rfl, rfl, rfl, rfl, rfl, rfl⟩

theorem DiesTested.testDies (s : State) (lost : List Nat) : DiesTested s (testDies s lost) := foldl (fun x d => withdrawQuads x d _) _ s

/-! ## The boot (R417) -/

/-- The channels that fail training at a boot. -/
def failedChannels (n : Nat) : List Nat := unitsOf 384 (Config.failedChannels n)

/-- The wavelengths that fail training at a boot. -/
def failedWaves (n : Nat) : List (Nat × Nat) := (Config.failedWaves n).filter (fun x => x.1 < 512 && x.2 < 8)

/-- The machine after steps 3 to 5. -/
def trained (s : State) : State := trainLinks (trainChannels s (failedChannels s.freshCount)) (failedWaves s.freshCount)

/-- The machine after step 7. -/
def tested (s : State) : State := testDies (alignTime (trained s) s.freshCount) (unitsOf 96 (Config.failedQuads s.freshCount))

/-- The bank from which a boot is made. -/
def bankAt (f : Firmware) (b : Bool) : Bank := if b then f.bankB else f.bankA

/-- Step 8. -/
def bootEnd (s x : State) (b : Bool) : State :=
  State.notify { x with
    freshCount := s.freshCount + 1
    fw := { x.fw with
      activeB := b, meas := bootMeas (bankAt s.fw b) s.fw.extensions, extensions := s.fw.extensions + 2
      svnFloor := max x.fw.svnFloor (headerWord (bankAt s.fw b).header 8) } } 0x0B 0

theorem bootFrom_eq (s : State) (b : Bool) : bootFrom s b = bootEnd s (tested s) b := rfl

theorem fw_bootEnd (s x : State) (b : Bool) : (bootEnd s x b).fw = { x.fw with
    activeB := b, meas := bootMeas (bankAt s.fw b) s.fw.extensions, extensions := s.fw.extensions + 2
    svnFloor := max x.fw.svnFloor (headerWord (bankAt s.fw b).header 8), notifications := x.fw.notifications ++ [(0x0B, 0)] } := rfl

theorem bootEnd_rest (s x : State) (b : Bool) : (bootEnd s x b).gt = x.gt ∧ (bootEnd s x b).warps = x.warps ∧ (bootEnd s x b).mem = x.mem ∧
    (bootEnd s x b).tables = x.tables ∧ (bootEnd s x b).loft = x.loft ∧ (bootEnd s x b).net = x.net ∧ (bootEnd s x b).cores = x.cores :=
  ⟨rfl, rfl, rfl, rfl, rfl, rfl, rfl⟩

theorem trained_links (s : State) : LinksTrained (trainChannels s (failedChannels s.freshCount)) (trained s) := LinksTrained.trainLinks _ _

theorem trained_eq (s : State) : trained s = { s with
    mem := { s.mem with leftOut := failedChannels s.freshCount }
    loft := (s.setPartition 0 { s.partition 0 with chans := without (s.partition 0).chans (failedChannels s.freshCount) }).loft
    net := { s.net with dirs := (trained s).net.dirs, sparesUsed := (trained s).net.sparesUsed }
    fw := { s.fw with notifications := (trained s).fw.notifications } } := by
  have h := (trained_links s).only
  rw [trainChannels_eq] at h
  exact h

theorem tested_dies (s : State) : DiesTested (alignTime (trained s) s.freshCount) (tested s) := DiesTested.testDies _ _

/-- The cores after step 6. -/
def startedCores (gt : Nat) : Sparse Core := if gt = 0 then [] else (List.range 384).map (fun c => (c, { since := gt }))

theorem alignTime_rest (s : State) (n : Nat) : (alignTime s n).gt = (podTime s n).getD 0 ∧ (alignTime s n).warps = s.warps ∧
    (alignTime s n).mem = s.mem ∧ (alignTime s n).tables = s.tables ∧ (alignTime s n).net.dirs = s.net.dirs ∧ (alignTime s n).fw = s.fw ∧
    (alignTime s n).cores = startedCores ((podTime s n).getD 0) ∧ (alignTime s n).loft.period = (podTime s n).getD 0 / periodNs ∧
    (alignTime s n).loft.partitions = s.loft.partitions :=
  ⟨rfl, rfl, rfl, rfl, rfl, rfl, rfl, rfl, rfl⟩

theorem alignTime_work (s : State) (n : Nat) : (alignTime s n).loft.grids = s.loft.grids ∧ (alignTime s n).loft.pcmd = s.loft.pcmd ∧
    (alignTime s n).loft.blocks = s.loft.blocks := ⟨rfl, rfl, rfl⟩

/-- What training leaves beside the links. -/
theorem trained_rest (s : State) : (trained s).warps = s.warps ∧ (trained s).mem = { s.mem with leftOut := failedChannels s.freshCount } ∧
    (trained s).tables = s.tables ∧ (trained s).loft.grids = s.loft.grids ∧ (trained s).loft.pcmd = s.loft.pcmd ∧
    (trained s).loft.blocks = s.loft.blocks ∧
    (trained s).fw = { s.fw with notifications := (trained s).fw.notifications } ∧
    (trained s).loft.partitions =
      (s.setPartition 0 { s.partition 0 with chans := without (s.partition 0).chans (failedChannels s.freshCount) }).loft.partitions := by
  have h := trained_eq s
  generalize trained s = x at h
  rw [h]
  exact ⟨rfl, rfl, rfl, rfl, rfl, rfl, rfl, rfl⟩

theorem fw_tested (s : State) : (tested s).fw = { s.fw with notifications := (trained s).fw.notifications } := by
  obtain ⟨-, -, -, -, -, -, dfw, -⟩ := (tested_dies s).rest
  obtain ⟨-, -, -, -, -, afw, -⟩ := alignTime_rest (trained s) s.freshCount
  obtain ⟨-, -, -, -, -, -, tfw, -⟩ := trained_rest s
  rw [dfw, afw]
  exact tfw

/-- What the firmware holds after a boot. -/
theorem fw_bootFrom (s : State) (b : Bool) : (bootFrom s b).fw = { s.fw with
    activeB := b, meas := bootMeas (bankAt s.fw b) s.fw.extensions, extensions := s.fw.extensions + 2
    svnFloor := max s.fw.svnFloor (headerWord (bankAt s.fw b).header 8)
    notifications := (trained s).fw.notifications ++ [(0x0B, 0)] } := by
  rw [bootFrom_eq, fw_bootEnd, fw_tested]

theorem tested_rest (s : State) : (tested s).gt = (podTime (trained s) s.freshCount).getD 0 ∧ (tested s).warps = s.warps ∧
    (tested s).mem = { s.mem with leftOut := failedChannels s.freshCount } ∧ (tested s).tables = s.tables ∧
    (tested s).loft.grids = s.loft.grids ∧ (tested s).loft.pcmd = s.loft.pcmd ∧ (tested s).loft.blocks = s.loft.blocks ∧
    (tested s).loft.period = (podTime (trained s) s.freshCount).getD 0 / periodNs ∧ (tested s).net.dirs = (trained s).net.dirs := by
  obtain ⟨dgt, dwarps, dmem, dtables, dnet, -, -, dgrids, dpcmd, dblocks, dperiod⟩ := (tested_dies s).rest
  obtain ⟨agt, awarps, amem, atables, adirs, -, -, aperiod, -⟩ := alignTime_rest (trained s) s.freshCount
  obtain ⟨agrids, apcmd, ablocks⟩ := alignTime_work (trained s) s.freshCount
  obtain ⟨twarps, tmem, ttables, tgrids, tpcmd, tblocks, -, -⟩ := trained_rest s
  exact ⟨dgt.trans agt, (dwarps.trans awarps).trans twarps, (dmem.trans amem).trans tmem, (dtables.trans atables).trans ttables,
    (dgrids.trans agrids).trans tgrids, (dpcmd.trans apcmd).trans tpcmd, (dblocks.trans ablocks).trans tblocks, dperiod.trans aperiod,
    (congrArg Net.dirs dnet).trans adirs⟩

theorem tested_cores (s : State) (c : Nat) : ((tested s).core c).tcache = [] := by
  obtain ⟨-, -, -, -, -, dcores, -⟩ := (tested_dies s).rest
  obtain ⟨-, -, -, -, -, -, acores, -⟩ := alignTime_rest (trained s) s.freshCount
  rw [State.core, dcores, acores, startedCores]
  split
  · rfl
  · rcases mem_of_get ({} : Core) ((List.range 384).map (fun c => (c, { since := (podTime (trained s) s.freshCount).getD 0 }))) c with hc | hc
    · rw [hc]
    · obtain ⟨i, -, hi⟩ := List.mem_map.mp hc
      rw [← (Prod.mk.inj hi).2]

theorem tested_chans (s : State) {c : Nat} (hc : c < 384) :
    ((tested s).partition 0).chans.getLsbD c = ((s.partition 0).chans.getLsbD c && !(failedChannels s.freshCount).contains c) := by
  obtain ⟨-, -, -, -, -, -, -, -, aparts⟩ := alignTime_rest (trained s) s.freshCount
  obtain ⟨-, -, -, -, -, -, -, tparts⟩ := trained_rest s
  have hparts : (alignTime (trained s) s.freshCount).partition 0 =
      (s.setPartition 0 { s.partition 0 with chans := without (s.partition 0).chans (failedChannels s.freshCount) }).partition 0 := by
    rw [State.partition, aparts, tparts]
    rfl
  rw [(tested_dies s).chans 0, hparts, chans_setPartition, if_pos rfl, getLsbD_without _ _ hc]

theorem linkDir_of_dirs {s t : State} (h : t.net.dirs = s.net.dirs) (d : Nat) : t.linkDir d = s.linkDir d := by
  rw [State.linkDir, h]
  rfl

/-- What the host has been told by the end of a boot. -/
theorem trained_told (s : State) : ∃ l, (trained s).fw.notifications =
    s.fw.notifications ++ (failedChannels s.freshCount).map (fun c => (0x0A, c)) ++ l ∧ ∀ n ∈ l, n.1 = 3 ∨ n.1 = 4 := by
  have h := (trained_links s).told
  rw [trainChannels_eq] at h
  exact h

theorem trained_dirs (s : State) (hnet : s.net.dirs = []) (d : Nat) :
    (((trained s).linkDir d).down = true → ∀ w < 8, ((trained s).wave d w).state = .training) ∧
      (((trained s).linkDir d).down = false → ∀ w, (d, w) ∉ failedWaves s.freshCount → ((trained s).wave d w).state = .active) := by
  have hdir : (trainChannels s (failedChannels s.freshCount)).linkDir d = {} := by
    rw [trainChannels_eq]
    change Sparse.get {} s.net.dirs d = _
    rw [hnet]
    rfl
  obtain ⟨h1, h2⟩ := trainLinks_dirs (trainChannels s (failedChannels s.freshCount)) (failedWaves s.freshCount) d (by rw [hdir])
  refine ⟨h1, fun hf w hw => ?_⟩
  refine (congrArg Wave.state (h2 hf w hw)).trans ?_
  rw [wave_eq, hdir]
  rfl

theorem podTime_of_dirs {s t : State} (h : t.net.dirs = s.net.dirs) (n : Nat) : podTime t n = podTime s n := by
  have hl : ∀ k, t.linkDown k = s.linkDown k := fun k => by
    simp only [State.linkDown, State.dirDown, linkDir_of_dirs h]
  simp only [podTime, hl]

/-- The switches in their order. -/
theorem podTime_eq (s : State) (n : Nat) : podTime s n =
    ([0, 64, 32, 16, 8, 4, 2, 1].filter (fun k => !(s.linkDown (2 * k) && s.linkDown (2 * k + 1)))).findSome? (Config.podTime n) := by
  have h : failoverOrder 0 = [64, 32, 16, 8, 4, 2, 1] := by decide
  rw [podTime, h]

/-- What a boot from a bank of a machine that a reset has cleared leaves. -/
structure Booted (s t : State) (b : Bool) : Prop where
  empty : t.warps = [] ∧ t.mem = { leftOut := failedChannels s.freshCount } ∧ t.tables = {} ∧ t.loft.grids = [] ∧ t.loft.pcmd = [] ∧
    t.loft.blocks = []
  up : t.fw.booted = true ∧ t.fw.powered = true ∧ t.fw.activeB = b ∧ t.fw.bankA = s.fw.bankA ∧ t.fw.bankB = s.fw.bankB
  time : t.gt = (podTime t s.freshCount).getD 0 ∧ t.loft.period = t.gt / 10000
  cores : ∀ c, (t.core c).tcache = []
  chans : ∀ c < 384, (t.partition 0).chans.getLsbD c =
    ((State.reset.partition 0).chans.getLsbD c && !(failedChannels s.freshCount).contains c)
  floor : t.fw.svnFloor = max s.fw.svnFloor (headerWord (bankAt s.fw b).header 8)
  told : ∃ l, t.fw.notifications = s.fw.notifications ++ (failedChannels s.freshCount).map (fun c => (0x0A, c)) ++ l ++ [(0x0B, 0)] ∧
    ∀ n ∈ l, n.1 = 3 ∨ n.1 = 4
  waves : ∀ d w, (d, w) ∉ Config.failedWaves s.freshCount → (t.linkDir d).down = false → (t.wave d w).state = .active
  downs : ∀ d, (t.linkDir d).down = true → ∀ w < 8, (t.wave d w).state = .training

theorem bootFrom_boots (s : State) (b : Bool) : Booted s (bootFrom (afterReset s) b) b := by
  set r := afterReset s with hr
  obtain ⟨hgt, hwarps, hmem, htables, hloft, hnet, hcores⟩ := bootEnd_rest r (tested r) b
  rw [← bootFrom_eq] at hgt hwarps hmem htables hloft hnet hcores
  obtain ⟨tgt, twarps, tmem, ttables, tgrids, tpcmd, tblocks, tperiod, tdirs⟩ := tested_rest r
  have hdirs : (bootFrom r b).net.dirs = (trained r).net.dirs := (congrArg Net.dirs hnet).trans tdirs
  have hfw := fw_bootFrom r b
  have hlink : ∀ d, (bootFrom r b).linkDir d = (trained r).linkDir d := linkDir_of_dirs hdirs
  refine ⟨⟨hwarps.trans twarps, hmem.trans tmem, htables.trans ttables, ?_, ?_, ?_⟩, ?_, ⟨?_, ?_⟩, fun c => ?_, fun c hc => ?_, ?_, ?_,
    fun d w hw hd => ?_, fun d hd w hw => ?_⟩
  · rw [hloft, tgrids]; rfl
  · rw [hloft, tpcmd]; rfl
  · rw [hloft, tblocks]; rfl
  · rw [hfw]; exact ⟨rfl, rfl, rfl, rfl, rfl⟩
  · rw [hgt, tgt, podTime_of_dirs hdirs]; rfl
  · rw [hloft, tperiod, hgt, tgt]; rfl
  · rw [State.core, hcores]; exact tested_cores r c
  · have hparts : r.partition 0 = State.reset.partition 0 :=
      congrArg (fun l : Loft => Sparse.get {} l.partitions 0) (show r.loft = State.reset.loft from rfl)
    have hfresh : r.freshCount = s.freshCount := rfl
    rw [State.partition, hloft, ← State.partition, tested_chans r hc, hparts, hfresh]
  · rw [hfw]; rfl
  · obtain ⟨l, hl, hcodes⟩ := trained_told r
    refine ⟨l, ?_, hcodes⟩
    rw [hfw]
    exact congrArg (· ++ [(0x0B, 0)]) hl
  · have h := (trained_dirs r rfl d).2 (by rw [← hlink]; exact hd) w (fun hm => hw (List.mem_filter.mp hm).1)
    rw [wave_eq, hlink]
    exact h
  · have h := (trained_dirs r rfl d).1 (by rw [← hlink]; exact hd) w hw
    rw [wave_eq, hlink]
    exact h

theorem loftReset_boots {s : State} (h : bootable s.fw.svnFloor (bankAt s.fw s.fw.activeB) = true) :
    Booted s (loftReset s) s.fw.activeB := by
  have heq : loftReset s = bootFrom (afterReset s) s.fw.activeB := if_pos h
  rw [heq]
  exact bootFrom_boots s _

/-- Settles O49: a loft reset and a host reset boot, and a loss of power leaves nothing. -/
theorem resetAndPowerEvents : Obligations.ResetAndPowerEvents := by
  unfold Obligations.ResetAndPowerEvents
  intro s island temp active failed booted dark
  have hbooted : ∀ t, Booted s t s.fw.activeB → booted t := by
    intro t h
    obtain ⟨hwarps, hmem, htables, hgrids, hpcmd, hblocks⟩ := h.empty
    obtain ⟨hboot, hpow, hact, -, -⟩ := h.up
    exact ⟨hwarps, hmem, htables, hgrids, hpcmd, hblocks, hboot, hpow, hact, (h.time.1.trans (congrArg (·.getD 0) (podTime_eq t _))), h.time.2, h.cores, h.chans, h.floor, h.told, h.waves,
      h.downs⟩
  refine ⟨fun hb => ⟨⟨_, rfl, hbooted _ (loftReset_boots hb)⟩, fun hp => ⟨loftReset s, congrArg Host.Outcome.next (if_pos hp),
    hbooted _ (loftReset_boots hb)⟩⟩, ⟨_, rfl, ?_⟩, fun ht => ⟨_, congrArg Host.Outcome.next (if_pos ht), ?_, ?_⟩⟩
  · exact ⟨rfl, rfl, rfl, rfl, rfl, rfl, rfl, rfl⟩
  · exact ⟨rfl, rfl, rfl, rfl, rfl, rfl, rfl, rfl⟩
  · rfl

end Sys2Proof.Machine
end

section
/-! # Proofs: the host's commands (R418, R420 to R422) -/

namespace Sys2Proof.Machine

theorem hostCommand_allowed {s : State} {allowed : Bool} (hp : s.fw.powered = true) (h : allowed = true) (act : State → State) :
    hostCommand s allowed act = .next (act s) := by
  simp [hostCommand, hp, h]

theorem hostCommand_busy {s : State} {allowed : Bool} (hp : s.fw.powered = true) (h : allowed = false) (act : State → State) :
    hostCommand s allowed act = .next (s.answer .busy) := by
  simp [hostCommand, hp, h]

/-! ## The parts of a quote (R421) -/

/-- Part `n` of parts of one length. -/
theorem take_drop_flatMap {α β : Type} {g : α → List β} {k : Nat} (hg : ∀ a, (g a).length = k) (l : List α) (rest : List β) {n : Nat} {a : α}
    (h : l[n]? = some a) : ((l.flatMap g ++ rest).drop (k * n)).take k = g a := by
  induction l generalizing n with
  | nil => cases h
  | cons b l ih =>
    cases n with
    | zero =>
      have hb : b = a := by simpa using h
      rw [Nat.mul_zero, List.drop_zero, List.flatMap_cons, List.append_assoc, List.take_left' (hg b), hb]
    | succ n =>
      rw [List.flatMap_cons, List.append_assoc, Nat.mul_succ, Nat.add_comm, ← List.drop_drop, List.drop_left' (hg b)]
      exact ih (by simpa using h)

theorem length_flatMap_const {α β : Type} {g : α → List β} {k : Nat} (hg : ∀ a, (g a).length = k) (l : List α) :
    (l.flatMap g).length = l.length * k := by
  simp [List.length_flatMap, hg]

/-- The measurements of a quote. -/
def measured (s : State) (n : Nat) : List Byte := leBytes 48 (Sparse.get 0 s.fw.meas n).toNat

/-- The rest of a quote: the nonce, the versions, the time and the signature. -/
def quoteRest (s : State) (nonce : BitVec 256) : List Byte :=
  leBytes 32 nonce.toNat ++ (leBytes 4 (headerWord (activeBank s.fw).header 4) ++ (leBytes 4 (headerWord (activeBank s.fw).header 8) ++
    (leBytes 8 s.gt ++ leBytes 96 (Config.quoteSignature (leWord 3456 (quoteBody s nonce))).toNat)))

theorem length_measured (s : State) (n : Nat) : (measured s n).length = 48 := length_leBytes 48 _

theorem quote_eq (s : State) (nonce : BitVec 256) :
    quoteBody s nonce ++ leBytes 96 (Config.quoteSignature (leWord 3456 (quoteBody s nonce))).toNat =
      (List.range 8).flatMap (measured s) ++ quoteRest s nonce := by
  have h : quoteBody s nonce = (List.range 8).flatMap (measured s) ++ leBytes 32 nonce.toNat ++
      leBytes 4 (headerWord (activeBank s.fw).header 4) ++ leBytes 4 (headerWord (activeBank s.fw).header 8) ++ leBytes 8 s.gt := rfl
  rw [quoteRest]
  generalize leBytes 96 (Config.quoteSignature (leWord 3456 (quoteBody s nonce))).toNat = sig
  rw [h]
  simp only [List.append_assoc]

theorem length_quote (s : State) (nonce : BitVec 256) : ((List.range 8).flatMap (measured s) ++ quoteRest s nonce).length = 528 := by
  rw [List.length_append, length_flatMap_const (length_measured s), List.length_range, quoteRest]
  simp only [List.length_append, length_leBytes]

theorem quote_nonce (s : State) (nonce : BitVec 256) :
    ((((List.range 8).flatMap (measured s) ++ quoteRest s nonce).drop 384).take 32) = leBytes 32 nonce.toNat := by
  have hlen : ((List.range 8).flatMap (measured s)).length = 384 := by
    rw [length_flatMap_const (length_measured s), List.length_range]
  rw [List.drop_left' hlen, quoteRest, List.take_left' (length_leBytes 32 _)]

/-! ## Commands after the boot -/

theorem ready_iff {s : State} : s.ready = true ↔ s.fw.powered = true ∧ s.fw.booted = true ∧ s.fw.recovery = false := by
  simp [State.ready, and_assoc]

theorem quote_answers {s : State} (h : s.ready = true) (nonce : BitVec 256) :
    exec (.quote nonce) s = .next (s.answer (.quote ((List.range 8).flatMap (measured s) ++ quoteRest s nonce))) := by
  have hx : exec (.quote nonce) s = execQuote nonce s := rfl
  rw [hx, execQuote, hostCommand_allowed (ready_iff.mp h).1 h, ← quote_eq]

/-- MEAS7 holds a new value, and the host has its answer. -/
def extendedTo (s : State) (m : BitVec 384) : State :=
  State.answer { s with fw := { s.fw with meas := Sparse.set 0 s.fw.meas 7 m } } .ok

theorem extendedTo_leaves (s : State) (m : BitVec 384) : Sparse.get 0 (extendedTo s m).fw.meas 7 = m ∧
    (∀ n, n ≠ 7 → Sparse.get 0 (extendedTo s m).fw.meas n = Sparse.get 0 s.fw.meas n) ∧
    (extendedTo s m).fw.results = s.fw.results ++ [.ok] :=
  ⟨Sparse.get_set_self _ _ _ _, fun _ hn => Sparse.get_set_other _ _ _ hn, rfl⟩

theorem extend_eq {s : State} (h : s.ready = true) (digest : BitVec 384) :
    exec (.extend digest) s = .next (extendedTo s (extendMeas (Sparse.get 0 s.fw.meas 7) digest)) := by
  have hx : exec (.extend digest) s = execExtend digest s := rfl
  rw [hx, execExtend, hostCommand_allowed (ready_iff.mp h).1 h]
  rfl

theorem extend_leaves {s : State} (h : s.ready = true) (digest : BitVec 384) :
    ∃ t, exec (.extend digest) s = .next t ∧
      Sparse.get 0 t.fw.meas 7 = sha384 (leBytes 48 (Sparse.get 0 s.fw.meas 7).toNat ++ leBytes 48 digest.toNat) ∧
      (∀ n, n ≠ 7 → Sparse.get 0 t.fw.meas n = Sparse.get 0 s.fw.meas n) ∧ t.fw.results = s.fw.results ++ [.ok] := by
  obtain ⟨h7, hother, hres⟩ := extendedTo_leaves s (extendMeas (Sparse.get 0 s.fw.meas 7) digest)
  exact ⟨_, extend_eq h digest, h7.trans (by rw [extendMeas]), hother, hres⟩

theorem cert_answers {s : State} (h : s.ready = true) : exec .cert s = .next (s.answer (.chain Config.certificateChain)) := by
  have hx : exec .cert s = execCert s := rfl
  rw [hx, execCert, hostCommand_allowed (ready_iff.mp h).1 h]

theorem commands_busy {s : State} (hp : s.fw.powered = true) (h : s.ready = false) (nonce : BitVec 256) (digest : BitVec 384) :
    exec (.quote nonce) s = .next (s.answer .busy) ∧ exec .cert s = .next (s.answer .busy) ∧
      exec (.extend digest) s = .next (s.answer .busy) := by
  have hq : exec (.quote nonce) s = execQuote nonce s := rfl
  have hc : exec .cert s = execCert s := rfl
  have he : exec (.extend digest) s = execExtend digest s := rfl
  rw [hq, hc, he, execQuote, execCert, execExtend, hostCommand_busy hp h, hostCommand_busy hp h, hostCommand_busy hp h]
  exact ⟨rfl, rfl, rfl⟩

theorem update_busy {s : State} (h : s.ready = true) (hb : s.fw.activateWaits ≠ 0 ∨ s.fw.activating ≠ none) (header : BitVec 2048)
    (image : List Byte) : exec (.update header image) s = .next (s.answer .busy) := by
  have hx : exec (.update header image) s = execUpdate header image s := rfl
  rw [hx, execUpdate, hostCommand_busy (ready_iff.mp h).1]
  rcases hb with h0 | h1
  · simp [h0]
  · simp [Option.isNone_eq_false_iff.mpr (Option.isSome_iff_ne_none.mpr h1)]

theorem update_leaves {s : State} (h : s.ready = true) (h0 : s.fw.activateWaits = 0) (h1 : s.fw.activating = none) (header : BitVec 2048)
    (image : List Byte) : ∃ t, exec (.update header image) s = .next t ∧ t.fw.results = s.fw.results ++ [.ok] ∧
      (if s.fw.activeB then t.fw.bankA = bankOf s.fw.svnFloor header image ∧ t.fw.bankB = s.fw.bankB
        else t.fw.bankB = bankOf s.fw.svnFloor header image ∧ t.fw.bankA = s.fw.bankA) := by
  have hx : exec (.update header image) s = execUpdate header image s := rfl
  rw [hx, execUpdate, hostCommand_allowed (ready_iff.mp h).1 (by simp [h, h0, h1])]
  refine ⟨_, rfl, ?_, ?_⟩
  · dsimp only
    split <;> rfl
  · dsimp only
    split <;> exact ⟨rfl, rfl⟩

/-- An ACTIVATE that is counted among those that wait. -/
def activateAsked (s : State) : State := { s with fw := { s.fw with activateWaits := s.fw.activateWaits + 1 } }

theorem activate_allowed {s : State} (h : s.ready = true) (hv : (inactiveBank s.fw).valid = true) : exec .activate s =
    .next (State.answer (if s.loft.pcmd.isEmpty then settleActivate (activateAsked s) else activateAsked s) .ok) := by
  have hx : exec .activate s = execActivate s := rfl
  rw [hx, execActivate, hostCommand_allowed (ready_iff.mp h).1 (by rw [h, hv]; rfl)]
  rfl

theorem activate_busy {s : State} (h : s.ready = true) (hv : (inactiveBank s.fw).valid = false) :
    exec .activate s = .next (s.answer .busy) := by
  have hx : exec .activate s = execActivate s := rfl
  rw [hx, execActivate, hostCommand_busy (ready_iff.mp h).1 (by rw [hv, Bool.and_false])]

/-- An ACTIVATE that waits for nothing: the other bank takes over. -/
theorem settleActivate_takes {s : State} (h1 : s.fw.activating = none) (hv : (inactiveBank s.fw).valid = true) :
    settleActivate (activateAsked s) = takeOver (activateAsked s) := by
  have hw : ¬ (decide ((activateAsked s).fw.activateWaits = 0) || (activateAsked s).fw.activating.isSome) = true := by
    simp [activateAsked, h1]
  have hv' : (inactiveBank (activateAsked s).fw).valid = true := hv
  rw [settleActivate, if_neg hw, if_pos hv']

theorem activate_takes {s : State} (h : s.ready = true) (h1 : s.fw.activating = none) (hv : (inactiveBank s.fw).valid = true)
    (hp : s.loft.pcmd = []) : ∃ t, exec .activate s = .next t ∧ t.fw.activeB = !s.fw.activeB ∧ t.fw.activating = some s.gt ∧
      t.fw.results = s.fw.results ++ [.ok] ∧ t.fw.nextDie = 0 ∧ t.fw.reached = false := by
  rw [activate_allowed h hv, hp, List.isEmpty_nil, if_pos rfl, settleActivate_takes h1 hv]
  exact ⟨_, rfl, rfl, rfl, rfl, rfl, rfl⟩

/-! ## RECOVERY (R417) -/

theorem bankOf_bootable {floor : Nat} {header : BitVec 2048} {image : List Byte} (h : firmwareOk floor header image = true) :
    bootable floor (bankOf floor header image) = true := by
  have hfloor : floor ≤ headerWord header 8 := by
    simp only [firmwareOk, Bool.and_eq_true, decide_eq_true_eq] at h
    exact h.1.1.1.1.1.1.2
  have hb : bootable floor (bankOf floor header image) = (firmwareOk floor header image && decide (floor ≤ headerWord header 8)) := rfl
  rw [hb, h, decide_eq_true hfloor]
  rfl

theorem load_recovers {s : State} (hp : s.fw.powered = true) (hr : s.fw.recovery = true) (header : BitVec 2048) (image : List Byte) :
    ∃ t, exec (.load header image) s = .next t ∧ (if firmwareOk s.fw.svnFloor header image then
      t.fw.booted = true ∧ t.fw.activeB = false ∧ t.fw.bankA = bankOf s.fw.svnFloor header image else t = s) := by
  have hx : exec (.load header image) s = execLoad header image s := rfl
  rw [hx, execLoad, hostCommand_allowed hp hr]
  refine ⟨_, rfl, ?_⟩
  by_cases hok : firmwareOk s.fw.svnFloor header image = true
  · rw [if_pos hok]
    set r : State := { s with fw := { s.fw with bankA := bankOf s.fw.svnFloor header image, activeB := false } } with hrdef
    have hb : Booted r (loftReset r) r.fw.activeB := loftReset_boots (bankOf_bootable hok)
    obtain ⟨hboot, -, hact, hbank, -⟩ := hb.up
    have heq : (if firmwareOk s.fw.svnFloor header image = true then loftReset r else s) = loftReset r := if_pos hok
    rw [heq]
    exact ⟨hboot, hact, hbank⟩
  · rw [if_neg hok, if_neg hok]

/-- Settles O50: each command while it is allowed, and BUSY otherwise. -/
theorem hostCommandEvents : Obligations.HostCommandEvents := by
  unfold Obligations.HostCommandEvents
  intro s nonce digest header image ready inactive written meas
  refine ⟨fun hr => ?_, fun hp hb => ?_, fun hp hr => load_recovers hp hr header image⟩
  · have h : s.ready = true := ready_iff.mpr hr
    obtain ⟨hp, -, hrec⟩ := hr
    refine ⟨⟨_, _, quote_answers h nonce, rfl, length_quote s nonce, fun n hn => ?_, quote_nonce s nonce⟩, ?_, extend_leaves h digest,
      fun hb => update_busy h hb header image, fun hv hc => ?_, fun hv => activate_busy h hv,
      fun h0 h1 => ⟨update_leaves h h0 h1 header image, fun hv hc => activate_takes h h1 hv hc⟩, hostCommand_busy hp hrec _⟩
    · exact take_drop_flatMap (length_measured s) (List.range 8) _ (List.getElem?_range hn)
    · exact cert_answers h
    · rw [activate_allowed h hv, List.isEmpty_eq_false_iff.mpr hc, if_neg Bool.false_ne_true]
      rfl
  · have h : s.ready = false := by rw [State.ready, hb, Bool.and_false, Bool.false_and]
    exact commands_busy hp h nonce digest

end Sys2Proof.Machine
end

section
/-! # Proofs: dies, islands and the host's accesses (R8, R317, R412, R423, R424, R428) -/

namespace Sys2Proof.Machine

/-! ## Re-admission of a die (R423) -/

theorem mayReadmit_of {s : State} {die t0 : Nat} (h : s.fw.activating = none ∨
    s.fw.activating = some t0 ∧ die = s.fw.nextDie ∧ (s.fw.reached = true ∨ s.gt < t0 + 100000000)) : mayReadmit s die = true := by
  rcases h with h | ⟨h, hd, hr⟩
  · simp [mayReadmit, h]
  · rcases hr with hr | hr <;> simp [mayReadmit, h, hd, hr]

theorem beginReadmission_empty {s : State} {die : Nat} (h : s.warps = []) : beginReadmission s die =
    (let b : State := { s with fw := { s.fw with readmitting := some (die, []) } }
      if s.fw.activating.isSome && !s.fw.reached then State.notify { b with fw := { b.fw with reached := true } } 0x0E 0 else b) := by
  have hmine : s.warpsWhere (fun w => w.onCore && dieOf w.gcore == die) = [] := by rw [State.warpsWhere, h]; rfl
  rw [beginReadmission, hmine]
  rfl

theorem dieReadmission_begins {s : State} {die t0 : Nat} (hr : s.ready = true) (hd : die < 8) (hn : s.fw.readmitting = none)
    (hm : s.fw.activating = none ∨ s.fw.activating = some t0 ∧ die = s.fw.nextDie ∧ (s.fw.reached = true ∨ s.gt < t0 + 100000000))
    (hw : s.warps = []) : exec (.dieReadmission die []) s = .next
      (let b : State := { s with fw := { s.fw with readmitting := some (die, []) } }
        if s.fw.activating.isSome && !s.fw.reached then State.notify { b with fw := { b.fw with reached := true } } 0x0E 0 else b) := by
  have hx : exec (.dieReadmission die []) s = execDieReadmission die [] s := rfl
  rw [hx, execDieReadmission, if_neg (by simp [hr, hd]), hn]
  dsimp only
  rw [if_pos (mayReadmit_of hm), beginReadmission_empty hw]

theorem core_updCore (s : State) (i c : Nat) (g : Core → Core) : (s.updCore i g).core c = if c = i then g (s.core i) else s.core c :=
  Sparse.get_set _ _ _ _ _

/-- A core as a die's reset leaves it. -/
def coreReset (s : State) (c : Nat) : Core := { wain := (s.core c).wain, since := s.runsFrom c, evictions := (s.core c).evictions }

/-- A reset die: the cores of a list are reset, once each. -/
theorem core_foldl_reset {l : List Nat} (hn : l.Nodup) (s : State) (c : Nat) :
    ((l.foldl (fun s i => s.updCore i (fun c => { wain := c.wain, since := s.runsFrom i, evictions := c.evictions })) s).core c) =
      if c ∈ l then coreReset s c else s.core c := by
  induction l generalizing s with
  | nil => simp
  | cons i l ih =>
    obtain ⟨hi, hl⟩ := List.nodup_cons.mp hn
    rw [List.foldl_cons, ih hl]
    have hcore := core_updCore s i c (fun c => { wain := c.wain, since := s.runsFrom i, evictions := c.evictions })
    by_cases hc : c = i
    · subst hc
      rw [if_neg hi, hcore, if_pos rfl, if_pos List.mem_cons_self]
      rfl
    · rw [if_neg hc] at hcore
      have hmem : c ∈ i :: l ↔ c ∈ l := by simp [hc]
      simp only [hmem, coreReset, hcore]
      rfl

theorem resetDie_eq (s : State) (die : Nat) : resetDie s die = ((List.range 48).map (48 * die + ·)).foldl
    (fun s i => s.updCore i (fun c => { wain := c.wain, since := s.runsFrom i, evictions := c.evictions })) s := by
  rw [List.foldl_map]
  rfl

theorem core_resetDie (s : State) {die c : Nat} (h : dieOf c = die) : (resetDie s die).core c = coreReset s c := by
  have hn : ((List.range 48).map (48 * die + ·)).Nodup := List.Nodup.map (fun a b hab => by simpa using hab) List.nodup_range
  have hc : c / 48 = die := h
  rw [resetDie_eq, core_foldl_reset hn, if_pos (List.mem_map.mpr ⟨c % 48, List.mem_range.mpr (Nat.mod_lt _ (by decide)), by omega⟩)]

/-- The tests of a die without losses change dies alone; the cores are those after its reset. -/
structure DieReset (s t : State) : Prop where
  only : t = { s with cores := t.cores, dies := t.dies, loft := { s.loft with partitions := t.loft.partitions } }

theorem DieReset.refl (s : State) : DieReset s s := ⟨rfl⟩

theorem DieReset.trans {s x t : State} (h : DieReset s x) (h' : DieReset x t) : DieReset s t := ⟨by rw [h'.only, h.only]⟩

theorem DieReset.resetDie (s : State) (die : Nat) : DieReset s (resetDie s die) :=
  List.foldlRecOn (motive := fun x : State => DieReset s x) _ _ (refl s) (fun _ hx _ _ => hx.trans ⟨rfl⟩)

theorem DieReset.of_tested {s t : State} (h : DiesTested s t) : DieReset s t := ⟨by rw [h.only]⟩

theorem testWires_dies (s : State) (die n : Nat) : DiesTested s (testWires s die n) := by
  unfold testWires
  split
  · exact ⟨rfl, fun _ => rfl⟩
  · exact DiesTested.refl s

theorem remapWires_dies (s : State) (die n : Nat) : DiesTested s (remapWires s die n) := ⟨rfl, fun _ => rfl⟩

/-- With no quad lost every partition keeps all of its own. -/
theorem partition_withdrawNone (s : State) (die n : Nat) : (withdrawQuads s die []).partition n = s.partition n := by
  unfold withdrawQuads
  extract_lets s1
  refine List.foldlRecOn (motive := fun x : State => x.partition n = s.partition n) _ _ rfl (fun x hx m _ => ?_)
  have h : (x.setPartition m { x.partition m with quads := without (x.partition m).quads (([] : List Nat).map (12 * die + ·)) }).partition n =
      x.partition n := by
    refine (Sparse.get_set _ _ _ _ _).trans ?_
    split
    · rename_i h; rw [h]; rfl
    · rfl
  exact h.trans hx

theorem killQuads_none {s : State} {die : Nat} (h : s.loft.blocks = []) (lost : List Nat) : killQuads s die lost = s := by
  rw [killQuads, h]
  rfl

/-- The die after its tests, where none of its contexts was saved and no quad is lost. -/
def retested (s : State) (die : Nat) : State :=
  withdrawQuads (remapWires (testWires (resetDie s die) die s.fw.extensions) die s.fw.extensions) die []

theorem retested_reset (s : State) (die : Nat) : DieReset s (retested s die) :=
  (DieReset.resetDie s die).trans (DieReset.of_tested
    (((testWires_dies _ _ _).trans (remapWires_dies _ _ _)).trans (DiesTested.withdrawQuads _ _ _)))

theorem core_retested (s : State) {die c : Nat} (h : dieOf c = die) : (retested s die).core c = coreReset s c := by
  have ht := ((testWires_dies (resetDie s die) die s.fw.extensions).trans (remapWires_dies _ die s.fw.extensions)).trans
    (DiesTested.withdrawQuads _ die [])
  obtain ⟨-, -, -, -, -, hcores, -⟩ := ht.rest
  have hc : (retested s die).cores = (resetDie s die).cores := hcores
  rw [State.core, hc, ← State.core, core_resetDie s h]

theorem partition_retested (s : State) (die n : Nat) : (retested s die).partition n = s.partition n := by
  have hparts : ∀ x : State, (remapWires (testWires x die s.fw.extensions) die s.fw.extensions).partition n = x.partition n := fun x => by
    have h : (testWires x die s.fw.extensions).partition n = x.partition n := by
      unfold testWires
      split <;> rfl
    exact h
  rw [retested, partition_withdrawNone, hparts]
  have hr : (resetDie s die).loft = s.loft :=
    List.foldlRecOn (motive := fun y : State => y.loft = s.loft) _ _ rfl (fun _ hx _ _ => hx)
  rw [State.partition, hr]
  rfl

/-- What the firmware holds once a die is re-admitted. -/
def readmitted (f : Firmware) : Firmware :=
  { f with readmitting := none, extensions := f.extensions + 1
           meas := Sparse.set 0 f.meas 3 (extendMeas (Sparse.get 0 f.meas 3) (Config.measureDigest 3 f.extensions)) }

theorem readmitted_leaves (f : Firmware) : (readmitted f).notifications = f.notifications ∧ (readmitted f).readmitting = none ∧
    (readmitted f).extensions = f.extensions + 1 := ⟨rfl, rfl, rfl⟩

theorem endReadmission_empty {s x : State} {die : Nat} (hx : killQuads (withdrawQuads (remapWires (testWires (resetDie s die) die
    s.fw.extensions) die s.fw.extensions) die []) die [] = x) (hfw : x.fw = s.fw) (ha : s.fw.activating = none) :
    endReadmission s die [] [] = State.notify { x with fw := readmitted s.fw } 0x0F die := by
  unfold endReadmission readmitted
  simp only [List.foldl_nil, List.filter_nil, hx, hfw, ha]
  generalize extendMeas (Sparse.get 0 s.fw.meas 3) (Config.measureDigest 3 s.fw.extensions) = m
  simp only [Option.isSome_none, Bool.false_and, Bool.false_eq_true, if_false, ite_self]

theorem retested_kills {s : State} {die : Nat} (hb : s.loft.blocks = []) : killQuads (retested s die) die [] = retested s die := by
  have hblocks : (retested s die).loft.blocks = [] := by rw [(retested_reset s die).only]; exact hb
  exact killQuads_none hblocks []

theorem fw_retested (s : State) (die : Nat) : (retested s die).fw = s.fw := by rw [(retested_reset s die).only]

theorem dieReadmission_second {s : State} {die : Nat} (hr : s.ready = true) (hd : die < 8) (hn : s.fw.readmitting = some (die, [])) :
    exec (.dieReadmission die []) s = .next (endReadmission s die [] []) := by
  have hex : exec (.dieReadmission die []) s = execDieReadmission die [] s := rfl
  rw [hex, execDieReadmission, if_neg (by simp [hr, hd]), hn]
  dsimp only
  rw [if_pos rfl, List.filter_nil]

theorem endReadmission_retested {s : State} {die : Nat} (ha : s.fw.activating = none) (hb : s.loft.blocks = []) :
    endReadmission s die [] [] = State.notify { retested s die with fw := readmitted s.fw } 0x0F die :=
  endReadmission_empty (retested_kills hb) (fw_retested s die) ha

/-- A re-admitted die, from the parts of the state that hold it. -/
theorem readmitted_die {s y : State} {f : Firmware} {die : Nat} (hnote : f.notifications = s.fw.notifications) (hnone : f.readmitting = none)
    (hext : f.extensions = s.fw.extensions + 1) (hpart : ∀ n, y.partition n = s.partition n)
    (hcore : ∀ c, dieOf c = die → y.core c = coreReset s c) : ∀ t, t = State.notify { y with fw := f } 0x0F die →
      t.fw.notifications = s.fw.notifications ++ [(0x0F, die)] ∧ t.fw.readmitting = none ∧ t.fw.extensions = s.fw.extensions + 1 ∧
      (∀ n, t.partition n = s.partition n) ∧ ∀ c, dieOf c = die → t.core c = coreReset s c := by
  rintro t rfl
  exact ⟨congrArg (· ++ [(0x0F, die)]) hnote, hnone, hext, hpart, hcore⟩

theorem dieReadmission_ends {s : State} {die : Nat} (hr : s.ready = true) (hd : die < 8) (hn : s.fw.readmitting = some (die, []))
    (ha : s.fw.activating = none) (hb : s.loft.blocks = []) :
    ∃ t, exec (.dieReadmission die []) s = .next t ∧ t.fw.notifications = s.fw.notifications ++ [(0x0F, die)] ∧
      t.fw.readmitting = none ∧ t.fw.extensions = s.fw.extensions + 1 ∧ (∀ n, t.partition n = s.partition n) ∧
      ∀ c, dieOf c = die → t.core c = { wain := (s.core c).wain, since := s.runsFrom c, evictions := (s.core c).evictions } := by
  obtain ⟨hnote, hnone, hext⟩ := readmitted_leaves s.fw
  exact ⟨_, dieReadmission_second hr hd hn, readmitted_die hnote hnone hext (partition_retested s die) (fun c hc => core_retested s hc) _
    (endReadmission_retested ha hb)⟩

/-! ## The time limit of an activation (R422) -/

theorem settleActivate_none {s : State} (h : s.fw.activateWaits = 0) : settleActivate s = s := if_pos (by simp [h])

theorem activateTimeout_leaves {s : State} {t0 : Nat} (ha : s.fw.activating = some t0) (ht : t0 + 100000000 ≤ s.gt) (hr : s.fw.reached = false)
    (hw : s.fw.activateWaits = 0) : ∃ t, exec .activateTimeout s = .next t ∧ t.fw.activeB = !s.fw.activeB ∧ t.fw.activating = none ∧
      (if s.fw.activeB then t.fw.bankB.valid else t.fw.bankA.valid) = false ∧
      t.fw.notifications = s.fw.notifications ++ [(0x0E, 0)] := by
  have hx : exec .activateTimeout s = execActivateTimeout s := rfl
  have hgo : ¬ (decide (s.gt < t0 + 100000000) || s.fw.reached) = true := by simp [hr, ht]
  rw [hx, execActivateTimeout, ha]
  dsimp only
  rw [if_neg hgo, settleActivate_none (by split <;> exact hw)]
  refine ⟨_, rfl, rfl, rfl, ?_, ?_⟩
  · cases h : s.fw.activeB <;> simp [State.notify]
  · cases h : s.fw.activeB <;> simp [State.notify]

/-! ## Islands (R424) -/

/-- Clocks are held: counters of warps and cores, nothing else. -/
structure Stalled (s t : State) : Prop where
  gt : t.gt = s.gt
  fw : t.fw = s.fw
  canonical : Sparse.canonical {} s.warps = true → Sparse.canonical {} t.warps = true
  warp : ∀ wid, ∃ a b, t.warp wid = { s.warp wid with wstall := a, barwait := b }

namespace Stalled

theorem refl (s : State) : Stalled s s := ⟨rfl, rfl, id, fun _ => ⟨_, _, rfl⟩⟩

theorem trans {s x t : State} (h : Stalled s x) (h' : Stalled x t) : Stalled s t := by
  refine ⟨h'.gt.trans h.gt, h'.fw.trans h.fw, fun hc => h'.canonical (h.canonical hc), fun wid => ?_⟩
  obtain ⟨a, b, hx⟩ := h.warp wid
  obtain ⟨c, d, ht⟩ := h'.warp wid
  exact ⟨c, d, by rw [ht, hx]⟩

theorem updCore (s : State) (i : Nat) (g : Core → Core) : Stalled s (s.updCore i g) := ⟨rfl, rfl, id, fun _ => ⟨_, _, rfl⟩⟩

theorem updWarp (s : State) (wid : Nat) (f : Warp → Warp) (h : ∀ w, ∃ a b, f w = { w with wstall := a, barwait := b }) :
    Stalled s (s.updWarp wid f) := by
  refine ⟨rfl, rfl, fun hc => Sparse.canonical_set _ _ _ _ hc, fun x => ?_⟩
  by_cases hx : x = wid
  · rw [hx, State.warp_updWarp_self]; exact h _
  · rw [State.updWarp, State.warp_setWarp_other _ _ hx]; exact ⟨_, _, rfl⟩

theorem countCycles (s : State) (core gone : Nat) (wids : List Nat) : Stalled s (countCycles s core gone wids) := by
  unfold Machine.countCycles
  extract_lets s1
  exact (updCore s core _).trans (List.foldlRecOn (motive := fun x : State => Stalled s1 x) _ _ (refl s1)
    (fun x hx wid _ => hx.trans (updWarp x wid _ (fun w => ⟨_, _, rfl⟩))))

theorem holdCore (s : State) (t core : Nat) : Stalled s (holdCore s t core) := by
  unfold Machine.holdCore
  extract_lets c wids
  exact (countCycles s core ((s.gt - c.since) * 36 / 10 - c.spent) wids).trans (updCore _ core _)

end Stalled

theorem cores_countCycles (s : State) (core gone : Nat) (wids : List Nat) : (countCycles s core gone wids).cores =
    (s.updCore core (fun c => { c with cycles := c.cycles + gone, spent := c.spent + gone })).cores := by
  unfold countCycles
  extract_lets s1
  exact List.foldlRecOn (motive := fun x : State => x.cores = s1.cores) _ _ rfl (fun _ hx _ _ => hx)

theorem core_holdCore (s : State) (t core c : Nat) : ((holdCore s t core).core c).since = if c = core then t else (s.core c).since := by
  unfold holdCore
  extract_lets x wids
  rw [core_updCore]
  split
  · rfl
  · rename_i h
    rw [State.core, cores_countCycles, ← State.core, core_updCore, if_neg h]

/-- The cores of an island whose clocks are held. -/
def heldCores (s : State) (t : Nat) (l : List Nat) : State := l.foldl (fun s c => holdCore s t c) s

theorem heldCores_stalled (s : State) (t : Nat) (l : List Nat) : Stalled s (heldCores s t l) :=
  List.foldlRecOn (motive := fun x : State => Stalled s x) _ _ (Stalled.refl s) (fun x hx c _ => hx.trans (Stalled.holdCore x t c))

theorem since_heldCores {t : Nat} {l : List Nat} {c : Nat} (s : State) (h : c ∈ l ∨ (s.core c).since = t) :
    ((heldCores s t l).core c).since = t := by
  induction l generalizing s with
  | nil => exact h.resolve_left List.not_mem_nil
  | cons i l ih =>
    refine ih _ ?_
    by_cases hc : c = i
    · exact .inr (by rw [core_holdCore, if_pos hc])
    · exact (h.imp_left (fun hm => (List.mem_cons.mp hm).resolve_left hc)).imp_right (fun hs => by rw [core_holdCore, if_neg hc, hs])

/-- The hold of each core ends at one time, since GT does not go on. -/
theorem foldl_holdCore (l : List Nat) (s : State) (ns : Nat) : l.foldl (fun s c => holdCore s (s.gt + ns) c) s = heldCores s (s.gt + ns) l := by
  induction l generalizing s with
  | nil => rfl
  | cons c l ih =>
    have hgt : (holdCore s (s.gt + ns) c).gt = s.gt := (Stalled.holdCore s _ c).gt
    rw [List.foldl_cons, ih, hgt]
    rfl

/-- Hang counts are put off, once for each warp of a list. -/
theorem warp_foldl_hang {l : List Nat} (hn : l.Nodup) (s : State) (ns wid : Nat) :
    (l.foldl (fun s wid => s.updWarp wid (fun w => { w with hangBase := w.hangBase + ns })) s).warp wid =
      { s.warp wid with hangBase := (s.warp wid).hangBase + if wid ∈ l then ns else 0 } := by
  induction l generalizing s with
  | nil => rw [if_neg List.not_mem_nil, Nat.add_zero]; rfl
  | cons i l ih =>
    obtain ⟨hi, hl⟩ := List.nodup_cons.mp hn
    rw [List.foldl_cons, ih hl]
    by_cases hw : wid = i
    · subst hw
      rw [State.warp_updWarp_self, if_neg hi, if_pos List.mem_cons_self, Nat.add_zero]
    · rw [State.updWarp, State.warp_setWarp_other _ _ hw]
      have hmem : wid ∈ i :: l ↔ wid ∈ l := by simp [hw]
      simp only [hmem]

theorem canonical_nodup {β : Type} [DecidableEq β] {d : β} {m : Sparse β} (h : Sparse.canonical d m = true) : (m.map (·.1)).Nodup := by
  have hrise : ∀ (b : Nat) (m : Sparse β), Sparse.risingFrom b m = true → (m.map (·.1)).Nodup := by
    intro b m
    induction m generalizing b with
    | nil => intro _; exact List.nodup_nil
    | cons e m ih =>
      intro hr
      obtain ⟨i, x⟩ := e
      simp only [Sparse.risingFrom, Bool.and_eq_true] at hr
      rw [List.map_cons, List.nodup_cons]
      refine ⟨fun hm => ?_, ih i hr.2⟩
      obtain ⟨e', he', heq⟩ := List.mem_map.mp hm
      exact absurd (Sparse.rising_mem hr.2 e' he') (by rw [heq]; exact Nat.lt_irrefl _)
  cases m with
  | nil => exact List.nodup_nil
  | cons e m =>
    have hr := ((Sparse.canonical_iff d (e :: m)).mp h).1 e m rfl
    rw [List.map_cons, List.nodup_cons]
    refine ⟨fun hm => ?_, hrise _ m hr⟩
    obtain ⟨e', he', heq⟩ := List.mem_map.mp hm
    exact absurd (Sparse.rising_mem hr e' he') (by rw [heq]; exact Nat.lt_irrefl _)

/-- A warp that is there is found by what is asked of it. -/
theorem mem_warpsWhere {s : State} (hc : Sparse.canonical {} s.warps = true) {p : Warp → Bool} {wid : Nat} (hne : s.warp wid ≠ {}) :
    wid ∈ s.warpsWhere p ↔ p (s.warp wid) = true := by
  have hn := canonical_nodup hc
  have hin : (wid, s.warp wid) ∈ s.warps := (mem_of_get ({} : Warp) s.warps wid).resolve_left hne
  rw [State.warpsWhere, List.mem_map]
  constructor
  · rintro ⟨e, he, rfl⟩
    obtain ⟨hm, hp⟩ := List.mem_filter.mp he
    have : s.warp e.1 = e.2 := get_of_mem ({} : Warp) hn hm
    rw [this]
    exact hp
  · exact fun hp => ⟨_, List.mem_filter.mpr ⟨hin, hp⟩, rfl⟩

theorem nodup_warpsWhere {s : State} (hc : Sparse.canonical {} s.warps = true) (p : Warp → Bool) : (s.warpsWhere p).Nodup :=
  (List.filter_sublist.map (fun e : Nat × Warp => e.1)).nodup (canonical_nodup hc)

/-- Is a warp on a core of an island, and does its hang count run? -/
def onIsland (island : Nat) (w : Warp) : Bool := w.onCore && islandOf w.gcore == island && w.parkedSince.isNone

/-- The cores of an island. -/
def islandCores (island : Nat) : List Nat := (List.range 384).filter (fun c => islandOf c == island)

/-- An island whose clock is held for a time: its cores, and the hang counts of its warps. -/
def islandHeld (s : State) (island ns : Nat) : State :=
  let s := heldCores s (s.gt + ns) (islandCores island)
  let s := (s.warpsWhere (onIsland island)).foldl (fun s wid => s.updWarp wid (fun w => { w with hangBase := w.hangBase + ns })) s
  { s with fw := { s.fw with recalibrating := [(island, s.gt + ns)] } }

theorem islandRecalibration_eq {s : State} {island ns : Nat} (hns : ns ≤ 20000) (hi : island < 64)
    (hr : ∀ e ∈ s.fw.recalibrating, e.2 ≤ s.gt) : exec (.islandRecalibration island ns) s = .next (islandHeld s island ns) := by
  have hx : exec (.islandRecalibration island ns) s = execIslandRecalibration island ns s := rfl
  have hany : s.fw.recalibrating.any (fun e => s.gt < e.2) = false :=
    List.any_eq_false.mpr (fun e he => by simp [hr e he])
  have hgo : ¬ (decide (ns > 20000) || decide (island ≥ 64) || s.fw.recalibrating.any (fun e => s.gt < e.2)) = true := by
    simp [hany, hns, hi]
  rw [hx, execIslandRecalibration, if_neg hgo, islandHeld, ← foldl_holdCore]
  rfl

theorem islandHeld_leaves (s : State) (island ns : Nat) : (islandHeld s island ns).gt = s.gt ∧
    (islandHeld s island ns).fw.recalibrating = [(island, s.gt + ns)] ∧
    (∀ c, ((islandHeld s island ns).core c) = (heldCores s (s.gt + ns) (islandCores island)).core c) ∧
    ∀ wid, (islandHeld s island ns).warp wid = ((((heldCores s (s.gt + ns) (islandCores island)).warpsWhere (onIsland island)).foldl
      (fun s wid => s.updWarp wid (fun w => { w with hangBase := w.hangBase + ns })) (heldCores s (s.gt + ns) (islandCores island))).warp wid) := by
  have hst := heldCores_stalled s (s.gt + ns) (islandCores island)
  unfold islandHeld
  generalize heldCores s (s.gt + ns) (islandCores island) = x at hst ⊢
  have hfold : ∀ l : List Nat, (l.foldl (fun s wid => s.updWarp wid (fun w => { w with hangBase := w.hangBase + ns })) x).gt = x.gt ∧
      (l.foldl (fun s wid => s.updWarp wid (fun w => { w with hangBase := w.hangBase + ns })) x).cores = x.cores := fun l =>
    List.foldlRecOn (motive := fun y : State => y.gt = x.gt ∧ y.cores = x.cores) l _ ⟨rfl, rfl⟩ (fun _ hy _ _ => hy)
  obtain ⟨hgt, hcores⟩ := hfold (x.warpsWhere (onIsland island))
  refine ⟨hgt.trans hst.gt, ?_, fun c => ?_, fun _ => rfl⟩
  · dsimp only
    rw [hgt, hst.gt]
  · exact congrArg (fun m => Sparse.get ({} : Core) m c) hcores

theorem islandRecalibration_leaves {s : State} {island ns : Nat} (hns : ns ≤ 20000) (hi : island < 64)
    (hr : ∀ e ∈ s.fw.recalibrating, e.2 ≤ s.gt) :
    ∃ t, exec (.islandRecalibration island ns) s = .next t ∧ t.fw.recalibrating = [(island, s.gt + ns)] ∧
      (∀ c, islandOf c = island → clockHeld t c = decide (0 < ns) ∧ (c < 384 → (t.core c).since = s.gt + ns)) ∧
      (Sparse.canonical {} s.warps = true → ∀ x ∈ s.warps, x.2.lanes ≠ [] → (t.warp x.1).hangBase = x.2.hangBase +
        if x.2.onCore ∧ islandOf x.2.gcore = island ∧ x.2.parkedSince = none then ns else 0) := by
  obtain ⟨hgt, hrec, hcore, hwarp⟩ := islandHeld_leaves s island ns
  have hst := heldCores_stalled s (s.gt + ns) (islandCores island)
  refine ⟨_, islandRecalibration_eq hns hi hr, hrec, fun c hc => ⟨?_, fun h384 => ?_⟩, fun hcan x hx hl => ?_⟩
  · have hget : Sparse.get 0 (islandHeld s island ns).fw.recalibrating (islandOf c) = s.gt + ns := by
      rw [hrec, hc]
      exact if_pos rfl
    rw [clockHeld, hget, hgt]
    exact decide_eq_decide.mpr (by omega)
  · rw [hcore]
    exact since_heldCores s (.inl (List.mem_filter.mpr ⟨List.mem_range.mpr h384, beq_iff_eq.mpr hc⟩))
  · have hw : s.warp x.1 = x.2 := get_of_mem ({} : Warp) (canonical_nodup hcan) hx
    rw [hwarp]
    generalize heldCores s (s.gt + ns) (islandCores island) = y at hst
    obtain ⟨a, b, hy⟩ := hst.warp x.1
    have hcy := hst.canonical hcan
    have hlanes : (y.warp x.1).lanes ≠ [] := by rw [hy, hw]; exact hl
    have hne : y.warp x.1 ≠ {} := fun he => hlanes (by rw [he])
    rw [warp_foldl_hang (nodup_warpsWhere hcy _)]
    have hiff : x.1 ∈ y.warpsWhere (onIsland island) ↔ (x.2.onCore ∧ islandOf x.2.gcore = island ∧ x.2.parkedSince = none) := by
      rw [mem_warpsWhere hcy hne, hy, hw]
      simp [onIsland, Warp.onCore, and_assoc]
    simp only [hiff, hy, hw]

/-! ## Temperatures (R389, R428) -/

theorem extract_low_of (m : DWord) (temp : BitVec 16) : ((m &&& ~~~0xFFFF#64) ||| temp.setWidth 64).extractLsb' 0 16 = temp := by
  ext i hi
  have h : ∀ j < 16, (0xFFFF#64).getLsbD j = true := by decide
  have h64 : i < 64 := by omega
  simp only [BitVec.getElem_extractLsb', BitVec.getLsbD_or, BitVec.getLsbD_and, BitVec.getLsbD_not, Nat.zero_add, h i hi, BitVec.getLsbD_setWidth,
    h64, decide_true, Bool.true_and, Bool.not_true, Bool.and_false, Bool.false_or]
  exact BitVec.getLsbD_eq_getElem hi

theorem extract_high_of (m : DWord) (temp : BitVec 16) :
    ((m &&& ~~~0xFFFF#64) ||| temp.setWidth 64).extractLsb' 32 16 = m.extractLsb' 32 16 := by
  ext i hi
  have h : ∀ j < 16, (0xFFFF#64).getLsbD (32 + j) = false := by decide
  have h64 : 32 + i < 64 := by omega
  simp only [BitVec.getElem_extractLsb', BitVec.getLsbD_or, BitVec.getLsbD_and, BitVec.getLsbD_not, h i hi, BitVec.getLsbD_setWidth,
    h64, decide_true, Bool.true_and, Bool.not_false, Bool.and_true, BitVec.getLsbD_of_ge temp (32 + i) (by omega), Bool.or_false]

/-- A new frequency in a monitor. -/
def withMhz (m : DWord) (mhz : Nat) : DWord := (m &&& ~~~(0xFFFF#64 <<< 32)) ||| BitVec.ofNat 64 (mhz * 2 ^ 32)

theorem getLsbD_mhz (mhz j : Nat) : (BitVec.ofNat 64 (mhz * 2 ^ 32)).getLsbD j = (decide (j < 64) && (decide (32 ≤ j) && mhz.testBit (j - 32))) := by
  rw [BitVec.getLsbD_ofNat, Nat.testBit_mul_two_pow]

theorem extract_low_withMhz (m : DWord) (mhz : Nat) : (withMhz m mhz).extractLsb' 0 16 = m.extractLsb' 0 16 := by
  ext i hi
  have h : ∀ j < 16, (0xFFFF#64 <<< 32).getLsbD j = false := by decide
  have h64 : i < 64 := by omega
  have h32 : ¬ 32 ≤ i := by omega
  simp only [withMhz, BitVec.getElem_extractLsb', BitVec.getLsbD_or, BitVec.getLsbD_and, BitVec.getLsbD_not, Nat.zero_add, h i hi, getLsbD_mhz,
    h64, h32, decide_true, decide_false, Bool.true_and, Bool.false_and, Bool.not_false, Bool.and_true, Bool.or_false]

theorem extract_high_withMhz (m : DWord) {mhz : Nat} (hm : mhz < 2 ^ 16) : ((withMhz m mhz).extractLsb' 32 16).toNat = mhz := by
  have heq : (withMhz m mhz).extractLsb' 32 16 = BitVec.ofNat 16 mhz := by
    ext i hi
    have h : ∀ j < 16, (0xFFFF#64 <<< 32).getLsbD (32 + j) = true := by decide
    have h64 : 32 + i < 64 := by omega
    have h32 : 32 ≤ 32 + i := by omega
    have hr : (BitVec.ofNat 16 mhz).getLsbD i = mhz.testBit i := by rw [BitVec.getLsbD_ofNat, decide_eq_true hi, Bool.true_and]
    rw [← BitVec.getLsbD_eq_getElem, ← BitVec.getLsbD_eq_getElem]
    simp only [withMhz, BitVec.getLsbD_extractLsb', BitVec.getLsbD_or, BitVec.getLsbD_and, BitVec.getLsbD_not, h i hi, getLsbD_mhz,
      h64, h32, hi, hr, decide_true, Bool.true_and, Bool.not_true, Bool.and_false, Bool.false_or, Nat.add_sub_cancel_left]
  rw [heq, BitVec.toNat_ofNat, Nat.mod_eq_of_lt hm]

/-- What a monitor shows of a value: bits 55 to 0. -/
theorem monitor_set (s : State) (island : Nat) (m : DWord) :
    islandMonitor { s with fw := { s.fw with islands := Sparse.set none s.fw.islands island (some m) } } island = m &&& (2 ^ 56 - 1) := by
  rw [islandMonitor, Sparse.get_set_self, Option.getD_some]

theorem extract_shown (m : DWord) {start : Nat} (h : start + 16 ≤ 56) : (m &&& (2 ^ 56 - 1)).extractLsb' start 16 = m.extractLsb' start 16 := by
  ext i hi
  have hmask : (2 ^ 56 - 1 : DWord) = BitVec.ofNat 64 (2 ^ 56 - 1) := by decide
  have hbit : (BitVec.ofNat 64 (2 ^ 56 - 1)).getLsbD (start + i) = true := by
    rw [BitVec.getLsbD_ofNat, Nat.testBit_two_pow_sub_one]
    have h1 : start + i < 64 := by omega
    have h2 : start + i < 56 := by omega
    simp [h1, h2]
  simp only [BitVec.getElem_extractLsb', BitVec.getLsbD_and, hmask, hbit, Bool.and_true]

/-- A monitor with a sample, before its frequency is lowered. -/
def sampled (s : State) (island : Nat) (temp : BitVec 16) : DWord := (islandMonitor s island &&& ~~~0xFFFF#64) ||| temp.setWidth 64

theorem monitor_sample (s : State) (island : Nat) (temp : BitVec 16) (step : Bool) :
    islandMonitor (sampleIsland s island temp step) island =
      (if step then withMhz (sampled s island temp) (((sampled s island temp).extractLsb' 32 16).toNat - 100) else sampled s island temp) &&&
        (2 ^ 56 - 1) := monitor_set s island _

/-- A monitor after a sample: the temperature, and the frequency, one step lower where a step is due. -/
theorem sampleIsland_monitor (s : State) (island : Nat) (temp : BitVec 16) (step : Bool) :
    (islandMonitor (sampleIsland s island temp step) island).extractLsb' 0 16 = temp ∧
    (step = true → ((islandMonitor (sampleIsland s island temp step) island).extractLsb' 32 16).toNat =
      ((islandMonitor s island).extractLsb' 32 16).toNat - 100) ∧
    (step = false → (islandMonitor (sampleIsland s island temp step) island).extractLsb' 32 16 = (islandMonitor s island).extractLsb' 32 16) := by
  have hlow : (sampled s island temp).extractLsb' 0 16 = temp := extract_low_of _ _
  have hhigh : (sampled s island temp).extractLsb' 32 16 = (islandMonitor s island).extractLsb' 32 16 := extract_high_of _ _
  rw [monitor_sample, extract_shown _ (by decide), extract_shown _ (by decide), hhigh]
  cases step with
  | false => exact ⟨hlow, fun h => absurd h (by decide), fun _ => hhigh⟩
  | true =>
    refine ⟨(extract_low_withMhz _ _).trans hlow, fun _ => ?_, fun h => absurd h (by decide)⟩
    have hlt := ((islandMonitor s island).extractLsb' 32 16).isLt
    exact extract_high_withMhz _ (by omega)

/-- Where a step of a hot island is due. -/
def stepDue (s : State) (island : Nat) : Bool := (Sparse.get none s.fw.throttled island).all (fun t => t + 10000 ≤ s.gt)

/-- A hot island, below the temperature that removes the power. -/
theorem thermalThrottle_hot {s : State} {island : Nat} {temp : BitVec 16} (hi : island < 64) (hlo : 110 * 16 ≤ temp.toInt)
    (hhi : temp.toInt < 125 * 16) : exec (.thermalThrottle island temp) s = .next
      (let b := sampleIsland s island temp (stepDue s island)
        let b := if (Sparse.get none s.fw.throttled island).isNone then b.notify 0x0C island else b
        let last := if stepDue s island then some b.gt else Sparse.get none s.fw.throttled island
        { b with fw := { b.fw with throttled := Sparse.set none b.fw.throttled island last } }) := by
  have hx : exec (.thermalThrottle island temp) s = execThermalThrottle island temp s := rfl
  have hhot : (decide (temp.toInt ≥ 110 * 16) || ((Sparse.get none s.fw.throttled island).isSome && decide (temp.toInt ≥ 105 * 16))) = true := by
    rw [decide_eq_true (by exact hlo)]; rfl
  have hlt : ¬ temp.toInt ≥ 125 * 16 := not_le.mpr hhi
  simp only [hx, execThermalThrottle, if_neg (Nat.not_le.mpr hi), if_neg hlt, hhot, Bool.true_and, if_true]
  rfl

theorem fw_sampleIsland (s : State) (island : Nat) (temp : BitVec 16) (step : Bool) :
    (sampleIsland s island temp step).gt = s.gt ∧ (sampleIsland s island temp step).fw.throttled = s.fw.throttled ∧
      (sampleIsland s island temp step).fw.notifications = s.fw.notifications := ⟨rfl, rfl, rfl⟩

theorem thermalThrottle_leaves {s : State} {island : Nat} {temp : BitVec 16} (hi : island < 64) (hlo : 110 * 16 ≤ temp.toInt)
    (hhi : temp.toInt < 125 * 16) :
    ∃ t, exec (.thermalThrottle island temp) s = .next t ∧ (islandMonitor t island).extractLsb' 0 16 = temp ∧
      (stepDue s island = true → ((islandMonitor t island).extractLsb' 32 16).toNat = ((islandMonitor s island).extractLsb' 32 16).toNat - 100 ∧
        Sparse.get none t.fw.throttled island = some s.gt) ∧
      (stepDue s island = false → (islandMonitor t island).extractLsb' 32 16 = (islandMonitor s island).extractLsb' 32 16 ∧
        Sparse.get none t.fw.throttled island = Sparse.get none s.fw.throttled island) ∧
      t.fw.notifications = s.fw.notifications ++ if Sparse.get none s.fw.throttled island = none then [(0x0C, island)] else [] := by
  obtain ⟨htemp, hstep, hstay⟩ := sampleIsland_monitor s island temp (stepDue s island)
  obtain ⟨hgt, hthr, hnote⟩ := fw_sampleIsland s island temp (stepDue s island)
  refine ⟨_, thermalThrottle_hot hi hlo hhi, ?_⟩
  generalize sampleIsland s island temp (stepDue s island) = b at htemp hstep hstay hgt hthr hnote
  cases hlast : Sparse.get none s.fw.throttled island with
  | none =>
    refine ⟨htemp, fun hs => ⟨hstep hs, ?_⟩, fun hs => ⟨hstay hs, ?_⟩, congrArg (· ++ [(0x0C, island)]) hnote⟩
    · refine (Sparse.get_set_self _ _ _ _).trans ?_
      rw [hs, ← hgt]
      rfl
    · refine (Sparse.get_set_self _ _ _ _).trans ?_
      rw [hs]
      rfl
  | some v =>
    refine ⟨htemp, fun hs => ⟨hstep hs, ?_⟩, fun hs => ⟨hstay hs, ?_⟩, hnote.trans (List.append_nil _).symm⟩
    · refine (Sparse.get_set_self _ _ _ _).trans ?_
      rw [hs, ← hgt]
      rfl
    · refine (Sparse.get_set_self _ _ _ _).trans ?_
      rw [hs]
      rfl

theorem stepDue_iff (s : State) (island : Nat) :
    stepDue s island = true ↔ ∀ x, Sparse.get none s.fw.throttled island = some x → x + 10000 ≤ s.gt := by
  rw [stepDue]
  cases Sparse.get none s.fw.throttled island <;> simp

/-! ## The host's link and injections (R317, R412) -/

theorem hostLaneFailure_eight {s : State} {lanes : Nat} (h8 : 8 ≤ lanes) (h16 : lanes < 16) (hn : 8 ≤ s.net.lanes) :
    exec (.hostLaneFailure lanes) s = .next { s with net := { s.net with lanes := 8 } } := by
  have hx : exec (.hostLaneFailure lanes) s = execHostLaneFailure lanes s := rfl
  have hwidth : (if lanes ≥ 16 then 16 else if lanes ≥ 8 then 8 else 4) = 8 := by
    rw [if_neg (by omega), if_pos h8]
  have hgo : ¬ (decide (lanes < 4) || decide (8 > s.net.lanes)) = true := by
    simp only [Bool.or_eq_true, decide_eq_true_eq]
    omega
  rw [hx, execHostLaneFailure, hwidth, if_neg hgo]

theorem injectionDurationEnd_leaves {s : State} {dir wave : Nat} (hu : (s.wave dir wave).until_ ≠ 0) (hg : (s.wave dir wave).until_ ≤ s.gt) :
    ∃ t, exec (.injectionDurationEnd dir wave) s = .next t ∧
      t.wave dir wave = ({ s.wave dir wave with checked := s.gt } : Wave).ended (s.wave dir wave).until_ s.gt ∧
      (t.linkDir dir).feccor = (s.linkDir dir).feccor + BitVec.ofNat 64 (s.correctedOn dir wave) := by
  have hx : exec (.injectionDurationEnd dir wave) s = execInjectionDurationEnd dir wave s := rfl
  have hgo : ¬ (decide ((s.wave dir wave).until_ = 0) || decide (s.gt < (s.wave dir wave).until_)) = true := by simp [hu, hg]
  rw [hx, execInjectionDurationEnd, if_neg hgo]
  have hself := settleErrors_self s dir wave
  have hgt : (s.settleErrors dir wave).gt = s.gt := rfl
  generalize s.settleErrors dir wave = x at hself hgt
  have hwave : x.wave dir wave = { s.wave dir wave with checked := s.gt } := by
    rw [wave_eq, hself]
    exact Sparse.get_set_self _ _ _ _
  refine ⟨_, rfl, ?_, ?_⟩
  · rw [wave_eq, State.linkDir_setLinkDir_self, waveOf]
    exact (Sparse.get_set_self ({} : Wave) _ _ _).trans (by rw [hwave, hgt])
  · rw [State.linkDir_setLinkDir_self, hself]

/-- Settles O51: each event by what it leaves. -/
theorem packageEvents : Obligations.PackageEvents := by
  unfold Obligations.PackageEvents
  intro s die island ns lanes addr n dir wave t0 temp bytes monitor w
  refine ⟨fun hr hd hn hm hw => dieReadmission_begins hr hd hn hm hw, fun hr hd hn ha hb => dieReadmission_ends hr hd hn ha hb,
    fun ha ht hr hw => activateTimeout_leaves ha ht hr hw, fun hns hi hr => islandRecalibration_leaves hns hi hr, fun hi hlo hhi _ => ?_,
    fun h8 h16 hn => hostLaneFailure_eight h8 h16 hn, fun hh => ?_, fun hh => ?_, fun hu hg => injectionDurationEnd_leaves hu hg⟩
  · obtain ⟨t, ht, htemp, hstep, hstay, hnote⟩ := thermalThrottle_leaves (s := s) hi hlo hhi
    exact ⟨t, ht, htemp, fun hs => hstep ((stepDue_iff s island).mpr hs),
      fun hs => hstay (Bool.eq_false_iff.mpr (fun hd => hs ((stepDue_iff s island).mp hd))), hnote⟩
  · intro r
    have hx : exec (.cxlMemRead addr n) s = execCxlMemRead addr n s := rfl
    rw [hx, execCxlMemRead, if_neg (by simp [hh])]
  · have hx : exec (.cxlMemWrite addr bytes) s = execCxlMemWrite addr bytes s := rfl
    rw [hx, execCxlMemWrite, if_neg (by simp [hh])]

end Sys2Proof.Machine
end

section
/-! # Proofs: requests of other packages (R403, R405) -/

namespace Sys2Proof.Machine

/-! ## What the services of memory and of the links leave of the directory -/

theorem Stored.writeBytes (s : State) (p : Nat) (bs : List Byte) : Stored s (s.writeBytes p bs) := by
  have h : ∀ (fuel : Nat) (x : State) (p : Nat) (bs : List Byte), Stored x (x.writeFrom p bs fuel) := by
    intro fuel
    induction fuel with
    | zero => exact fun x _ _ => Stored.refl x
    | succ fuel ih =>
      intro x p bs
      unfold State.writeFrom
      split
      · exact Stored.refl x
      · exact (Stored.writeWordPart x p _).trans (ih _ _ _)
  exact h _ s p bs

/-- The directory, the requests in progress, the writes that the home has applied and the shadows are those of `s`. -/
structure SameLines (s t : State) : Prop where
  directory : t.net.directory = s.net.directory
  requests : t.net.requests = s.net.requests
  applied : t.net.applied = s.net.applied
  shadows : t.tables.shadows = s.tables.shadows

namespace SameLines

theorem refl (s : State) : SameLines s s := ⟨rfl, rfl, rfl, rfl⟩

theorem trans {s x t : State} (h : SameLines s x) (h' : SameLines x t) : SameLines s t :=
  ⟨h'.directory.trans h.directory, h'.requests.trans h.requests, h'.applied.trans h.applied, h'.shadows.trans h.shadows⟩

theorem ite {p : Prop} [Decidable p] {s a b : State} (ha : SameLines s a) (hb : SameLines s b) : SameLines s (if p then a else b) := by
  split
  · exact ha
  · exact hb

theorem foldl {α : Type} {g : State → α → State} (h : ∀ x a, SameLines x (g x a)) (l : List α) (s : State) : SameLines s (l.foldl g s) :=
  List.foldlRecOn l g (refl s) (fun x hx a _ => hx.trans (h x a))

theorem of_stored {s t : State} (h : Stored s t) : SameLines s t :=
  ⟨congrArg Net.directory h.net, congrArg Net.requests h.net, congrArg Net.applied h.net, congrArg Tables.shadows h.tables⟩

theorem dirEntry? {s t : State} (h : SameLines s t) (line : Nat) : t.dirEntry? line = s.dirEntry? line := by
  rw [State.dirEntry?, h.directory]
  rfl

theorem setExported (s : State) (line : Nat) (b : Bool) : SameLines s (s.setExported line b) := ⟨rfl, rfl, rfl, rfl⟩
theorem updFrame (s : State) (fid : Nat) (f : Frame → Frame) : SameLines s (s.updFrame fid f) := ⟨rfl, rfl, rfl, rfl⟩
theorem restoreWave (s : State) (d w : Nat) : SameLines s (s.restoreWave d w) := ⟨rfl, rfl, rfl, rfl⟩
theorem setLinkDir (s : State) (d : Nat) (x : LinkDir) : SameLines s (s.setLinkDir d x) := ⟨rfl, rfl, rfl, rfl⟩
theorem fresh (s : State) : SameLines s s.fresh := ⟨rfl, rfl, rfl, rfl⟩

theorem countResolved (s : State) (p : Nat) (forwarded : Bool) : SameLines s (s.countResolved p forwarded) :=
  ite (refl s) (ite ⟨rfl, rfl, rfl, rfl⟩ ⟨rfl, rfl, rfl, rfl⟩)

theorem putFlit (s : State) (link : Nat) (f : Flit) : SameLines s (s.putFlit link f) :=
  (foldl (fun x w => restoreWave x _ w) _ s).trans (setLinkDir _ _ _)

theorem txb {s t : State} (h : SameLines s t) (m : Sparse (BitVec 64)) : SameLines s { t with net := { t.net with txb := m } } :=
  ⟨h.directory, h.requests, h.applied, h.shadows⟩

theorem sendMessage (s : State) (t c vc a : Nat) (data : List Byte) (dst : Nat) : SameLines s (s.sendMessage t c vc a data dst) := by
  unfold State.sendMessage
  split
  · exact refl s
  · exact (putFlit s _ _).txb _

theorem sendAnswer (s : State) (vc line p : Nat) (data : List Byte) : SameLines s (s.sendAnswer vc line p data) :=
  (fresh s).trans (sendMessage _ _ _ _ _ _ _)

theorem sendMasked (s : State) (t here home : Nat) : SameLines s (s.sendMasked t here home) := by
  unfold State.sendMasked
  extract_lets masked
  split
  · exact refl s
  · exact ((of_stored (Stored.readBytes s here 64)).trans (sendMessage _ t 0 2 home _ _)).trans
      ((of_stored (Stored.mergeBytes _ home 2 _)).trans (ite (of_stored (Stored.poison _ _ _)) (refl _)))

theorem writeBackLine (s : State) (fid n : Nat) : SameLines s (s.writeBackLine fid n) := by
  unfold State.writeBackLine
  extract_lets fr here home s1 s2
  have h1 : SameLines s s1 := foldl (fun x _ => sendMasked x _ _ _) _ s
  exact (h1.trans (of_stored (Stored.setMasks s1 _ _ _))).trans (updFrame s2 _ _)

theorem dropLine (s : State) (fid n : Nat) : SameLines s (s.dropLine fid n) := by
  unfold State.dropLine
  extract_lets s1
  exact (of_stored (Stored.setMasks s _ _ _)).trans (updFrame s1 _ _)

theorem loseLine (s : State) (line : Nat) (owned : Bool) : SameLines s (s.loseLine line owned) := by
  unfold State.loseLine
  split
  · exact (ite (writeBackLine s _ _) (refl s)).trans (dropLine _ _ _)
  · exact refl s

theorem invalidateReplicas (s : State) (master n : Nat) : SameLines s (s.invalidateReplicas master n) :=
  foldl (fun x _ => ite (foldl (fun y _ => updFrame y _ _) _ x) (refl x)) _ s

theorem putHome (s : State) (line : Nat) (bytes : List (Nat × Byte)) : SameLines s (s.putHome line bytes) := by
  have hmerge : ∀ (x : State) (p w : Nat) (bs : List (Nat × Byte)), SameLines x (x.mergeBytes p w bs) :=
    fun x p w bs => of_stored (Stored.mergeBytes x p w bs)
  refine foldl (fun x i => ?_) _ s
  extract_lets here n
  split
  · exact (ite (refl x) (invalidateReplicas x _ _)).trans (ite (hmerge _ _ _ _) ((hmerge _ _ _ _).trans (updFrame _ _ _)))
  · exact hmerge x _ _ _

theorem settleOwner (s : State) (line : Nat) : SameLines s (s.settleOwner line) := by
  unfold State.settleOwner
  split
  · exact putHome s _ _
  · exact refl s

theorem invalidateHolders (s : State) (e : DirEntry) (keep : Option Nat) : SameLines s (s.invalidateHolders e keep) :=
  (ite (settleOwner s _) (refl s)).trans (ite (loseLine _ _ _) (refl _))

theorem answerData (s : State) (line : Nat) : SameLines s (answerData s line).1 := by
  unfold Machine.answerData
  extract_lets a valid
  split
  · exact of_stored (Stored.readBytes s _ 64)
  · exact of_stored (Stored.readBytes s _ 64)
  · exact of_stored (Stored.readBytes s _ 64)

theorem sendData (s : State) (r : DirRequest) (wanted : Bool) : SameLines s (sendData s r wanted) :=
  (answerData s r.line).trans (sendAnswer _ _ _ _ _)

theorem supply (s : State) (r : DirRequest) : SameLines s (supply s r) := by
  have hack : ∀ x : State, SameLines x (if needsUs x r then x.sendAnswer 2 r.line r.pkg else x) :=
    fun x => ite (sendAnswer x _ _ _ _) (refl x)
  unfold Machine.supply
  extract_lets home owner
  split
  · exact ite (sendData s r true) (refl s)
  · exact ite (sendData s r true) (refl s)
  · exact (hack s).trans (ite ((fresh _).trans (sendData _ _ _)) (refl _))
  · exact (hack s).trans (ite (sendAnswer _ _ _ _ _) (refl _))

end SameLines

/-! ## What a resolution leaves of the requests -/

/-- The requests in progress, the writes that the home has applied and the shadows are those of `s`. -/
structure SameAsks (s t : State) : Prop where
  requests : t.net.requests = s.net.requests
  applied : t.net.applied = s.net.applied
  shadows : t.tables.shadows = s.tables.shadows

theorem SameLines.asks {s t : State} (h : SameLines s t) : SameAsks s t := ⟨h.requests, h.applied, h.shadows⟩

namespace SameAsks

theorem refl (s : State) : SameAsks s s := ⟨rfl, rfl, rfl⟩

theorem trans {s x t : State} (h : SameAsks s x) (h' : SameAsks x t) : SameAsks s t :=
  ⟨h'.requests.trans h.requests, h'.applied.trans h.applied, h'.shadows.trans h.shadows⟩

theorem ite {p : Prop} [Decidable p] {s a b : State} (ha : SameAsks s a) (hb : SameAsks s b) : SameAsks s (if p then a else b) := by
  split
  · exact ha
  · exact hb

theorem foldl {α : Type} {g : State → α → State} (h : ∀ x a, SameAsks x (g x a)) (l : List α) (s : State) : SameAsks s (l.foldl g s) :=
  List.foldlRecOn l g (refl s) (fun x hx a _ => hx.trans (h x a))

theorem of_stored {s t : State} (h : Stored s t) : SameAsks s t := (SameLines.of_stored h).asks

theorem setDirEntry (s : State) (e : DirEntry) : SameAsks s (s.setDirEntry e) := ⟨rfl, rfl, rfl⟩
theorem dropDirEntry (s : State) (line : Nat) : SameAsks s (s.dropDirEntry line) := ⟨rfl, rfl, rfl⟩
theorem noteUncached (s : State) (a : Nat) (write : Bool) : SameAsks s (s.noteUncached a write) := ⟨rfl, rfl, rfl⟩

/-- An entry placed, the EXPORT bit set or clear, and the resolution counted. -/
theorem counted {s t : State} (h : SameAsks s t) (p : Nat) (forwarded : Bool) : SameAsks s (t.countResolved p forwarded) :=
  h.trans (SameLines.countResolved t p forwarded).asks

theorem exported {s t : State} (h : SameAsks s t) (line : Nat) (b : Bool) : SameAsks s (t.setExported line b) :=
  h.trans (SameLines.setExported t line b).asks

theorem backInvalidate (s : State) (e : DirEntry) : SameAsks s (s.backInvalidate e) := by
  unfold State.backInvalidate
  extract_lets mine owned x y n z
  have hy : SameAsks s y :=
    ((SameLines.invalidateHolders s e none).trans (SameLines.ite (SameLines.sendAnswer x _ _ _ _) (SameLines.refl x))).asks
  have hz : SameAsks y z := ite ⟨rfl, rfl, rfl⟩ (refl y)
  exact ((hy.trans hz).trans (dropDirEntry z _)).exported _ _

theorem evictOne (s : State) (line : Nat) : SameAsks s (s.evictOne line) := by
  unfold State.evictOne
  extract_lets same
  split
  · exact refl s
  · split
    · exact backInvalidate s _
    · exact refl s

theorem makeDirRoom (s : State) (line : Nat) : SameAsks s (s.makeDirRoom line) := foldl (fun x _ => evictOne x _) _ s

theorem dirRead (s : State) (line p : Nat) : SameAsks s (s.dirRead line p) := by
  unfold State.dirRead
  split
  · exact (((makeDirRoom s line).trans (setDirEntry _ _)).exported _ _).counted _ _
  · extract_lets holders
    split
    · exact (setDirEntry s _).counted _ _
    all_goals exact ite ((setDirEntry s _).counted _ _) ((setDirEntry s _).counted _ _)

theorem dirPeek (s : State) (line : Nat) : SameAsks s (s.dirPeek line) := by
  unfold State.dirPeek
  extract_lets p
  split
  · exact (refl s).counted _ _
  · split <;> exact (setDirEntry s _).counted _ _

theorem dirOwn (s : State) (line p : Nat) : SameAsks s (s.dirOwn line p) := by
  unfold State.dirOwn
  split
  · exact (((makeDirRoom s line).trans (setDirEntry _ _)).exported _ _).counted _ _
  · exact (((SameLines.ite (SameLines.refl s) (SameLines.invalidateHolders s _ _)).asks.trans (setDirEntry _ _)).exported _ _).counted _ _

theorem dirHomeRead (s : State) (line : Nat) : SameAsks s (s.dirHomeRead line) := by
  unfold State.dirHomeRead
  extract_lets home
  split
  · exact (setDirEntry s _).counted _ _
  · exact (refl s).counted _ _

theorem dirHomeWrite (s : State) (line : Nat) : SameAsks s (s.dirHomeWrite line) := by
  unfold State.dirHomeWrite
  extract_lets home
  split
  · exact (((SameLines.invalidateHolders s _ _).asks.trans (dropDirEntry _ _)).exported _ _).counted _ _
  · exact ((refl s).exported _ _).counted _ _

theorem homeTouch (s : State) (t cls a : Nat) (write : Bool) : SameAsks s (s.homeTouch t cls a write) :=
  ite (refl s) ((SameLines.sendMessage s _ _ _ _ _ _).asks.trans (ite (noteUncached _ _ _) (ite (dirHomeWrite _ _) (dirHomeRead _ _))))

theorem askHome (s : State) (t cls a n : Nat) (keep : Bool) : SameAsks s (s.askHome t cls a n keep).1 :=
  ((SameLines.sendMessage s t cls 0 a _ _).asks.trans (ite (noteUncached _ _ _) (ite (dirRead _ _ _) (dirPeek _ _)))).trans
    (of_stored (Stored.readBytes _ a n))

/-! ### Fills (R216, R219, R334, R335) -/

theorem carry (s : State) (src dst n : Nat) : SameAsks s (s.carry src dst n) :=
  foldl (fun x _ => of_stored (Stored.carrySector x _ _)) _ s

theorem markValid {s t : State} (h : SameAsks s t) (fid n : Nat) : SameAsks s (t.markValid fid n) :=
  h.trans (SameLines.updFrame t fid _).asks

theorem poisoned {s t : State} (h : SameAsks s t) (p : Prop) [Decidable p] (a n : Nat) : SameAsks s (if p then t.poison a n else t) :=
  h.trans (ite (of_stored (Stored.poison t a n)) (refl t))

theorem fillFromBacking (s : State) (fid n : Nat) : SameAsks s (s.fillFromBacking fid n) :=
  ite (refl s) ((carry s _ _ _).markValid _ _)

theorem fillRemote (s : State) (fid n cls : Nat) : SameAsks s (s.fillRemote fid n cls) := by
  unfold State.fillRemote
  extract_lets fr home
  split
  · exact refl s
  · have h := askHome s fr.owner cls home 64 true
    generalize s.askHome fr.owner cls home 64 true = r at h ⊢
    obtain ⟨s1, bs, bad⟩ := r
    exact ((h.trans (of_stored (Stored.mergeBytes s1 _ _ _))).trans (foldl (fun x _ => (refl x).poisoned _ _ _) _ _)).markValid _ _

theorem fillFromVisible (s : State) (src fid n cls : Nat) : SameAsks s (s.fillFromVisible src fid n cls) := by
  unfold State.fillFromVisible
  extract_lets fr from_ here
  split
  · have h := askHome s fr.owner cls (fr.backing + 64 * n) 64 false
    generalize s.askHome fr.owner cls (fr.backing + 64 * n) 64 false = r at h ⊢
    obtain ⟨s1, bs, bad⟩ := r
    exact ((h.trans (of_stored (Stored.writeBytes s1 _ _))).poisoned _ _ _).markValid _ _
  · exact ((ite (fillRemote s _ _ _) (fillFromBacking s _ _)).trans (carry _ _ _ _)).markValid _ _

theorem mergeShadow (s : State) (fid n cls a : Nat) : SameAsks s (s.mergeShadow fid n cls a) := by
  unfold State.mergeShadow
  split
  · exact (homeTouch s _ _ _ _).trans (of_stored (Stored.mergeBytes _ _ _ _))
  · exact refl s

theorem fillFrom (s : State) (fid n cls : Nat) (p : State.Place) : SameAsks s (s.fillFrom fid n cls p) := by
  unfold State.fillFrom
  extract_lets here
  split
  · exact (fillFromVisible s _ _ _ _).trans (ite (mergeShadow _ _ _ _ _) (refl _))
  · exact ((carry s _ _ _).markValid _ _).trans (mergeShadow _ _ _ _ _)
  · have h := askHome s (s.frame fid).owner cls (p.bare.backing s) 64 false
    generalize s.askHome (s.frame fid).owner cls (p.bare.backing s) 64 false = r at h ⊢
    obtain ⟨s1, bs, bad⟩ := r
    exact ((h.trans (of_stored (Stored.writeBytes s1 _ _))).poisoned _ _ _).markValid _ _

theorem fillSector (s : State) (fid n cls : Nat) : SameAsks s (s.fillSector fid n cls) := by
  unfold State.fillSector
  split
  · exact refl s
  · extract_lets fr
    split
    · exact fillRemote s _ _ _
    · exact fillFromBacking s _ _
    · exact fillFrom s _ _ _ _
    · split
      · exact fillFrom s _ _ _ _
      · exact fillFrom s _ _ _ _

theorem preserveLine (s : State) (line : Nat) : SameAsks s (s.preserveLine line) :=
  foldl (fun x _ => foldl (fun y _ => ite (fillSector y _ _ _) (refl y)) _ x) _ s

/-! ### Resolutions (R403, R407) -/

theorem writeHome (s : State) (line : Nat) (bytes : List (Nat × Byte)) : SameAsks s (writeHome s line bytes) :=
  (preserveLine s line).trans (SameLines.putHome _ _ _).asks

/-- A write that is performed at the home while the range is rebuilt (R407). -/
theorem writeUncached (s : State) (r : DirRequest) (home : Bool) (l : List Rebuild → List Rebuild) :
    SameAsks s (
      let x := Machine.writeHome s r.line r.bytes
      let x := if home then x.sendAnswer 1 r.line r.pkg else x
      { x with net := { x.net with rebuilds := l x.net.rebuilds } }) := by
  have h := (writeHome s r.line r.bytes).trans
    (ite (p := home = true) (SameLines.sendAnswer _ 1 r.line r.pkg []).asks (refl (Machine.writeHome s r.line r.bytes)))
  exact ⟨h.requests, h.applied, h.shadows⟩

theorem resolveRequest (s : State) (r : DirRequest) : SameAsks s (resolveRequest s r) := by
  have hold : SameAsks s (if r.kind == .homeRead then s else s.preserveLine r.line) := ite (refl s) (preserveLine s _)
  unfold Machine.resolveRequest
  generalize (if r.kind == .homeRead then s else s.preserveLine r.line) = x at hold ⊢
  have hsupply := (SameLines.supply x r).asks
  refine hold.trans ?_
  dsimp only
  split
  · split
    · exact writeUncached x r _ _
    · exact writeUncached x r _ _
    · exact ite (SameLines.sendData x r true).asks (refl x)
  · split
    · exact hsupply.trans (dirRead _ _ _)
    · exact hsupply.trans (dirOwn _ _ _)
    · exact hsupply.trans (dirHomeRead _ _)
    · exact (hsupply.trans (dirHomeWrite _ _)).trans (writeHome _ _ _)

end SameAsks

/-- Serving a line applies no write of another package a second time (R406). -/
theorem serveLine_applied (s : State) (line fuel : Nat) : (serveLine s line fuel).net.applied = s.net.applied := by
  induction fuel generalizing s with
  | zero => rfl
  | succ fuel ih =>
    unfold serveLine
    split
    · rfl
    · rename_i r _
      split
      · rfl
      · exact (ih _).trans (SameAsks.resolveRequest s r).applied

theorem serveLine_nothing {s : State} (h : s.net.requests = []) (line fuel : Nat) : serveLine s line fuel = s := by
  cases fuel with
  | zero => rfl
  | succ fuel => rw [serveLine, h]; rfl

/-! ## A line's entry (R402, R403) -/

theorem dirEntry?_setDirEntry (s : State) {line : Nat} {e : DirEntry} (h : e.line = line) :
    (s.setDirEntry e).dirEntry? line = some { e with used := s.net.recency } := by
  subst h
  have hgone : (s.net.directory.filter (fun x => x.line != e.line)).find? (fun x => x.line == e.line) = none := by
    rw [List.find?_eq_none]
    intro x hx
    simpa using (List.mem_filter.mp hx).2
  rw [State.dirEntry?, State.setDirEntry, List.find?_append, hgone]
  simp

theorem dirEntry?_dropDirEntry (s : State) (line : Nat) : (s.dropDirEntry line).dirEntry? line = none := by
  rw [State.dirEntry?, State.dropDirEntry, List.find?_eq_none]
  intro x hx
  simpa using (List.mem_filter.mp hx).2

theorem line_of_dirEntry? {s : State} {line : Nat} {e : DirEntry} (h : s.dirEntry? line = some e) : e.line = line := by
  simpa using List.find?_some h

theorem isExported_setExported (s : State) (line : Nat) (b : Bool) : (s.setExported line b).isExported line = b := by
  rw [State.isExported, State.setExported]
  exact Sparse.get_set_self _ _ _ _

theorem isExported_countResolved (s : State) (p line : Nat) (forwarded : Bool) : (s.countResolved p forwarded).isExported line = s.isExported line := by
  unfold State.countResolved
  split
  · rfl
  · split <;> rfl

theorem dirEntry?_countResolved (s : State) (p line : Nat) (forwarded : Bool) :
    (s.countResolved p forwarded).dirEntry? line = s.dirEntry? line := (SameLines.countResolved s p forwarded).dirEntry? line

theorem dirEntry?_setExported (s : State) (line line' : Nat) (b : Bool) : (s.setExported line' b).dirEntry? line = s.dirEntry? line := rfl

/-- A read leaves the reader as a holder or as the owner. -/
theorem dirRead_holds (s : State) (line p : Nat) : ∃ x, (s.dirRead line p).dirEntry? line = some x ∧ (p ∈ x.holders ∨ x.owner = p) := by
  unfold State.dirRead
  split
  · rw [dirEntry?_countResolved, dirEntry?_setExported, dirEntry?_setDirEntry _ rfl]
    exact ⟨_, rfl, Or.inr rfl⟩
  · rename_i e he
    have hline := line_of_dirEntry? he
    have hholds : p ∈ (if e.holders.contains p then e.holders else e.holders ++ [p]) := by
      split
      · rename_i h
        exact List.contains_iff_mem.mp h
      · simp
    dsimp only
    generalize (if e.holders.contains p then e.holders else e.holders ++ [p]) = holders at hholds ⊢
    have hplaced : ∀ (x : DirEntry) (f : Bool), x.line = line → (p ∈ x.holders ∨ x.owner = p) →
        ∃ y, ((s.setDirEntry x).countResolved p f).dirEntry? line = some y ∧ (p ∈ y.holders ∨ y.owner = p) := by
      intro x f hx hp
      rw [dirEntry?_countResolved, dirEntry?_setDirEntry _ hx]
      exact ⟨_, rfl, hp⟩
    split
    · exact hplaced _ _ hline (Or.inl hholds)
    all_goals
      split
      · rename_i hown
        exact hplaced _ _ hline (Or.inr (by simpa using hown))
      · exact hplaced _ _ hline (Or.inl hholds)

/-- A request for ownership leaves the one who asks as the only holder. -/
theorem dirOwn_owns (s : State) (line p : Nat) : (s.dirOwn line p).isExported line = true ∧
    ∃ used, (s.dirOwn line p).dirEntry? line = some { line, state := .modified, owner := p, holders := [p], used } := by
  unfold State.dirOwn
  split
  all_goals
    dsimp only
    rw [isExported_countResolved, isExported_setExported, dirEntry?_countResolved, dirEntry?_setExported, dirEntry?_setDirEntry _ rfl]
    exact ⟨rfl, _, rfl⟩

/-- A read by the home leaves no line modified. -/
theorem dirHomeRead_clean (s : State) (line : Nat) : ∀ x, (s.dirHomeRead line).dirEntry? line = some x → x.state ≠ .modified := by
  unfold State.dirHomeRead
  dsimp only
  split
  · rename_i e he
    have hline := line_of_dirEntry? he
    have hline' : (if e.state == .modified then { e with state := .owned, epoch := s.ownEpoch e } else e).line = line := by
      split <;> exact hline
    rw [dirEntry?_countResolved, dirEntry?_setDirEntry _ hline']
    intro x hx
    obtain rfl := Option.some.inj hx
    dsimp only
    split
    · exact DirState.noConfusion
    · rename_i h
      simpa using h
  · rename_i hnone
    rw [dirEntry?_countResolved, hnone]
    exact fun x hx => absurd hx (by simp)

theorem dirHomeWrite_drops (s : State) (line : Nat) : (s.dirHomeWrite line).dirEntry? line = none := by
  unfold State.dirHomeWrite
  dsimp only
  split
  · rw [dirEntry?_countResolved, dirEntry?_setExported, dirEntry?_dropDirEntry]
  · rename_i hnone
    rw [dirEntry?_countResolved, dirEntry?_setExported, hnone]

/-! ## A request at a line that nothing else asks for -/

theorem preserveLine_none {s : State} (h : ∀ x ∈ s.tables.shadows, x.copy = false) (line : Nat) : s.preserveLine line = s := by
  have hone : ∀ backing n, s.preserveShadow backing n = s := by
    intro backing n
    refine List.foldlRecOn (motive := fun x : State => x = s) s.tables.shadows _ rfl ?_
    rintro _ rfl sh hsh
    rw [h sh hsh]
    rfl
  refine List.foldlRecOn (motive := fun x : State => x = s) (List.range 4) _ rfl ?_
  rintro _ rfl i _
  exact hone _ _

theorem writeHome_dirEntry? {s : State} (h : ∀ x ∈ s.tables.shadows, x.copy = false) (line line' : Nat) (bytes : List (Nat × Byte)) :
    (writeHome s line bytes).dirEntry? line' = s.dirEntry? line' := by
  rw [writeHome, preserveLine_none h]
  exact (SameLines.putHome s _ _).dirEntry? line'

/-- The state with the requests given in progress. -/
def withRequests (s : State) (l : List DirRequest) : State := { s with net := { s.net with requests := l } }

theorem dirEntry?_withRequests (s : State) (l : List DirRequest) (line : Nat) : (withRequests s l).dirEntry? line = s.dirEntry? line := rfl

theorem isExported_withRequests (s : State) (l : List DirRequest) (line : Nat) : (withRequests s l).isExported line = s.isExported line := rfl

theorem resolveRequest_quiet {s : State} {r : DirRequest} (hclosed : s.rangeUncached (256 * r.line) = false)
    (hshadows : ∀ x ∈ s.tables.shadows, x.copy = false) : resolveRequest s r = (match r.kind with
      | .rds => (supply s r).dirRead r.line r.pkg
      | .rdx => (supply s r).dirOwn r.line r.pkg
      | .homeRead => (supply s r).dirHomeRead r.line
      | .homeWrite => writeHome ((supply s r).dirHomeWrite r.line) r.line r.bytes) := by
  have hsame : (if r.kind == .homeRead then s else s.preserveLine r.line) = s := by
    rw [preserveLine_none hshadows]
    exact ite_self s
  have hgo : ¬ s.rangeUncached (256 * r.line) = true := by rw [hclosed]; exact Bool.false_ne_true
  unfold resolveRequest
  rw [hsame]
  exact if_neg hgo

/-- A request that finds no other of its line, and that this package need not answer, is resolved as it arrives. -/
theorem arriveRequest_resolves {s : State} {r : DirRequest} (hnone : s.net.requests = []) (hfree : switchHolds s r.line = false)
    (hneeds : needsUs s r = false) :
    arriveRequest s r = withRequests (resolveRequest (withRequests s [r]) r) [] := by
  have hs : ({ s with net := { s.net with requests := s.net.requests ++ [r] } } : State) = withRequests s [r] := by rw [hnone]; rfl
  have hfree' : ¬ switchHolds (withRequests s [r]) r.line = true := by
    rw [show switchHolds (withRequests s [r]) r.line = switchHolds s r.line from rfl, hfree]
    exact Bool.false_ne_true
  have hneeds' : needsUs (withRequests s [r]) r = false := hneeds
  have hlen : ([r] : List DirRequest).length + 1 = 2 := rfl
  unfold arriveRequest
  rw [hs]
  dsimp only
  rw [if_neg hfree', show (withRequests s [r]).net.requests = [r] from rfl, hlen, serveLine,
    show (withRequests s [r]).net.requests = [r] from rfl]
  have hfind : [r].find? (fun x => x.line == r.line) = some r := by simp
  rw [hfind]
  dsimp only
  rw [hneeds', if_neg (by simp)]
  have hreq : (resolveRequest (withRequests s [r]) r).net.requests = [r] := (SameAsks.resolveRequest _ r).requests
  generalize resolveRequest (withRequests s [r]) r = b at hreq ⊢
  rw [hreq, List.erase_cons_head]
  exact serveLine_nothing rfl _ _

/-- An answer to the only request in progress. -/
theorem answerRequest_only {s : State} {r : DirRequest} {kinds : List DirKind} (hr : s.net.requests = [r])
    (hfree : switchHolds s r.line = false) (hk : kinds.contains r.kind = true) (hb : (resolveRequest s r).net.requests = [r]) :
    answerRequest s r.line kinds = withRequests (resolveRequest s r) [] := by
  have hfind : [r].find? (fun x => x.line == r.line) = some r := by simp
  have hgo : ¬ (!kinds.contains r.kind || switchHolds s r.line) = true := by rw [hk, hfree]; exact Bool.false_ne_true
  unfold answerRequest
  rw [hr, hfind]
  dsimp only
  rw [if_neg hgo]
  generalize resolveRequest s r = b at hb ⊢
  rw [hb, List.erase_cons_head]
  exact serveLine_nothing rfl _ _

theorem arriveRequest_applied (s : State) (r : DirRequest) : (arriveRequest s r).net.applied = s.net.applied := by
  unfold arriveRequest
  dsimp only
  split
  · rfl
  · exact serveLine_applied _ _ _

theorem remoteTo_true {s : State} {line pkg : Nat} (hlt : pkg < 512) (hne : pkg ≠ s.net.pkg) (hhome : pkg ≠ pkgOf (256 * line)) :
    remoteTo s line pkg = true := by
  simp [remoteTo, hlt, hne, hhome]

/-- A line at whose switch nothing waits, of a range in service, with no shadow that takes old content (R335, R403, R407). -/
def QuietLine (s : State) (line : Nat) : Prop :=
  s.net.requests = [] ∧ switchHolds s line = false ∧ s.rangeUncached (256 * line) = false ∧ ∀ x ∈ s.tables.shadows, x.copy = false

/-- At a quiet line a request that needs no answer of this package is resolved at once, from the entry as it stands. -/
theorem arriveRequest_quiet {s : State} {r : DirRequest} (h : QuietLine s r.line) (hneeds : needsUs s r = false) :
    arriveRequest s r = withRequests (match r.kind with
      | .rds => (supply (withRequests s [r]) r).dirRead r.line r.pkg
      | .rdx => (supply (withRequests s [r]) r).dirOwn r.line r.pkg
      | .homeRead => (supply (withRequests s [r]) r).dirHomeRead r.line
      | .homeWrite => writeHome ((supply (withRequests s [r]) r).dirHomeWrite r.line) r.line r.bytes) [] := by
  obtain ⟨hnone, hfree, hclosed, hshadows⟩ := h
  have hs := resolveRequest_quiet (s := withRequests s [r]) (r := r) hclosed hshadows
  rw [arriveRequest_resolves hnone hfree hneeds, hs]

theorem next_if_pos {p : Prop} [Decidable p] (h : p) (a b : State) :
    (Host.Outcome.next (if p then a else b) : Host.Outcome State Fault Refusal) = .next a := congrArg _ (if_pos h)

theorem next_if_neg {p : Prop} [Decidable p] (h : ¬ p) (a b : State) :
    (Host.Outcome.next (if p then a else b) : Host.Outcome State Fault Refusal) = .next b := congrArg _ (if_neg h)

/-- What a home write leaves of its line's entry, with no shadow that takes old content. -/
theorem homeWrite_drops {s : State} (h : ∀ x ∈ s.tables.shadows, x.copy = false) (r : DirRequest) (line : Nat) :
    (writeHome ((supply s r).dirHomeWrite line) line r.bytes).dirEntry? line = none := by
  have hshadows : ((supply s r).dirHomeWrite line).tables.shadows = s.tables.shadows :=
    (SameAsks.dirHomeWrite _ line).shadows.trans (SameLines.supply s r).shadows
  rw [writeHome_dirEntry? (by rw [hshadows]; exact h)]
  exact dirHomeWrite_drops _ line

/-- A write by the cores of a line's home leaves the line without an entry. -/
theorem arriveRequest_homeWrite {s : State} {r : DirRequest} (hk : r.kind = .homeWrite) (h : QuietLine s r.line)
    (hneeds : needsUs s r = false) : (arriveRequest s r).dirEntry? r.line = none := by
  obtain ⟨_, _, _, hnone⟩ := id h
  have hshadows : ∀ x ∈ (withRequests s [r]).tables.shadows, x.copy = false := hnone
  rw [arriveRequest_quiet h hneeds, dirEntry?_withRequests, hk]
  exact homeWrite_drops hshadows r r.line

theorem execBackInvalidation_free {s : State} {line : Nat} {e : DirEntry} (he : s.dirEntry? line = some e) (hfree : switchHolds s line = false) :
    execBackInvalidation line s = .next (serveLine ((s.preserveLine line).backInvalidate e) line (s.net.requests.length + 1)) := by
  unfold execBackInvalidation
  rw [he]
  exact next_if_neg (by rw [hfree]; exact Bool.false_ne_true) _ _

theorem execRds_remote {s : State} {line pkg : Nat} (h : remoteTo s line pkg = true) :
    execRds line pkg s = .next (arriveRequest s { kind := .rds, line, pkg }) := by
  unfold execRds
  exact next_if_pos h _ _

theorem execRdx_remote {s : State} {line pkg : Nat} (h : remoteTo s line pkg = true) :
    execRdx line pkg s = .next (arriveRequest s { kind := .rdx, line, pkg }) := by
  unfold execRdx
  exact next_if_pos h _ _

theorem execHomeRead_remote {s : State} {line : Nat} (h : pkgOf (256 * line) ≠ s.net.pkg) :
    execHomeRead line s = .next (arriveRequest s { kind := .homeRead, line, pkg := pkgOf (256 * line) }) := by
  unfold execHomeRead
  exact next_if_pos (bne_iff_ne.mpr h) _ _

theorem execHomeWrite_done {s : State} {pkg tag : Nat} (h : s.net.applied.contains (pkg, tag) = true) (line : Nat) (bytes : List (Nat × Byte)) :
    execHomeWrite line pkg tag bytes s = .next s := by
  unfold execHomeWrite
  exact next_if_neg (by rw [freshWrite, h]; simp) _ _

theorem execHomeWrite_new {s : State} {pkg tag : Nat} (hlt : pkg < 512) (hne : pkg ≠ s.net.pkg) (h : s.net.applied.contains (pkg, tag) = false)
    (line : Nat) (bytes : List (Nat × Byte)) : execHomeWrite line pkg tag bytes s =
      .next (arriveRequest (noteApplied s pkg tag) { kind := .homeWrite, line, pkg, bytes }) := by
  unfold execHomeWrite
  refine next_if_pos ?_ _ _
  rw [freshWrite, h]
  simp [hlt, hne]

theorem execWb_owner {s : State} {line pkg tag : Nat} {e : DirEntry} (hr : remoteTo s line pkg = true) (he : s.dirEntry? line = some e)
    (howner : e.owner = pkg) (hstate : e.state = .owned ∨ e.state = .modified) (h : s.net.applied.contains (pkg, tag) = false)
    (keep : Bool) (bytes : List (Nat × Byte)) : execWb line pkg tag keep bytes s =
      .next ((writeHome (noteApplied s pkg tag) line bytes).dirWriteBack line pkg keep) := by
  unfold execWb
  refine next_if_pos ?_ _ _
  rw [hr, he, freshWrite, h]
  simp [howner, hstate]

theorem execEv_remote {s : State} {line pkg : Nat} (h : remoteTo s line pkg = true) : execEv line pkg s = .next (s.dirDrop line pkg) := by
  unfold execEv
  exact next_if_pos h _ _

/-- Settles O53. -/
theorem coherenceEvents : Obligations.CoherenceEvents := by
  intro s line pkg tag keep bytes e r home quiet other
  have hremote : other → pkg ≠ home → remoteTo s line pkg = true := fun ho hh => remoteTo_true ho.1 ho.2 hh
  have hrds : exec (.rds line pkg) s = execRds line pkg s := rfl
  have hrdx : exec (.rdx line pkg) s = execRdx line pkg s := rfl
  have hhr : exec (.homeRead line) s = execHomeRead line s := rfl
  have hhw : exec (.homeWrite line pkg tag bytes) s = execHomeWrite line pkg tag bytes s := rfl
  have hwb : exec (.wb line pkg tag keep bytes) s = execWb line pkg tag keep bytes s := rfl
  have hev : exec (.ev line pkg) s = execEv line pkg s := rfl
  have hfr : exec (.forwardedRequest line) s = .next (answerRequest s line [.rds, .homeRead]) := rfl
  have hinv : exec (.invalidation line) s = .next (answerRequest s line [.rdx, .homeWrite]) := rfl
  have hbi : exec (.backInvalidation line) s = execBackInvalidation line s := rfl
  rw [hrds, hrdx, hhr, hhw, hwb, hev, hbi]
  refine ⟨?_, ?_, ?_, ?_, ?_, ?_, ?_, ?_, ?_⟩
  · intro hq ho hh hneeds
    refine ⟨_, execRds_remote (hremote ho hh), ?_⟩
    rw [arriveRequest_quiet (r := { kind := .rds, line, pkg }) hq hneeds, dirEntry?_withRequests]
    exact dirRead_holds _ line pkg
  · intro hq ho hh hneeds
    refine ⟨_, execRdx_remote (hremote ho hh), ?_⟩
    rw [arriveRequest_quiet (r := { kind := .rdx, line, pkg }) hq hneeds, isExported_withRequests, dirEntry?_withRequests]
    exact dirOwn_owns _ line pkg
  · intro hq hh hneeds
    refine ⟨_, execHomeRead_remote hh, ?_⟩
    rw [arriveRequest_quiet (r := { kind := .homeRead, line, pkg := home }) hq hneeds, dirEntry?_withRequests]
    exact dirHomeRead_clean _ line
  · exact fun _ hdone => execHomeWrite_done hdone line bytes
  · intro ho hnew
    refine ⟨_, execHomeWrite_new ho.1 ho.2 hnew line bytes, ?_, ?_⟩
    · rw [arriveRequest_applied]
      exact List.mem_append_right _ (List.mem_singleton_self _)
    · intro hq hneeds
      have hq' : QuietLine (noteApplied s pkg tag) line := hq
      have hneeds' : needsUs (noteApplied s pkg tag) { kind := .homeWrite, line, pkg, bytes } = false := hneeds
      exact arriveRequest_homeWrite rfl hq' hneeds'
  · exact fun ho hh hentry howner hstate hnew => execWb_owner (hremote ho hh) hentry howner hstate hnew keep bytes
  · exact fun ho hh => execEv_remote (hremote ho hh)
  · intro hr hline hfree b done
    subst hline
    refine ⟨fun hk hb => ?_, fun hk hb => ?_⟩
    · rw [hfr, answerRequest_only hr hfree (by rcases hk with hk | hk <;> rw [hk] <;> rfl) hb]
      rfl
    · rw [hinv, answerRequest_only hr hfree (by rcases hk with hk | hk <;> rw [hk] <;> rfl) hb]
      rfl
  · exact fun hentry hfree => execBackInvalidation_free hentry hfree

end Sys2Proof.Machine
end

section
/-! # Proofs: what the end of work leaves alone (R270, R307, R308, R374) -/

namespace Sys2Proof.Machine

/-! ## What most operations keep -/

/-- GT and the period stand, and canonical memory stays canonical. -/
structure Kept (s t : State) : Prop where
  wf : Memory.wf s.mem = true → Memory.wf t.mem = true
  gt : t.gt = s.gt
  period : t.loft.period = s.loft.period

namespace Kept

theorem refl (s : State) : Kept s s := ⟨id, rfl, rfl⟩

theorem trans {s x t : State} (h : Kept s x) (h' : Kept x t) : Kept s t :=
  ⟨fun hw => h'.wf (h.wf hw), h'.gt.trans h.gt, h'.period.trans h.period⟩

theorem ite {p : Prop} [Decidable p] {s a b : State} (ha : Kept s a) (hb : Kept s b) : Kept s (if p then a else b) := by
  split
  · exact ha
  · exact hb

theorem foldl {α : Type} {g : State → α → State} (h : ∀ x a, Kept x (g x a)) (l : List α) (s : State) : Kept s (l.foldl g s) :=
  List.foldlRecOn l g (refl s) (fun x hx a _ => hx.trans (h x a))

theorem of_served {s t : State} (h : Served s t) : Kept s t := ⟨h.wf, h.gt, congrArg Loft.period h.loft⟩

end Kept

/-- What ends or kills work: it also leaves the package's number. -/
structure Ended (s t : State) : Prop extends Kept s t where
  pkg : t.net.pkg = s.net.pkg

namespace Ended

theorem refl (s : State) : Ended s s := ⟨Kept.refl s, rfl⟩

theorem trans {s x t : State} (h : Ended s x) (h' : Ended x t) : Ended s t := ⟨h.toKept.trans h'.toKept, h'.pkg.trans h.pkg⟩

theorem ite {p : Prop} [Decidable p] {s a b : State} (ha : Ended s a) (hb : Ended s b) : Ended s (if p then a else b) := by
  split
  · exact ha
  · exact hb

theorem foldl {α : Type} {g : State → α → State} (h : ∀ x a, Ended x (g x a)) (l : List α) (s : State) : Ended s (l.foldl g s) :=
  List.foldlRecOn l g (refl s) (fun x hx a _ => hx.trans (h x a))

/-! ## The state's operations -/

theorem setWarp (s : State) (wid : Nat) (w : Warp) : Ended s (s.setWarp wid w) := ⟨⟨id, rfl, rfl⟩, rfl⟩
theorem updWarp (s : State) (wid : Nat) (f : Warp → Warp) : Ended s (s.updWarp wid f) := ⟨⟨id, rfl, rfl⟩, rfl⟩
theorem dropWarp (s : State) (wid : Nat) : Ended s (s.dropWarp wid) := ⟨⟨id, rfl, rfl⟩, rfl⟩
theorem updCore (s : State) (c : Nat) (f : Core → Core) : Ended s (s.updCore c f) := ⟨⟨id, rfl, rfl⟩, rfl⟩
theorem updDie (s : State) (d : Nat) (f : Die → Die) : Ended s (s.updDie d f) := ⟨⟨id, rfl, rfl⟩, rfl⟩
theorem setColumn (s : State) (c : Nat) (x : Column) : Ended s (s.setColumn c x) := ⟨⟨id, rfl, rfl⟩, rfl⟩
theorem setTenant (s : State) (t : Nat) (x : Tenant) : Ended s (s.setTenant t x) := ⟨⟨id, rfl, rfl⟩, rfl⟩
theorem setPartition (s : State) (p : Nat) (x : Partition) : Ended s (s.setPartition p x) := ⟨⟨id, rfl, rfl⟩, rfl⟩
theorem setGrid (s : State) (g : Nat) (x : Grid) : Ended s (s.setGrid g x) := ⟨⟨id, rfl, rfl⟩, rfl⟩
theorem updGrid (s : State) (g : Nat) (f : Grid → Grid) : Ended s (s.updGrid g f) := ⟨⟨id, rfl, rfl⟩, rfl⟩
theorem setPipeline (s : State) (g : Nat) (x : Pipeline) : Ended s (s.setPipeline g x) := ⟨⟨id, rfl, rfl⟩, rfl⟩
theorem setBudget (s : State) (t : Nat) (x : Budget) : Ended s (s.setBudget t x) := ⟨⟨id, rfl, rfl⟩, rfl⟩
theorem setQueue (s : State) (q : Nat) (x : List Nat) : Ended s (s.setQueue q x) := ⟨⟨id, rfl, rfl⟩, rfl⟩
theorem updBlock (s : State) (g b : Nat) (f : Block → Block) : Ended s (s.updBlock g b f) := ⟨⟨id, rfl, rfl⟩, rfl⟩
theorem updBarrier (s : State) (n : Nat) (f : Barrier → Barrier) : Ended s (s.updBarrier n f) := ⟨⟨id, rfl, rfl⟩, rfl⟩
theorem freeBarriers (s : State) (p : Barrier → Bool) : Ended s (s.freeBarriers p) := ⟨⟨id, rfl, rfl⟩, rfl⟩
theorem blockEvent (s : State) (g b : Nat) : Ended s (s.blockEvent g b) := updBlock s g b _
theorem noteStore (s : State) (wid t : Nat) : Ended s (s.noteStore wid t) := updWarp s wid _
theorem logFaults (s : State) (t : Nat) (rs : List TrapRecord) : Ended s (s.logFaults t rs) := ⟨⟨id, rfl, rfl⟩, rfl⟩
theorem notify (s : State) (code arg : Nat) : Ended s (s.notify code arg) := ⟨⟨id, rfl, rfl⟩, rfl⟩
theorem answer (s : State) (r : HostResult) : Ended s (s.answer r) := ⟨⟨id, rfl, rfl⟩, rfl⟩
theorem fresh (s : State) : Ended s s.fresh := ⟨⟨id, rfl, rfl⟩, rfl⟩
theorem raiseFull (s : State) (p : Nat) : Ended s (s.raiseFull p) := ⟨⟨id, rfl, rfl⟩, rfl⟩

/-! ## Traps (R302, R309) -/

theorem pushRecord (s : State) (wid : Nat) (r : RecordFields) : Ended s (s.pushRecord wid r) := ite (setWarp s _ _) (setWarp s _ _)

theorem deliver (s : State) (wid : Nat) (pc : DWord) (word : BitVec 96) (cause : Nat) (ts : List TrapLane) :
    Ended s (s.deliver wid pc word cause ts) := by
  unfold State.deliver
  split
  · exact refl s
  · exact (pushRecord s _ _).trans (updWarp _ _ _)

theorem deliverAll (s : State) (wid : Nat) (pc : DWord) (word : BitVec 96) (traps : List (Nat × TrapLane)) :
    Ended s (s.deliverAll wid pc word traps) := foldl (fun x _ => deliver x _ _ _ _ _) _ s

/-! ## Barriers (R374 to R376) -/

theorem breakBarrier (s : State) (b : Barrier) : Ended s (s.breakBarrier b) :=
  (updBarrier s _ _).trans (foldl (fun x _ => updWarp x _ _) _ _)

theorem arrive (s : State) (id wid : Nat) (counted : Option Nat) (pend : Bool) : Ended s (s.arrive id wid counted pend).1 := by
  unfold State.arrive
  split
  · exact refl s
  · exact refl s
  · split
    · exact refl s
    · split
      · exact updBarrier s _ _
      · split
        · exact updBarrier s _ _
        · exact refl s

theorem renewEntry (s : State) (b : Barrier) (wid : Nat) (e : Entry) : Ended s (s.renewEntry b wid e).1 := by
  unfold State.renewEntry
  split
  · split
    · exact refl s
    · rename_i id counted pend target _ _
      dsimp only
      generalize (if pend = true then some b.phase else counted) = n
      have h : Ended s (if State.arrives e.instr then s.arrive id wid n false else (s, n, false)).1 := by
        split
        · exact arrive s _ _ _ _
        · exact refl s
      generalize (if State.arrives e.instr then s.arrive id wid n false else (s, n, false)) = r at h ⊢
      split <;> exact h
  · exact refl s

theorem renewEntries (s : State) (b : Barrier) (wid : Nat) (l : List Entry) : Ended s (s.renewEntries b wid l).1 := by
  induction l generalizing s with
  | nil => exact refl s
  | cons e es ih => exact (renewEntry s b wid e).trans (ih _)

theorem completePhases (s : State) (id fuel : Nat) : Ended s (s.completePhases id fuel) := by
  induction fuel generalizing s with
  | zero => exact refl s
  | succ fuel ih =>
    unfold State.completePhases
    split
    · exact refl s
    · rename_i b _
      refine ite (refl s) ?_
      dsimp only
      refine ((updBarrier s id _).trans (foldl (fun x wid => ?_) _ _)).trans (ih _)
      exact ((renewEntries x _ wid (x.warp wid).rob).trans (updWarp _ _ _)).trans (blockEvent _ _ _)

theorem completePhase (s : State) (id : Nat) : Ended s (s.completePhase id) := completePhases s id _

theorem settlePhases (s : State) (g : Nat) : Ended s (s.settlePhases g) := foldl (fun x _ => completePhase x _) _ s

/-! ## Blocks, gangs and grids (R207, R270, R275) -/

theorem clearBlock (s : State) (x : Block) : Ended s (s.clearBlock x) := by
  unfold State.clearBlock
  split
  · exact refl s
  · split
    · exact ⟨⟨id, rfl, rfl⟩, rfl⟩
    · exact ⟨⟨id, rfl, rfl⟩, rfl⟩

theorem addendsKept (s : State) (l : List Addend) : Ended s { s with mem := { s.mem with addends := l } } := ⟨⟨id, rfl, rfl⟩, rfl⟩

theorem settleAddends (s : State) (p n : Nat) : Ended s (s.settleAddends p n) :=
  (addendsKept s _).trans (foldl (fun x _ => ite (noteStore x _ _) (refl x)) _ _)

theorem clearBytes (s : State) (p n : Nat) : Ended s (s.clearBytes p n) := ⟨⟨State.clearBytes_wf s p n, rfl, rfl⟩, rfl⟩

theorem finishClearing (s : State) (c : Nat × Nat × Nat) : Ended s (s.finishClearing c) := by
  unfold State.finishClearing
  extract_lets x
  have h : Ended s x := (settleAddends s _ _).trans (clearBytes _ _ _)
  clear_value x
  exact h.trans ⟨⟨id, rfl, rfl⟩, rfl⟩

theorem startClearing (s : State) (g b : Nat) : Ended s (s.startClearing g b) :=
  ite (refl s) (foldl (fun x y => clearBlock x y) _ s)

theorem releaseBlock (s : State) (g b : Nat) : Ended s (s.releaseBlock g b) := by
  unfold State.releaseBlock
  split
  · exact ite (refl s) (((freeBarriers s _).trans (updBlock _ _ _ _)).trans (startClearing _ _ _))
  · exact refl s

theorem drainRecords (s : State) (g : Nat) (p : Warp → Bool) : Ended s (s.drainRecords g p) :=
  foldl (fun x _ => (logFaults x _ _).trans (ite (setWarp _ _ _) (dropWarp _ _))) _ s

theorem delPipeline (s : State) (pid : Nat) : Ended s { s with loft := { s.loft with pipelines := Sparse.del s.loft.pipelines pid } } :=
  ⟨⟨id, rfl, rfl⟩, rfl⟩

theorem endStages (s : State) (pid fuel : Nat) : Ended s (s.endStages pid fuel) := by
  induction fuel generalizing s with
  | zero => exact refl s
  | succ fuel ih =>
    unfold State.endStages
    dsimp only
    split
    · exact refl s
    · exact ite ((delPipeline s pid).trans (updGrid _ _ _)) ((setPipeline s _ _).trans (ih _))

theorem endStageGrid (s : State) (g : Nat) : Ended s (s.endStageGrid g) := by
  unfold State.endStageGrid
  dsimp only
  split
  · exact refl s
  · exact ((setGrid s _ _).trans (ite (setPipeline _ _ _) (refl _))).trans (endStages _ _ _)

theorem dequeued (s : State) (q : Sparse (List Nat)) (t : List Target) :
    Ended s { s with loft := { s.loft with queues := q, targets := t } } := ⟨⟨id, rfl, rfl⟩, rfl⟩

theorem retireGrid (s : State) (g : Nat) : Ended s (s.retireGrid g) :=
  ((((freeBarriers s _).trans (drainRecords _ _ _)).trans (updGrid _ _ _)).trans (dequeued _ _ _)).trans (endStageGrid _ _)

theorem finishGang (s : State) (g gang : Nat) : Ended s (s.finishGang g gang) :=
  ((freeBarriers s _).trans (updGrid _ _ _)).trans (ite (retireGrid _ _) (refl _))

theorem endWarp (s : State) (wid : Nat) : Ended s (s.endWarp wid) := by
  unfold State.endWarp
  refine ite (refl s) (((setWarp s _ _).trans (updCore _ _ _)).trans (ite ?_ (settlePhases _ _)))
  exact ((releaseBlock _ _ _).trans (ite (finishGang _ _ _) (refl _))).trans (settlePhases _ _)

/-! ## Gang kill and relaunch (R307, R308) -/

/-- What is left of a gang in queues, engines and waits is discarded. -/
theorem discarded (s : State) (q : List FeRequest) (ps : List Pending) (ch : List Pick) (cs : Sparse Core) (ds : Sparse Die) :
    Ended s { s with mem := { s.mem with feQueue := q }, net := { s.net with pendings := ps }, chosen := ch, cores := cs, dies := ds } :=
  ⟨⟨id, rfl, rfl⟩, rfl⟩

theorem saveAreas (s : State) (x : Sparse SaveArea) : Ended s { s with loft := { s.loft with saveAreas := x } } := ⟨⟨id, rfl, rfl⟩, rfl⟩

theorem barriers (s : State) (x : List Barrier) : Ended s { s with loft := { s.loft with barriers := x } } := ⟨⟨id, rfl, rfl⟩, rfl⟩

theorem killGang (s : State) (g gang code : Nat) (addr : DWord) (pcs : List Nat) : Ended s (s.killGang g gang code addr pcs) := by
  unfold State.killGang
  extract_lets wids mine blk pcs' rec_ m n x
  split
  · exact refl s
  · have hx : Ended s x := discarded s _ _ _ _ _
    clear_value x
    exact (((((hx.trans (saveAreas x _)).trans (foldl (fun y b => (releaseBlock y g b).trans (startClearing _ _ _)) _ _)).trans
      (freeBarriers _ _)).trans (barriers _ _)).trans (drainRecords _ _ _)).trans (logFaults _ _ _)

theorem endGrid (s : State) (g code : Nat) (own : Option (Nat × Nat)) : Ended s (s.endGrid g code own) :=
  (foldl (fun x _ => killGang x _ _ _ _ _) _ s).trans (retireGrid _ _)

theorem returnClaims (s : State) (g : Nat) : Ended s (s.returnClaims g) := by
  unfold State.returnClaims
  dsimp only
  split
  · exact refl s
  · exact (ite (setPipeline s _ _) (refl s)).trans (setGrid _ _ _)

theorem relaunchGangs (s : State) (g : Nat) (gangs : List Nat) : Ended s (s.relaunchGangs g gangs) := updGrid s _ _

theorem afterKill (s : State) (g : Nat) (gangs : List Nat) : Ended s (s.afterKill g gangs) := by
  have hback := returnClaims s g
  refine ite (refl s) (ite (endGrid s _ _ _) (ite (hback.trans (relaunchGangs _ _ _)) (ite ?_ ?_)))
  · exact (hback.trans (foldl (fun x b => breakBarrier x b) _ _)).trans (relaunchGangs _ _ _)
  · exact (((hback.trans (foldl (fun x _ => killGang x _ _ _ _ _) _ _)).trans (freeBarriers _ _)).trans (drainRecords _ _ _)).trans
      (updGrid _ _ _)

theorem consume (s : State) (g b : Nat) (addr : DWord) (pcs : List Nat) : Ended s (s.consume g b addr pcs) :=
  (killGang s _ _ _ _ _).trans (afterKill _ _ _)

end Ended

end Sys2Proof.Machine
end

section
/-! # Proofs: switch failures, rebuilds and port-down (R406, R407, R409) -/

namespace Sys2Proof.Machine

/-! ## What messages leave -/

theorem pendings_foldl {α : Type} {g : State → α → State} (h : ∀ x a, (g x a).net.pendings = x.net.pendings) (l : List α) (s : State) :
    (l.foldl g s).net.pendings = s.net.pendings := by
  refine List.foldlRecOn (motive := fun x : State => x.net.pendings = s.net.pendings) l g rfl ?_
  intro x hx a _
  rw [h, hx]

theorem pendings_restoreWave (s : State) (d w : Nat) : (s.restoreWave d w).net.pendings = s.net.pendings := rfl

theorem pendings_putFlit (s : State) (link : Nat) (f : Flit) : (s.putFlit link f).net.pendings = s.net.pendings := by
  have h : (s.reachBoundary (2 * link)).net.pendings = s.net.pendings := pendings_foldl (fun x w => pendings_restoreWave x _ w) _ s
  rw [State.putFlit, ← h]
  rfl

theorem pendings_sendMessage (s : State) (t c vc a : Nat) (data : List Byte) (dst : Nat) :
    (s.sendMessage t c vc a data dst).net.pendings = s.net.pendings := by
  unfold State.sendMessage
  split
  · rfl
  · rename_i link _
    exact pendings_putFlit s link { gen := (s.tenant t).gen, tenant := t, tclass := c, vc, dpkg := dst, payload := messagePayload vc a data }

theorem seq_sendMessage {s : State} {a link : Nat} (h : s.routeOf a = some link) (t c vc : Nat) (data : List Byte) (dst : Nat) :
    ((s.sendMessage t c vc a data dst).linkDir (2 * link)).seq = ((s.linkDir (2 * link)).seq + 1) % 4096 := by
  unfold State.sendMessage
  rw [h]
  exact (putFlit_self s link _).1

/-! ## Switch failure and resends (R406) -/

/-- A rebuild once a switch has failed: what it was holding passes on (R406, R411). -/
def passedOn (s : State) (switch : Nat) (r : Rebuild) : Rebuild :=
  if r.holder == switch then { r with holder := nextHolder s r.failed, phase := .hold, reported := 0 } else r

theorem switchFailure_passes {s : State} {switch : Nat} (hlt : switch < 128) (hnew : s.switchFailed switch = false) :
    ∃ t, exec (.switchFailure switch) s = .next t ∧ t.net.swfail = s.net.swfail + 1 ∧
      (t.net.rebuilds.any (fun x => x.failed == switch)) = true := by
  have hgo : ¬ (decide (switch ≥ 128) || s.switchFailed switch) = true := by
    rw [hnew]
    simpa using hlt
  have hx : exec (.switchFailure switch) s = execSwitchFailure switch s := rfl
  refine ⟨_, hx.trans (if_neg hgo), rfl, ?_⟩
  rw [List.any_eq_true]
  refine ⟨_, List.mem_map_of_mem (List.mem_append_right _ (List.mem_singleton_self _)), ?_⟩
  simp

/-- The accesses of a lane that have waited 8 µs more for their switch (R406). -/
def resendDue (s : State) (wid lane : Nat) (p : Pending) : Bool :=
  p.wid == wid && p.lane == lane && p.since + 8000 * (p.resent + 1) ≤ s.gt

def resendAll (s : State) (wid lane : Nat) : State :=
  (s.net.pendings.filter (resendDue s wid lane)).foldl
    (fun x p => x.sendMessage (s.warp wid).tenant (x.classOf (s.warp wid)) 0 (256 * p.line)) s

/-- The accesses sent again wait on. -/
def resent (b s : State) (wid lane : Nat) : State :=
  { b with net := { b.net with pendings := b.net.pendings.map (fun p =>
      if resendDue s wid lane p then { p with resent := p.resent + 1 } else p) } }

theorem execRequestResend_eq {s b : State} {wid lane : Nat} (hb : b = resendAll s wid lane) :
    execRequestResend wid lane s = .next (resent b s wid lane) := by
  subst hb
  rfl

theorem resendAll_pendings (s : State) (wid lane : Nat) : (resendAll s wid lane).net.pendings = s.net.pendings :=
  pendings_foldl (fun x _ => pendings_sendMessage x _ _ _ _ _ _) _ s

/-- One message goes out for the only access that is due, on the link to its line's switch. -/
theorem resendAll_seq {s : State} {wid lane link : Nat} {p : Pending} (h : s.net.pendings.filter (resendDue s wid lane) = [p])
    (hroute : s.routeOf (256 * p.line) = some link) :
    ((resendAll s wid lane).linkDir (2 * link)).seq = ((s.linkDir (2 * link)).seq + 1) % 4096 := by
  unfold resendAll
  rw [h]
  exact seq_sendMessage hroute _ _ _ _ _

theorem requestResend_sends (s : State) (wid lane : Nat) :
    ∃ t, exec (.requestResend wid lane) s = .next t ∧ t.net.pendings.length = s.net.pendings.length ∧
      ∀ p ∈ s.net.pendings, resendDue s wid lane p = true → { p with resent := p.resent + 1 } ∈ t.net.pendings ∧
        (s.net.pendings.filter (resendDue s wid lane) = [p] → ∀ link, s.routeOf (256 * p.line) = some link →
          (t.linkDir (2 * link)).seq = ((s.linkDir (2 * link)).seq + 1) % 4096) := by
  have hx : exec (.requestResend wid lane) s = execRequestResend wid lane s := rfl
  have hp := resendAll_pendings s wid lane
  have hseq := fun (p : Pending) (link : Nat) => @resendAll_seq s wid lane link p
  obtain ⟨b, hb⟩ : ∃ b, b = resendAll s wid lane := ⟨_, rfl⟩
  rw [← hb] at hp
  refine ⟨resent b s wid lane, hx.trans (execRequestResend_eq hb), ?_, ?_⟩
  · rw [resent, List.length_map, hp]
  · intro p hmem hdue
    refine ⟨?_, fun h link hroute => ?_⟩
    · rw [resent, hp]
      exact List.mem_map.mpr ⟨p, hmem, if_pos hdue⟩
    · rw [← hseq p link h hroute, ← hb]
      rfl

/-! ## Rebuilds (R407) -/

theorem serveRange_nothing {s : State} (h : s.net.requests = []) (k : Nat) : serveRange s k = s := by
  unfold serveRange
  rw [h]
  rfl

theorem requests_reportLines (s : State) (switch : Nat) (lines : List Nat) : (reportLines s switch lines).net.requests = s.net.requests :=
  (SameLines.foldl (fun x _ => SameLines.sendMessage x _ _ _ _ _ _) _ s).requests

/-- What the end of HOLD leaves of a range with `k` entries, of whose lines this package held `n` (R407). -/
def holdEnded (b : State) (switch n k : Nat) : State :=
  serveRange (updRebuild { b with net := { b.net with rebuilt := b.net.rebuilt + BitVec.ofNat 64 n } } switch (fun r =>
    { r with phase := .uncached, reported := k })) switch

theorem holdEnded_nothing {b : State} (h : b.net.requests = []) (switch k : Nat) :
    holdEnded b switch 0 k = updRebuild b switch (fun r => { r with phase := .uncached, reported := k }) := by
  have hcount : ({ b with net := { b.net with rebuilt := b.net.rebuilt + BitVec.ofNat 64 0 } } : State) = b := by
    rw [show b.net.rebuilt + BitVec.ofNat 64 0 = b.net.rebuilt from BitVec.add_zero ..]
  rw [holdEnded, hcount]
  exact serveRange_nothing (s := updRebuild b switch _) h switch

/-- The end of HOLD for a range without entries. -/
theorem rebuildHoldEnd_empty {s : State} {switch : Nat} {r : Rebuild} (hr : s.rebuildOf switch = some r) (hphase : r.phase = .hold)
    (hheard : heardFrom s switch = true) (hnone : entriesOf s switch = []) (hreq : s.net.requests = []) :
    execRebuildHoldEnd switch [] s = .next (updRebuild (reportLines s switch []) switch (fun r =>
      { r with phase := .uncached, reported := 0 })) := by
  have hgo : ¬ (r.phase != .hold || !heardFrom s switch) = true := by
    rw [hphase, hheard]
    exact Bool.false_ne_true
  have hends : execRebuildHoldEnd switch [] s = .next (holdEnded (reportLines s switch []) switch 0 0) := by
    unfold execRebuildHoldEnd
    rw [hr]
    dsimp only
    rw [if_neg hgo, hnone]
    simp only [List.filter_nil, List.foldl_nil, List.map_nil, List.length_nil]
    rfl
  rw [hends, holdEnded_nothing]
  exact (requests_reportLines s switch []).trans hreq

/-- The end of UNCACHED for a range of which no line was written meanwhile. -/
theorem rebuildOpen_unwritten {s : State} {switch : Nat} {r : Rebuild} (hr : s.rebuildOf switch = some r) (hphase : r.phase = .uncached)
    (hnone : r.written = []) (hreq : s.net.requests = []) :
    execRebuildOpen switch s = .next ((updRebuild s switch (fun r =>
      { r with phase := .open_, written := [] })).notify 0x09 (switch + 2 ^ 8 * r.reported)) := by
  have hgo : ¬ (r.phase != .uncached) = true := by
    rw [hphase]
    exact Bool.false_ne_true
  unfold execRebuildOpen
  rw [hr]
  dsimp only
  rw [if_neg hgo, hnone, List.foldl_nil, serveRange_nothing]
  exact hreq

/-! ## Port-down (R409) -/

theorem execPortDownExpiry_other {s : State} {switch pkg : Nat} (hs : switch < 128) (hp : pkg < 512) (hne : pkg ≠ s.net.pkg) :
    execPortDownExpiry { switch, pkg } s =
      .next (serveSwitch (dropRequests (forgetPackage s switch pkg) switch pkg) switch) := by
  unfold execPortDownExpiry
  dsimp only
  rw [if_pos (bne_iff_ne.mpr hne)]
  exact next_if_pos (by simp [hs, hp]) _ _

/-- The gangs whose accesses wait at a switch have ended (R409). -/
def killWaiting (s : State) (waiting : List Pending) : State :=
  (waiting.map (·.wid)).eraseDups.foldl (fun s wid =>
    if (s.warp wid).isMember && Sparse.mem s.warps wid then s.consume (s.warp wid).grid (s.warp wid).block 0 else s) s

theorem pkg_killWaiting (s : State) (waiting : List Pending) : (killWaiting s waiting).net.pkg = s.net.pkg :=
  (Ended.foldl (fun x _ => Ended.ite (Ended.consume x _ _ _ _) (Ended.refl x)) _ s).pkg

/-- What this package's own port-down leaves, but for the gangs that it has killed (R409). -/
def portGone (b : State) (waiting : List Pending) (switch : Nat) : State :=
  State.notify { b with net := { b.net with
    pendings := b.net.pendings.filter (fun p => !waiting.contains p)
    portdown := Sparse.insert switch b.gt (Sparse.del b.net.portdown switch)
    expired := b.net.expired.filter (· != switch) ++ [switch] } } 0x07 switch

theorem execPortDownExpiry_own {s : State} {switch : Nat} (hdown : Sparse.mem s.net.portdown switch = true)
    (hdue : Sparse.get 0 s.net.portdown switch + s.net.portto ≤ s.gt) {waiting : List Pending}
    (hw : waiting = s.net.pendings.filter (fun p => s.rangeHolder (rangeOf (256 * p.line)) == switch)) :
    execPortDownExpiry { switch, pkg := s.net.pkg } s =
      .next (portGone (forgetPackage (killWaiting s waiting) switch (killWaiting s waiting).net.pkg) waiting switch) := by
  have hgo : ¬ (!Sparse.mem s.net.portdown switch || decide (s.gt < Sparse.get 0 s.net.portdown switch + s.net.portto)) = true := by
    rw [hdown]
    simpa using hdue
  subst hw
  unfold execPortDownExpiry
  dsimp only
  rw [if_neg (by simp), if_neg hgo, pkg_killWaiting]
  rfl

/-- Settles O54. -/
theorem switchEvents : Obligations.SwitchEvents := by
  intro s switch wid lane pkg r
  refine ⟨switchFailure_passes, ?_, ?_, ?_, ?_, ?_⟩
  · obtain ⟨t, ht, hlen, hall⟩ := requestResend_sends s wid lane
    refine ⟨t, ht, hlen, fun p hmem hwid hlane hdue => hall p hmem ?_⟩
    simp [resendDue, hwid, hlane, hdue]
  · exact fun hr hphase hheard hnone hreq => rebuildHoldEnd_empty hr hphase hheard hnone hreq
  · exact fun hr hphase hnone hreq => rebuildOpen_unwritten hr hphase hnone hreq
  · intro hdown hdue waiting killed
    refine ⟨fun hw => ?_, execPortDownExpiry_own hdown hdue rfl⟩
    change killWaiting s waiting = s
    rw [hw]
    rfl
  · exact fun hs hp hne => execPortDownExpiry_other hs hp hne

end Sys2Proof.Machine
end

section
/-! # Proofs: partition commands (R353 to R356) -/

namespace Sys2Proof.Machine

/-! ## Tables as bytes (R355, R356) -/

theorem bytesAt_skip {m i : Nat} (h : m ≤ i) (v : Nat) (bs : List Byte) (n : Nat) :
    bytesAt (leBytes m v ++ bs) i n = bytesAt bs (i - m) n := by
  rw [bytesAt, bytesAt, List.drop_append, List.drop_of_length_le (by simpa using h), List.nil_append, length_leBytes]

theorem bytesAt_head {m v : Nat} (h : v < 256 ^ m) (bs : List Byte) : bytesAt (leBytes m v ++ bs) 0 m = v := by
  rw [bytesAt, List.drop_zero, List.take_left' (length_leBytes m v), leNat_leBytes m v h]

theorem bytesAt_bits (m : Nat) (x : BitVec (8 * m)) (bs : List Byte) : BitVec.ofNat (8 * m) (bytesAt (leBytes m x.toNat ++ bs) 0 m) = x := by
  have h : x.toNat < 256 ^ m := by
    have := x.isLt
    rwa [Nat.pow_mul] at this
  rw [bytesAt_head h, BitVec.ofNat_toNat, BitVec.setWidth_eq]

theorem length_partitionBytes (n : Nat) (p : Partition) : (partitionBytes n p).length = 128 := by
  simp only [partitionBytes, List.length_append, length_leBytes]

theorem length_tenantBytes (t : Tenant) : (tenantBytes t).length = 64 := by
  simp only [tenantBytes, List.length_append, length_leBytes]

/-- An entry that READPART gives means the partition again. -/
theorem parsePartition_partitionBytes {n : Nat} (hn : n < 16) (p : Partition) : parsePartition (partitionBytes n p) = (n, true, p) := by
  have hbytes : partitionBytes n p = leBytes 12 p.quads.toNat ++ (leBytes 4 0 ++ (leBytes 48 p.cols.toNat ++ (leBytes 48 p.chans.toNat ++
      (leBytes 8 p.engs.toNat ++ (leBytes 2 p.tenants.toNat ++ (leBytes 1 n ++ (leBytes 5 0 ++ []))))))) := by
    simp only [partitionBytes, List.append_assoc, List.append_nil]
  have hquads : ∀ bs, BitVec.ofNat 96 (bytesAt (leBytes 12 p.quads.toNat ++ bs) 0 12) = p.quads := bytesAt_bits 12 p.quads
  have hcols : ∀ bs, BitVec.ofNat 384 (bytesAt (leBytes 48 p.cols.toNat ++ bs) 0 48) = p.cols := bytesAt_bits 48 p.cols
  have hchans : ∀ bs, BitVec.ofNat 384 (bytesAt (leBytes 48 p.chans.toNat ++ bs) 0 48) = p.chans := bytesAt_bits 48 p.chans
  have hengs : ∀ bs, BitVec.ofNat 64 (bytesAt (leBytes 8 p.engs.toNat ++ bs) 0 8) = p.engs := bytesAt_bits 8 p.engs
  have htenants : ∀ bs, BitVec.ofNat 16 (bytesAt (leBytes 2 p.tenants.toNat ++ bs) 0 2) = p.tenants := bytesAt_bits 2 p.tenants
  have hpart : ∀ bs, bytesAt (leBytes 1 n ++ bs) 0 1 = n := bytesAt_head (by omega)
  have hzero4 : ∀ bs, bytesAt (leBytes 4 0 ++ bs) 0 4 = 0 := bytesAt_head (by omega)
  have hzero5 : ∀ bs, bytesAt (leBytes 5 0 ++ bs) 0 5 = 0 := bytesAt_head (by omega)
  rw [parsePartition, hbytes]
  simp (discharger := omega) only [bytesAt_skip, Nat.reduceSub]
  rw [hpart, hzero4, hzero5, hquads, hcols, hchans, hengs, htenants]
  rfl

/-! ## Commands (R353, R354) -/

section
variable {s s1 s2 b : State} {c : Command} {rest : List Command} {bs payload : List Byte} {op : Nat}

/-- A block that has been read and that is in order is taken by its operation. -/
theorem performCommand_takes (hc : s.loft.pcmd = c :: rest) (hnew : c.taken = none) (hact : s.fw.activating = none)
    (hmode : s.loft.mode = none) (hread : commandRead s c.addr.toNat [64] = some (s1, bs, false)) (hok : commandOk (parseCommand bs) = true)
    (hop : (parseCommand bs).op = op) (hpay : commandRead s1 (parseCommand bs).data (payloadPieces (parseCommand bs)) = some (s2, payload, false)) :
    performCommand op s =
      .next (completeCommand c.addr.toNat (runCommand (keepTaken s2 bs payload) (parseCommand bs) payload)) := by
  have htake : takeCommand s1 c.addr.toNat bs = completeCommand c.addr.toNat (runCommand (keepTaken s2 bs payload) (parseCommand bs) payload) := by
    unfold takeCommand
    dsimp only
    rw [hpay]
    rfl
  unfold performCommand
  rw [hc]
  dsimp only
  rw [hact, hmode, hnew, hread]
  dsimp only
  rw [if_neg (by simp), if_neg (by simp), if_neg (by simp [hok]), if_neg (by simp [hop]), htake]

/-- One whose block and payload have been read before goes on with them. -/
theorem performCommand_goes_on (hc : s.loft.pcmd = { c with taken := some (bs, payload) } :: rest) (hact : s.fw.activating = none)
    (hmode : s.loft.mode = none) (hop : (parseCommand bs).op = op) :
    performCommand op s = .next (completeCommand c.addr.toNat (runCommand s (parseCommand bs) payload)) := by
  unfold performCommand
  rw [hc]
  dsimp only
  rw [hact, hmode]
  dsimp only
  rw [if_neg (by simp), if_neg (by simp [hop])]

end

theorem endCommand_leaves {s : State} (h : s.fw.activateWaits = 0) (last : Nat) :
    (endCommand s last).loft.pcmd = s.loft.pcmd.drop 1 ∧ (endCommand s last).loft.pstatLast = last ∧
      (endCommand s last).loft.pstatSeq = (s.loft.pstatSeq + 1) % 2 ^ 16 := by
  have hends : endCommand s last = { s with loft := { s.loft with
      pcmd := s.loft.pcmd.drop 1, pstatLast := last, pstatSeq := (s.loft.pstatSeq + 1) % 2 ^ 16, resetting := none } } :=
    settleActivate_none h
  rw [hends]
  exact ⟨rfl, rfl, rfl⟩

/-! ## SETTEN (R356) -/

/-- The machine once the payload of a SETTEN has been measured, unless its reset had begun (R420). -/
def measuredEntry (s : State) (t : Nat) (bs : List Byte) : State := if s.loft.resetting == some t then s else measure s 6 bs

theorem loft_measure (s : State) (n : Nat) (bs : List Byte) : (measure s n bs).loft = s.loft := by
  rw [measure]

theorem measuredEntry_loft (s : State) (t : Nat) (bs : List Byte) : (measuredEntry s t bs).loft = s.loft := by
  unfold measuredEntry
  split
  · rfl
  · exact loft_measure s 6 bs

/-- SETTEN of a payload, once it has been measured. -/
def enterTenant (s : State) (t : Nat) (bs : List Byte) (begun : Bool) : CommandResult :=
  let e := s.tenant t
  if !tenantFieldsOk bs then (s, .done Status.field 0)
  else
    let new := withPayload e bs
    if new.defined && !e.defined then
      ((bindTenant s t (some 0)).setTenant t { new with gen := 0, part := 0, wdoglim := 100000000, savebnd := 50000, limitFrom := 0 },
        .done Status.ok 0)
    else if !new.defined && e.defined then
      match if begun then none else busyCause s [t] with
      | some d => (s, .done Status.busy d)
      | none =>
        if t == 0 then (s, .done Status.field 0)
        else
          match resetTenant s t with
          | (s, false) => (s, .waits)
          | (s, true) => ((bindTenant s t none).setTenant t { new with gen := (s.tenant t).gen }, .done Status.ok 0)
    else (s.setTenant t new, .done Status.ok 0)

theorem setTenantEntry_eq {s b : State} {t : Nat} {bs : List Byte} (hb : b = measuredEntry s t bs) :
    setTenantEntry s t bs = enterTenant b t bs (s.loft.resetting == some t) := by
  subst hb
  rfl

theorem enterTenant_field {bs : List Byte} (h : tenantFieldsOk bs = false) (b : State) (t : Nat) (begun : Bool) :
    enterTenant b t bs begun = (b, .done Status.field 0) := if_pos (by simp [h])

/-- An entry that stays defined takes the payload's fields. -/
theorem enterTenant_defined {b : State} {t : Nat} {bs : List Byte} (h : tenantFieldsOk bs = true) (hd : (b.tenant t).defined = true)
    (hstays : bitOf (bytesAt bs 11 1) 0 = true) (begun : Bool) :
    enterTenant b t bs begun = (b.setTenant t (withPayload (b.tenant t) bs), .done Status.ok 0) := by
  have hnew : (withPayload (b.tenant t) bs).defined = true := hstays
  unfold enterTenant
  dsimp only
  rw [if_neg (by simp [h]), if_neg (by simp [hd]), if_neg (by simp [hnew])]

/-- Settles O55. -/
theorem partitionCommands : Obligations.PartitionCommands := by
  refine ⟨?_, ?_⟩
  · intro p hp s s1 s2 b c rest bs payload status d hc hnew hact hmode hread hok hop hpay kept
    have hx : ∀ x : State, exec p.1 x = performCommand p.2 x := by
      intro x
      fin_cases hp <;> rfl
    have htakes := performCommand_takes hc hnew hact hmode hread hok hop hpay
    refine ⟨?_, ?_, ?_, ?_, fun x h => endCommand_leaves h status⟩
    · intro hrun
      rw [hx, htakes, hrun]
      rfl
    · intro hrun
      rw [hx, htakes, hrun]
      rfl
    · intro hrun
      rw [hx, htakes, hrun]
      rfl
    · intro x hcx hactx hmodex hrun
      rw [hx, performCommand_goes_on hcx hactx hmodex hop, hrun]
      rfl
  · intro s t n bs p e
    have htenant : (measuredEntry s t bs).tenant t = s.tenant t := congrArg (fun x : Loft => Sparse.get ({} : Tenant) x.tenants t) (measuredEntry_loft s t bs)
    have hloft := measuredEntry_loft s t bs
    obtain ⟨b, hb⟩ : ∃ b, b = measuredEntry s t bs := ⟨_, rfl⟩
    rw [← hb] at htenant hloft
    refine ⟨length_partitionBytes n p, length_tenantBytes e, fun hn => parsePartition_partitionBytes hn p, fun h => ?_, fun h hd hstays => ?_⟩
    · exact ⟨b, (setTenantEntry_eq hb).trans (enterTenant_field h b t _), hloft⟩
    · rw [← htenant] at hd ⊢
      refine ⟨_, (setTenantEntry_eq hb).trans (enterTenant_defined h hd hstays _), ?_⟩
      rw [State.tenant_setTenant_self]
      exact ⟨rfl, rfl, rfl, rfl⟩

end Sys2Proof.Machine
end

section
/-! # Proofs: what accesses keep (R205, R216, R224, R229) -/

namespace Sys2Proof.Machine

/-- What an access meets leaves GT, the period and canonical memory. -/
def AccessKept (s : State) : State.Access → Prop
  | .at x _ => Kept s x
  | .trap x _ => Kept s x
  | .park x => Kept s x
  | .wait x => Kept s x
  | .hole _ => True

namespace AccessKept

theorem trans {s x : State} {a : State.Access} (h : Kept s x) (h' : AccessKept x a) : AccessKept s a := by
  cases a with
  | trap y c => exact Kept.trans h h'
  | park y => exact Kept.trans h h'
  | wait y => exact Kept.trans h h'
  | hole y => exact True.intro
  | _ y p => exact Kept.trans h h'

theorem ite {p : Prop} [Decidable p] {s : State} {a b : State.Access} (ha : AccessKept s a) (hb : AccessKept s b) :
    AccessKept s (if p then a else b) := by
  split
  · exact ha
  · exact hb

end AccessKept

namespace Kept

theorem net (s : State) (n : Net) : Kept s { s with net := n } := ⟨id, rfl, rfl⟩
theorem tables (s : State) (t : Tables) : Kept s { s with tables := t } := ⟨id, rfl, rfl⟩
theorem warps (s : State) (w : Sparse Warp) : Kept s { s with warps := w } := ⟨id, rfl, rfl⟩
theorem cores (s : State) (c : Sparse Core) : Kept s { s with cores := c } := ⟨id, rfl, rfl⟩
theorem dies (s : State) (d : Sparse Die) : Kept s { s with dies := d } := ⟨id, rfl, rfl⟩
theorem fw (s : State) (f : Firmware) : Kept s { s with fw := f } := ⟨id, rfl, rfl⟩
theorem updCore (s : State) (c : Nat) (f : Core → Core) : Kept s (s.updCore c f) := ⟨id, rfl, rfl⟩
theorem updDie (s : State) (d : Nat) (f : Die → Die) : Kept s (s.updDie d f) := ⟨id, rfl, rfl⟩
theorem updWarp (s : State) (wid : Nat) (f : Warp → Warp) : Kept s (s.updWarp wid f) := ⟨id, rfl, rfl⟩
theorem setWarp (s : State) (wid : Nat) (w : Warp) : Kept s (s.setWarp wid w) := ⟨id, rfl, rfl⟩
theorem updFrame (s : State) (fid : Nat) (f : Frame → Frame) : Kept s (s.updFrame fid f) := ⟨id, rfl, rfl⟩
theorem fresh (s : State) : Kept s s.fresh := ⟨id, rfl, rfl⟩
theorem noteStore (s : State) (wid t : Nat) : Kept s (s.noteStore wid t) := updWarp s wid _

/-! ## Services of memory -/

theorem readBytes (s : State) (p n : Nat) : Kept s (s.readBytes p n).1 := of_served (Served.readBytes s p n)
theorem writeBytes (s : State) (p : Nat) (bs : List Byte) : Kept s (s.writeBytes p bs) := of_served (Served.writeBytes s p bs)
theorem setRaw64 (s : State) (p : Nat) (x : DWord) : Kept s (s.setRaw64 p x) := of_served (Served.setRaw64 s p x)
theorem checkWalk (s : State) (t va : Nat) : Kept s (s.checkWalk t va) := of_served (Served.checkWalk s t va)
theorem setFull (s : State) (p : Nat) (b : Bool) : Kept s (s.setFull p b) := of_served (Served.setFull s p b)
theorem sendMessage (s : State) (t c vc a : Nat) (data : List Byte) (dst : Nat) : Kept s (s.sendMessage t c vc a data dst) :=
  of_served (Served.sendMessage s t c vc a data dst)
theorem homeTouch (s : State) (t cls a : Nat) (write : Bool) : Kept s (s.homeTouch t cls a write) :=
  of_served (Served.homeTouch s t cls a write)
theorem preserveShadow (s : State) (backing n : Nat) : Kept s (s.preserveShadow backing n) := of_served (Served.preserveShadow s backing n)
theorem preserveLine (s : State) (line : Nat) : Kept s (s.preserveLine line) := of_served (Served.preserveLine s line)

/-! ## Translation and place (R229, R326, R327) -/

theorem lookup (s : State) (gcore t vpn : Nat) : Kept s (s.lookup gcore t vpn).1 := by
  unfold State.lookup
  split
  · exact refl s
  · have hmiss : Kept s (s.updCore gcore (fun x => { x with tcmiss := x.tcmiss + 1 })) := updCore s _ _
    dsimp only
    split
    · dsimp only
      exact hmiss.trans (updCore _ gcore _)
    · exact hmiss

theorem dropStale (s : State) (gcore t vpn : Nat) : Kept s (s.dropStale gcore t vpn) := by
  unfold State.dropStale
  exact (updCore s gcore _).trans (updDie _ (dieOf gcore) _)

theorem switchAccess (s : State) (ag : Agent) (lane a : Nat) (p : State.Place) : AccessKept s (s.switchAccess ag lane a p) := by
  refine AccessKept.ite ?_ (AccessKept.ite True.intro ?_)
  · exact ite (refl s) (net s _)
  · exact net s _

theorem throughLines (s : State) (ag : Agent) (lane fid off : Nat) : AccessKept s (s.throughLines ag lane fid off) := by
  have h := switchAccess s ag lane ((s.frame fid).backing + off) (.remote ((s.frame fid).backing + off))
  unfold State.throughLines State.remoteAccess
  dsimp only
  generalize s.switchAccess ag lane ((s.frame fid).backing + off) (.remote ((s.frame fid).backing + off)) = a at h ⊢
  cases a <;> exact h

theorem arriveAt (s : State) (ag : Agent) (lane : Nat) (p : State.Place) : AccessKept s (s.arriveAt ag lane p) := by
  unfold State.arriveAt
  split
  · exact AccessKept.ite (throughLines s _ _ _ _) (AccessKept.ite (switchAccess s _ _ _ _) (refl s))
  · exact AccessKept.ite (switchAccess s _ _ _ _) (refl s)
  · exact switchAccess s _ _ _ _
  · exact refl s

theorem reach (s : State) (ag : Agent) (lane vpn : Nat) (p : State.Place) (k : AccKind) : AccessKept s (s.reach ag lane vpn p k) := by
  unfold State.reach
  extract_lets x y
  have hy : Kept s y := ite (dropStale s _ _ _) (refl s)
  have h := arriveAt y ag lane x.place
  clear_value y
  refine AccessKept.trans hy ?_
  generalize y.arriveAt ag lane x.place = a at h ⊢
  cases a <;> exact h

theorem reachFrame (s : State) (ag : Agent) (lane vpn fid off : Nat) (k : AccKind) (shared : Bool) :
    AccessKept s (s.reachFrame ag lane vpn fid off k shared) := AccessKept.ite (refl s) (reach s _ _ _ _ _)

theorem beginCollapse (s : State) (t vpn : Nat) : Kept s (s.beginCollapse t vpn) := of_served (Served.beginCollapse s t vpn)

theorem holdWrite (s : State) (ag : Agent) (lane t vpn : Nat) : Kept s (s.holdWrite ag lane t vpn) := ite (refl s) (tables s _)

theorem copyAccess (s : State) (ag : Agent) (lane va : Nat) (c : Cached) (k : AccKind) :
    AccessKept s (s.copyAccess ag lane va c k) := by
  have hheld : ∀ o v, Kept s ((s.beginCollapse o v).holdWrite ag lane o v) := fun o v => (beginCollapse s o v).trans (holdWrite _ _ _ _ _)
  unfold State.copyAccess
  dsimp only
  refine AccessKept.ite (refl s) (AccessKept.ite (hheld _ _) (AccessKept.ite (refl s) ?_))
  split
  · split
    · exact reachFrame s _ _ _ _ _ _ _
    · exact AccessKept.ite (refl s) (AccessKept.ite True.intro (reach s _ _ _ _ _))
  · exact reachFrame s _ _ _ _ _ _ _
  · refine AccessKept.ite (refl s) (AccessKept.ite (AccessKept.ite (hheld _ _) (AccessKept.ite (refl s) ?_)) ?_)
    · split
      · exact reachFrame s _ _ _ _ _ _ _
      · exact refl s
    · split
      · exact reachFrame s _ _ _ _ _ _ _
      · exact reachFrame s _ _ _ _ _ _ _
  · exact AccessKept.ite (refl s) (reach s _ _ _ _ _)

theorem throughCopy (s : State) (ag : Agent) (lane va : Nat) (c : Cached) (k : AccKind) :
    AccessKept s (s.throughCopy ag lane va c k) := by
  have h := copyAccess s ag lane va c k
  unfold State.throughCopy
  generalize s.copyAccess ag lane va c k = a at h ⊢
  cases a with
  | trap x cause => exact h
  | park x => exact h
  | wait x => exact h
  | hole x => exact h
  | _ x p => exact Kept.trans h (ite (tables x _) (refl x))

theorem resolve (s : State) (ag : Agent) (lane : Nat) (va : DWord) (k : AccKind) : AccessKept s (s.resolve ag lane va k) := by
  unfold State.resolve
  split
  · exact refl s
  · rename_i a _
    have hl := lookup s ag.gcore ag.tenant (a / 4096)
    dsimp only
    generalize s.lookup ag.gcore ag.tenant (a / 4096) = r at hl ⊢
    obtain ⟨x, c⟩ := r
    dsimp only at hl ⊢
    cases c with
    | none => exact hl
    | some c =>
      have ht := AccessKept.trans hl (throughCopy x ag lane a c k)
      dsimp only
      generalize x.throughCopy ag lane a c k = b at ht ⊢
      cases b with
      | trap y cause => exact ht
      | park y => exact ht
      | wait y => exact ht
      | hole y => exact ht
      | _ y p =>
        refine AccessKept.ite ?_ ht
        split
        · exact ht
        · exact ht
  · refine AccessKept.ite (refl s) ?_
    split
    · exact refl s
    · exact refl s

/-! ## An access at its place (R216, R219, R229, R414) -/

theorem joinMove (s : State) (wid fid : Nat) : Kept s (s.joinMove wid fid) := tables s _

theorem noteWrite (s : State) (wid : Nat) (p : State.Place) : Kept s (s.noteWrite wid p) := by
  unfold State.noteWrite
  split
  · exact (noteStore s _ _).trans (joinMove _ _ _)
  · exact noteStore s _ _

theorem noteAsked (s : State) (a : Nat) : Kept s (s.noteAsked a) := ite (refl s) (net s _)

theorem remoteRead (s : State) (t cls a n : Nat) : Kept s (s.remoteRead t cls a n).1 := by
  unfold State.remoteRead
  split
  · exact readBytes s a n
  · exact (noteAsked s a).trans (of_served (Served.askHome _ _ _ _ _ _))

theorem remoteWrite (s : State) (t cls a : Nat) (bs : List Byte) : Kept s (s.remoteWrite t cls a bs) := by
  unfold State.remoteWrite
  dsimp only
  have hsent := sendMessage s t cls 0 a bs (pkgOf a)
  generalize s.sendMessage t cls 0 a bs = x at hsent ⊢
  refine (hsent.trans (ite (of_served (Served.noteUncached x _ _)) ?_)).trans (writeBytes _ _ _)
  split
  · exact of_served (Served.countResolved x _ _)
  · exact of_served ((Served.dirHomeWrite x _).trans (Served.countResolved _ _ _))

theorem countHops (s : State) (hops : List Nat) : Kept s (s.countHops hops) := foldl (fun x _ => updFrame x _ _) _ s

theorem touchFrame (s : State) (fid t : Nat) : Kept s (s.touchFrame fid t) := of_served (Served.touchFrame s fid t)

theorem readAt (s : State) (t cls : Nat) (p : State.Place) (n : Nat) : Kept s (s.readAt t cls p n).1 := by
  induction p generalizing s with
  | scratch loc => exact readBytes s _ _
  | hbm a => exact (homeTouch s _ _ _ _).trans (readBytes _ _ _)
  | frame fid off => exact (touchFrame s _ _).trans (of_served (Served.frameRead _ _ _ _ _ _))
  | remote a => exact remoteRead s _ _ _ _
  | forwarded hops p ih => exact (countHops s _).trans (ih _)

theorem writeAt (s : State) (t cls : Nat) (p : State.Place) (bs : List Byte) : Kept s (s.writeAt t cls p bs) := by
  induction p generalizing s with
  | scratch loc => exact writeBytes s _ _
  | hbm a => exact ((preserveShadow s _ _).trans (homeTouch _ _ _ _ _)).trans (writeBytes _ _ _)
  | frame fid off => exact (touchFrame s _ _).trans (of_served (Served.frameWrite _ _ _ _ _ _))
  | remote a => exact (preserveShadow s _ _).trans (remoteWrite _ _ _ _ _)
  | forwarded hops p ih => exact (countHops s _).trans (ih _)

end Kept

end Sys2Proof.Machine
end

section
/-! # Proofs: what issue, retirement and acceptance keep (R53, R99, R108, R111, R262) -/

namespace Sys2Proof.Machine

/-- An outcome that goes on leaves GT, the period and canonical memory. -/
def EndsKept (s : State) (o : Host.Outcome State Fault Refusal) : Prop := ∀ t, o = .next t → Kept s t

namespace EndsKept

theorem next {s t : State} (h : Kept s t) : EndsKept s (.next t) := fun _ ht => by cases ht; exact h

theorem fault (s : State) (f : Fault) : EndsKept s (.fault f) := fun _ ht => by cases ht

theorem ite {p : Prop} [Decidable p] {s : State} {a b : Host.Outcome State Fault Refusal} (ha : EndsKept s a) (hb : EndsKept s b) :
    EndsKept s (if p then a else b) := by
  split
  · exact ha
  · exact hb

theorem trans {s x : State} {o : Host.Outcome State Fault Refusal} (h : Kept s x) (h' : EndsKept x o) : EndsKept s o :=
  fun t ht => h.trans (h' t ht)

end EndsKept

namespace Kept

theorem loft (s : State) (l : Loft) (h : l.period = s.loft.period) : Kept s { s with loft := l } := ⟨id, rfl, h⟩

theorem fst_ite {β : Type} {p : Prop} [Decidable p] {s : State} {a b : State × β} (ha : Kept s a.1) (hb : Kept s b.1) :
    Kept s (if p then a else b).1 := by
  split
  · exact ha
  · exact hb

theorem consume (s : State) (g b : Nat) (addr : DWord) (pcs : List Nat) : Kept s (s.consume g b addr pcs) :=
  (Ended.consume s g b addr pcs).toKept

/-! ## Retirement (R108 to R113) -/

theorem settleParked (s : State) (wid : Nat) : Kept s (s.settleParked wid) := by
  unfold State.settleParked
  dsimp only
  split
  · exact setWarp s _ _
  · exact setWarp s _ _
  · exact refl s

theorem endWarp (s : State) (wid : Nat) : Kept s (s.endWarp wid) := (Ended.endWarp s wid).toKept

theorem retire (s : State) (wid : Nat) (pc : DWord) (word : BitVec 96) (lanes active : LaneMask) (outs : List (Nat × LaneOutcome))
    (flags : FpFlags) (onWarp : Warp → Warp) : Kept s (s.retire wid pc word lanes active outs flags onWarp) :=
  (((updWarp s wid _).trans (Ended.deliverAll _ wid pc word (trapsOf outs)).toKept).trans (settleParked _ wid)).trans (endWarp _ wid)

theorem trapSplit (s : State) (wid : Nat) (pc : DWord) (word : BitVec 96) (lanes : LaneMask) (cause : Nat) (addr : DWord) :
    Kept s (s.trapSplit wid pc word lanes cause addr) := retire s _ _ _ _ _ _ _ _

theorem countIssue (s : State) (wid : Nat) : Kept s (s.countIssue wid) := updWarp s wid _

theorem pause (s : State) (wid : Nat) (e : Entry) : Kept s (s.pause wid e) := updWarp s wid _

theorem enter (s : State) (c : Ctx) (i : Instr) (r : Result) : Kept s (s.enter c i r) := by
  unfold State.enter
  extract_lets e t
  have ht : Kept s t := updWarp s c.wid _
  clear_value t
  exact ht.trans (ite (pause t _ _) (updWarp t _ _))

theorem leaveExtQueue (s : State) (wid : Nat) : Kept s (s.leaveExtQueue wid) := ite (refl s) (updCore s _ _)

theorem setEntry (s : State) (wid n : Nat) (e : Entry) : Kept s (s.setEntry wid n e) := updWarp s wid _

theorem keepEntry (s : State) (wid n : Nat) (e : Entry) : Kept s (s.keepEntry wid n e) := (updWarp s wid _).trans (leaveExtQueue _ wid)

theorem owe (s : State) (wid n : Nat) (i : Instr) (lanes : LaneMask) : Kept s (s.owe wid n i lanes) := by
  unfold State.owe
  exact updWarp s wid _

theorem pauseOldest (s : State) (wid : Nat) (e : Entry) : Kept s (s.pauseOldest wid e) := (updWarp s wid _).trans (pause _ wid e)

theorem retireOldest (s : State) (wid : Nat) (e : Entry) (onWarp : Warp → Warp) : Kept s (s.retireOldest wid e onWarp) := by
  unfold State.retireOldest
  refine ite ?_ ?_
  · exact ((updWarp s wid _).trans (settleParked _ wid)).trans (endWarp _ wid)
  · exact ((updWarp s wid _).trans (leaveExtQueue _ wid)).trans (retire _ _ _ _ _ _ _ _ _)

theorem goOn (s : State) (c : Ctx) (i : Instr) (n : Nat) (wait : Wait) : Kept s (goOn s c i n wait) := by
  unfold Machine.goOn
  exact updWarp s c.wid _

theorem leaveInFlight (s : State) (c : Ctx) (i : Instr) (n : Nat) : Kept s (leaveInFlight s c i n) :=
  (countIssue s c.wid).trans (goOn _ _ _ _ _)

theorem joinExtQueue (s : State) (gcore wid : Nat) : Kept s (joinExtQueue s gcore wid) := ite (refl s) (updCore s _ _)

theorem stepBack (s : State) (c : Ctx) : Kept s (stepBack s c) := updWarp s c.wid _

theorem atIssue (s : State) (c : Ctx) (i : Instr) : Kept s (atIssue s c i) := by
  unfold Machine.atIssue
  split
  · exact stepBack s c
  · exact ite (joinExtQueue s _ _) (refl s)

theorem awaitTurn (s : State) (c : Ctx) (i : Instr) (n : Nat) : Kept s (awaitTurn s c i n) :=
  (atIssue s c i).trans (ite (keepEntry _ _ _ _) (goOn _ _ _ _ _))

/-! ## Instructions (R53, R104, R109) -/

theorem finish {s : State} {r : Result} (h : Kept s r.s) (i : Instr) (c : Ctx) : EndsKept s (finish i c r) := by
  unfold Machine.finish
  split
  · exact EndsKept.fault s _
  · exact EndsKept.next (h.trans (consume _ _ _ _ _))
  · refine EndsKept.ite (EndsKept.next ?_) ?_
    · exact ite h (h.trans ((countIssue _ c.wid).trans (awaitTurn _ _ _ _)))
    · refine EndsKept.ite (EndsKept.next ?_) (EndsKept.next ?_)
      · exact h.trans ((countIssue _ c.wid).trans (retire _ _ _ _ _ _ _ _ _))
      · exact h.trans ((countIssue _ c.wid).trans (enter _ _ _ _))

/-- An instruction that cannot be performed behind others enters the buffer, if it is not there yet. -/
theorem later {s : State} (old : Option Entry) (c : Ctx) (i : Instr) (n : Nat) :
    Kept s (if old.isSome then s else Machine.awaitTurn (s.countIssue c.wid) c i n) :=
  ite (refl s) ((countIssue s c.wid).trans (awaitTurn _ _ _ _))

theorem counted {s : State} (old : Option Entry) (wid : Nat) : Kept s (if old.isNone then s.countIssue wid else s) :=
  ite (countIssue s wid) (refl s)

theorem performBehind {s : State} {body : Ctx → Result} (h : ∀ c, Kept s (body c).s) (i : Instr) (f : Fields) :
    EndsKept s (performBehind i f s body) := by
  unfold Machine.performBehind
  extract_lets w n old src c cnt ltr c' r t e
  have hltr : ∀ x, Kept x (ltr x) := fun x => later old c i n
  have hcnt : ∀ x, Kept x (cnt x) := fun x => counted old c.wid
  clear_value ltr cnt
  split
  · exact EndsKept.next (ite ((hcnt s).trans (retireOldest _ _ _ _)) ((hcnt s).trans (keepEntry _ _ _ _)))
  · have hr : Kept s r.s := h c
    refine EndsKept.ite (EndsKept.next (hltr s)) (EndsKept.ite (EndsKept.next (leaveInFlight s c i n)) (EndsKept.ite (finish hr i c) ?_))
    split
    · exact EndsKept.fault s _
    · exact EndsKept.next (hr.trans (consume _ _ _ _ _))
    · refine EndsKept.ite (EndsKept.next (hr.trans (hltr r.s))) ?_
      have ht : Kept s t := (hr.trans (owe _ _ _ _ _)).trans (hcnt _)
      clear_value t
      exact EndsKept.next (ite (ht.trans (retireOldest _ _ _ _)) (ite (ht.trans (pauseOldest _ _ _)) (ht.trans (keepEntry _ _ _ _))))

/-- Every instruction whose body keeps them. -/
theorem perform {s : State} {body : Ctx → Result} (h : ∀ c, Kept s (body c).s) (i : Instr) (f : Fields) : EndsKept s (perform i f s body) := by
  unfold Machine.perform
  refine EndsKept.ite (performBehind h i f) ?_
  dsimp only
  split
  · exact EndsKept.next ((countIssue s _).trans (trapSplit _ _ _ _ _ _ _))
  · exact finish (h _) i _

theorem performLanes (i : Instr) (f : Fields) (s : State) (lane : Ctx → Nat → List RegWrite) : EndsKept s (performLanes i f s lane) :=
  perform (fun _ => refl s) i f

theorem releasing {s : State} {r : Result} (h : Kept s r.s) (rel : Bool) (c : Ctx) : Kept s (releasing rel c s r).s := by
  unfold Machine.releasing
  split
  · exact refl s
  · exact h

/-! ## The loft's reads and acceptance (R262 to R272) -/

theorem readSectors (s : State) (t cls : Nat) (p : State.Place) (n : Nat) : Kept s (s.readSectors t cls p n).1 := by
  induction n generalizing s p with
  | zero => exact refl s
  | succ n ih => exact (readAt s t cls p 64).trans (ih _ _)

theorem loftRead {s x : State} {t cls va n : Nat} {bs : List Byte} (h : s.loftRead t cls va n = some (x, bs)) : Kept s x := by
  unfold State.loftRead at h
  split at h
  · cases h
  · rename_i p _
    have hr := readSectors s t cls p n
    cases h
    exact hr

theorem readStage (s : State) (who : Enqueuer) (d : BitVec 2048) (i : Nat) (e : StageEntry) : Kept s (readStage s who d i e).1 := by
  unfold Machine.readStage
  dsimp only
  split
  · exact refl s
  · split
    · exact refl s
    · rename_i h
      exact loftRead h

theorem readStages (s : State) (who : Enqueuer) (d : BitVec 2048) (l : List (StageEntry × Nat)) : Kept s (readStages s who d l).1 := by
  induction l generalizing s with
  | nil => exact refl s
  | cons x rest ih => exact (readStage s who d x.2 x.1).trans (ih _)

theorem descriptorStatus (s : State) (who : Enqueuer) (d : BitVec 2048) : Kept s (descriptorStatus s who d).1 := by
  have h := readStages s who d (stageEntries d).zipIdx
  unfold Machine.descriptorStatus
  dsimp only
  generalize Machine.readStages s who d (stageEntries d).zipIdx = r at h ⊢
  exact fst_ite (refl s) (fst_ite (refl s) (fst_ite h (fst_ite h h)))

theorem retain (s : State) (g : Grid) : Kept s (retain s g).1 := loft s _ rfl

theorem setGrid (s : State) (g : Nat) (x : Grid) : Kept s (s.setGrid g x) := loft s _ rfl
theorem updGrid (s : State) (g : Nat) (f : Grid → Grid) : Kept s (s.updGrid g f) := setGrid s g _
theorem setPipeline (s : State) (g : Nat) (x : Pipeline) : Kept s (s.setPipeline g x) := loft s _ rfl
theorem setQueue (s : State) (q : Nat) (x : List Nat) : Kept s (s.setQueue q x) := loft s _ rfl
theorem setBudget (s : State) (t : Nat) (x : Budget) : Kept s (s.setBudget t x) := loft s _ rfl
theorem setTenant (s : State) (t : Nat) (x : Tenant) : Kept s (s.setTenant t x) := loft s _ rfl
theorem setPartition (s : State) (p : Nat) (x : Partition) : Kept s (s.setPartition p x) := loft s _ rfl
theorem setColumn (s : State) (c : Nat) (x : Column) : Kept s (s.setColumn c x) := ⟨id, rfl, rfl⟩

theorem refuse (s : State) (g : Grid) (code : Nat) : Kept s (refuse s g code).1 := setGrid s _ _

theorem addBarriers (s : State) (scope g owner n : Nat) : Kept s (s.addBarriers scope g owner n) := by
  unfold State.addBarriers
  refine foldl (fun x i => ?_) _ s
  exact ⟨id, rfl, rfl⟩

theorem notePods (s : State) : Kept s s.notePods := loft s _ rfl

theorem openPods (s : State) : Kept s s.openPods :=
  (notePods s).trans (foldl (fun x _ => ite (addBarriers x _ _ _ _) (refl x)) _ _)

theorem acceptRecord (s : State) (who : Enqueuer) (r : BitVec 2048) : Kept s (acceptRecord s who r).1 := by
  have hstatus := descriptorStatus s who (ownRecord who r)
  unfold Machine.acceptRecord
  dsimp only
  generalize Machine.descriptorStatus s who (ownRecord who r) = x at hstatus ⊢
  refine fst_ite (fst_ite (hstatus.trans (refuse _ _ _)) (fst_ite (hstatus.trans (refuse _ _ _)) ?_))
    (fst_ite (refuse s _ _) (fst_ite (refuse s _ _) ?_))
  · exact hstatus.trans ((retain _ _).trans (setPipeline _ _ _))
  · exact (retain s _).trans ((setQueue _ _ _).trans (openPods _))

end Kept

end Sys2Proof.Machine
end

section
/-! # Proofs: what the instructions of classes 2 and 3 keep -/

namespace Sys2Proof.Machine

/-- What the checks of an instruction come to leaves GT, the period and canonical memory. -/
def StepKept {β : Type} (s : State) : Except Result (State × β) → Prop
  | .error r => Kept s r.s
  | .ok x => Kept s x.1

namespace Kept

/-! ## Accesses of many bytes (R179, R180, R202) -/

theorem addPiece {s : State} {k : Checked} (h : Kept s k.s) (ag : Agent) (lane : Nat) (a : AccKind) (x : Span) :
    Kept s (Checked.add ag lane a k x).s := by
  have hr := resolve k.s ag lane x.va a
  unfold Checked.add
  generalize k.s.resolve ag lane x.va a = b at hr ⊢
  cases b with
  | hole n => exact h
  | trap y c => exact h.trans hr
  | park y => exact h.trans hr
  | wait y => exact h.trans hr
  | _ y p => exact h.trans hr

theorem checkSpans (s : State) (ag : Agent) (lane : Nat) (k : AccKind) (xs : List Span) : Kept s (checkSpans s ag lane k xs).s :=
  List.foldlRecOn (motive := fun y : Checked => Kept s y.s) (xs.flatMap Span.pieces) (Checked.add ag lane k) (refl s)
    (fun _ h x _ => addPiece h ag lane k x)

theorem readPlaces (s : State) (t cls : Nat) (l : List (Span × State.Place)) : Kept s (readPlaces s t cls l).1 := by
  induction l generalizing s with
  | nil => exact refl s
  | cons x rest ih => exact (readAt s t cls x.2 x.1.len).trans (ih _)

theorem writePlaces (s : State) (t cls : Nat) (l : List (Span × State.Place)) (bs : List Byte) : Kept s (writePlaces s t cls l bs) := by
  induction l generalizing s bs with
  | nil => exact refl s
  | cons x rest ih => exact (writeAt s t cls x.2 _).trans (ih _ _)

theorem settle {s : State} {k : Checked} (h : Kept s k.s) (c : Ctx) (mis outside : Option DWord) : StepKept s (settle c mis outside k) := by
  unfold Machine.settle
  split
  · exact h
  · exact h
  · exact h
  · exact h
  · split
    · exact h
    · exact h

theorem readRows (c : Ctx) (s : State) (cls e n : Nat) (outside : Option DWord) (rows : List RowSpan) :
    StepKept s (readRows c s cls e n outside rows) := by
  have h := settle (checkSpans s c.agent c.low .read (rows.map (·.span))) c (misaligned e rows) outside
  unfold Machine.readRows
  generalize Machine.settle c (misaligned e rows) outside (Machine.checkSpans s c.agent c.low .read (rows.map (·.span))) = x at h ⊢
  cases x with
  | error r => exact h
  | ok y =>
    have hr := Kept.trans h (readPlaces y.1 c.w.tenant cls y.2)
    dsimp only
    generalize Machine.readPlaces y.1 c.w.tenant cls y.2 = z at hr ⊢
    split
    · exact hr
    · exact hr

theorem writeRows (c : Ctx) (s : State) (cls e : Nat) (m : BitVec 256) (places : List (Span × State.Place)) (bytes : Nat → Nat → List Byte) :
    Kept s (writeRows c s cls e m places bytes) := by
  unfold Machine.writeRows
  exact (writePlaces s _ _ _ _).trans (foldl (fun x p => noteWrite x _ _) _ _)

theorem useAnvil (s : State) (gcore cycles : Nat) (memory : Bool) : Kept s (useAnvil s gcore cycles memory) := by
  unfold Machine.useAnvil
  exact (ite (p := memory = true) (fresh s) (refl s)).trans (updCore _ gcore _)

theorem result_ite {p : Prop} [Decidable p] {s : State} {a b : Result} (ha : Kept s a.s) (hb : Kept s b.s) :
    Kept s (if p then a else b).s := by
  split
  · exact ha
  · exact hb

theorem tileDone {s x : State} (h : Kept s x) (c : Ctx) (f : Fields) (flags : FpFlags) (onWarp : Warp → Warp) :
    Kept s (tileDone c f x flags onWarp).s := by
  unfold Machine.tileDone
  dsimp only
  split
  · exact h
  · exact h

theorem performWarp {s : State} {body : Ctx → Result} (h : ∀ c, Kept s (body c).s) (i : Instr) (f : Fields) :
    EndsKept s (performWarp i f s body) := perform (fun c => result_ite (refl s) (h c)) i f

theorem performTile {s : State} {body : Ctx → Result} (h : ∀ c, Kept s (body c).s) (i : Instr) (f : Fields) :
    EndsKept s (performTile i f s body) :=
  perform (fun c => result_ite (refl s) (result_ite (refl s) (result_ite (refl s) (h c)))) i f

/-! ## Class 2 (R187 to R201) -/

theorem execOmset (f : Fields) (s : State) : EndsKept s (execOmset f s) := performWarp (fun _ => refl s) _ f

theorem execOmld (f : Fields) (s : State) : EndsKept s (execOmld f s) := by
  refine performWarp (fun c => ?_) _ f
  dsimp only
  have h := settle (checkSpans s c.agent c.low .read [{ va := c.w.getK (kNo f.sb), len := 32 }]) c
    (if (c.w.getK (kNo f.sb)).toNat % 32 = 0 then none else some (c.w.getK (kNo f.sb))) none
  split
  · rename_i hx
    rw [hx] at h
    exact h
  · rename_i y places hx
    rw [hx] at h
    exact Kept.trans h (readPlaces y _ _ _)

theorem execGidx (f : Fields) (s : State) : EndsKept s (execGidx f s) := performWarp (fun _ => refl s) _ f
theorem execCvdecl (f : Fields) (s : State) : EndsKept s (execCvdecl f s) := performWarp (fun _ => refl s) _ f
theorem execCvsign (f : Fields) (s : State) : EndsKept s (execCvsign f s) := performWarp (fun _ => refl s) _ f

/-- The operands of a product step, once the places of both are checked. -/
theorem productStep (f : Fields) (s : State) (e n : Nat) (c : Ctx) (g : List (List Nat) → List (List Nat) → List Word × FpFlags) :
    Kept s (productStep f s e n c g).s := by
  unfold Machine.productStep
  extract_lets a b members rowsA rowsB outside spans
  have h := settle (checkSpans s c.agent c.low .read spans) c (misaligned e (rowsA ++ rowsB)) outside
  clear_value a b members rowsA rowsB outside spans
  split
  · rename_i hx
    rw [hx] at h
    exact h
  · rename_i x _ hx
    rw [hx] at h
    have hA := readRows c x (x.classOf c.w) e n none rowsA
    split
    · rename_i hy
      rw [hy] at hA
      exact Kept.trans h hA
    · rename_i y _ hy
      rw [hy] at hA
      have hB := readRows c y (y.classOf c.w) e n none rowsB
      split
      · rename_i hz
        rw [hz] at hB
        exact Kept.trans h (Kept.trans hA hB)
      · rename_i z _ hz
        rw [hz] at hB
        exact tileDone ((Kept.trans h (Kept.trans hA hB)).trans (useAnvil z _ _ _)) c f _ _

theorem execMma8 (f : Fields) (s : State) : EndsKept s (execMma8 f s) := performTile (fun c => productStep f s 1 128 c tileE4m3) _ f
theorem execMmah (f : Fields) (s : State) : EndsKept s (execMmah f s) := performTile (fun c => productStep f s 2 64 c _) _ f
theorem execMmab (f : Fields) (s : State) : EndsKept s (execMmab f s) := performTile (fun c => productStep f s 2 64 c _) _ f
theorem execMmai (f : Fields) (s : State) : EndsKept s (execMmai f s) := performTile (fun c => productStep f s 1 128 c tileInt8) _ f

theorem execSacc (f : Fields) (s : State) : EndsKept s (execSacc f s) := by
  refine performTile (fun c => ?_) _ f
  have h := readRows c s (s.classOf c.w) 3 1 none (mapSpans (mapA c.w f) 3 1)
  split
  · rename_i hx
    rw [hx] at h
    exact h
  · rename_i x _ hx
    rw [hx] at h
    exact tileDone (Kept.trans h (useAnvil x _ _ _)) c f _ _

theorem execIacc (f : Fields) (s : State) : EndsKept s (execIacc f s) := performTile (fun c => tileDone (useAnvil s _ _ _) c f _ _) _ f
theorem execAccz (f : Fields) (s : State) : EndsKept s (execAccz f s) := performTile (fun c => tileDone (useAnvil s _ _ _) c f _ _) _ f
theorem execAccmov (f : Fields) (s : State) : EndsKept s (execAccmov f s) := performTile (fun c => tileDone (useAnvil s _ _ _) c f _ _) _ f

theorem execAccld (f : Fields) (s : State) : EndsKept s (execAccld f s) := by
  refine performTile (fun c => ?_) _ f
  have h := readRows c s (s.classOf c.w) 4 64 none (mapSpans (mapA c.w f) 4 64)
  split
  · rename_i hx
    rw [hx] at h
    exact h
  · rename_i x _ hx
    rw [hx] at h
    exact tileDone (Kept.trans h (useAnvil x _ _ _)) c f _ _

theorem execAccst (f : Fields) (s : State) : EndsKept s (execAccst f s) := by
  refine performTile (fun c => ?_) _ f
  have h := settle (checkSpans s c.agent c.low .write ((mapSpans (mapA c.w f) 4 64).map (·.span))) c
    (misaligned 4 (mapSpans (mapA c.w f) 4 64)) none
  dsimp only
  split
  · rename_i hx
    rw [hx] at h
    exact h
  · rename_i x places hx
    rw [hx] at h
    exact tileDone ((Kept.trans h (writeRows c x _ _ _ places _)).trans (useAnvil _ _ _ _)) c f _ _

theorem execDrain (f : Fields) (s : State) : EndsKept s (execDrain f s) := by
  refine performTile (fun c => ?_) _ f
  dsimp only
  have h := settle (checkSpans s c.agent c.low .engineWrite ((mapSpans (mapA c.w f) (drainBytes (Map.fmt (mapA c.w f))) 64).map (·.span))) c
    (misaligned (drainBytes (Map.fmt (mapA c.w f))) (mapSpans (mapA c.w f) (drainBytes (Map.fmt (mapA c.w f))) 64)) none
  split
  · rename_i hx
    rw [hx] at h
    exact h
  · rename_i x places hx
    rw [hx] at h
    split
    · exact h
    · split
      · exact tileDone h c f _ _
      · exact tileDone ((Kept.trans h (writeRows c x _ _ _ places _)).trans (useAnvil _ _ _ _)) c f _ _

theorem resolveAddend (s : State) (ag : Agent) (va : DWord) : AccessKept s (resolveAddend s ag va) := by
  unfold Machine.resolveAddend
  split
  · rename_i a _
    have hl := lookup s ag.gcore ag.tenant (a / 4096)
    dsimp only
    generalize s.lookup ag.gcore ag.tenant (a / 4096) = r at hl ⊢
    obtain ⟨x, c⟩ := r
    dsimp only at hl ⊢
    refine AccessKept.trans hl ?_
    cases c with
    | none => exact refl x
    | some c =>
      refine AccessKept.ite (refl x) ?_
      split
      · exact refl x
      · refine AccessKept.ite (refl x) (AccessKept.ite ?_ (AccessKept.ite (refl x) (refl x)))
        have ht := throughCopy x ag 0 a c .engineWrite
        generalize x.throughCopy ag 0 a c .engineWrite = b at ht ⊢
        cases b with
        | trap y cause => exact ht
        | park y => exact ht
        | wait y => exact ht
        | hole y => exact ht
        | _ y p =>
          dsimp only
          split
          · exact AccessKept.ite ht ht
          · exact ht
  · split
    · exact refl s
    · exact refl s

theorem addAddend {s : State} {k : Checked} (h : Kept s k.s) (ag : Agent) (x : Span) : Kept s (addAddend ag k x).s := by
  have hr := resolveAddend k.s ag x.va
  unfold Machine.addAddend
  generalize Machine.resolveAddend k.s ag x.va = b at hr ⊢
  cases b with
  | hole n => exact h
  | trap y c => exact h.trans hr
  | park y => exact h.trans hr
  | wait y => exact h.trans hr
  | _ y p => exact h.trans hr

/-- Addends are sent. -/
theorem sentAddends (s : State) (l : List Addend) (n : Nat) :
    Kept s { s with mem := { s.mem with addends := l }, loft := { s.loft with nextSerial := n } } := ⟨id, rfl, rfl⟩

theorem execDraina (f : Fields) (s : State) : EndsKept s (execDraina f s) := by
  refine performTile (fun c => ?_) _ f
  extract_lets m rows elems spans k
  have hk : Kept s k.s := List.foldlRecOn (motive := fun y : Checked => Kept s y.s) spans (Machine.addAddend c.agent) (refl s)
    (fun _ h x _ => addAddend h c.agent x)
  have h := settle (k := { k with places := k.places.reverse }) hk c (misaligned 4 rows) none
  clear_value m rows elems spans k
  split
  · rename_i hx
    rw [hx] at h
    exact h
  · rename_i x places hx
    rw [hx] at h
    dsimp only
    split
    · exact h
    · exact tileDone ((Kept.trans h (sentAddends x _ _)).trans (useAnvil _ _ _ _)) c f _ _

/-! ## Lanes of class 3 (R224, R225) -/

theorem checkLane (s : State) (c : Ctx) (k : AccKind) (align : Nat) (va : DWord) (l : Nat) : Kept s (checkLane s c k align va l).1 := by
  have hr := resolve s c.agent l va k
  unfold Machine.checkLane
  refine fst_ite (refl s) ?_
  generalize s.resolve c.agent l va k = b at hr ⊢
  cases b with
  | hole n => exact refl s
  | trap y c => exact hr
  | park y => exact hr
  | wait y => exact hr
  | _ y p => exact hr

theorem checkLanes (s : State) (c : Ctx) (k : AccKind) (align : Nat) (f : Fields) (ls : List Nat) : Kept s (checkLanes s c k align f ls).1 := by
  induction ls generalizing s with
  | nil => exact refl s
  | cons l ls ih => exact (checkLane s c k align _ l).trans (ih _)

theorem stampSc (s : State) (wid : Nat) (p : State.Place) : Kept s (stampSc s wid p) := ⟨id, rfl, rfl⟩

theorem stampIf (sc : Bool) (s : State) (wid : Nat) (p : State.Place) : Kept s (stampIf sc s wid p) := ite (stampSc s wid p) (refl s)

/-- The lanes that pass their checks, where what each does keeps. -/
theorem performPlaces {s : State} {act : State → Nat → State.Place → State × List RegWrite × Bool}
    (hact : ∀ x l p, Kept x (act x l p).1) (c : Ctx) (f : Fields) {p : Performed} (h : Kept s p.s) (xs : List (Nat × LaneAccess)) :
    Kept s (performPlaces c f act p xs).s := by
  induction xs generalizing p with
  | nil => exact h
  | cons x xs ih =>
    obtain ⟨l, x⟩ := x
    unfold Machine.performPlaces
    refine ih ?_
    cases x with
    | trap cause => exact h
    | park => exact h
    | wait => exact h
    | hole a => exact h
    | _ place => exact h.trans (hact p.s l place)

theorem accessLanes {act : State → Nat → State.Place → State × List RegWrite × Bool} (hact : ∀ x l p, Kept x (act x l p).1)
    (c : Ctx) (s : State) (f : Fields) (k : AccKind) (align : Nat) : Kept s (accessLanes c s f k align act).s := by
  have h := checkLanes s c k align f c.active.lanes
  unfold Machine.accessLanes
  dsimp only
  generalize Machine.checkLanes s c k align f c.active.lanes = r at h ⊢
  split
  · exact h
  · exact performPlaces hact c f (p := { s := r.1 }) h r.2

theorem storePlace (c : Ctx) (s : State) (sc : Bool) (p : State.Place) (n x : Nat) : Kept s (storePlace c s sc p n x) :=
  ((writeAt s _ _ p _).trans (stampIf sc _ _ _)).trans (noteWrite _ _ _)

theorem loadLanes (c : Ctx) (s : State) (f : Fields) : Kept s (loadLanes c s f).s :=
  accessLanes (fun x _ p => (readAt x _ _ p _).trans (stampIf _ _ _ _)) c s f .read _

theorem execLd (f : Fields) (s : State) : EndsKept s (execLd f s) := perform (fun c => loadLanes c s f) _ f

theorem storeBody (c : Ctx) (s : State) (f : Fields) : Kept s (storeBody c s f).s := by
  have h := checkLanes s c .write (sizeBytes f.size) f c.active.lanes
  unfold Machine.storeBody
  dsimp only
  generalize Machine.checkLanes s c .write (sizeBytes f.size) f c.active.lanes = r at h ⊢
  split
  · exact h
  · split
    · exact h
    · exact performPlaces (fun x _ p => storePlace c x _ p _ _) c f (p := { s := r.1 }) h r.2

theorem stLanes (c : Ctx) (s : State) (f : Fields) : Kept s (stLanes c s f).s := releasing (storeBody c s f) _ c

theorem execSt (f : Fields) (s : State) : EndsKept s (execSt f s) := perform (fun c => stLanes c s f) _ f

theorem serveFull (s : State) (wid : Nat) (f : Fields) (p : Nat) : Kept s (serveFull s wid f p).1 :=
  (readBytes s p _).trans (ite (refl _) ((setFull _ _ _).trans (noteStore _ _ _)))

/-- A lane waits at a granule. -/
theorem queued (s : State) (q : List FeRequest) : Kept s { s with mem := { s.mem with feQueue := q } } := ⟨id, rfl, rfl⟩

theorem ldfeLanes {s : State} (c : Ctx) (f : Fields) {p : Performed} (h : Kept s p.s) (ls : List Nat) :
    Kept s (ldfeLanes c f p ls).s := by
  induction ls generalizing p with
  | nil => exact h
  | cons l ls ih =>
    unfold Machine.ldfeLanes
    refine ih ?_
    dsimp only
    split
    · split
      · exact h.trans (serveFull p.s c.wid f _)
      · exact h.trans (queued p.s _)
    · exact h
    · exact h

theorem execLdfe (f : Fields) (s : State) : EndsKept s (execLdfe f s) :=
  perform (fun c => ldfeLanes c f (p := { s }) (refl s) c.active.lanes) _ f

theorem raiseFull (s : State) (p : Nat) : Kept s (s.raiseFull p) := (Ended.raiseFull s p).toKept

theorem stfeLanes (c : Ctx) (s : State) (f : Fields) : Kept s (stfeLanes c s f).s := by
  unfold Machine.stfeLanes
  refine releasing ?_ _ _
  exact performPlaces (fun x _ p => (storePlace c x _ p _ _).trans (raiseFull _ _)) c f (p := { s }) (refl s) _

theorem execStfe (f : Fields) (s : State) : EndsKept s (execStfe f s) := perform (fun c => stfeLanes c s f) _ f

theorem feclrLanes (c : Ctx) (s : State) (f : Fields) : Kept s (feclrLanes c s f).s := by
  unfold Machine.feclrLanes
  refine List.foldlRecOn (motive := fun y : Performed => Kept s y.s) c.active.lanes _ (refl s) (fun p h l _ => ?_)
  dsimp only
  split
  · exact h
  · split
    · exact h
    · split
      · exact h
      · exact h.trans ((foldl (fun x g => setFull x g false) _ p.s).trans (noteStore _ _ _))

theorem execFeclr (f : Fields) (s : State) : EndsKept s (execFeclr f s) := perform (fun c => feclrLanes c s f) _ f

theorem rmwPlace (c : Ctx) (s : State) (sc : Bool) (p : State.Place) (n : Nat) (g : Nat → Option Nat) : Kept s (rmwPlace c s sc p n g).1 := by
  have h := readAt s c.w.tenant (s.classOf c.w) p n
  unfold Machine.rmwPlace
  dsimp only
  generalize s.readAt c.w.tenant (s.classOf c.w) p n = r at h ⊢
  split
  · exact h.trans (storePlace _ _ _ _ _ _)
  · exact h.trans (stampIf _ _ _ _)

theorem atomLanes (c : Ctx) (s : State) (f : Fields) : Kept s (atomLanes c s f).s :=
  releasing (accessLanes (fun x _ p => rmwPlace c x _ p _ _) c s f .rmw _) _ c

theorem execAtom (f : Fields) (s : State) : EndsKept s (execAtom f s) := perform (fun c => atomLanes c s f) _ f

theorem redLanes (c : Ctx) (s : State) (f : Fields) : Kept s (redLanes c s f).s :=
  releasing (accessLanes (fun x _ p => rmwPlace c x _ p _ _) c s f .write _) _ c

theorem execRed (f : Fields) (s : State) : EndsKept s (execRed f s) := perform (fun c => redLanes c s f) _ f

theorem acasLanes (c : Ctx) (s : State) (f : Fields) : Kept s (acasLanes c s f).s :=
  releasing (accessLanes (fun x _ p => rmwPlace c x _ p _ _) c s f .rmw _) _ c

theorem execAcas (f : Fields) (s : State) : EndsKept s (execAcas f s) := perform (fun c => acasLanes c s f) _ f

theorem execFence (f : Fields) (s : State) : EndsKept s (execFence f s) := by
  refine perform (fun c => result_ite (refl s) (result_ite (refl s) (refl s))) _ f

theorem execPref (f : Fields) (s : State) : EndsKept s (execPref f s) := performLanes _ f s _

end Kept

end Sys2Proof.Machine
end

section
/-! # Proofs: what the gleaner's switches, the engines and the accesses in flight keep -/

namespace Sys2Proof.Machine

/-- What a walk comes to leaves GT, the period and canonical memory. -/
def WalkKept (s : State) : State.WalkResult → Prop
  | .handed x => Kept s x
  | _ => True

/-- What an engine's check finds leaves GT, the period and canonical memory. -/
def CheckKept (s : State) : State.EngineCheck → Prop
  | .passed x => Kept s x
  | .held x => Kept s x
  | .faulted x _ => Kept s x
  | .hole _ => True

theorem CheckKept.trans {s x : State} {a : State.EngineCheck} (h : Kept s x) (h' : CheckKept x a) : CheckKept s a := by
  cases a with
  | passed y => exact Kept.trans h h'
  | held y => exact Kept.trans h h'
  | faulted y c => exact Kept.trans h h'
  | hole n => exact True.intro

theorem CheckKept.ite {p : Prop} [Decidable p] {s : State} {a b : State.EngineCheck} (ha : CheckKept s a) (hb : CheckKept s b) :
    CheckKept s (if p then a else b) := by
  split
  · exact ha
  · exact hb

/-- An address that an engine resolves. -/
def PlaceKept (s : State) : State.EngineCheck ⊕ State × State.Place → Prop
  | .inl r => CheckKept s r
  | .inr x => Kept s x.1

namespace Kept

/-! ## Walks (R326, R327) -/

theorem handOut (s : State) (gcore leaf : Nat) (w0 : DWord) (c : Cached) : Kept s (s.handOut gcore leaf w0 c) := by
  unfold State.handOut
  exact ((updDie s _ _).trans (updCore _ gcore _)).trans (of_served (Served.raiseHorizon _ _ _ _ _ _))

theorem completeWalk (s : State) (gcore t va : Nat) : WalkKept s (s.completeWalk gcore t va) := by
  have hc : Kept s (s.checkWalk t va) := checkWalk s t va
  unfold State.completeWalk
  dsimp only
  generalize s.checkWalk t va = x at hc ⊢
  have hout : ∀ a w0 c, Kept s (x.handOut gcore a w0 c) := fun a w0 c => hc.trans (handOut x gcore a w0 c)
  split
  · exact True.intro
  · exact True.intro
  · exact True.intro
  · split
    · exact True.intro
    · split
      · split
        · split
          · split
            · exact True.intro
            · exact hc.trans ((of_served (Served.raiseHorizon _ _ _ _ _ _)).trans (handOut _ _ _ _ _))
          · exact hout _ _ _
        · exact True.intro
      · split
        · split
          · exact hout _ _ _
          · exact True.intro
        · split
          · exact True.intro
          · exact hout _ _ _

/-! ## The gleaner's operations (R331 to R334) -/

theorem freeFrame (s : State) (fid : Nat) : Kept s (s.freeFrame fid) := of_served (Served.freeFrame s fid)
theorem dropMove (s : State) (t vpn : Nat) : Kept s (s.dropMove t vpn) := tables s _
theorem dropSet (s : State) (t vpn : Nat) : Kept s (s.dropSet t vpn) := tables s _
theorem giveBack (s : State) (fid horizon : Nat) : Kept s (s.giveBack fid horizon) := of_served (Served.giveBack s fid horizon)
theorem freePassed (s : State) (fid : Nat) : Kept s (s.freePassed fid) := of_served (Served.freePassed s fid)
theorem freeAllPassed (s : State) : Kept s s.freeAllPassed := of_served (Served.freeAllPassed s)
theorem releaseFrame (s : State) (fid : Nat) : Kept s (s.releaseFrame fid) := of_served (Served.releaseFrame s fid)

theorem settleWriters (s : State) (m : Move) : Kept s (s.settleWriters m) := foldl (fun x _ => ite (noteStore x _ _) (refl x)) _ s

theorem abandon (s : State) (m : Move) : Kept s (s.abandon m) := by
  unfold State.abandon
  refine ite (refl s) ?_
  dsimp only
  refine ((settleWriters s m).trans ?_).trans ((foldl (fun x f => freeFrame x f) _ _).trans (dropMove _ _ _))
  split
  · exact (giveBack _ _ _).trans (freePassed _ _)
  · exact refl _

theorem switchMove (s : State) (m : Move) : Kept s (s.switchMove m) := by
  unfold State.switchMove
  refine ite (refl s) ?_
  split
  · rename_i a fid _ _ _
    dsimp only
    refine ((settleWriters s m).trans ?_).trans (((updFrame _ fid _).trans (setRaw64 _ _ _)).trans (dropMove _ _ _))
    split
    · exact ((of_served (Served.copyFrame _ _ _)).trans (ite (of_served (Served.moveLines _ _ _)) (refl _))).trans (updFrame _ _ _)
    · exact ite (tables _ _) (refl _)
  · exact abandon s m

theorem switchEvict (s : State) (m : Move) : Kept s (s.switchEvict m) := by
  unfold State.switchEvict
  refine ite (refl s) ?_
  split
  · exact (((settleWriters s m).trans (giveBack _ _ _)).trans (setRaw64 _ _ _)).trans (dropMove _ _ _)
  · exact abandon s m

theorem abandonSet (s : State) (m : Move) : Kept s (s.abandonSet m) :=
  (abandon s m).trans (ite (refl _) (dropSet _ _ _))

theorem switchReplicate (s : State) (m : Move) : Kept s (s.switchReplicate m) := by
  unfold State.switchReplicate
  split
  · exact ((foldl (fun x f => updFrame x f _) _ s).trans (setRaw64 _ _ _)).trans (dropMove _ _ _)
  · exact abandonSet s m

theorem finishCollapse (s : State) (m : Move) : Kept s (s.finishCollapse m) := by
  unfold State.finishCollapse
  split
  · exact (((setRaw64 s _ _).trans (foldl (fun x f => freeFrame x f) _ _)).trans (dropSet _ _ _)).trans (dropMove _ _ _)
  · exact abandonSet s m

/-! ## Engines (R286 to R291) -/

theorem updEngine (s : State) (id : Nat) (f : Engine → Engine) : Kept s (s.updEngine id f) := by
  unfold State.updEngine
  exact ite (updCore s _ _) (updDie s _ _)

theorem updBlock (s : State) (g b : Nat) (f : Block → Block) : Kept s (s.updBlock g b f) := (Ended.updBlock s g b f).toKept

theorem nextSerial (s : State) (n : Nat) : Kept s { s with loft := { s.loft with nextSerial := n } } := loft s _ rfl

theorem acceptKick (s : State) (id wid : Nat) (pc va : DWord) (n lane : Nat) : Kept s (s.acceptKick id wid pc va n lane) := by
  unfold State.acceptKick
  exact ((nextSerial s _).trans (updEngine _ _ _)).trans (updBlock _ _ _ _)

theorem kickLane (s : State) (id wid : Nat) (pc va : DWord) (n lane : Nat) : Kept s (s.kickLane id wid pc va n lane).1 := by
  unfold State.kickLane
  split
  · exact refl s
  · exact fst_ite (refl s) (fst_ite (refl s) (acceptKick s _ _ _ _ _ _))

theorem kickLanes (s : State) (id wid : Nat) (pc : DWord) (va : Nat → DWord) (n : Nat → Nat) (ls : List Nat) :
    Kept s (s.kickLanes id wid pc va n ls).1 := by
  induction ls generalizing s with
  | nil => exact refl s
  | cons l ls ih =>
    have h := kickLane s id wid pc (va l) (n l) l
    unfold State.kickLanes
    split
    · rename_i x o hx
      rw [hx] at h
      exact Kept.trans h (ih x)
    · rename_i x hx
      rw [hx] at h
      exact h

theorem dropWarp (s : State) (wid : Nat) : Kept s (s.dropWarp wid) := warps s _

theorem startClearing (s : State) (g b : Nat) : Kept s (s.startClearing g b) := (Ended.startClearing s g b).toKept

theorem leaveRequest (s : State) (id : Nat) (r : Request) (gone : Nat) : Kept s (s.leaveRequest id r gone) := by
  unfold State.leaveRequest
  exact (((updEngine s _ _).trans (updBlock _ _ _ _)).trans ((updBlock _ _ _ _).trans (startClearing _ _ _))).trans
    (ite (foldl (fun x wid => dropWarp x wid) _ _) (refl _))

theorem pushRecord (s : State) (wid : Nat) (r : RecordFields) : Kept s (s.pushRecord wid r) := (Ended.pushRecord s wid r).toKept

theorem logFaults (s : State) (t : Nat) (rs : List TrapRecord) : Kept s (s.logFaults t rs) := loft s _ rfl

theorem engineRecord (s : State) (r : Request) (cause : Nat) : Kept s (s.engineRecord r cause) := by
  unfold State.engineRecord
  exact ite (pushRecord s _ _) ((logFaults s _ _).trans (setWarp _ _ _))

theorem faultRequest (s : State) (id : Nat) (r : Request) (cause : Nat) : Kept s (s.faultRequest id r cause) := by
  unfold State.faultRequest
  exact ((updEngine s _ _).trans (engineRecord _ _ _)).trans ((updBlock _ _ _ _).trans (leaveRequest _ _ _ _))

theorem fetchRequest (s : State) (id : Nat) : Kept s (s.fetchRequest id) := by
  unfold State.fetchRequest
  dsimp only
  split
  · exact refl s
  · rename_i k rest _
    refine ite (refl s) ?_
    have hn := nextSerial s (s.loft.nextSerial + 1)
    generalize ({ s with loft := { s.loft with nextSerial := s.loft.nextSerial + 1 } } : State) = x at hn ⊢
    split
    · exact hn
    · rename_i loc _
      have hr := hn.trans (readBytes x loc.phys 64)
      generalize x.readBytes loc.phys 64 = y at hr ⊢
      refine ite (hr.trans (consume _ _ _ _ _)) ?_
      exact (hr.trans (updEngine _ _ _)).trans (ite (refl _) (faultRequest _ _ _ _))

theorem PlaceKept_trans {s x : State} {a : State.EngineCheck ⊕ State × State.Place} (h : Kept s x) (h' : PlaceKept x a) : PlaceKept s a := by
  cases a with
  | inl r => exact CheckKept.trans h h'
  | inr y => exact Kept.trans h h'

theorem engineAccess (s : State) (ag : Agent) (va : DWord) (k : AccKind) : PlaceKept s (s.engineAccess ag va k) := by
  have h := resolve s ag 0 va k
  unfold State.engineAccess
  dsimp only
  generalize s.resolve ag 0 va k = a at h ⊢
  cases a with
  | park x =>
    refine PlaceKept_trans h ?_
    have hw := completeWalk x ag.gcore ag.tenant (va.toNat % 2 ^ 56)
    dsimp only
    generalize x.completeWalk ag.gcore ag.tenant (va.toNat % 2 ^ 56) = w at hw ⊢
    cases w with
    | handed y =>
      refine PlaceKept_trans hw ?_
      have hy := resolve y ag 0 va k
      dsimp only
      generalize y.resolve ag 0 va k = a at hy ⊢
      cases a <;> exact hy
    | waits => exact refl x
    | noMapping => exact refl x
    | permission => exact refl x
    | hole n => exact True.intro
  | trap x c => exact h
  | wait x => exact h
  | hole n => exact h
  | _ x p => exact h

theorem checkPieces (s : State) (ag : Agent) (l : List (DWord × DWord × Nat)) : CheckKept s (s.checkPieces ag l) := by
  induction l generalizing s with
  | nil => exact refl s
  | cons p rest ih =>
    obtain ⟨a, b, n⟩ := p
    have ha := engineAccess s ag a .engineRead
    unfold State.checkPieces
    split
    · rename_i hx
      rw [hx] at ha
      exact ha
    · rename_i x _ hx
      rw [hx] at ha
      have hb := engineAccess x ag b .engineWrite
      split
      · rename_i hy
        rw [hy] at hb
        exact CheckKept.trans ha hb
      · rename_i y _ hy
        rw [hy] at hb
        exact CheckKept.trans ha (CheckKept.trans hb (ih y))

theorem checkRequest (s : State) (r : Request) : CheckKept s (s.checkRequest r) :=
  CheckKept.ite (refl s) (CheckKept.ite (refl s) (CheckKept.ite (refl s) (CheckKept.ite (refl s) (checkPieces s _ _))))

theorem setRequest (s : State) (id : Nat) (r : Request) : Kept s (s.setRequest id r) := updEngine s id _

theorem countBytes (s : State) (p : Nat) (n : Int) : Kept s (s.countBytes p n).1 := by
  have h := readBytes s p 16
  unfold State.countBytes
  dsimp only
  generalize s.readBytes p 16 = r at h ⊢
  exact fst_ite h (by dsimp only; exact h.trans (writeBytes _ _ _))

theorem fillGranules (s : State) (ag : Agent) (left : List (DWord × DWord × Nat)) (loc : Loc) (va : DWord) (n : Nat) :
    Kept s (s.fillGranules ag left loc va n) := foldl (fun x _ => ite (refl x) (raiseFull x _)) _ s

theorem chooseNext (s : State) (r : Request) : Kept s (s.chooseNext r).1 := by
  unfold State.chooseNext
  exact fst_ite (refl s) (fresh s)

theorem setSyndrome (s : State) (p : Nat) (x : Word) : Kept s (s.setSyndrome p x) := of_served (Served.setSyndrome s p x)
theorem poison (s : State) (p n : Nat) : Kept s (s.poison p n) := of_served (Served.poison s p n)

theorem writePiece (s : State) (t cls : Nat) (dst : State.Place) (bs : List Byte) (b : DWord)
    (pieces left spoiled : List (DWord × DWord × Nat)) : Kept s (s.writePiece t cls dst bs b pieces left spoiled) := by
  unfold State.writePiece
  exact ((ite (setSyndrome s _ _) (refl s)).trans (writeAt _ _ _ _ _)).trans
    (ite (poison _ _ _) (ite (refl _) (ite (ite (setSyndrome _ _ _) (refl _)) (setSyndrome _ _ _))))

theorem copyPiece (s : State) (id : Nat) (r : Request) : CheckKept s (s.copyPiece id r) := by
  have hchosen := chooseNext s r
  unfold State.copyPiece
  extract_lets ag cls pieces
  generalize s.chooseNext r = x at hchosen ⊢
  refine CheckKept.trans hchosen ?_
  obtain ⟨x, i⟩ := x
  dsimp -zeta only
  generalize pieces.getD (r.todo.getD i 0) (0, 0, 0) = piece
  obtain ⟨a, b, n⟩ := piece
  dsimp -zeta only
  have hsrc := engineAccess x ag a .engineRead
  split
  · rename_i hy
    rw [hy] at hsrc
    exact hsrc
  · rename_i y src hy
    rw [hy] at hsrc
    refine CheckKept.trans hsrc ?_
    have hdst := engineAccess y ag b .engineWrite
    split
    · rename_i hz
      rw [hz] at hdst
      exact hdst
    · rename_i z dst hz
      rw [hz] at hdst
      have hread := readAt z ag.tenant cls src n
      generalize z.readAt ag.tenant cls src n = d at hread ⊢
      refine CheckKept.trans hdst (CheckKept.trans hread ?_)
      obtain ⟨d, bs, bad⟩ := d
      dsimp -zeta only
      extract_lets r' u v w q
      have hw : Kept d w := ((writePiece d _ _ _ _ _ _ _ _).trans (ite (updCore _ _ _) (refl _))).trans (setRequest _ _ _)
      clear_value w
      have hq : Kept w q := by
        cases dst with
        | scratch loc => exact ite (fillGranules _ _ _ _ _ _) (refl _)
        | hbm a => exact refl w
        | frame f a => exact refl w
        | remote a => exact refl w
        | forwarded l p => exact refl w
      clear_value q
      refine CheckKept.trans (hw.trans hq) ?_
      split
      · exact refl q
      · rename_i o _
        have hc := countBytes q o.phys n
        split
        · rename_i y hy
          rw [hy] at hc
          exact hc
        · rename_i y hy
          rw [hy] at hc
          exact Kept.trans hc (consume _ _ _ _ _)

theorem advanceRequest (s : State) (id : Nat) (r : Request) : EndsKept s (s.advanceRequest id r) := by
  unfold State.advanceRequest
  extract_lets x
  have hx : CheckKept s x := by
    refine CheckKept.ite ?_ (CheckKept.ite (refl s) (copyPiece s id r))
    have h := checkRequest s r
    generalize s.checkRequest r = y at h ⊢
    cases y with
    | passed y => exact Kept.trans h (setRequest y id _)
    | held y => exact h
    | faulted y c => exact h
    | hole n => exact True.intro
  clear_value x
  cases x with
  | passed y => exact EndsKept.next hx
  | held y => exact EndsKept.next hx
  | faulted y c => exact EndsKept.next (Kept.trans hx (faultRequest y id r c))
  | hole n => exact EndsKept.fault s _

theorem publishPages (s : State) (t : Nat) (vs : List Nat) : Kept s (s.publishPages t vs).1 := of_served (Served.publishPages s t vs)

theorem completeRequest (s : State) (id : Nat) (r : Request) : Kept s (s.completeRequest id r) := by
  unfold State.completeRequest
  exact ite (refl s) (ite (leaveRequest s id r 1) (ite (faultRequest s id r _) (ite (refl s) ((publishPages s _ _).trans (leaveRequest _ id r 1)))))

theorem noCurrent (s : State) : Kept s { s with cur := {} } := ⟨id, rfl, rfl⟩

theorem engineStep (s : State) (id serial : Nat) : EndsKept s (s.engineStep id serial) := by
  unfold State.engineStep
  extract_lets x
  have hx : Kept s x := noCurrent s
  clear_value x
  refine EndsKept.trans hx (EndsKept.ite (EndsKept.next (fetchRequest x id)) ?_)
  split
  · exact advanceRequest x id _
  · exact EndsKept.next (refl x)

theorem engineComplete (s : State) (id serial : Nat) : Kept s (s.engineComplete id serial) := by
  unfold State.engineComplete
  split
  · exact completeRequest s id _
  · exact refl s

end Kept

end Sys2Proof.Machine
end

section
/-! # Proofs: what barriers, byte counts and accesses left in flight keep -/

namespace Sys2Proof.Machine

namespace Kept

/-! ## Barriers, byte counts and GTRD (R378 to R388) -/

theorem completePhase (s : State) (id : Nat) : Kept s (s.completePhase id) := (Ended.completePhase s id).toKept
theorem arrive (s : State) (id wid : Nat) (counted : Option Nat) (pend : Bool) : Kept s (s.arrive id wid counted pend).1 :=
  (Ended.arrive s id wid counted pend).toKept

theorem dropNote (s : State) (c : Ctx) (b : Barrier) : Kept s (dropNote s c b) := updWarp s c.wid _

theorem barrierInstr (i : Instr) (f : Fields) (s : State) (target : Ctx → Option Nat) : EndsKept s (barrierInstr i f s target) := by
  refine performWarp (fun c => ?_) i f
  split
  · exact refl s
  · rename_i b _
    split
    · exact refl s
    · extract_lets x c' y t
      have hx : Kept s x := completePhase s b.id
      have hy : Kept x y := dropNote x c' b
      clear_value y t x c'
      split
      refine hx.trans (releasing ?_ _ c')
      rename_i counted pend _
      have harr : Kept y (if State.arrives i then y.arrive b.id c'.wid counted pend else (y, counted, pend)).1 :=
        fst_ite (arrive y _ _ _ _) (refl y)
      generalize (if State.arrives i then y.arrive b.id c'.wid counted pend else (y, counted, pend)) = z at harr ⊢
      obtain ⟨z, counted, pend⟩ := z
      have hz := hy.trans (harr.trans (completePhase z b.id))
      dsimp only at hz ⊢
      split
      · exact hz
      · exact hz

theorem execBara (f : Fields) (s : State) : EndsKept s (execBara f s) := barrierInstr _ f s _
theorem execBarw (f : Fields) (s : State) : EndsKept s (execBarw f s) := barrierInstr _ f s _
theorem execBars (f : Fields) (s : State) : EndsKept s (execBars f s) := barrierInstr _ f s _

theorem execBarq (f : Fields) (s : State) : EndsKept s (execBarq f s) := by
  refine performWarp (fun c => ?_) _ f
  split
  · exact refl s
  · exact refl s

theorem countLanes {act : State → Nat → Nat → State × Bool} (hact : ∀ x l p, Kept x (act x l p).1) (c : Ctx) (f : Fields) (s : State) :
    Kept s (countLanes c f s act).s :=
  performPlaces (fun x l p => (hact x l (State.placePhys p)).trans (noteStore _ _ _)) c f (p := { s }) (refl s) _

theorem bcinitLanes (c : Ctx) (s : State) (f : Fields) : Kept s (bcinitLanes c s f).s := countLanes (fun x _ p => by dsimp only; exact writeBytes x p _) c f s
theorem execBcinit (f : Fields) (s : State) : EndsKept s (execBcinit f s) := perform (fun c => bcinitLanes c s f) _ f

theorem bcaddLanes (c : Ctx) (s : State) (f : Fields) : Kept s (bcaddLanes c s f).s :=
  releasing (countLanes (fun x _ p => countBytes x p _) c f s) _ c
theorem execBcadd (f : Fields) (s : State) : EndsKept s (execBcadd f s) := perform (fun c => bcaddLanes c s f) _ f

theorem bcwaitLanes {s : State} (c : Ctx) (f : Fields) {p : Performed} (h : Kept s p.s) (ls : List Nat) : Kept s (bcwaitLanes c f p ls).s := by
  induction ls generalizing p with
  | nil => exact h
  | cons l ls ih =>
    unfold Machine.bcwaitLanes
    refine ih ?_
    dsimp only
    split
    · rename_i place _
      have hr := h.trans (readBytes p.s (State.placePhys place) 16)
      split
      · exact hr
      · split
        · exact hr
        · exact hr
    · exact h
    · exact h

theorem execBcwait (f : Fields) (s : State) : EndsKept s (execBcwait f s) :=
  perform (fun c => bcwaitLanes c f (p := { s }) (refl s) c.active.lanes) _ f

theorem execGtrd (f : Fields) (s : State) : EndsKept s (execGtrd f s) := performLanes _ f s _

/-! ## Accesses left in flight (R109, R227, R242, R340) -/

theorem leftBody (c : Ctx) (s : State) (i : Instr) : Kept s (leftBody c s i).s := by
  unfold Machine.leftBody
  split
  · exact loadLanes c s _
  · exact stLanes c s _
  · exact atomLanes c s _
  · exact acasLanes c s _
  · exact redLanes c s _
  · exact stfeLanes c s _
  · exact feclrLanes c s _
  · exact bcinitLanes c s _
  · exact bcaddLanes c s _
  · exact refl s

theorem lookUpAgain (s : State) (w : Warp) (outs : List (Nat × LaneOutcome)) : Kept s (lookUpAgain s w outs) := by
  unfold Machine.lookUpAgain
  refine foldl (fun x o => ?_) outs s
  split
  · rename_i va _
    have h := completeWalk x w.gcore w.tenant (va.toNat % 2 ^ 56)
    split
    · rename_i y hy
      rw [hy] at h
      exact h
    · exact refl x
  · exact refl x

theorem current (s : State) (c : Current) : Kept s { s with cur := c } := ⟨id, rfl, rfl⟩

theorem performLeft (s : State) (wid n : Nat) : Kept s (s.performLeft wid n) := by
  unfold State.performLeft
  extract_lets w
  split
  · rename_i e _
    refine ite (refl s) ?_
    extract_lets src c t r r' t'
    have ht : Kept s t := current s _
    have hr : Kept s r.s := ht.trans (leftBody c t e.instr)
    have hr' : Kept s r'.s := result_ite hr (ht.trans ((lookUpAgain t w _).trans (leftBody c _ e.instr)))
    have ht' : Kept s t' := by
      clear_value r'
      unfold t'
      split
      · exact hr'.trans (consume _ _ _ _ _)
      · exact ite (hr'.trans ((owe _ _ _ _ _).trans (keepEntry _ _ _ _))) (ite hr' (refl s))
    clear_value t'
    exact ht'.trans (current t' _)
  · exact refl s

theorem performThrough (s : State) (t : Nat) (p : Nat → Bool) : Kept s (s.performThrough t p) :=
  foldl (fun x (y : Nat × Nat) => performLeft x y.1 y.2) _ s

end Kept

end Sys2Proof.Machine
end

section
/-! # Proofs: what queues, pages and the gleaner's queue keep (R286 to R299, R339 to R342) -/

namespace Sys2Proof.Machine

/-- A lane of an instruction on pages. -/
def AnswerKept {β : Type} (s : State) : Except β State → Prop
  | .error _ => True
  | .ok x => Kept s x

namespace Kept

/-! ## KICK and WAINST (R286, R290, R291) -/

theorem kickAll (c : Ctx) (s : State) (f : Fields) (id : Nat) : Kept s (kickAll c s f id).s := kickLanes s _ _ _ _ _ _

theorem execKick (f : Fields) (s : State) : EndsKept s (execKick f s) := perform (fun c => kickAll c s f _) _ f

theorem execKickDie (f : Fields) (s : State) : EndsKept s (execKickDie f s) :=
  perform (fun c => result_ite (kickAll c s f _) (refl s)) _ f

theorem execWainst (f : Fields) (s : State) : EndsKept s (execWainst f s) := performWarp (fun _ => ite (updBlock s _ _ _) (refl s)) _ f

/-! ## Stage queues and LNCH (R292 to R296) -/

theorem pushItem (s : State) (p q : Nat) (item : List Byte) : Kept s (pushItem s p q item) := setPipeline s _ _

theorem pushLane (s : State) (w : Warp) (f : Fields) (item : List Byte) : Kept s (pushLane s w f item).1 := by
  unfold Machine.pushLane
  split
  · exact refl s
  · split
    · exact refl s
    · refine fst_ite (refl s) (fst_ite (fst_ite (refl s) ?_) (fst_ite (refl s) (pushItem s _ _ _)))
      dsimp only
      exact (pushItem s _ _ _).trans (updGrid _ _ _)

theorem queueLanes {s : State} {act : State → Nat → State.Place → State × LaneOutcome × Bool} (hact : ∀ x l p, Kept x (act x l p).1)
    (c : Ctx) (f : Fields) {p : Performed} (h : Kept s p.s) (xs : List (Nat × LaneAccess)) : Kept s (queueLanes c f act p xs).s := by
  induction xs generalizing p with
  | nil => exact h
  | cons x xs ih =>
    obtain ⟨l, x⟩ := x
    unfold Machine.queueLanes
    refine ih ?_
    cases x with
    | trap cause => exact h
    | park => exact h
    | wait => exact h
    | hole a => exact h
    | _ place => exact h.trans (hact p.s l place)

theorem queueAccess {act : State → Nat → State.Place → State × LaneOutcome × Bool} (hact : ∀ x l p, Kept x (act x l p).1)
    (c : Ctx) (s : State) (f : Fields) (k : AccKind) (align : Nat) : Kept s (queueAccess c s f k align act).s := by
  have h := checkLanes s c k align f c.active.lanes
  unfold Machine.queueAccess
  dsimp only
  generalize Machine.checkLanes s c k align f c.active.lanes = r at h ⊢
  exact result_ite h (queueLanes hact c f (p := { s := r.1 }) h r.2)

theorem execQpush (f : Fields) (s : State) : EndsKept s (execQpush f s) := by
  refine perform (fun c => releasing (queueAccess (fun x _ p => ?_) c s f .read 64) _ c) _ f
  have h := readAt x c.w.tenant (x.classOf c.w) p 64
  dsimp only
  generalize x.readAt c.w.tenant (x.classOf c.w) p 64 = r at h ⊢
  exact fst_ite h (h.trans (pushLane r.1 c.w f r.2.1))

theorem popLane (c : Ctx) (f : Fields) (remove : Bool) (s : State) (p : State.Place) : Kept s (popLane c f remove s p).1 := by
  unfold Machine.popLane
  dsimp only
  refine fst_ite (refl s) ?_
  split
  · exact refl s
  · exact ((writeAt s _ _ p _).trans (noteWrite _ _ _)).trans (ite (updGrid _ _ _) (refl _))

theorem execQpop (f : Fields) (s : State) : EndsKept s (execQpop f s) :=
  perform (fun c => queueAccess (fun x _ p => popLane c f true x p) c s f .write 64) _ f

theorem execQpeek (f : Fields) (s : State) : EndsKept s (execQpeek f s) :=
  perform (fun c => queueAccess (fun x _ p => popLane c f false x p) c s f .write 64) _ f

theorem endStages (s : State) (pid fuel : Nat) : Kept s (s.endStages pid fuel) := (Ended.endStages s pid fuel).toKept

theorem execQclose (f : Fields) (s : State) : EndsKept s (execQclose f s) := by
  refine performWarp (fun c => ?_) _ f
  split
  · exact refl s
  · exact (setPipeline s _ _).trans (endStages _ _ _)

theorem execLnch (f : Fields) (s : State) : EndsKept s (execLnch f s) := by
  refine perform (fun c => releasing (queueAccess (fun x _ p => ?_) c s f .read 256) _ c) _ f
  have h := readSectors x c.w.tenant (x.classOf c.w) p 4
  dsimp only
  generalize x.readSectors c.w.tenant (x.classOf c.w) p 4 = r at h ⊢
  exact fst_ite h (h.trans (acceptRecord r.1 c.w.enqueuer _))

/-! ## SHADOW and PUBLISH (R297 to R299) -/

theorem giveShadows (s : State) (t gcore : Nat) (copy : Bool) (vs : List Nat) : AnswerKept s (giveShadows s t gcore copy vs) := by
  induction vs generalizing s with
  | nil => exact refl s
  | cons v vs ih =>
    unfold Machine.giveShadows
    split
    · rename_i x hx
      have hx := of_served (Served.giveShadow hx)
      have hr := ih x
      generalize Machine.giveShadows x t gcore copy vs = r at hr ⊢
      cases r with
      | error e => exact True.intro
      | ok y => exact hx.trans hr
    · split
      · exact True.intro
      · exact True.intro

theorem makeRoom (s : State) (cols : List Nat) : Kept s (s.makeRoom cols) := of_served (Served.makeRoom s cols)

theorem execShadow (f : Fields) (s : State) : EndsKept s (execShadow f s) := by
  refine performWarp (fun c => ?_) _ f
  dsimp only
  split
  · exact refl s
  · split
    · exact refl s
    · split
      · exact refl s
      · have h := giveShadows s c.w.tenant c.w.gcore f.mod5 (rangePages (rangeStart c f) (rangeLen c f))
        split
        · rename_i hx
          rw [hx] at h
          exact Kept.trans h (noteStore _ _ _)
        · exact makeRoom s _

theorem execPublish (f : Fields) (s : State) : EndsKept s (execPublish f s) := by
  refine performWarp (fun c => ?_) _ f
  dsimp only
  split
  · exact refl s
  · exact refl s
  · refine releasing (result_ite ?_ (refl s)) _ c
    exact ((publishPages s _ _).trans (foldl (fun x v => dropStale x _ _ v) _ _)).trans (noteStore _ _ _)

/-! ## TCINV and TCRCL (R340) -/

theorem execTcinv (f : Fields) (s : State) : EndsKept s (execTcinv f s) := by
  refine performWarp (fun c => ?_) _ f
  dsimp only
  split
  · exact refl s
  · dsimp only
    exact ((performThrough s _ _).trans (updCore _ c.w.gcore _)).trans (updDie _ (dieOf c.w.gcore) _)

theorem recallWhere (s : State) (t : Nat) (p : Nat → Bool) : Kept s (recallWhere s t p) := ⟨id, rfl, rfl⟩
theorem recallRange (s : State) (t first pages : Nat) : Kept s (recallRange s t first pages) := recallWhere s t _

theorem endHorizon (s : State) (t vpn : Nat) : Kept s (endHorizon s t vpn) := by
  unfold Machine.endHorizon
  extract_lets h x src y
  have hx : Kept s x := by
    unfold x
    split
    · exact setRaw64 s _ _
    · exact refl s
  have hy : Kept x y := tables x _
  clear_value y x
  refine (hx.trans hy).trans (foldl (fun z e => ?_) _ y)
  exact (updFrame z e.1 _).trans (freePassed _ _)

theorem execTcrcl (f : Fields) (s : State) : EndsKept s (execTcrcl f s) := by
  refine performWarp (fun c => ?_) _ f
  dsimp only
  split
  · exact refl s
  · refine result_ite (refl s) (releasing (result_ite ?_ ?_) _ c)
    · dsimp only
      exact (performThrough s _ _).trans (recallWhere _ _ _)
    · dsimp only
      exact ((performThrough s _ _).trans (recallWhere _ _ _)).trans (foldl (fun x v => endHorizon x _ v) _ _)

/-! ## PLACE, REPL and PROBE (R341, R342) -/

theorem placeLane (s : State) (c : Ctx) (i : Instr) (f : Fields) (l : Nat) : Kept s (placeLane s c i f l).1 := by
  unfold Machine.placeLane
  extract_lets va r answer x
  refine fst_ite (refl s) ?_
  have hx : Kept s x := checkWalk s _ _
  clear_value x
  split
  · exact hx
  · dsimp only
    refine fst_ite hx ?_
    split
    · dsimp only
      exact hx.trans (updDie x _ _)
    · exact hx
    · exact hx
    · exact hx

theorem placeLanes {s : State} (c : Ctx) (i : Instr) (f : Fields) {p : Performed} (h : Kept s p.s) (ls : List Nat) :
    Kept s (placeLanes c i f p ls).s := by
  induction ls generalizing p with
  | nil => exact h
  | cons l ls ih =>
    have hl := h.trans (checkLane p.s c .read 1 (c.w.addr l f) l)
    unfold Machine.placeLanes
    dsimp only
    generalize Machine.checkLane p.s c .read 1 (c.w.addr l f) l = r at hl ⊢
    obtain ⟨x, a⟩ := r
    cases a with
    | trap cause => exact ih hl
    | park => exact ih hl
    | wait => exact hl
    | hole n => exact ih hl
    | _ place =>
      have hp := Kept.trans hl (placeLane x c i f l)
      dsimp only
      generalize Machine.placeLane x c i f l = r at hp ⊢
      obtain ⟨y, o⟩ := r
      cases o with
      | some o => exact ih hp
      | none => exact hp

theorem placeAll (c : Ctx) (s : State) (i : Instr) (f : Fields) : Kept s (placeAll c s i f).s :=
  placeLanes c i f (p := { s }) (refl s) _

theorem execPlace (f : Fields) (s : State) : EndsKept s (execPlace f s) := perform (fun c => placeAll c s _ f) _ f
theorem execRepl (f : Fields) (s : State) : EndsKept s (execRepl f s) := perform (fun c => placeAll c s _ f) _ f

theorem startRequest (s : State) (r : GleanerReq) : Kept s (startRequest s r).1 := by
  unfold Machine.startRequest
  extract_lets r'
  clear_value r'
  split
  · exact refl s
  · refine fst_ite (refl s) (fst_ite (refl s) ?_)
    split
    · exact refl s
    · exact refl s
    · exact refl s
    · refine fst_ite ?_ (fst_ite (fst_ite (refl s) (of_served (Served.beginEvict s _ _))) ?_)
      · split
        · rename_i hx
          exact of_served (Served.beginReplicate hx)
        · exact foldl (fun x d => ite (makeRoom x _) (refl x)) _ s
      · split
        · rename_i hx
          exact of_served (Served.beginMove hx)
        · exact ite (makeRoom s _) (refl s)

theorem startFirst (s : State) (l : List GleanerReq) : Kept s (startFirst s l).1 := by
  induction l generalizing s with
  | nil => exact refl s
  | cons r rs ih =>
    have h := startRequest s r
    unfold Machine.startFirst
    generalize Machine.startRequest s r = x at h ⊢
    obtain ⟨x, b⟩ := x
    cases b with
    | true => exact h
    | false => exact Kept.trans h (ih x)

theorem serveGleaner (s : State) (silo : Nat) : Kept s (serveGleaner s silo) := by
  unfold Machine.serveGleaner
  exact (startFirst s _).trans (updDie _ _ _)

theorem execProbe (f : Fields) (s : State) : EndsKept s (execProbe f s) := perform (fun _ => foldl (fun x _ => checkWalk x _ _) _ s) _ f
theorem execProbeF (f : Fields) (s : State) : EndsKept s (execProbeF f s) := perform (fun _ => refl s) _ f

end Kept

end Sys2Proof.Machine
end

section
/-! # Proofs: what fetches, control transfers, resizes and class 7 keep (R30 to R38, R137 to R145, R214, R312 to R321) -/

namespace Sys2Proof.Machine

/-- What a fetch meets leaves GT, the period and canonical memory. -/
def FetchKept (s : State) : Fetched → Prop
  | .line x _ => Kept s x
  | .trap x _ _ => Kept s x
  | .park x => Kept s x
  | .wait x => Kept s x
  | .consumed x => Kept s x
  | .hole _ => True

namespace Kept

/-! ## Fetch lines and transfers (R34, R37) -/

theorem readLine (s : State) (w : Warp) (p : State.Place) : Kept s (readLine s w p).1 := readAt s _ _ p _

theorem readChecked (s : State) (w : Warp) (p : State.Place) : Kept s (readChecked s w p).1 := by
  have h := readLine s w p
  unfold Machine.readChecked
  dsimp only
  exact fst_ite h (h.trans (readLine _ w p))

theorem fetchLine (s : State) (wid lane : Nat) (line : DWord) : FetchKept s (fetchLine s wid lane line) := by
  unfold Machine.fetchLine
  extract_lets w ag
  split
  · exact refl s
  · have h := resolve s ag lane line .fetch
    generalize s.resolve ag lane line .fetch = a at h ⊢
    cases a with
    | trap x cause => exact h
    | park x => exact h
    | wait x => exact h
    | hole n => exact True.intro
    | _ x p =>
      have hr := Kept.trans h (readChecked x w p)
      dsimp only
      generalize Machine.readChecked x w p = r at hr ⊢
      split
      · exact hr
      · split
        · exact hr
        · split
          · exact hr
          · exact hr.trans (updWarp _ _ _)

theorem checkTarget (s : State) (wid lane : Nat) (tgt : Bool) (pc : DWord) : Kept s (checkTarget s wid lane tgt pc).1 := by
  have h := fetchLine s wid lane (lineOf pc)
  unfold Machine.checkTarget
  refine fst_ite (refl s) ?_
  generalize Machine.fetchLine s wid lane (lineOf pc) = r at h ⊢
  cases r with
  | line x bits => exact fst_ite h h
  | trap x cause bits => exact h
  | park x => exact h
  | wait x => exact h
  | consumed x => exact h
  | hole n => exact refl s

theorem checkTargets (s : State) (wid : Nat) (tgt : Bool) (l : List (Nat × DWord)) : Kept s (checkTargets s wid tgt l).1 := by
  induction l generalizing s with
  | nil => exact refl s
  | cons x rest ih => exact (checkTarget s wid x.1 tgt x.2).trans (ih _)

theorem transferLanes (s : State) (c : Ctx) (tgt : Bool) (goals : List (Nat × DWord)) (ws : List RegWrite) :
    Kept s (transferLanes s c tgt goals ws).s := by
  have h := checkTargets s c.wid tgt goals
  unfold Machine.transferLanes
  exact result_ite h h

theorem execBra (f : Fields) (s : State) : EndsKept s (execBra f s) := perform (fun c => transferLanes s c _ _ _) _ f
theorem execBrx (f : Fields) (s : State) : EndsKept s (execBrx f s) := perform (fun c => transferLanes s c _ _ _) _ f
theorem execCall (f : Fields) (s : State) : EndsKept s (execCall f s) := perform (fun c => transferLanes s c _ _ _) _ f
theorem execCallx (f : Fields) (s : State) : EndsKept s (execCallx f s) := perform (fun c => transferLanes s c _ _ _) _ f
theorem execRet (f : Fields) (s : State) : EndsKept s (execRet f s) := perform (fun c => transferLanes s c _ _ _) _ f
theorem execExit (f : Fields) (s : State) : EndsKept s (execExit f s) := perform (fun _ => refl s) _ f
theorem execEret (f : Fields) (s : State) : EndsKept s (execEret f s) := by
  refine perform (fun c => ?_) _ f
  dsimp only
  exact transferLanes s c false _ _

/-! ## Waits, extended blocks and traps (R139 to R144) -/

theorem endPause (s : State) (wid : Nat) (e : Entry) : Kept s (endPause s wid e) := (updWarp s wid _).trans (settleParked _ wid)

theorem releaseWsync (s : State) (wid : Nat) (m : LaneMask) : Kept s (releaseWsync s wid m) := foldl (fun x e => endPause x wid e) _ s

theorem execWsync (f : Fields) (s : State) : EndsKept s (execWsync f s) :=
  perform (fun _ => result_ite (refl s) (result_ite (releaseWsync s _ _) (refl s))) _ f

theorem execYield (f : Fields) (s : State) : EndsKept s (execYield f s) := perform (fun c => ite (refl s) (stepBack s c)) _ f

theorem execSleep (f : Fields) (s : State) : EndsKept s (execSleep f s) := perform (fun _ => result_ite (refl s) (refl s)) _ f

theorem execRgacq (f : Fields) (s : State) : EndsKept s (execRgacq f s) :=
  perform (fun _ => result_ite (refl s) (result_ite (refl s) (joinExtQueue s _ _))) _ f

theorem execRgrel (f : Fields) (s : State) : EndsKept s (execRgrel f s) := perform (fun _ => refl s) _ f

theorem execRole (f : Fields) (s : State) : EndsKept s (execRole f s) := by
  refine perform (fun c => result_ite (refl s) (result_ite (refl s) ?_)) _ f
  dsimp only
  split
  · exact result_ite (refl s) (result_ite (refl s) (joinExtQueue s _ _))
  · exact refl s
  · exact refl s

theorem execBrk (f : Fields) (s : State) : EndsKept s (execBrk f s) := perform (fun _ => refl s) _ f
theorem execTrap (f : Fields) (s : State) : EndsKept s (execTrap f s) := perform (fun _ => refl s) _ f

/-! ## A column's resize (R214, R343) -/

theorem finishClearing (s : State) (c : Nat × Nat × Nat) : Kept s (s.finishClearing c) := (Ended.finishClearing s c).toKept

theorem splitWrite (s : State) (col : Nat) (val : DWord) : Kept s (s.splitWrite col val) := by
  unfold State.splitWrite
  refine ite (setColumn s _ _) (ite (setColumn s _ _) (ite ?_ (setColumn s _ _)))
  exact ((foldl (fun x y => finishClearing x y) _ s).trans (foldl (fun x f => freeFrame x f) _ _)).trans (setColumn _ _ _)

theorem vacate (s : State) (fid : Nat) : Kept s (s.vacate fid) := by
  have hgive : Kept s (s.giveUpFrame fid) := of_served (Served.giveUpFrame s fid)
  unfold State.vacate
  refine ite (refl s) ?_
  split
  · exact ite (refl s) (ite hgive (ite (refl s) (of_served (Served.giveUp s _ _))))
  · exact hgive

theorem resizeStep (s : State) (col : Nat) : Kept s (s.resizeStep col) := by
  unfold State.resizeStep
  refine ite (refl s) (ite ?_ (foldl (fun x f => vacate x f) _ s))
  exact (foldl (fun x f => freeFrame x f) _ s).trans (setColumn _ _ _)

/-! ## Class 7 (R312 to R321) -/

theorem execSysrd (f : Fields) (s : State) : EndsKept s (execSysrd f s) := performLanes _ f s _
theorem execCntrd (f : Fields) (s : State) : EndsKept s (execCntrd f s) := performLanes _ f s _
theorem execBndrd (f : Fields) (s : State) : EndsKept s (execBndrd f s) := performLanes _ f s _

theorem setLinkDir (s : State) (d : Nat) (x : LinkDir) : Kept s (s.setLinkDir d x) := of_served (Served.setLinkDir s d x)

theorem writeWide (s : State) (w : Warp) (n : Nat) (x : DWord) : Kept s (writeWide s w n x) := by
  unfold Machine.writeWide
  dsimp only
  split
  · exact splitWrite s _ _
  · exact updCore s _ _
  · exact setLinkDir s _ _
  · exact net s _
  · exact updCore s _ _
  · exact ite (updDie s _ _) (refl s)
  · exact updCore s _ _
  · exact updCore s _ _
  · exact updCore s _ _
  · exact updDie s _ _
  · exact updDie s _ _
  · exact updDie s _ _
  · exact refl s

theorem submitCommand (s : State) (addr : DWord) : Kept s (submitCommand s addr) := loft s _ rfl

theorem execSyswr (f : Fields) (s : State) : EndsKept s (execSyswr f s) :=
  performWarp (fun c => result_ite (refl s) (result_ite (releasing (result_ite (refl s) (submitCommand s _)) _ c) (writeWide s _ _ _))) _ f

theorem execTrqpop (f : Fields) (s : State) : EndsKept s (execTrqpop f s) := by
  refine performWarp (fun c => ?_) _ f
  have h := checkLane s c .write 64 (c.w.src64 c.low f.sa f.imm) c.low
  dsimp only
  generalize Machine.checkLane s c .write 64 (c.w.src64 c.low f.sa f.imm) c.low = r at h ⊢
  obtain ⟨x, a⟩ := r
  cases a with
  | trap cause => exact h
  | park => exact h
  | wait => exact h
  | hole n => exact h
  | _ p =>
    dsimp only
    split
    · exact h
    · exact Kept.trans h ((writeAt x _ _ p _).trans (noteWrite _ _ _))

theorem execBndset (f : Fields) (s : State) : EndsKept s (execBndset f s) := performWarp (fun _ => result_ite (refl s) (refl s)) _ f

theorem diagLane (s : State) (c : Ctx) (kind l : Nat) (va : DWord) : Kept s (diagLane s c kind l va).1 := by
  have h := checkLane s c .diag 1 va l
  unfold Machine.diagLane
  generalize Machine.checkLane s c .diag 1 va l = r at h ⊢
  obtain ⟨x, a⟩ := r
  cases a with
  | trap cause => exact h
  | park => exact h
  | wait => exact h
  | hole n => exact h
  | _ p =>
    dsimp only
    split
    · exact h
    · exact h

theorem settleErrors (s : State) (d w : Nat) : Kept s (s.settleErrors d w) := setLinkDir s _ _

theorem inject (s : State) (sel : DWord) (rate dur : Nat) : Kept s (inject s sel rate dur) :=
  (settleErrors s _ _).trans (setLinkDir _ _ _)

theorem execDiagst (f : Fields) (s : State) : EndsKept s (execDiagst f s) := by
  refine performWarp (fun c => result_ite (result_ite (refl s) (inject s _ _ _)) (result_ite (refl s) ?_)) _ f
  have h := diagLane s c (diagKind f) c.low (c.w.src64 c.low f.sa f.imm)
  generalize Machine.diagLane s c (diagKind f) c.low (c.w.src64 c.low f.sa f.imm) = r at h ⊢
  split
  · exact Kept.trans h (setSyndrome _ _ _)
  · exact h
  · exact h
  · exact h
  · exact h

theorem diagLoads {s : State} (c : Ctx) (f : Fields) {p : Performed} (h : Kept s p.s) (ls : List Nat) : Kept s (diagLoads c f p ls).s := by
  induction ls generalizing p with
  | nil => exact h
  | cons l ls ih =>
    have hl := Kept.trans h (diagLane p.s c (diagKind f) l (c.w.src64 l f.sa f.imm))
    unfold Machine.diagLoads
    refine ih ?_
    generalize Machine.diagLane p.s c (diagKind f) l (c.w.src64 l f.sa f.imm) = r at hl ⊢
    split
    · exact hl
    · exact hl
    · exact hl
    · exact h
    · exact hl

theorem execDiagld (f : Fields) (s : State) : EndsKept s (execDiagld f s) := by
  refine perform (fun c => ?_) _ f
  have h := diagLoads c f (p := { s }) (refl s) c.active.lanes
  dsimp only
  split
  · exact h
  · exact h

theorem execWdog (f : Fields) (s : State) : EndsKept s (execWdog f s) :=
  performWarp (fun _ => result_ite (refl s) (setTenant s _ _)) _ f

theorem notify (s : State) (code arg : Nat) : Kept s (s.notify code arg) := ⟨id, rfl, rfl⟩
theorem endGrid (s : State) (g code : Nat) (own : Option (Nat × Nat)) : Kept s (s.endGrid g code own) := (Ended.endGrid s g code own).toKept

theorem execHalt (f : Fields) (s : State) : EndsKept s (execHalt f s) := by
  refine performWarp (fun c => result_ite (refl s) ?_) _ f
  dsimp only
  exact (endGrid s _ _ _).trans (notify _ _ _)

theorem execIdle (f : Fields) (s : State) : EndsKept s (execIdle f s) := performWarp (fun _ => result_ite (refl s) (refl s)) _ f

end Kept

end Sys2Proof.Machine
end

section
/-! # Proofs: what the ends of waits keep (R108, R141, R142, R206, R211, R227, R304, R306, R321, R341, R353, R374, R384) -/

namespace Sys2Proof.Machine

namespace Kept

theorem setHead (s : State) (wid : Nat) (e : Entry) : Kept s (s.setHead wid e) := updWarp s wid _

theorem decideAt (s : State) (wid n : Nat) (e : Entry) (os : List (Nat × LaneOutcome)) (consumed : Option DWord) :
    Kept s (s.decideAt wid n e os consumed) := by
  unfold State.decideAt
  split
  · exact consume s _ _ _ _
  · exact ite (setHead s _ _) (keepEntry s _ _ _)

theorem late (s : State) (l : List Bool) : Kept s { s with late := l } := ⟨id, rfl, rfl⟩
theorem chosen (s : State) (l : List Pick) : Kept s { s with chosen := l } := ⟨id, rfl, rfl⟩

theorem chooseEntry {s x : State} {l : List Nat} {n : Nat} (h : chooseEntry s l = some (x, n)) : Kept s x := by
  induction l generalizing s with
  | nil => cases h
  | cons a l ih =>
    cases l with
    | nil =>
      cases h
      exact refl _
    | cons b l =>
      unfold Machine.chooseEntry at h
      split at h
      · exact (late _ _).trans (ih h)
      · cases h
        exact late _ _
      · cases h
        exact refl _

/-! ## What is owed (R245) -/

theorem payOwed (s : State) (p : State → Nat → Warp → Nat → Bool) (fuel : Nat) : Kept s (payOwed s p fuel) := by
  induction fuel generalizing s with
  | zero => exact refl s
  | succ fuel ih =>
    unfold Machine.payOwed
    generalize owedWhere s (p s) = l
    have h : Kept s (l.foldl (fun s x => s.performLeft x.1 x.2) s) := foldl (fun y (x : Nat × Nat) => performLeft y x.1 x.2) l s
    split
    · exact refl s
    · exact ite h (h.trans (ih _))

theorem payBefore (s : State) (wid : Nat) : Kept s (payBefore s wid) := payOwed s _ _

theorem execLoadDataReturn (wid : Nat) (s : State) : EndsKept s (execLoadDataReturn wid s) := by
  unfold Machine.execLoadDataReturn
  refine EndsKept.trans (payBefore s wid) (EndsKept.ite (EndsKept.next (refl _)) ?_)
  split
  · rename_i hx
    exact EndsKept.next ((chooseEntry hx).trans (performLeft _ _ _))
  · exact EndsKept.next (refl _)

theorem takeTurn (s : State) (wid : Nat) : Kept s (takeTurn s wid) := by
  unfold Machine.takeTurn
  split
  · rename_i x n hx
    have h := chooseEntry hx
    split
    · refine ite (h.trans (chosen x _)) ?_
      have hp := h.trans (payBefore x wid)
      dsimp only
      exact ite hp (hp.trans (performLeft _ _ _))
    · exact h
  · exact refl s

theorem execEntryRetire (wid : Nat) (s : State) : EndsKept s (execEntryRetire wid s) := by
  unfold Machine.execEntryRetire
  split
  · exact EndsKept.next (refl s)
  · refine EndsKept.ite (EndsKept.next (retireOldest s _ _ _)) (EndsKept.ite (EndsKept.next (pauseOldest s _ _)) ?_)
    split
    · exact EndsKept.next (keepEntry s _ _ _)
    · exact EndsKept.next (takeTurn s wid)

/-! ## Translation and the watchdog (R304, R306) -/

theorem deliver (s : State) (wid : Nat) (pc : DWord) (word : BitVec 96) (cause : Nat) (ts : List TrapLane) :
    Kept s (s.deliver wid pc word cause ts) := (Ended.deliver s wid pc word cause ts).toKept

theorem unparkTrap (s : State) (wid : Nat) (lanes : List Nat) (cause : Nat) : Kept s (unparkTrap s wid lanes cause) := by
  unfold Machine.unparkTrap
  exact (((updWarp s wid _).trans (deliver _ _ _ _ _ _)).trans (settleParked _ wid)).trans (endWarp _ wid)

theorem execTranslationWalk (wid lane : Nat) (s : State) : EndsKept s (execTranslationWalk wid lane s) := by
  unfold Machine.execTranslationWalk
  refine EndsKept.ite (EndsKept.next (refl s)) ?_
  have h := completeWalk s (s.warp wid).gcore (s.warp wid).tenant (((s.warp wid).lane lane).parkAddr.toNat % 2 ^ 56)
  dsimp only
  split
  · rename_i x hx
    rw [hx] at h
    exact EndsKept.next (Kept.trans h ((updWarp x wid _).trans (settleParked _ wid)))
  · exact EndsKept.next (refl s)
  · exact EndsKept.next (unparkTrap s _ _ _)
  · exact EndsKept.next (unparkTrap s _ _ _)
  · exact EndsKept.fault s _

theorem withdrawn (s : State) (q : List FeRequest) (ps : List Pending) (ch : List Pick) :
    Kept s { s with mem := { s.mem with feQueue := q }, net := { s.net with pendings := ps }, chosen := ch } := ⟨id, rfl, rfl⟩

theorem withdrawWaits (s : State) (wid : Nat) : Kept s (s.withdrawWaits wid) := by
  unfold State.withdrawWaits
  exact (withdrawn s _ _ _).trans (updCore _ _ _)

theorem settleBuffer (s : State) (wid fuel : Nat) : Kept s (s.settleBuffer wid fuel) := by
  induction fuel generalizing s with
  | zero => exact refl s
  | succ fuel ih =>
    unfold State.settleBuffer
    split
    · exact refl s
    · refine ite ((retireOldest s _ _ _).trans (ih _)) ?_
      have h := performLeft s wid 0
      dsimp only
      split
      · exact ite (h.trans ((retireOldest _ _ _ _).trans (ih _))) (refl s)
      · exact h

theorem refill (s : State) (wid n : Nat) (e : Entry) : Kept s (s.refill wid n e) := by
  unfold State.refill
  split
  · refine ite (refl s) (foldl (fun x o => ?_) _ s)
    split
    · exact setFull x _ _
    · exact refl x
  · exact refl s

theorem discardAll (s : State) (wid : Nat) : Kept s (s.discardAll wid) := by
  unfold State.discardAll
  exact (foldl (fun x (e : Entry × Nat) => refill x wid e.2 e.1) _ s).trans (updWarp _ wid _)

theorem discardServed (s : State) (wid : Nat) : Kept s (s.discardServed wid) := by
  have h := discardAll s wid
  unfold State.discardServed
  dsimp only
  split
  · exact ite h (h.trans (retire _ _ _ _ _ _ _ _ _))
  · exact h

theorem abandonWaits (s : State) (wid : Nat) : Kept s (abandonWaits s wid) := by
  unfold Machine.abandonWaits
  exact ((discardAll s wid).trans (withdrawWaits _ wid)).trans (updWarp _ wid _)

theorem strike (s : State) (wid code : Nat) : Kept s (strike s wid code) := by
  unfold Machine.strike
  refine (abandonWaits s wid).trans (((Kept.trans (foldl (fun x p => ?_) _ _) (updWarp _ wid _)).trans (settleParked _ wid)).trans (endWarp _ wid))
  exact deliver x _ _ _ _ _

theorem execWatchdog (wid : Nat) (s : State) : EndsKept s (execWatchdog wid s) := by
  have h := settleBuffer s wid ((s.warp wid).rob.length + 1)
  unfold Machine.execWatchdog
  exact EndsKept.ite (EndsKept.next (refl s)) (EndsKept.next (ite (h.trans (strike _ _ _)) h))

/-! ## Outcomes of waiting lanes (R142, R211, R286, R341, R353, R374, R384) -/

theorem execFeTimeout (wid lane : Nat) (s : State) : EndsKept s (execFeTimeout wid lane s) := by
  unfold Machine.execFeTimeout
  dsimp only
  split
  · exact EndsKept.ite (EndsKept.next (refl s)) (EndsKept.next ((queued s _).trans (decideAt _ _ _ _ _ _)))
  · exact EndsKept.next (refl s)

theorem execLdfeServe (granule : Nat) (s : State) : EndsKept s (execLdfeServe granule s) := by
  unfold Machine.execLdfeServe
  split
  · split
    · split
      · exact EndsKept.ite (EndsKept.next (refl s)) (EndsKept.next (((queued s _).trans (serveFull _ _ _ _)).trans (decideAt _ _ _ _ _ _)))
      · exact EndsKept.next (refl s)
    · exact EndsKept.next (refl s)
  · exact EndsKept.next (refl s)

theorem execBcwaitReturn (wid : Nat) (s : State) : EndsKept s (execBcwaitReturn wid s) := by
  unfold Machine.execBcwaitReturn
  split
  · split
    · rename_i f _
      exact EndsKept.next ((bcwaitLanes _ f (p := { s }) (refl s) _).trans (decideAt _ _ _ _ _ _))
    · exact EndsKept.next (refl s)
  · exact EndsKept.next (refl s)

theorem breakBarrier (s : State) (b : Barrier) : Kept s (s.breakBarrier b) := (Ended.breakBarrier s b).toKept

theorem execBarrierPhaseComplete (bar : Nat) (s : State) : EndsKept s (execBarrierPhaseComplete bar s) := by
  unfold Machine.execBarrierPhaseComplete
  split
  · exact EndsKept.next (ite (breakBarrier s _) (completePhase s bar))
  · exact EndsKept.next (refl s)

theorem execSleepWake (wid : Nat) (s : State) : EndsKept s (execSleepWake wid s) := by
  have h : Kept s (((s.warp wid).pauses.filter (sleepOver s.gt)).foldl (fun s e => Machine.endPause s wid e) s) :=
    foldl (fun x e => endPause x wid e) _ s
  unfold Machine.execSleepWake
  refine EndsKept.ite (EndsKept.next (refl s)) (EndsKept.next ?_)
  split
  · exact h.trans (keepEntry _ _ _ _)
  · exact h

theorem execIdleWake (wid : Nat) (s : State) : EndsKept s (execIdleWake wid s) :=
  EndsKept.next (ite (foldl (fun x e => endPause x wid e) _ s) (refl s))

theorem execRgacqGrant (core : Nat) (s : State) : EndsKept s (execRgacqGrant core s) := by
  unfold Machine.execRgacqGrant
  split
  · split
    · exact EndsKept.next ((updCore s core _).trans (retireOldest _ _ _ _))
    · exact EndsKept.next (refl s)
  · exact EndsKept.next (refl s)

theorem atEntry (s : State) (wid n : Nat) (e : Entry) : Kept s (s.atEntry wid n e) := current s _

theorem execKickQueueFree (engine : Nat) (s : State) : EndsKept s (execKickQueueFree engine s) := by
  unfold Machine.execKickQueueFree
  split
  · split
    · split
      · exact EndsKept.next ((((atEntry s _ _ _).trans (kickLanes _ _ _ _ _ _ _)).trans (current _ _)).trans (decideAt _ _ _ _ _ _))
      · exact EndsKept.next (refl s)
    · exact EndsKept.next (refl s)
  · exact EndsKept.next (refl s)

theorem servePlacing (silo : Nat) (s : State) (wid : Nat) : Kept s (servePlacing silo s wid) := by
  unfold Machine.servePlacing
  split
  · split
    · exact (placeLanes _ _ _ (p := { s }) (refl s) _).trans (decideAt _ _ _ _ _ _)
    · exact refl s
  · exact refl s

theorem execGleanerQueueFree (silo : Nat) (s : State) : EndsKept s (execGleanerQueueFree silo s) :=
  EndsKept.next ((serveGleaner s silo).trans (foldl (fun x wid => servePlacing silo x wid) _ _))

theorem execPcmdQueueFree (s : State) : EndsKept s (execPcmdQueueFree s) := by
  unfold Machine.execPcmdQueueFree
  refine EndsKept.ite (EndsKept.next (refl s)) ?_
  split
  · split
    · split
      · exact EndsKept.next ((submitCommand s _).trans (setHead _ _ _))
      · exact EndsKept.next (refl s)
    · exact EndsKept.next (refl s)
  · exact EndsKept.next (refl s)

end Kept

end Sys2Proof.Machine
end

section
/-! # Proofs: what placement, saves and restores keep (R14 to R20, R27, R207, R273 to R281, R305, R308) -/

namespace Sys2Proof.Machine

namespace Kept

/-! ## A gang's placement (R18, R19, R273) -/

theorem clearTickets (s : State) (p n : Nat) : Kept s (s.clearTickets p n) := ⟨id, rfl, rfl⟩
theorem switchTenant (s : State) (c t : Nat) : Kept s (s.switchTenant c t) := updCore s c _

theorem addWarp (s : State) (g block n c : Nat) (claim : Option Nat) : Kept s (s.addWarp g block n c claim) := by
  unfold State.addWarp
  exact (setWarp s _ _).trans (loft _ _ rfl)

theorem addBlock (s : State) (g gang gangid c : Nat) (claim : Option Nat) : Kept s (s.addBlock g gang gangid c claim) := by
  unfold State.addBlock
  extract_lets r block unit x l y z
  have hx : Kept s x := clearTickets s _ _
  have hy : Kept x y := loft x _ rfl
  have hz : Kept y z := (addBarriers y 1 g block _).trans (switchTenant _ _ _)
  clear_value z y
  exact ((hx.trans hy).trans hz).trans (foldl (fun v n => addWarp v g block n c claim) _ z)

theorem addGangBarriers (s : State) (g gang die : Nat) : Kept s (s.addGangBarriers g gang die) := by
  unfold State.addGangBarriers
  extract_lets r x y
  have hx : Kept s x := addBarriers s _ _ _ _
  have hy : Kept x y := ite (addBarriers x _ _ _ _) (refl x)
  clear_value y x
  exact (hx.trans hy).trans (ite ((addBarriers y _ _ _ _).trans (updGrid _ _ _)) (refl y))

theorem addGang (s : State) (g gang quad base : Nat) (claim : Option Nat) : Kept s (s.addGang g gang quad base claim) := by
  unfold State.addGang
  exact (addGangBarriers s g gang _).trans (foldl (fun v (x : Nat × Nat) => addBlock v g gang x.2 x.1 claim) _ _)

theorem settlePhases (s : State) (g : Nat) : Kept s (s.settlePhases g) := (Ended.settlePhases s g).toKept

theorem settlePlacement (s : State) (g : Nat) : Kept s (s.settlePlacement g) := by
  unfold State.settlePlacement
  extract_lets x l y
  have hx : Kept s x := updGrid s g _
  have hy : Kept x y := ite (loft x _ rfl) (refl x)
  clear_value y
  exact (hx.trans hy).trans (settlePhases y g)

theorem takeGang {s x : State} {g gang : Nat} (h : s.takeGang g = some (gang, x)) : Kept s x := by
  unfold State.takeGang at h
  dsimp only at h
  split at h
  · cases h
    exact setGrid s _ _
  · split at h
    · cases h
      exact setGrid s _ _
    · cases h

theorem execGangPlacement (queue quad base : Nat) (s : State) : EndsKept s (execGangPlacement queue quad base s) := by
  have hpods := openPods s
  unfold Machine.execGangPlacement
  dsimp only
  split
  · exact EndsKept.next (refl s)
  · refine EndsKept.ite (EndsKept.next (refl s)) ?_
    split
    · exact EndsKept.next (refl s)
    · rename_i hx
      exact EndsKept.next ((hpods.trans (takeGang hx)).trans ((addGang _ _ _ _ _ _).trans (settlePlacement _ _)))

theorem placeWhole {s x : State} {g : Nat} {l : List (Nat × Nat)} (h : placeWhole s g l = some x) : Kept s x := by
  induction l generalizing s with
  | nil =>
    cases h
    exact refl _
  | cons p rest ih =>
    obtain ⟨quad, base⟩ := p
    unfold Machine.placeWhole at h
    split at h
    · cases h
    · split at h
      · cases h
      · rename_i hx
        exact ((takeGang hx).trans (addGang _ _ _ _ _ _)).trans (ih h)

theorem execCoresidentPlacement (queue : Nat) (places : List (Nat × Nat)) (s : State) :
    EndsKept s (execCoresidentPlacement queue places s) := by
  have hpods := openPods s
  unfold Machine.execCoresidentPlacement
  extract_lets o
  split
  · exact EndsKept.next (refl s)
  · rename_i g _
    extract_lets x gangs onQuads w w'
    refine EndsKept.ite (EndsKept.next (refl s)) ?_
    have hw : Kept s w := hpods.trans (loft _ _ rfl)
    have hw' : Kept s w' := hw.trans (updGrid w g _)
    clear_value w'
    refine EndsKept.ite (EndsKept.next hw') ?_
    split
    · rename_i hx
      exact EndsKept.next ((hw'.trans (placeWhole hx)).trans (settlePlacement _ _))
    · exact EndsKept.next hw'

theorem stageGrid {s x : State} {p i g : Nat} (h : stageGrid s p i = some (x, g)) : Kept s x := by
  unfold Machine.stageGrid at h
  cases hst : (s.pipeline p).stages[i]? with
  | none =>
    rw [hst] at h
    cases h
  | some st =>
    rw [hst, Option.map_some] at h
    split at h
    · cases h
      exact refl s
    · cases h
      exact retain s _

theorem launchStage (s : State) (p i g quad base : Nat) (st : Stage) : Kept s (launchStage s p i g quad base st) := by
  unfold Machine.launchStage
  extract_lets c x stages y z
  have hz : Kept s z := (setPipeline s p _).trans (updGrid y g _)
  clear_value z
  split
  · exact hz
  · rename_i hx
    exact (hz.trans (takeGang hx)).trans ((addGang _ _ _ _ _ _).trans (settlePlacement _ _))

theorem stageAt (s : State) (pipe stage quad base : Nat) : Kept s (stageAt s pipe stage quad base) := by
  unfold Machine.stageAt
  split
  · rename_i hx
    exact ite (refl s) ((stageGrid hx).trans (launchStage _ _ _ _ _ _ _))
  · exact refl s

theorem execStageLaunch (pipe stage quad base : Nat) (s : State) : EndsKept s (execStageLaunch pipe stage quad base s) :=
  EndsKept.next (stageAt s _ _ _ _)

theorem execAllocationClearDone (col unit : Nat) (s : State) : EndsKept s (execAllocationClearDone col unit s) := by
  unfold Machine.execAllocationClearDone
  split
  · exact EndsKept.next (refl s)
  · exact EndsKept.next (finishClearing s _)

theorem answer (s : State) (r : HostResult) : Kept s (s.answer r) := ⟨id, rfl, rfl⟩

theorem execLaunchRecordEnqueue (record : BitVec 2048) (s : State) : EndsKept s (execLaunchRecordEnqueue record s) :=
  EndsKept.next ((acceptRecord s .supervisor record).trans (answer _ _))

theorem execPipelineDescriptor (record : BitVec 2048) (s : State) : EndsKept s (execPipelineDescriptor record s) :=
  EndsKept.next ((acceptRecord s .supervisor record).trans (answer _ _))

/-! ## Saves and restores (R27, R204, R281, R305, R308) -/

theorem emptyBuffer (s : State) (wid : Nat) (rob : List Entry) : Kept s (s.emptyBuffer wid rob) := by
  unfold State.emptyBuffer
  exact updWarp s wid _

theorem closeBuffer (s : State) (wid : Nat) : Kept s (s.closeBuffer wid) := by
  unfold State.closeBuffer
  extract_lets x rob served keep y z
  have hx : Kept s x := settleBuffer s wid _
  have hy : Kept x y := foldl (fun v (e : Entry × Nat) => ite (refl v) (refill v wid e.2 e.1)) _ x
  have hz : Kept y z := emptyBuffer y wid _
  clear_value z y x
  exact (hx.trans hy).trans (ite (discardServed y wid) (hz.trans (updWarp z wid _)))

theorem saveAreas (s : State) (x : Sparse SaveArea) : Kept s { s with loft := { s.loft with saveAreas := x } } := ⟨id, rfl, rfl⟩

theorem saveWarp (s : State) (wid : Nat) : Kept s (s.saveWarp wid) := by
  unfold State.saveWarp
  refine ite (refl s) ?_
  extract_lets notes x late y l z
  have hx : Kept s x := (closeBuffer s wid).trans (withdrawWaits _ wid)
  have hy : Kept x y := by
    refine foldl (fun v e => ?_) _ x
    split
    · exact updWarp v wid _
    · exact refl v
  have hz : Kept y z := saveAreas y _
  clear_value z
  exact ite hx ((hx.trans hy).trans (hz.trans (updWarp z wid _)))

theorem restoreWarp (s : State) (wid : Nat) : Kept s (s.restoreWarp wid) := by
  unfold State.restoreWarp
  extract_lets w late x y l z u v
  have hy : Kept s y := (switchTenant s _ _).trans (setWarp x wid _)
  have hz : Kept y z := saveAreas y _
  have hu : Kept z u := ite (joinExtQueue z _ _) (refl z)
  have hv : Kept u v := settleParked u wid
  clear_value v u z y
  exact (((hy.trans hz).trans hu).trans hv).trans (ite (strike v wid 1) (refl v))

theorem execContextRestore (wid : Nat) (s : State) : EndsKept s (execContextRestore wid s) := by
  unfold Machine.execContextRestore
  exact EndsKept.ite (EndsKept.next (refl s)) (EndsKept.next (foldl (fun x w => restoreWarp x w) _ s))

theorem saveWarps (s : State) (wids : List Nat) : Kept s (wids.foldl (fun s wid => s.saveWarp wid) s) :=
  foldl (fun x wid => saveWarp x wid) wids s

theorem execSliceEnd (queue : Nat) (s : State) : EndsKept s (execSliceEnd queue s) := by
  unfold Machine.execSliceEnd
  split
  · exact EndsKept.next (refl s)
  · exact EndsKept.next (saveWarps s _)

theorem saveWholeGang (s : State) (w : Warp) : Kept s (saveWholeGang s w) := by
  unfold Machine.saveWholeGang
  exact ite (refl s) (saveWarps s _)

theorem evictSet (s : State) (vs : List (Nat × List Nat)) : Kept s (evictSet s vs) := by
  unfold Machine.evictSet
  exact ((saveWarps s _).trans (foldl (fun x w => saveWholeGang x w) _ _)).trans
    (foldl (fun x (v : Nat × List Nat) => updCore x v.1 _) _ _)

theorem execPartialEviction (core queue : Nat) (s : State) : EndsKept s (execPartialEviction core queue s) := by
  unfold Machine.execPartialEviction
  split
  · exact EndsKept.next (refl s)
  · exact EndsKept.ite (EndsKept.next (refl s)) (EndsKept.next (evictSet s _))

theorem killGang (s : State) (g gang code : Nat) (addr : DWord) (pcs : List Nat) : Kept s (s.killGang g gang code addr pcs) :=
  (Ended.killGang s g gang code addr pcs).toKept
theorem afterKill (s : State) (g : Nat) (gangs : List Nat) : Kept s (s.afterKill g gangs) := (Ended.afterKill s g gangs).toKept

theorem execSaveBoundExpiry (wid : Nat) (s : State) : EndsKept s (execSaveBoundExpiry wid s) := by
  unfold Machine.execSaveBoundExpiry
  exact EndsKept.ite (EndsKept.next (refl s)) (EndsKept.next ((killGang s _ _ _ _ _).trans (afterKill _ _ _)))

theorem killDie (s : State) (die : Nat) : Kept s (killDie s die) := by
  unfold Machine.killDie
  exact (foldl (fun x (p : Nat × Nat) => killGang x p.1 p.2 1 0 _) _ s).trans (foldl (fun x g => afterKill x g _) _ _)

theorem execFatalDieError (die : Nat) (s : State) : EndsKept s (execFatalDieError die s) := EndsKept.next (killDie s die)

end Kept

end Sys2Proof.Machine
end

section
/-! # Proofs: GT, the budget periods and the schedule (R27, R28, R276 to R280) -/

namespace Sys2Proof.Machine

/-- Canonical memory stays canonical. -/
def KeepsInv (s t : State) : Prop := s.Inv → t.Inv

namespace KeepsInv

theorem refl (s : State) : KeepsInv s s := id
theorem trans {s x t : State} (h : KeepsInv s x) (h' : KeepsInv x t) : KeepsInv s t := h' ∘ h
theorem of_kept {s t : State} (h : Kept s t) : KeepsInv s t := h.wf

theorem ite {p : Prop} [Decidable p] {s a b : State} (ha : KeepsInv s a) (hb : KeepsInv s b) : KeepsInv s (if p then a else b) := by
  split
  · exact ha
  · exact hb

theorem foldl {α : Type} {g : State → α → State} (h : ∀ x a, KeepsInv x (g x a)) (l : List α) (s : State) : KeepsInv s (l.foldl g s) :=
  List.foldlRecOn l g (refl s) (fun x hx a _ => hx.trans (h x a))

end KeepsInv

namespace Kept

/-! ## Charges and the boundary of a period (R27, R28, R276, R277) -/

theorem borrowFrom (s : State) (t l n : Nat) : Kept s (s.borrowFrom t l n).1 := (setBudget s l _).trans (setBudget _ t _)

theorem lend (t : Nat) (l : List Nat) (x : State × Nat) :
    Kept x.1 (l.foldl (fun (x : State × Nat) l => x.1.borrowFrom t l x.2) x).1 :=
  List.foldlRecOn (motive := fun y : State × Nat => Kept x.1 y.1) l _ (refl _) (fun y h a _ => h.trans (borrowFrom y.1 t a y.2))

theorem chargeTenant (s : State) (t n : Nat) : Kept s (s.chargeTenant t n) := by
  unfold State.chargeTenant
  extract_lets own src x
  have hx : Kept s x := setBudget s t _
  clear_value x
  exact hx.trans (ite (refl x) (lend t _ (x, n - own)))

theorem makeWay (s : State) (wids kept : List Nat) (n : Nat) : Kept s (s.makeWay wids kept n) := by
  induction n generalizing s with
  | zero => exact refl s
  | succ n ih =>
    unfold State.makeWay
    refine ite (refl s) ?_
    dsimp only
    split
    · exact refl s
    · exact ((saveWarp s _).trans (saveWholeGang _ _)).trans (ih _)

theorem resumeOverdue (s : State) (done l : List Nat) : Kept s (s.resumeOverdue done l) := by
  induction l generalizing s done with
  | nil => exact refl s
  | cons wid rest ih =>
    unfold State.resumeOverdue
    refine ite (ih s done) ?_
    extract_lets wids x y
    have hx : Kept s x := makeWay s _ _ _
    have hy : Kept x y := ite (refl x) (makeWay x _ _ _)
    clear_value y
    exact (hx.trans hy).trans (ite ((foldl (fun v w => restoreWarp v w) _ y).trans (ih _ _)) (ih y _))

theorem launchStages (s : State) : Kept s s.launchStages := by
  unfold State.launchStages
  refine foldl (fun x p => ?_) _ s
  split
  · refine ite (refl x) ?_
    split
    · exact stageAt x _ _ _ _
    · exact refl x
  · exact refl x

theorem ageFrames (s : State) : Kept s s.ageFrames := foldl (fun x (e : Nat × Frame) => updFrame x e.1 _) _ s

theorem assignStages (s : State) (quads : List Nat) (t : Nat) : Kept s (s.assignStages quads t) := by
  unfold State.assignStages
  exact foldl (fun x e => setPipeline x _ _) _ s

end Kept

/-! ## A charge (R276, R277) -/

/-- Every tenant is charged for the quads that it holds up to a GT. -/
def chargeAll (s : State) (g : Nat) : State :=
  (List.range 16).foldl (fun s t =>
    let q := (s.heldQuads t).length
    if q = 0 then s else s.chargeTenant t (q * (g - s.gt))) s

/-- GT is written. -/
def reachGt (s : State) (g : Nat) : State := { s with gt := g }

theorem charge_eq (s : State) (g : Nat) :
    s.charge g = if g ≤ s.gt then s else (reachGt (chargeAll s g) g).freeAllPassed.openPods := rfl

theorem Kept.chargeAll (s : State) (g : Nat) : Kept s (chargeAll s g) := by
  unfold Machine.chargeAll
  exact foldl (fun x t => ite (refl x) (chargeTenant x t _)) _ s

/-! ## Charges leave what waits for the boundary -/

/-- The period, the contexts that are overdue and the pipelines stand. -/
structure SameWaiting (s t : State) : Prop where
  period : t.loft.period = s.loft.period
  overdue : t.loft.overdue = s.loft.overdue
  pipelines : t.loft.pipelines = s.loft.pipelines

namespace SameWaiting

theorem refl (s : State) : SameWaiting s s := ⟨rfl, rfl, rfl⟩

theorem trans {s x t : State} (h : SameWaiting s x) (h' : SameWaiting x t) : SameWaiting s t :=
  ⟨h'.period.trans h.period, h'.overdue.trans h.overdue, h'.pipelines.trans h.pipelines⟩

theorem ite {p : Prop} [Decidable p] {s a b : State} (ha : SameWaiting s a) (hb : SameWaiting s b) :
    SameWaiting s (if p then a else b) := by
  split
  · exact ha
  · exact hb

theorem foldl {α : Type} {g : State → α → State} (h : ∀ x a, SameWaiting x (g x a)) (l : List α) (s : State) :
    SameWaiting s (l.foldl g s) := List.foldlRecOn l g (refl s) (fun x hx a _ => hx.trans (h x a))

theorem setBudget (s : State) (t : Nat) (x : Budget) : SameWaiting s (s.setBudget t x) := ⟨rfl, rfl, rfl⟩

theorem lend (t : Nat) (l : List Nat) (x : State × Nat) :
    SameWaiting x.1 (l.foldl (fun (x : State × Nat) l => x.1.borrowFrom t l x.2) x).1 :=
  List.foldlRecOn (motive := fun y : State × Nat => SameWaiting x.1 y.1) l _ (refl _)
    (fun _ h _ _ => h.trans ((setBudget _ _ _).trans (setBudget _ _ _)))

theorem chargeTenant (s : State) (t n : Nat) : SameWaiting s (s.chargeTenant t n) := by
  unfold State.chargeTenant
  extract_lets own src x
  have hx : SameWaiting s x := setBudget s t _
  clear_value x
  exact hx.trans (ite (refl x) (lend t _ (x, n - own)))

theorem addBarriers (s : State) (scope g owner n : Nat) : SameWaiting s (s.addBarriers scope g owner n) := by
  unfold State.addBarriers
  refine foldl (fun x i => ?_) _ s
  exact ⟨rfl, rfl, rfl⟩

theorem openPods (s : State) : SameWaiting s s.openPods := by
  have h : SameWaiting s s.notePods := ⟨rfl, rfl, rfl⟩
  exact h.trans (foldl (fun x _ => ite (addBarriers x _ _ _ _) (refl x)) _ _)

theorem of_served {s t : State} (h : Served s t) : SameWaiting s t := ⟨by rw [h.loft], by rw [h.loft], by rw [h.loft]⟩

theorem chargeAll (s : State) (g : Nat) : SameWaiting s (chargeAll s g) := by
  unfold Machine.chargeAll
  exact foldl (fun x t => ite (refl x) (chargeTenant x t _)) _ s

theorem reachGt (s : State) (g : Nat) : SameWaiting s (reachGt s g) := ⟨rfl, rfl, rfl⟩

theorem charge (s : State) (g : Nat) : SameWaiting s (s.charge g) := by
  rw [charge_eq]
  exact ite (refl s) ((((chargeAll s g).trans (reachGt _ g)).trans (of_served (Served.freeAllPassed _))).trans (openPods _))

end SameWaiting

theorem charge_gt (s : State) (g : Nat) : (s.charge g).gt = max s.gt g := by
  have h : ∀ x, (reachGt x g).freeAllPassed.openPods.gt = g := fun x =>
    (Kept.openPods _).gt.trans (Kept.freeAllPassed (reachGt x g)).gt
  rw [charge_eq]
  split
  · omega
  · rw [h]
    omega

theorem advanceTo_gt (s : State) (g : Nat) : (s.advanceTo g).gt = max g s.gt := by
  have h : ∀ x : State, (reachGt x (max g s.gt)).freeAllPassed.gt = max g s.gt := fun x => (Kept.freeAllPassed (reachGt x _)).gt
  exact h (s.passTo g (g / periodNs - s.loft.period))

/-! ## The boundary of a period (R276) -/

/-- Every tenant's tokens are renewed. -/
def renewAll (s : State) (l : List Nat) : State :=
  l.foldl (fun s t => s.setBudget t (State.renewBudget (s.tenant t).budget (s.budget t))) s

/-- The loft goes into a period: the contexts that are overdue next, and the classes that are held back, are noted. -/
def beginPeriod (s : State) (k : Nat) : State :=
  let saved := (s.warpsWhere isSaved).filter (fun wid => s.holdsBudget (s.warp wid).tenant)
  { s with loft := { s.loft with
    period := k, heldBack := s.overShare, lastTxb := s.net.txb
    overdue := s.loft.overdue.filter saved.contains ++ saved.filter (fun wid => !s.loft.overdue.contains wid) } }

/-- Every tenant's quads are dealt to its stages. -/
def dealStages (s : State) : State :=
  ((s.loft.pipelines.map (fun e => e.2.tenant)).eraseDups).foldl (fun s t => s.assignStages (s.quadsOf t) t) s

theorem boundary_eq (s : State) : s.boundary =
    (dealStages (beginPeriod (renewAll (s.resumeOverdue [] s.loft.overdue) (List.range 16)) (s.loft.period + 1)).ageFrames).launchStages := rfl

theorem Kept.renewAll (s : State) (l : List Nat) : Kept s (renewAll s l) := by
  unfold Machine.renewAll
  exact foldl (fun x t => setBudget x t _) l s

theorem Kept.dealStages (s : State) : Kept s (dealStages s) := by
  unfold Machine.dealStages
  exact foldl (fun x t => assignStages x _ t) _ s

/-- What follows the beginning of a period. -/
theorem Kept.stages (s : State) : Kept s (Machine.dealStages s.ageFrames).launchStages :=
  ((ageFrames s).trans (dealStages _)).trans (launchStages _)

theorem boundary_period (s : State) : s.boundary.loft.period = s.loft.period + 1 := by
  rw [boundary_eq]
  exact (Kept.stages (beginPeriod _ _)).period

theorem beginPeriod_gt (s : State) (k : Nat) : (beginPeriod s k).gt = s.gt := rfl
theorem beginPeriod_mem (s : State) (k : Nat) : (beginPeriod s k).mem = s.mem := rfl

theorem boundary_gt (s : State) : s.boundary.gt = s.gt := by
  rw [boundary_eq]
  rw [(Kept.stages _).gt, beginPeriod_gt]
  exact ((Kept.resumeOverdue s _ _).trans (Kept.renewAll _ _)).gt

theorem KeepsInv.beginPeriod (s : State) (k : Nat) : KeepsInv s (beginPeriod s k) := by
  intro h
  unfold State.Inv
  rw [beginPeriod_mem]
  exact h

theorem KeepsInv.boundary (s : State) : KeepsInv s s.boundary := by
  rw [boundary_eq]
  exact (of_kept ((Kept.resumeOverdue s _ _).trans (Kept.renewAll _ _))).trans ((beginPeriod _ _).trans (of_kept (Kept.stages _)))

/-- The tokens of a tenant that is renewed once. -/
theorem budget_renewAll (l : List Nat) (hl : l.Nodup) (s : State) (t : Nat) :
    (renewAll s l).budget t = if t ∈ l then State.renewBudget (s.tenant t).budget (s.budget t) else s.budget t := by
  induction l generalizing s with
  | nil => simp [renewAll]
  | cons a l ih =>
    obtain ⟨ha, hl⟩ := List.nodup_cons.mp hl
    have hstep : renewAll s (a :: l) = renewAll (s.setBudget a (State.renewBudget (s.tenant a).budget (s.budget a))) l := rfl
    rw [hstep, ih hl]
    by_cases hta : t = a
    · subst hta
      rw [if_neg ha, if_pos List.mem_cons_self]
      exact State.budget_setBudget_self s t _
    · have hb : (s.setBudget a (State.renewBudget (s.tenant a).budget (s.budget a))).budget t = s.budget t :=
        Sparse.get_set_other _ _ _ hta
      have ht : (s.setBudget a (State.renewBudget (s.tenant a).budget (s.budget a))).tenant t = s.tenant t := rfl
      rw [hb, ht]
      by_cases hmem : t ∈ l
      · rw [if_pos hmem, if_pos (List.mem_cons_of_mem a hmem)]
      · rw [if_neg hmem, if_neg (List.not_mem_cons_of_ne_of_not_mem hta hmem)]

theorem SameWaiting.renewAll (s : State) (l : List Nat) : SameWaiting s (renewAll s l) := by
  unfold Machine.renewAll
  exact foldl (fun x t => setBudget x t _) l s

theorem resumeOverdue_nil (s : State) (done : List Nat) : s.resumeOverdue done [] = s := rfl

theorem dealStages_none {s : State} (h : s.loft.pipelines = []) : dealStages s = s := by
  unfold dealStages
  rw [h]
  rfl

theorem launchStages_none {s : State} (h : s.loft.pipelines = []) : s.launchStages = s := by
  unfold State.launchStages
  rw [h]
  rfl

theorem ageFrames_loft (s : State) : s.ageFrames.loft = s.loft :=
  (Served.foldl (fun x (e : Nat × Frame) => Served.updFrame x e.1 _) _ s).loft

theorem beginPeriod_pipelines (s : State) (k : Nat) : (beginPeriod s k).loft.pipelines = s.loft.pipelines := rfl
theorem beginPeriod_budgets (s : State) (k : Nat) : (beginPeriod s k).loft.budgets = s.loft.budgets := rfl

/-- With no context overdue and no pipeline, a boundary renews each tenant's tokens and no more. -/
theorem boundary_budget {s : State} (hover : s.loft.overdue = []) (hpipe : s.loft.pipelines = []) {t : Nat} (ht : t < 16) :
    s.boundary.budget t = State.renewBudget (s.tenant t).budget (s.budget t) := by
  have hnone : (beginPeriod (renewAll s (List.range 16)) (s.loft.period + 1)).ageFrames.loft.pipelines = [] := by
    rw [ageFrames_loft, beginPeriod_pipelines, (SameWaiting.renewAll s _).pipelines, hpipe]
  rw [boundary_eq, hover, resumeOverdue_nil, dealStages_none hnone, launchStages_none hnone]
  unfold State.budget
  rw [ageFrames_loft, beginPeriod_budgets]
  exact (budget_renewAll (List.range 16) List.nodup_range s t).trans (if_pos (List.mem_range.mpr ht))

/-! ## Time goes on (R24, R276) -/

theorem KeepsInv.reachGt (s : State) (g : Nat) : KeepsInv s (reachGt s g) := id

theorem KeepsInv.charge (s : State) (g : Nat) : KeepsInv s (s.charge g) := by
  rw [charge_eq]
  refine ite (refl s) ?_
  exact (of_kept (Kept.chargeAll s g)).trans ((reachGt _ g).trans (of_kept ((Kept.freeAllPassed _).trans (Kept.openPods _))))

theorem KeepsInv.passTo (s : State) (g n : Nat) : KeepsInv s (s.passTo g n) := by
  induction n generalizing s with
  | zero => exact charge s g
  | succ n ih =>
    unfold State.passTo
    exact ite (charge s g) (((charge s _).trans (boundary _)).trans (ih _))

theorem KeepsInv.advanceTo (s : State) (g : Nat) : KeepsInv s (s.advanceTo g) :=
  ((passTo s g _).trans (reachGt _ _)).trans (of_kept (Kept.freeAllPassed _))

/-! ## The schedule's events -/

/-- The tenant holds no budget from then on. -/
theorem tokens_spent {s : State} {t : Nat} (h : (s.budget t).tokens ≤ 0) :
    ∃ x, exec (.tokensReachZero t) s = .next x ∧ x.budget t = { s.budget t with spent := true } ∧ x.holdsBudget t = false := by
  have hx : exec (.tokensReachZero t) s = execTokensReachZero t s := rfl
  refine ⟨s.setBudget t { s.budget t with spent := true }, ?_, State.budget_setBudget_self s t _, ?_⟩
  · rw [hx, execTokensReachZero, if_neg (by omega)]
  · unfold State.holdsBudget
    rw [State.budget_setBudget_self]
    simp

/-- A period ends. -/
theorem periodBoundary_begins (s : State) : ∃ t, exec .periodBoundary s = .next t ∧ t.loft.period = s.loft.period + 1 ∧
    t.gt = max s.gt (10000 * (s.loft.period + 1)) ∧
    ∀ tenant, s.loft.overdue = [] → s.loft.pipelines = [] → tenant < 16 →
      t.budget tenant = State.renewBudget ((s.charge (10000 * (s.loft.period + 1))).tenant tenant).budget
        ((s.charge (10000 * (s.loft.period + 1))).budget tenant) := by
  have hsame := SameWaiting.charge s (10000 * (s.loft.period + 1))
  refine ⟨_, rfl, ?_, ?_, fun tenant hover hpipe ht => ?_⟩
  · exact (boundary_period _).trans (congrArg (· + 1) hsame.period)
  · exact (boundary_gt _).trans (charge_gt s _)
  · exact boundary_budget (hsame.overdue.trans hover) (hsame.pipelines.trans hpipe) ht

end Sys2Proof.Machine
end

section
/-! # Proofs: the schedule (O46) -/

namespace Sys2Proof.Machine

/-- With no warp on the core, its cycles are counted and nothing else. -/
theorem issueOpportunity_empty {s : State} {core : Nat} (hclock : clockHeld s core = false)
    (hwids : s.warpsWhere (fun w => w.onCore && w.gcore == core) = []) :
    exec (.issueOpportunity core) s =
      let gone := max 1 ((s.gt - (s.core core).since) * 36 / 10 - (s.core core).spent)
      .next ((s.advanceTo ((s.core core).since + ((s.core core).spent + gone) * 10 / 36)).updCore core
        (fun c => { c with cycles := c.cycles + gone, spent := c.spent + gone })) := by
  have hx : exec (.issueOpportunity core) s = execIssueOpportunity core s := rfl
  rw [hx, execIssueOpportunity, hclock, hwids]
  rfl

/-- A clock that is held lets only GT go on. -/
theorem issueOpportunity_held {s : State} {core : Nat} (hclock : clockHeld s core = true) :
    exec (.issueOpportunity core) s = .next (s.advanceTo (s.gt + 1)) := by
  have hx : exec (.issueOpportunity core) s = execIssueOpportunity core s := rfl
  rw [hx, execIssueOpportunity, hclock, if_pos rfl]

/-- One opportunity of a core with warps, once their lines are fetched: `here` are the warps left on it. -/
theorem issueOpportunity_fetched {s x b : State} {core : Nat} {wids here ready : List Nat} {counted : (Nat → Bool) → State}
    (hclock : clockHeld s core = false) (hwids : s.warpsWhere (fun w => w.onCore && w.gcore == core) = wids)
    (hfetch : fetchWarps (wids.foldl settleWsync s) wids = (x, none))
    (hb : advanceCore x core (wids.filter (fun wid => (x.warp wid).onCore)) = b)
    (hhere : (wids.filter (fun wid => (x.warp wid).onCore)).filter (fun wid => (b.warp wid).onCore) = here)
    (hready : here.filter (fun wid => !(b.readySplits wid).isEmpty) = ready)
    (hcounted : ∀ chosen, counted chosen = here.foldl (fun s wid => s.updWarp wid (fun w => { w with
        yieldWarp := false
        waitCount := if chosen wid then 0 else if ready.contains wid then w.waitCount + 1 else w.waitCount })) b) :
    exec (.issueOpportunity core) s = .next ((chooseWarp b ready).elim (counted (fun y => chooseWarp b ready == some y))
      (fillSlots (counted (fun y => chooseWarp b ready == some y)) core)) := by
  have hx : exec (.issueOpportunity core) s = execIssueOpportunity core s := rfl
  rw [hx, execIssueOpportunity, hclock, if_neg Bool.false_ne_true, hwids]
  dsimp only
  rw [hfetch]
  dsimp only
  rw [hb, hhere, hready, hcounted]
  cases chooseWarp b ready with
  | none => rfl
  | some wid => rfl

/-- A slice ends on the quad that is named. -/
theorem sliceEnd_saves {s x : State} {queue g u q : Nat} (hwant : wanting s queue = some (x, g))
    (hbudget : s.holdsBudget (queue / 4) = true) (hu : sliceTenant x g = some u) (hq : sliceQuad x g u = some q) :
    exec (.sliceEnd queue) s = .next ((warpsOnQuad s u q).foldl (fun s wid => s.saveWarp wid) s) := by
  have hx : exec (.sliceEnd queue) s = execSliceEnd queue s := rfl
  have hfor : sliceFor s queue = some (u, q) := by
    rw [sliceFor, hbudget, hwant]
    simp [hu, hq]
  rw [hx, execSliceEnd, hfor]

/-- A core of least evictions gives way. -/
theorem partialEviction_evicts {s x : State} {core queue g : Nat} (hwant : wanting s queue = some (x, g))
    (hcore : (evictionCores x g).contains core = true)
    (hleast : ∀ c ∈ evictionCores x g, (s.core core).evictions ≤ (s.core c).evictions) :
    exec (.partialEviction core queue) s = .next (evictSet s (setVictims x g (coreSet x g core))) := by
  have hx : exec (.partialEviction core queue) s = execPartialEviction core queue s := rfl
  have hall : (evictionCores x g).all (fun c => (s.core core).evictions ≤ (s.core c).evictions) = true := by
    simpa using hleast
  rw [hx, execPartialEviction, hwant]
  dsimp only
  rw [hcore, hall]
  rfl

/-- Settles O46. -/
theorem scheduleEvents : Obligations.ScheduleEvents := by
  unfold Obligations.ScheduleEvents
  intro s core queue g tenant x
  dsimp only
  refine ⟨issueOpportunity_held, issueOpportunity_empty, fun hclock hfetch => ?_, ?_, ?_, tokens_spent, fun hwant => ⟨?_, ?_⟩⟩
  · refine ⟨fun hnone => ?_, fun wid hsome => ?_⟩
    · rw [issueOpportunity_fetched hclock rfl hfetch rfl rfl rfl (fun _ => rfl), hnone]
      rfl
    · rw [issueOpportunity_fetched hclock rfl hfetch rfl rfl rfl (fun _ => rfl), hsome]
      rfl
  · rw [advanceTo_gt]
    omega
  · obtain ⟨t, ht, hperiod, hgt, hbudget⟩ := periodBoundary_begins s
    exact ⟨t, ht, hperiod, hgt, hbudget tenant⟩
  · exact fun u q hbudget hu hq => sliceEnd_saves hwant hbudget hu hq
  · exact partialEviction_evicts hwant

end Sys2Proof.Machine
end

section
/-! # Proofs: what links, coherence and homes keep (R199, R200, R214, R216, R330 to R338, R392 to R413) -/

namespace Sys2Proof.Machine

namespace Kept

/-! ## Links (R392 to R400) -/

theorem settleAllErrors (s : State) (d : Nat) : Kept s (s.settleAllErrors d) := foldl (fun x w => settleErrors x d w) _ s
theorem settleFlits (s : State) (d : Nat) : Kept s (s.settleFlits d) := of_served (Served.settleFlits s d)
theorem restoreWave (s : State) (d w : Nat) : Kept s (s.restoreWave d w) := of_served (Served.restoreWave s d w)
theorem sendControl (s : State) (link : Nat) (what : List Byte) : Kept s (s.sendControl link what) := of_served (Served.sendControl s link what)
theorem askWave (s : State) (d w : Nat) : Kept s (s.askWave d w) := sendControl s _ _
theorem announce (s : State) (d : Nat) : Kept s (s.announce d) := sendControl s _ _
theorem askReplay (s : State) (link seq : Nat) : Kept s (s.askReplay link seq) := sendControl s _ _

theorem setWave (s : State) (d w : Nat) (x : Wave) : Kept s (s.setWave d w x) := by
  unfold State.setWave
  extract_lets y since waves src z
  have hy : Kept s y := settleErrors s d w
  have hz : Kept y z := ite (refl y) (settleFlits y d)
  clear_value z
  exact (hy.trans hz).trans (setLinkDir z d _)

theorem noteLost (s : State) (d n : Nat) : Kept s (s.noteLost d n) := setLinkDir s d _

theorem sendHeld (s : State) (d : Nat) (flits : List Flit) : Kept s (s.sendHeld d flits) := (setLinkDir s d _).trans (noteLost _ _ _)

theorem passHeld (s : State) (link : Nat) (flits : List Flit) : Kept s (s.passHeld link flits) :=
  ite (setLinkDir s _ _) (sendHeld s _ _)

theorem beginPortDown (s : State) (link : Nat) : Kept s (s.beginPortDown link) := ite (net s _) (refl s)

theorem goDown (s : State) (d : Nat) : Kept s (s.goDown d) := by
  unfold State.goDown
  extract_lets link y
  have hy : Kept s y := (settleAllErrors s d).trans (settleFlits _ d)
  clear_value y
  refine hy.trans (ite (refl y) ?_)
  exact (setLinkDir y d _).trans (ite (refl _)
    (((setLinkDir _ _ _).trans (passHeld _ link _)).trans ((notify _ _ _).trans (beginPortDown _ link))))

theorem settled (s : State) (ds : List Nat) :
    Kept s (ds.foldl (fun s d => if (s.linkDir d).down then (s.settleAllErrors d).settleFlits d else s) s) :=
  foldl (fun x d => ite (p := (x.linkDir d).down = true) ((settleAllErrors x d).trans (settleFlits _ d)) (refl x)) ds s

theorem comeUp (s : State) (link : Nat) : Kept s (s.comeUp link) := by
  unfold State.comeUp
  refine ite ?_ (refl s)
  extract_lets x out other waiting y z d u v n t
  have hx : Kept s x := settled s [2 * link, 2 * link + 1]
  have hy : Kept x y := setLinkDir x (2 * link) _
  have hz : Kept y z := ite (refl y) (setLinkDir y _ _)
  have hu : Kept z u := setLinkDir z (2 * link + 1) _
  have hv : Kept u v := sendHeld u _ _
  have ht : Kept v t := net v _
  clear_value t
  exact ((hx.trans hy).trans (hz.trans hu)).trans ((hv.trans ht).trans (notify t _ _))

theorem takeSpare (s : State) (d w : Nat) (x : Wave) : Kept s (s.takeSpare d w x) := by
  unfold State.takeSpare
  exact ((setWave s d w x).trans (setLinkDir _ d _)).trans ((net _ _).trans (notify _ _ _))

theorem failAttempt (s : State) (d w : Nat) : Kept s (s.failAttempt d w) := by
  unfold State.failAttempt
  exact ite (setWave s _ _ _) (ite (takeSpare s _ _ _) ((setWave s _ _ _).trans (notify _ _ _)))

theorem execCheckIntervalEnd (dir wave errors : Nat) (s : State) : EndsKept s (execCheckIntervalEnd dir wave errors s) := by
  unfold Machine.execCheckIntervalEnd
  refine EndsKept.ite (EndsKept.next (refl s)) ?_
  dsimp only
  refine EndsKept.trans (setLinkDir s dir _) (EndsKept.ite (EndsKept.next ?_) (EndsKept.next (refl _)))
  exact (ite (askWave _ _ _) (refl _)).trans ((setWave _ _ _ _).trans (notify _ _ _))

theorem execWithdrawMsg (dir wave : Nat) (s : State) : EndsKept s (execWithdrawMsg dir wave s) := by
  unfold Machine.execWithdrawMsg
  exact EndsKept.next (ite ((ite (announce s _) (refl s)).trans (setWave _ _ _ _)) (refl s))

theorem execTrainingAttemptEnd (dir wave errors : Nat) (s : State) : EndsKept s (execTrainingAttemptEnd dir wave errors s) := by
  unfold Machine.execTrainingAttemptEnd
  exact EndsKept.ite (EndsKept.next (refl s)) (EndsKept.ite (EndsKept.next (setWave s _ _ _)) (EndsKept.next (failAttempt s _ _)))

theorem execRestoreMsg (dir wave : Nat) (s : State) : EndsKept s (execRestoreMsg dir wave s) := by
  unfold Machine.execRestoreMsg
  dsimp only
  split
  · exact EndsKept.next ((ite (askWave s _ _) (announce s _)).trans (setWave _ _ _ _))
  · exact EndsKept.next (((settleErrors s _ _).trans (restoreWave _ _ _)).trans (comeUp _ _))
  · exact EndsKept.next (comeUp s _)
  · exact EndsKept.next (refl s)

theorem execLossOfLock (dir : Nat) (lost : BitVec 8) (s : State) : EndsKept s (execLossOfLock dir lost s) :=
  EndsKept.next (ite (goDown s dir) (refl s))

theorem replayFlit (s : State) (d : Nat) : Kept s (replayFlit s d) := by
  unfold Machine.replayFlit
  refine ite (((setLinkDir s d _).trans (noteLost _ _ _)).trans (goDown _ d)) ?_
  exact (((fresh s).trans (setLinkDir _ d _)).trans (noteLost _ _ _)).trans (ite (askReplay _ _ _) (refl _))

theorem execFlitReceive (dir : Nat) (bytes : List Byte) (s : State) : EndsKept s (execFlitReceive dir bytes s) := by
  unfold Machine.execFlitReceive
  exact EndsKept.ite (EndsKept.next (refl s)) (EndsKept.ite (EndsKept.next (replayFlit s dir))
    (EndsKept.ite (EndsKept.next (refl s)) (EndsKept.next (setLinkDir s _ _))))

/-! ## Requests of other packages (R403 to R405) -/

theorem sendAnswer (s : State) (vc line p : Nat) (data : List Byte) : Kept s (s.sendAnswer vc line p data) :=
  of_served (Served.sendAnswer s vc line p data)

theorem writeHome (s : State) (line : Nat) (bytes : List (Nat × Byte)) : Kept s (writeHome s line bytes) :=
  (preserveLine s line).trans (of_served (Served.putHome _ _ _))

theorem answerData (s : State) (line : Nat) : Kept s (answerData s line).1 := by
  unfold Machine.answerData
  extract_lets a valid
  split
  · exact readBytes s _ 64
  · exact readBytes s _ 64
  · exact readBytes s _ 64

theorem sendData (s : State) (r : DirRequest) (wanted : Bool) : Kept s (sendData s r wanted) :=
  (answerData s r.line).trans (sendAnswer _ _ _ _ _)

theorem supply (s : State) (r : DirRequest) : Kept s (supply s r) := by
  have hack : ∀ x : State, Kept x (if needsUs x r then x.sendAnswer 2 r.line r.pkg else x) :=
    fun x => ite (sendAnswer x _ _ _ _) (refl x)
  unfold Machine.supply
  extract_lets home owner
  split
  · exact ite (sendData s r true) (refl s)
  · exact ite (sendData s r true) (refl s)
  · exact (hack s).trans (ite ((fresh _).trans (sendData _ _ _)) (refl _))
  · exact (hack s).trans (ite (sendAnswer _ _ _ _ _) (refl _))

/-- A write that is performed at the home while the range is rebuilt (R407). -/
theorem writeUncached (s : State) (r : DirRequest) (home : Bool) (l : List Rebuild → List Rebuild) :
    Kept s (
      let x := Machine.writeHome s r.line r.bytes
      let x := if home then x.sendAnswer 1 r.line r.pkg else x
      { x with net := { x.net with rebuilds := l x.net.rebuilds } }) :=
  ((writeHome s r.line r.bytes).trans (ite (sendAnswer _ 1 r.line r.pkg []) (refl _))).trans (net _ _)

theorem resolveRequest (s : State) (r : DirRequest) : Kept s (resolveRequest s r) := by
  have hold : Kept s (if r.kind == .homeRead then s else s.preserveLine r.line) := ite (refl s) (preserveLine s _)
  unfold Machine.resolveRequest
  generalize (if r.kind == .homeRead then s else s.preserveLine r.line) = x at hold ⊢
  have hsupply := supply x r
  refine hold.trans ?_
  dsimp only
  split
  · split
    · exact writeUncached x r _ _
    · exact writeUncached x r _ _
    · exact ite (sendData x r true) (refl x)
  · split
    · exact hsupply.trans (of_served (Served.dirRead _ _ _))
    · exact hsupply.trans (of_served (Served.dirOwn _ _ _))
    · exact hsupply.trans (of_served (Served.dirHomeRead _ _))
    · exact (hsupply.trans (of_served (Served.dirHomeWrite _ _))).trans (writeHome _ _ _)

theorem serveLine (s : State) (line fuel : Nat) : Kept s (serveLine s line fuel) := by
  induction fuel generalizing s with
  | zero => exact refl s
  | succ fuel ih =>
    unfold Machine.serveLine
    split
    · exact refl s
    · exact ite (refl s) (((resolveRequest s _).trans (net _ _)).trans (ih _))

theorem arriveRequest (s : State) (r : DirRequest) : Kept s (arriveRequest s r) := by
  unfold Machine.arriveRequest
  exact (net s _).trans (ite (refl _) (serveLine _ _ _))

theorem noteApplied (s : State) (pkg tag : Nat) : Kept s (noteApplied s pkg tag) := net s _

theorem execRds (line pkg : Nat) (s : State) : EndsKept s (execRds line pkg s) := EndsKept.next (ite (arriveRequest s _) (refl s))
theorem execRdx (line pkg : Nat) (s : State) : EndsKept s (execRdx line pkg s) := EndsKept.next (ite (arriveRequest s _) (refl s))
theorem execHomeRead (line : Nat) (s : State) : EndsKept s (execHomeRead line s) := EndsKept.next (ite (arriveRequest s _) (refl s))

theorem execHomeWrite (line pkg tag : Nat) (bytes : List (Nat × Byte)) (s : State) : EndsKept s (execHomeWrite line pkg tag bytes s) :=
  EndsKept.next (ite ((noteApplied s _ _).trans (arriveRequest _ _)) (refl s))

theorem execWb (line pkg tag : Nat) (keep : Bool) (bytes : List (Nat × Byte)) (s : State) : EndsKept s (execWb line pkg tag keep bytes s) :=
  EndsKept.next (ite (((noteApplied s _ _).trans (writeHome _ _ _)).trans (of_served (Served.dirWriteBack _ _ _ _))) (refl s))

theorem execEv (line pkg : Nat) (s : State) : EndsKept s (execEv line pkg s) :=
  EndsKept.next (ite (of_served (Served.dirDrop s _ _)) (refl s))

theorem answerRequest (s : State) (line : Nat) (kinds : List DirKind) : Kept s (answerRequest s line kinds) := by
  unfold Machine.answerRequest
  split
  · exact refl s
  · exact ite (refl s) (((resolveRequest s _).trans (net _ _)).trans (serveLine _ _ _))

theorem execForwardedRequest (line : Nat) (s : State) : EndsKept s (execForwardedRequest line s) := EndsKept.next (answerRequest s _ _)
theorem execInvalidation (line : Nat) (s : State) : EndsKept s (execInvalidation line s) := EndsKept.next (answerRequest s _ _)

theorem execBackInvalidation (line : Nat) (s : State) : EndsKept s (execBackInvalidation line s) := by
  unfold Machine.execBackInvalidation
  split
  · exact EndsKept.next (ite (refl s) (((preserveLine s line).trans (of_served (Served.backInvalidate _ _))).trans (serveLine _ _ _)))
  · exact EndsKept.next (refl s)

/-! ## Switch failure, rebuild and port-down (R406 to R411) -/

theorem execSwitchFailure (switch : Nat) (s : State) : EndsKept s (execSwitchFailure switch s) := by
  unfold Machine.execSwitchFailure
  exact EndsKept.ite (EndsKept.next (refl s)) (EndsKept.next (((net s _).trans (net _ _)).trans (notify _ _ _)))

theorem execRequestResend (wid lane : Nat) (s : State) : EndsKept s (execRequestResend wid lane s) := by
  unfold Machine.execRequestResend
  exact EndsKept.next ((foldl (fun x p => sendMessage x _ _ _ _ _ _) _ s).trans (net _ _))

theorem updRebuild (s : State) (k : Nat) (f : Rebuild → Rebuild) : Kept s (updRebuild s k f) := net s _

theorem serveRange (s : State) (k : Nat) : Kept s (serveRange s k) := foldl (fun x l => ite (refl x) (serveLine x l _)) _ s

theorem reportLines (s : State) (switch : Nat) (lines : List Nat) : Kept s (reportLines s switch lines) := by
  unfold Machine.reportLines
  exact foldl (fun x i => sendMessage x _ _ _ _ _ _) _ s

theorem setDirEntry (s : State) (e : DirEntry) : Kept s (s.setDirEntry e) := net s _

theorem execRebuildHoldEnd (switch : Nat) (bytes : List (Nat × Nat × Byte)) (s : State) : EndsKept s (execRebuildHoldEnd switch bytes s) := by
  unfold Machine.execRebuildHoldEnd
  split
  · exact EndsKept.next (refl s)
  · refine EndsKept.ite (EndsKept.next (refl s)) ?_
    extract_lets es mine x y z u src v
    have hx : Kept s x := by
      refine foldl (fun y e => ?_) _ s
      split
      · exact of_served (Served.writeBackLine y _ _)
      · exact refl y
    have hy : Kept x y := foldl (fun z e => ite (refl z)
      (ite ((preserveLine z _).trans (of_served (Served.settleOwner _ _))) (writeHome z _ _))) _ x
    have hu : Kept y u := (reportLines y _ _).trans (foldl (fun w e => setDirEntry w _) _ z)
    have hv : Kept u v := net u _
    clear_value v u
    exact EndsKept.next (((hx.trans hy).trans (hu.trans hv)).trans ((updRebuild v _ _).trans (serveRange _ _)))

theorem execRebuildOpen (switch : Nat) (s : State) : EndsKept s (execRebuildOpen switch s) := by
  unfold Machine.execRebuildOpen
  split
  · exact EndsKept.next (refl s)
  · refine EndsKept.ite (EndsKept.next (refl s)) (EndsKept.next ?_)
    refine Kept.trans (foldl (fun x l => ?_) _ s) (((updRebuild _ _ _).trans (notify _ _ _)).trans (serveRange _ _))
    exact of_served (((Served.loseLine x l false).trans (Served.dropDirEntry _ l)).trans (Served.setExported _ l false))

theorem poisonHome (s : State) (line : Nat) : Kept s (poisonHome s line) := by
  unfold Machine.poisonHome
  refine foldl (fun x i => ?_) _ s
  dsimp only
  split
  · exact poison x _ _
  · exact poison x _ _

theorem forgetPackage (s : State) (switch pkg : Nat) : Kept s (forgetPackage s switch pkg) := by
  unfold Machine.forgetPackage
  refine foldl (fun x e => ?_) _ s
  extract_lets dirty y z u rest
  have hy : Kept x y := ite (preserveLine x _) (refl x)
  have hz : Kept y z := ite (of_served (Served.loseLine y _ _)) (refl y)
  have hu : Kept z u := ite (poisonHome z _) (refl z)
  clear_value u
  refine ((hy.trans hz).trans hu).trans (ite ?_ (ite (setDirEntry u _) (setDirEntry u _)))
  exact of_served ((Served.dropDirEntry u _).trans (Served.setExported _ _ _))

theorem serveSwitch (s : State) (switch : Nat) : Kept s (serveSwitch s switch) := foldl (fun x k => serveRange x k) _ s
theorem dropRequests (s : State) (switch pkg : Nat) : Kept s (dropRequests s switch pkg) := net s _

theorem execPortDownExpiry (port : Port) (s : State) : EndsKept s (execPortDownExpiry port s) := by
  unfold Machine.execPortDownExpiry
  refine EndsKept.ite (EndsKept.next (ite ?_ (refl s))) (EndsKept.ite (EndsKept.next (refl s)) (EndsKept.next ?_))
  · exact ((forgetPackage s _ _).trans (dropRequests _ _ _)).trans (serveSwitch _ _)
  · exact ((foldl (fun x w => ite (consume x _ _ _ _) (refl x)) _ s).trans (forgetPackage _ _ _)).trans ((net _ _).trans (notify _ _ _))

/-! ## Homes (R199, R200, R214, R216, R330 to R338) -/

theorem lookAgain (s : State) (a : Addend) : AccessKept s (lookAgain s a) := by
  have h := lookup s a.gcore a.tenant (a.va.toNat / 4096)
  unfold Machine.lookAgain
  dsimp only
  generalize s.lookup a.gcore a.tenant (a.va.toNat / 4096) = r at h ⊢
  obtain ⟨x, c⟩ := r
  cases c with
  | none => exact h
  | some c =>
    dsimp only
    split
    · exact h
    · exact AccessKept.trans h (throughCopy x _ _ _ c _)

theorem sendAgain (s : State) (a : Addend) : AccessKept s (sendAgain s a) := by
  have h := lookAgain s a
  unfold Machine.sendAgain
  generalize Machine.lookAgain s a = r at h ⊢
  cases r with
  | trap x c => exact h
  | wait x => exact h
  | hole n => exact h
  | park x =>
    have hw := completeWalk s a.gcore a.tenant a.va.toNat
    dsimp only
    split
    · rename_i y hy
      rw [hy] at hw
      exact AccessKept.trans hw (lookAgain y a)
    · exact h
  | _ x p => exact h

theorem addendAccess (s : State) (a : Addend) : AccessKept s (addendAccess s a) := by
  unfold Machine.addendAccess
  split
  · exact refl s
  · refine AccessKept.ite (reach s _ _ _ _ _) ?_
    have h := sendAgain s a
    generalize Machine.sendAgain s a = r at h ⊢
    cases r with
    | trap x c => exact h
    | park x => exact h
    | wait x => exact h
    | hole n => exact h
    | _ x p => exact Kept.trans h (updCore x _ _)

theorem applyAddend {s t : State} {a : Addend} (h : applyAddend s a = some t) : Kept s t := by
  have ha := addendAccess s a
  unfold Machine.applyAddend at h
  generalize Machine.addendAccess s a = r at ha h
  cases r with
  | trap x c => cases h
  | park x => cases h
  | wait x => cases h
  | hole n => cases h
  | _ x p =>
    cases h
    exact (Kept.trans ha (readAt x a.tenant 0 p 4)).trans ((writeAt _ a.tenant 0 p.bare _).trans (ite (noteWrite _ _ _) (refl _)))

theorem addends (s : State) (l : List Addend) (t : Sparse Nat) : Kept s { s with mem := { s.mem with addends := l, tickets := t } } :=
  ⟨id, rfl, rfl⟩

theorem takeAddend {s x : State} {n : Nat} {a : Addend} (h : takeAddend s n = some (x, a)) : Kept s x := by
  unfold Machine.takeAddend at h
  split at h
  · cases h
    exact addends s _ _
  · cases h

/-- An addend is applied, or the machine stands as it was. -/
theorem applied {s x : State} (h : Kept s x) (a : Addend) : Kept s ((Machine.applyAddend x a).getD s) := by
  cases ha : Machine.applyAddend x a with
  | none => exact refl s
  | some t => exact h.trans (applyAddend ha)

theorem execDrainaAddition (n : Nat) (s : State) : EndsKept s (execDrainaAddition n s) := by
  unfold Machine.execDrainaAddition
  split
  · rename_i hx
    exact EndsKept.next (ite (applied (takeAddend hx) _) (refl s))
  · exact EndsKept.next (refl s)

theorem applyAll {s t : State} {l : List Addend} (h : l.foldlM Machine.applyAddend s = some t) : Kept s t := by
  induction l generalizing s with
  | nil =>
    cases h
    exact refl _
  | cons a l ih =>
    rw [List.foldlM_cons] at h
    cases ha : Machine.applyAddend s a with
    | none =>
      rw [ha] at h
      cases h
    | some x =>
      rw [ha] at h
      exact (applyAddend ha).trans (ih h)

theorem execOrdGroupApply (line : Nat) (s : State) : EndsKept s (execOrdGroupApply line s) := by
  unfold Machine.execOrdGroupApply
  split
  · exact EndsKept.next (refl s)
  · extract_lets mine now next m t
    have ht : Kept s t := addends s _ _
    clear_value t
    refine EndsKept.next ?_
    cases ha : now.foldlM Machine.applyAddend t with
    | none => exact refl s
    | some x => exact ht.trans (applyAll ha)

theorem fillSector (s : State) (fid n cls : Nat) : Kept s (s.fillSector fid n cls) := of_served (Served.fillSector s fid n cls)

theorem execSectorFill (fid sector : Nat) (s : State) : EndsKept s (execSectorFill fid sector s) := by
  unfold Machine.execSectorFill
  exact EndsKept.ite (EndsKept.next (fillSector s _ _ _)) (EndsKept.next (refl s))

theorem execGleanerPolicyMove (tenant vpn : Nat) (target : Option Nat) (s : State) : EndsKept s (execGleanerPolicyMove tenant vpn target s) := by
  unfold Machine.execGleanerPolicyMove
  split
  · exact EndsKept.next (refl s)
  · exact EndsKept.ite (EndsKept.next (of_served (Served.giveUp s _ _))) (EndsKept.ite (EndsKept.next (refl s)) (EndsKept.next (startRequest s _)))

theorem switchOf (s : State) (tenant vpn : Nat) (kind : MoveKind) {f : State → Move → State} (hf : ∀ x m, Kept x (f x m)) :
    Kept s (switchOf s tenant vpn kind f) := by
  unfold Machine.switchOf
  split
  · exact ite (hf s _) (refl s)
  · exact refl s

theorem execMoveSwitch (tenant vpn : Nat) (s : State) : EndsKept s (execMoveSwitch tenant vpn s) :=
  EndsKept.next (switchOf s _ _ _ switchMove)
theorem execEvictionSwitch (tenant vpn : Nat) (s : State) : EndsKept s (execEvictionSwitch tenant vpn s) :=
  EndsKept.next (switchOf s _ _ _ switchEvict)
theorem execReplicaSwitch (tenant vpn : Nat) (s : State) : EndsKept s (execReplicaSwitch tenant vpn s) :=
  EndsKept.next (switchOf s _ _ _ switchReplicate)
theorem execReplicaCollapse (tenant vpn : Nat) (s : State) : EndsKept s (execReplicaCollapse tenant vpn s) :=
  EndsKept.next (switchOf s _ _ _ (fun x m => ite (finishCollapse x m) (refl x)))
theorem execForwardingFree (fid : Nat) (s : State) : EndsKept s (execForwardingFree fid s) := EndsKept.next (freePassed s fid)
theorem execSplitResize (col : Nat) (val : DWord) (s : State) : EndsKept s (execSplitResize col val s) := EndsKept.next (splitWrite s _ _)
theorem execResizeComplete (col : Nat) (s : State) : EndsKept s (execResizeComplete col s) := EndsKept.next (resizeStep s _)
theorem execElastClear (die : Nat) (val : DWord) (s : State) : EndsKept s (execElastClear die val s) :=
  EndsKept.next (ite (updDie s _ _) (refl s))
theorem execLcfgWrite (dir : Nat) (val : DWord) (s : State) : EndsKept s (execLcfgWrite dir val s) := EndsKept.next (setLinkDir s _ _)
theorem execWainRequest (core serial : Nat) (s : State) : EndsKept s (execWainRequest core serial s) := engineStep s _ _
theorem execWainRequestComplete (core serial : Nat) (s : State) : EndsKept s (execWainRequestComplete core serial s) :=
  EndsKept.next (engineComplete s _ _)

theorem execDieEngineRequest (die engine serial : Nat) (s : State) : EndsKept s (execDieEngineRequest die engine serial s) := by
  unfold Machine.execDieEngineRequest
  dsimp only
  split
  · exact EndsKept.ite (EndsKept.next (completeRequest s _ _)) (engineStep s _ _)
  · exact engineStep s _ _

end Kept

end Sys2Proof.Machine
end

section
/-! # Proofs: what partition commands keep (R353 to R366, R422) -/

namespace Sys2Proof.Machine

namespace Kept

/-! ## Command memory (R353) -/

theorem commandRead {s x : State} {va : Nat} {l : List Nat} {bs : List Byte} {bad : Bool} (h : commandRead s va l = some (x, bs, bad)) :
    Kept s x := by
  induction l generalizing s va bs bad with
  | nil =>
    cases h
    exact refl _
  | cons n ns ih =>
    unfold Machine.commandRead at h
    split at h
    · cases h
    · rename_i p _
      dsimp only at h
      split at h
      · cases h
      · rename_i hx
        cases h
        exact (readAt _ 0 0 p n).trans (ih hx)

theorem commandWrite (s : State) (va : Nat) (bs : List Byte) (n : Nat) : Kept s (commandWrite s va bs n) := by
  induction n generalizing s va bs with
  | zero => exact refl s
  | succ n ih =>
    unfold Machine.commandWrite
    dsimp only
    split
    · exact (writeAt s 0 0 _ _).trans (ih _ _ _)
    · exact ih _ _ _

theorem measure (s : State) (n : Nat) (payload : List Byte) : Kept s (measure s n payload) := fw s _

/-! ## Frames given up (R330 to R340, R360) -/

theorem finishMove (s : State) (t vpn : Nat) : Kept s (finishMove s t vpn) := by
  unfold Machine.finishMove
  split
  · exact refl s
  · rename_i m _
    split
    · exact switchMove s m
    · exact switchEvict s m
    · exact switchReplicate s m
    · exact finishCollapse s m

theorem settleMove (s : State) (t vpn : Nat) : Kept s (settleMove s t vpn) := by
  unfold Machine.settleMove
  split
  · exact ite (refl s) (finishMove s t vpn)
  · exact refl s

theorem collapsePage (s : State) (t vpn : Nat) : Kept s (collapsePage s t vpn) := by
  unfold Machine.collapsePage
  split
  · exact ite ((beginCollapse s t vpn).trans (settleMove _ t vpn)) (refl s)
  · exact refl s

theorem evictPage (s : State) (t vpn : Nat) : Kept s (evictPage s t vpn) := by
  unfold Machine.evictPage
  extract_lets x
  have hx : Kept s x := (settleMove s t vpn).trans (collapsePage _ t vpn)
  clear_value x
  refine hx.trans ?_
  split
  · exact ite (refl x) (((of_served (Served.beginEvict x t vpn)).trans (finishMove _ t vpn)).trans (freePassed _ _))
  · exact refl x

theorem dropOrphanSet (s : State) (e : Nat × ReplicaSet) : Kept s (dropOrphanSet s e) :=
  ite (refl s) ((foldl (fun x f => freeFrame x f) _ s).trans (dropSet _ _ _))

theorem evictFrames (s : State) (t : Nat) (p : Nat × Frame → Bool) : Kept s (evictFrames s t p) := by
  unfold Machine.evictFrames
  exact ((foldl (fun x v => evictPage x t v) _ s).trans (foldl (fun x e => dropOrphanSet x e) _ _)).trans
    (foldl (fun x (e : Nat × Frame) => ite (refl x) (releaseFrame x e.1)) _ _)

theorem settleMoves (s : State) (t : Nat) : Kept s (settleMoves s t) := foldl (fun x v => settleMove x t v) _ s

theorem recallAll (s : State) (t : Nat) : Kept s (recallAll s t) := by
  unfold Machine.recallAll
  exact ((recallRange s t 0 _).trans (foldl (fun x v => finishMove x t v) _ _)).trans (foldl (fun x v => endHorizon x t v) _ _)

theorem dropShadows (s : State) (t : Nat) : Kept s (dropShadows s t) := by
  unfold Machine.dropShadows
  refine Kept.trans (foldl (fun x y => ?_) _ s) (tables _ _)
  have h := freeFrame x y.fid
  dsimp only
  split
  · exact h.trans (setRaw64 _ _ _)
  · exact h

/-! ## READPART, READTEN, SETTEN and TENANT_RESET (R355, R356, R360) -/

theorem givePayload (s : State) (data : Nat) (bs : List Byte) : Kept s (givePayload s data bs).1 :=
  fst_ite (commandWrite s _ _ _) (refl s)

/-- What waits for a tenant is dropped. -/
theorem discarded (s : State) (l : List Addend) (cs : Sparse Core) (ds : Sparse Die) :
    Kept s { s with mem := { s.mem with addends := l }, cores := cs, dies := ds } := ⟨id, rfl, rfl⟩

theorem beginReset (s : State) (t : Nat) : Kept s (beginReset s t) := by
  unfold Machine.beginReset
  extract_lets e x held pipes y z l u keep m v w
  have hx : Kept s x := setTenant s t _
  have hy : Kept x y := foldl (fun a (b : Nat × Grid) => ite (refl a) (endGrid a b.1 4 none)) _ x
  have hz : Kept y z := foldl (fun a p => updGrid a p _) _ y
  have hu : Kept z u := loft z _ rfl
  have hv : Kept u v := discarded u _ _ _
  have hw : Kept v w := foldl (fun a b => startClearing a _ _) _ v
  clear_value w
  exact (((hx.trans hy).trans (hz.trans hu)).trans (hv.trans hw)).trans (loft w _ rfl)

theorem resetTenant (s : State) (t : Nat) : Kept s (resetTenant s t).1 := by
  unfold Machine.resetTenant
  extract_lets x y z l
  have hx : Kept s x := ite (refl s) (beginReset s t)
  have hy : Kept x y := settleMoves x t
  have hz : Kept y z := (((recallAll y t).trans (dropShadows _ t)).trans (evictFrames _ t _)).trans (freeAllPassed _)
  clear_value z
  exact fst_ite (hx.trans hy) (fst_ite ((hx.trans hy).trans hz) (((hx.trans hy).trans hz).trans (loft z _ rfl)))

theorem bindTenant (s : State) (t : Nat) (dest : Option Nat) : Kept s (bindTenant s t dest) := by
  unfold Machine.bindTenant
  exact foldl (fun x n => setPartition x n _) _ s

theorem setTenantEntry (s : State) (t : Nat) (bs : List Byte) : Kept s (setTenantEntry s t bs).1 := by
  unfold Machine.setTenantEntry
  extract_lets begun x e new
  have hx : Kept s x := ite (refl s) (measure s 6 bs)
  clear_value x
  refine fst_ite hx (fst_ite (hx.trans ((bindTenant x t _).trans (setTenant _ t _))) (fst_ite ?_ (hx.trans (setTenant x t _))))
  split
  · exact hx
  · refine fst_ite hx ?_
    have hr := resetTenant x t
    split
    · rename_i y hy
      rw [hy] at hr
      exact hx.trans hr
    · rename_i y hy
      rw [hy] at hr
      exact (Kept.trans hx hr).trans ((bindTenant y t _).trans (setTenant _ t _))

/-! ## SEGMENT and MODE (R357, R362, R363) -/

theorem withdrawPages (s : State) (l : List (Nat × Nat)) : Kept s (l.foldl (fun s x => Machine.recallRange s x.1 x.2 1) s) :=
  foldl (fun x (y : Nat × Nat) => recallRange x y.1 y.2 1) l s

theorem setSegment (s : State) (arg : Nat) (bs : List Byte) : Kept s (setSegment s arg bs).1 := by
  unfold Machine.setSegment
  extract_lets t n l moving
  split
  · exact measure s 6 bs
  · extract_lets new pages x new' withdraw
    have hx : Kept s x := foldl (fun a (p : Nat × Nat) => performThrough a p.1 _) _ s
    have hnew : Kept x new' := loft x _ hx.period.symm
    have hwithdraw : ∀ a, Kept a (withdraw a) := fun a => withdrawPages a _
    clear_value new' withdraw
    exact fst_ite (hx.trans (hwithdraw x)) (((hx.trans hnew).trans ((measure new' 6 bs).trans (hwithdraw _))).trans
      (foldl (fun a (p : Nat × Nat) => endHorizon a p.1 p.2) _ _))

theorem beginMode (s : State) (new : List Partition) (ts : List Nat) (force : Bool) : Kept s (beginMode s new ts force) := by
  unfold Machine.beginMode
  exact (saveWarps s _).trans (loft _ _ rfl)

theorem installMode (s : State) (w : ModeWork) : Kept s (installMode s w) := by
  unfold Machine.installMode
  extract_lets new ts x y z off l u back
  have hx : Kept s x := foldl (fun a (p : Partition × Nat) => setPartition a p.2 p.1) _ s
  have hy : Kept x y := by
    refine foldl (fun a t => ?_) _ x
    split
    · exact setTenant a t _
    · exact refl a
  have hz : Kept y z := foldl (fun a t => recallAll a t) _ y
  have hu : Kept z u := loft z _ rfl
  clear_value u
  exact ((hx.trans hy).trans (hz.trans hu)).trans (ite (foldl (fun a wid => restoreWarp a wid) _ u) (refl u))

theorem advanceMode (s : State) (w : ModeWork) : Kept s (advanceMode s w).1 := by
  unfold Machine.advanceMode
  extract_lets old x y
  have hx : Kept s x := foldl (fun a t => (settleMoves a t).trans (evictFrames _ t _)) _ s
  have hy : Kept x y := foldl (fun a t => performThrough a t _) _ x
  clear_value y
  exact fst_ite (hx.trans hy) ((hx.trans hy).trans (installMode y w))

theorem setMode (s : State) (n : Nat) (force : Bool) (bs : List Byte) : Kept s (setMode s n force bs).1 := by
  unfold Machine.setMode
  extract_lets es parts bad old new affected ts busy x
  refine fst_ite (refl s) ?_
  have hx : Kept s x := (measure s 4 bs).trans (beginMode _ _ _ _)
  clear_value x busy
  split
  · exact refl s
  · cases busy with
    | some d => exact refl s
    | none =>
      dsimp only
      split
      · exact hx.trans (advanceMode x _)
      · exact hx

/-! ## SAVE and RESTORE (R365, R366) -/

theorem putScratch (s : State) (b : Block) (x : ScratchImage) : Kept s (putScratch s b x) := by
  unfold Machine.putScratch
  exact ((foldl (fun a (e : Nat × Byte) => of_served (Served.setByte a _ e.2)) _ s).trans
    (foldl (fun a (e : Nat × Word) => setSyndrome a _ e.2) _ _)).trans (foldl (fun a (e : Nat × Bool) => setFull a _ e.2) _ _)

theorem saveTenant (s : State) (t data : Nat) : Kept s (saveTenant s t data).1 := by
  unfold Machine.saveTenant
  extract_lets resident cause serial bs x image l y
  have hx : Kept s x := evictFrames s t _
  have hy : Kept x y := loft x _ rfl
  clear_value y cause
  cases cause with
  | some d => exact refl s
  | none => exact fst_ite (refl s) (fst_ite (refl s) (fst_ite hx ((hx.trans hy).trans (commandWrite y _ _ _))))

theorem placeBlocks {s x : State} {number : Nat → Nat} {l : List (Block × ScratchImage)} (h : placeBlocks s number l = some x) : Kept s x := by
  induction l generalizing s with
  | nil =>
    cases h
    exact refl _
  | cons p rest ih =>
    obtain ⟨b, y⟩ := p
    unfold Machine.placeBlocks at h
    split at h
    · cases h
    · dsimp only at h
      refine Kept.trans ?_ ((putScratch _ _ y).trans (ih h))
      exact loft _ _ rfl

theorem retainGrids (s : State) (t gen : Nat) (l : List (Nat × Grid)) : Kept s (retainGrids s t gen l).1 := by
  induction l generalizing s with
  | nil => exact refl s
  | cons x rest ih => exact (retain s _).trans (ih _)

theorem putContexts (s : State) (t gen : Nat) (x : Image) (number : Nat → Nat) : Kept s (putContexts s t gen x number) := by
  unfold Machine.putContexts
  refine Kept.trans ?_ (foldl (fun a w => setWarp a _ _) _ _)
  exact loft s _ rfl

theorem restoreImage (s : State) (t : Nat) (bs : List Byte) : Kept s (restoreImage s t bs).1 := by
  unfold Machine.restoreImage
  extract_lets e gen
  refine fst_ite (refl s) ?_
  split
  · exact refl s
  · rename_i x _
    extract_lets a src b segments l c retired
    have ha : Kept s a := ite (refl s) (bindTenant s t _)
    have hb : Kept a b := setTenant a t _
    have hc : Kept b c := loft b _ rfl
    have hd := retainGrids c t gen x.grids
    clear_value c
    generalize Machine.retainGrids c t gen x.grids = d at hd ⊢
    obtain ⟨d, ns⟩ := d
    have hx := ((ha.trans hb).trans hc).trans hd
    dsimp only at hx ⊢
    split
    · exact refl s
    · rename_i y hy
      have hplaced : Kept d y := by
        split at hy
        · cases hy
        · exact placeBlocks hy
      have hs : Kept s y := hx.trans hplaced
      exact (hs.trans (addends y _ _)).trans ((putContexts _ t gen x _).trans (foldl (fun v q => setQueue v _ _) _ _))

theorem restoreTenant (s : State) (t data : Nat) : Kept s (restoreTenant s t data).1 := by
  unfold Machine.restoreTenant
  split
  · exact refl s
  · rename_i hx
    refine fst_ite (commandRead hx) ?_
    split
    · exact refl s
    · rename_i hy
      exact fst_ite (commandRead hy) ((commandRead hy).trans (restoreImage _ t _))

/-! ## Performing a command (R353, R354) -/

theorem runCommand (s : State) (b : CommandBlock) (payload : List Byte) : Kept s (runCommand s b payload).1 := by
  unfold Machine.runCommand
  split
  · exact givePayload s _ _
  · exact givePayload s _ _
  · exact setTenantEntry s _ _
  · exact setMode s _ _ _
  · have h := resetTenant s b.arg
    split
    · rename_i hx
      rw [hx] at h
      exact h
    · rename_i hx
      rw [hx] at h
      exact h
  · exact setSegment s _ _
  · exact saveTenant s _ _
  · exact restoreTenant s _ _

theorem settleActivate (s : State) : Kept s (settleActivate s) := ite (refl s) (ite (fw s _) (fw s _))

theorem endCommand (s : State) (last : Nat) : Kept s (endCommand s last) := by
  unfold Machine.endCommand
  refine Kept.trans ?_ (settleActivate _)
  exact loft s _ rfl

theorem writeResult (s : State) (addr status d : Nat) : Kept s (writeResult s addr status d) := by
  unfold Machine.writeResult
  split
  · exact refl s
  · exact ((writeAt s 0 0 _ _).trans (writeAt _ 0 0 _ _)).trans (writeAt _ 0 0 _ _)

theorem completeCommand {s : State} {r : CommandResult} (h : Kept s r.1) (addr : Nat) : Kept s (completeCommand addr r) := by
  unfold Machine.completeCommand
  split
  · exact h.trans ((writeResult _ _ _ _).trans (endCommand _ _))
  · exact h
  · exact h.trans (endCommand _ _)

theorem keepTaken (s : State) (block payload : List Byte) : Kept s (keepTaken s block payload) := by
  unfold Machine.keepTaken
  split
  · exact loft s _ rfl
  · exact refl s

theorem takeCommand (s : State) (addr : Nat) (block : List Byte) : Kept s (takeCommand s addr block) := by
  unfold Machine.takeCommand
  dsimp only
  split
  · exact completeCommand (r := (s, .done Status.field 0)) (refl s) addr
  · rename_i hx
    have h := commandRead hx
    exact completeCommand (fst_ite h ((h.trans (keepTaken _ _ _)).trans (runCommand _ _ _))) addr

theorem performCommand (op : Nat) (s : State) : EndsKept s (performCommand op s) := by
  unfold Machine.performCommand
  split
  · exact EndsKept.next (refl s)
  · rename_i c _ _
    extract_lets addr
    refine EndsKept.ite (EndsKept.next (refl s)) ?_
    split
    · exact EndsKept.next (ite (completeCommand (advanceMode s _) addr) (refl s))
    · split
      · exact EndsKept.next (ite (refl s) (completeCommand (runCommand s _ _) addr))
      · split
        · exact EndsKept.next (endCommand s 1)
        · rename_i x bs bad hx
          have h := commandRead hx
          refine EndsKept.ite (EndsKept.next (h.trans (endCommand _ _))) (EndsKept.ite (EndsKept.next ?_) (EndsKept.next ?_))
          · exact completeCommand (r := (x, .done Status.field 0)) h addr
          · exact ite (refl s) (h.trans (takeCommand _ _ _))

end Kept

end Sys2Proof.Machine
end

section
/-! # Proofs: what issue, firmware and power keep (R24, R34, R412 to R428) -/

namespace Sys2Proof.Machine

/-- An outcome that goes on keeps memory in canonical form. -/
def EndsInv (s : State) (o : Host.Outcome State Fault Refusal) : Prop := ∀ t, o = .next t → KeepsInv s t

namespace EndsInv

theorem next {s t : State} (h : KeepsInv s t) : EndsInv s (.next t) := fun _ ht => by cases ht; exact h

theorem fault (s : State) (f : Fault) : EndsInv s (.fault f) := fun _ ht => by cases ht

theorem ite {p : Prop} [Decidable p] {s : State} {a b : Host.Outcome State Fault Refusal} (ha : EndsInv s a) (hb : EndsInv s b) :
    EndsInv s (if p then a else b) := by
  split
  · exact ha
  · exact hb

theorem trans {s x : State} {o : Host.Outcome State Fault Refusal} (h : KeepsInv s x) (h' : EndsInv x o) : EndsInv s o :=
  fun t ht => h.trans (h' t ht)

theorem of_kept {s : State} {o : Host.Outcome State Fault Refusal} (h : EndsKept s o) : EndsInv s o := fun t ht => (h t ht).wf

end EndsInv

namespace Kept

/-! ## Issue (R24, R34, R38, R100 to R104, R139) -/

theorem settleWsync (s : State) (wid : Nat) : Kept s (settleWsync s wid) := by
  unfold Machine.settleWsync
  exact foldl (fun x m => ite (releaseWsync x wid m) (refl x)) _ s

theorem fetchSplit (s : State) (wid : Nat) (x : Split) : Kept s (fetchSplit s wid x).1 := by
  have h := fetchLine s wid x.lanes.lowest (lineOf x.pc)
  unfold Machine.fetchSplit
  generalize Machine.fetchLine s wid x.lanes.lowest (lineOf x.pc) = r at h ⊢
  cases r with
  | hole a => exact refl s
  | wait y => exact h
  | line y bits => exact h
  | consumed y => exact Kept.trans h (consume _ _ _ _ _)
  | park y =>
    refine fst_ite ?_ ?_
    · exact Kept.trans h ((updWarp y wid _).trans (settleParked _ wid))
    · exact Kept.trans h (keepEntry _ _ _ _)
  | trap y cause bits =>
    have hy : Kept s y := h
    dsimp -zeta only
    extract_lets word w
    refine fst_ite ?_ (hy.trans (keepEntry y wid w.rob.length _))
    dsimp only
    exact hy.trans (trapSplit y wid x.pc word x.lanes cause (lineOf x.pc))

theorem fetchSplits (s : State) (wid : Nat) (l : List Split) : Kept s (fetchSplits s wid l).1 := by
  induction l generalizing s with
  | nil => exact refl s
  | cons x xs ih =>
    have h := fetchSplit s wid x
    unfold Machine.fetchSplits
    refine fst_ite (ih s) ?_
    generalize Machine.fetchSplit s wid x = r at h ⊢
    obtain ⟨y, o⟩ := r
    cases o with
    | some a => exact h
    | none => exact Kept.trans h (ih y)

theorem fetchWarps (s : State) (l : List Nat) : Kept s (fetchWarps s l).1 := by
  induction l generalizing s with
  | nil => exact refl s
  | cons wid rest ih =>
    have h := fetchSplits s wid (s.warp wid).splits
    unfold Machine.fetchWarps
    generalize Machine.fetchSplits s wid (s.warp wid).splits = r at h ⊢
    obtain ⟨y, o⟩ := r
    cases o with
    | some a => exact h
    | none => exact Kept.trans h (ih y)

theorem countCycles (s : State) (core gone : Nat) (wids : List Nat) : Kept s (countCycles s core gone wids) := by
  unfold Machine.countCycles
  exact (updCore s core _).trans (foldl (fun x w => updWarp x w _) _ _)

theorem fillSlots (s : State) (core wid : Nat) : Kept s (fillSlots s core wid) := by
  unfold Machine.fillSlots
  extract_lets w ready
  generalize w.slots ready _ = pq
  obtain ⟨p, q⟩ := pq
  dsimp -zeta only
  extract_lets taken starved x y
  have hx : Kept s x := setWarp s wid _
  have hy : Kept x y := updGrid x _ _
  clear_value y
  exact (hx.trans hy).trans (chosen y _)

theorem dropPick (s : State) (p : Pick) : Kept s (dropPick s p) := ite (refl s) (updWarp s _ _)

theorem takeLate (s : State) (i : Instr) : Kept s (takeLate s i) := ite (late s _) (refl s)

theorem payAll (s : State) (i : Instr) : Kept s (payAll s i) := ite (refl s) (payOwed s _ _)

/-! ## Dies, islands and the host (R412, R420 to R428) -/

theorem withdrawQuads (s : State) (die : Nat) (lost : List Nat) : Kept s (withdrawQuads s die lost) := by
  unfold Machine.withdrawQuads
  exact (updDie s die _).trans (foldl (fun x n => setPartition x n _) _ _)

theorem remapWires (s : State) (die n : Nat) : Kept s (remapWires s die n) := ⟨id, rfl, rfl⟩

theorem testWires (s : State) (die n : Nat) : Kept s (testWires s die n) := by
  unfold Machine.testWires
  split
  · exact updDie s die _
  · exact refl s

theorem killQuads (s : State) (die : Nat) (lost : List Nat) : Kept s (killQuads s die lost) := by
  unfold Machine.killQuads
  exact (foldl (fun x (p : Nat × Nat) => killGang x p.1 p.2 1 0 _) _ s).trans (foldl (fun x g => afterKill x g _) _ _)

theorem resetDie (s : State) (die : Nat) : Kept s (resetDie s die) := by
  unfold Machine.resetDie
  exact foldl (fun x i => updCore x _ _) _ s

theorem beginReadmission (s : State) (die : Nat) : Kept s (beginReadmission s die) := by
  unfold Machine.beginReadmission
  exact ((saveWarps s _).trans (fw _ _)).trans (ite ((fw _ _).trans (notify _ _ _)) (refl _))

theorem latchHang (s : State) (wid : Nat) : Kept s (latchHang s wid) := ite (updWarp s wid _) (refl s)

theorem endReadmission (s : State) (die : Nat) (mine lost : List Nat) : Kept s (endReadmission s die mine lost) := by
  unfold Machine.endReadmission
  extract_lets n x y z f fw0 next last fw1 u back v w
  have hx : Kept s x := foldl (fun a wid => latchHang a wid) mine s
  have hy : Kept x y := ((resetDie x die).trans (testWires _ die n)).trans (remapWires _ die n)
  have hz : Kept y z := (withdrawQuads y die lost).trans (killQuads _ die lost)
  have hu : Kept z u := fw z _
  have hv : Kept u v := ite (foldl (fun a wid => restoreWarp a wid) _ u) (refl u)
  have hw : Kept v w := notify v _ _
  clear_value w
  exact (((hx.trans hy).trans hz).trans ((hu.trans hv).trans hw)).trans (ite (settleActivate w) (refl w))

theorem execDieReadmission (die : Nat) (lost : List Nat) (s : State) : EndsKept s (execDieReadmission die lost s) := by
  unfold Machine.execDieReadmission
  refine EndsKept.ite (EndsKept.next (refl s)) ?_
  split
  · exact EndsKept.next (ite (endReadmission s die _ _) (refl s))
  · exact EndsKept.next (ite (beginReadmission s die) (refl s))

theorem holdCore (s : State) (t core : Nat) : Kept s (holdCore s t core) := by
  unfold Machine.holdCore
  exact (countCycles s core _ _).trans (updCore _ core _)

theorem execIslandRecalibration (island ns : Nat) (s : State) : EndsKept s (execIslandRecalibration island ns s) := by
  unfold Machine.execIslandRecalibration
  refine EndsKept.ite (EndsKept.next (refl s)) (EndsKept.next ?_)
  exact ((foldl (fun x c => holdCore x _ c) _ s).trans (foldl (fun x wid => updWarp x wid _) _ _)).trans (fw _ _)

theorem hostCommand {s : State} {act : State → State} (h : Kept s (act s)) (allowed : Bool) : EndsKept s (hostCommand s allowed act) :=
  EndsKept.ite (EndsKept.next (refl s)) (EndsKept.ite (EndsKept.next h) (EndsKept.next (answer s _)))

theorem execQuote (nonce : BitVec 256) (s : State) : EndsKept s (execQuote nonce s) := hostCommand (answer s _) _
theorem execCert (s : State) : EndsKept s (execCert s) := hostCommand (answer s _) _
theorem execExtend (digest : BitVec 384) (s : State) : EndsKept s (execExtend digest s) := hostCommand ((fw s _).trans (answer _ _)) _
theorem execUpdate (header : BitVec 2048) (image : List Byte) (s : State) : EndsKept s (execUpdate header image s) :=
  hostCommand ((fw s _).trans (answer _ _)) _
theorem execActivate (s : State) : EndsKept s (execActivate s) :=
  hostCommand (((fw s _).trans (ite (settleActivate _) (refl _))).trans (answer _ _)) _

theorem execActivateTimeout (s : State) : EndsKept s (execActivateTimeout s) := by
  unfold Machine.execActivateTimeout
  split
  · exact EndsKept.next (refl s)
  · exact EndsKept.ite (EndsKept.next (refl s)) (EndsKept.next (((fw s _).trans (notify _ _ _)).trans (settleActivate _)))

theorem execHostLaneFailure (lanes : Nat) (s : State) : EndsKept s (execHostLaneFailure lanes s) := EndsKept.next (ite (refl s) (net s _))

theorem execCxlMemRead (addr n : Nat) (s : State) : EndsKept s (execCxlMemRead addr n s) :=
  EndsKept.ite (EndsKept.next (refl s)) (EndsKept.next ((readAt s 0 0 (.hbm addr) n).trans (answer _ _)))

theorem execCxlMemWrite (addr : Nat) (bytes : List Byte) (s : State) : EndsKept s (execCxlMemWrite addr bytes s) :=
  EndsKept.ite (EndsKept.next (refl s)) (EndsKept.next (writeAt s 0 0 (.hbm addr) bytes))

theorem execInjectionDurationEnd (dir wave : Nat) (s : State) : EndsKept s (execInjectionDurationEnd dir wave s) :=
  EndsKept.ite (EndsKept.next (refl s)) (EndsKept.next ((settleErrors s dir wave).trans (setLinkDir _ dir _)))

theorem execTokensReachZero (tenant : Nat) (s : State) : EndsKept s (execTokensReachZero tenant s) :=
  EndsKept.ite (EndsKept.next (refl s)) (EndsKept.next (setBudget s _ _))

end Kept

/-! ## Time, resets and power -/

theorem KeepsInv.advanceCore (s : State) (core : Nat) (wids : List Nat) : KeepsInv s (advanceCore s core wids) := by
  unfold Machine.advanceCore
  exact (advanceTo s _).trans (of_kept (Kept.countCycles _ _ _ _))

theorem execIssueOpportunity_inv (core : Nat) (s : State) : EndsInv s (execIssueOpportunity core s) := by
  unfold execIssueOpportunity
  refine EndsInv.ite (EndsInv.next (KeepsInv.advanceTo s _)) ?_
  extract_lets wids x
  have hx : Kept s x := Kept.foldl (fun y wid => Kept.settleWsync y wid) wids s
  have hf := hx.trans (Kept.fetchWarps x wids)
  generalize fetchWarps x wids = r at hf ⊢
  obtain ⟨y, o⟩ := r
  cases o with
  | some a => exact EndsInv.fault s _
  | none =>
    dsimp -zeta only
    extract_lets here z left ready pick u
    have hz : KeepsInv s z := (KeepsInv.of_kept hf).trans (KeepsInv.advanceCore y core here)
    have hu : Kept z u := Kept.foldl (fun v wid => Kept.updWarp v wid _) left z
    clear_value u pick
    cases pick with
    | none => exact EndsInv.next (hz.trans (KeepsInv.of_kept hu))
    | some wid => exact EndsInv.next (hz.trans (KeepsInv.of_kept (hu.trans (Kept.fillSlots u core wid))))

theorem execPeriodBoundary_inv (s : State) : EndsInv s (execPeriodBoundary s) :=
  EndsInv.next ((KeepsInv.charge s _).trans (KeepsInv.boundary _))

/-- A boot changes nothing of memory but the channels that are left out. -/
theorem bootFrom_mem (s : State) (b : Bool) : (bootFrom s b).mem = { s.mem with leftOut := failedChannels s.freshCount } := by
  obtain ⟨-, -, hend, -⟩ := bootEnd_rest s (tested s) b
  obtain ⟨-, -, htested, -⟩ := tested_rest s
  rw [bootFrom_eq, hend, htested]

/-- Which channels are left out is no part of the canonical form. -/
theorem wf_leftOut (m : Mem) (l : List Nat) : Memory.wf { m with leftOut := l } = Memory.wf m := rfl

theorem bootFrom_inv (s : State) (b : Bool) : KeepsInv s (bootFrom s b) := fun h => by
  rw [State.Inv, bootFrom_mem, wf_leftOut]
  exact h

theorem loftReset_inv (s : State) : (loftReset s).Inv := by
  have hreset : (afterReset s).Inv := State.reset_wf
  unfold loftReset
  extract_lets r active other
  split
  · exact bootFrom_inv r _ hreset
  · split
    · exact bootFrom_inv r _ hreset
    · exact hreset

theorem powerOff_inv (s : State) : (powerOff s).Inv := rfl

theorem execHostReset_inv (s : State) : EndsInv s (execHostReset s) := EndsInv.next (KeepsInv.ite (fun _ => loftReset_inv s) (KeepsInv.refl s))

theorem execLoad_inv (header : BitVec 2048) (image : List Byte) (s : State) : EndsInv s (execLoad header image s) := by
  unfold execLoad hostCommand
  refine EndsInv.ite (EndsInv.next (KeepsInv.refl s)) (EndsInv.ite (EndsInv.next ?_) (EndsInv.next (KeepsInv.of_kept (Kept.answer s _))))
  exact KeepsInv.ite (fun _ => loftReset_inv _) (KeepsInv.refl s)

theorem execThermalThrottle_inv (island : Nat) (temp : BitVec 16) (s : State) : EndsInv s (execThermalThrottle island temp s) := by
  unfold execThermalThrottle
  extract_lets last hot step x y
  refine EndsInv.ite (EndsInv.next (KeepsInv.refl s)) (EndsInv.ite (EndsInv.next (fun _ => powerOff_inv _)) (EndsInv.next ?_))
  have hx : Kept s x := Kept.fw s _
  have hy : Kept x y := Kept.ite (Kept.notify x _ _) (Kept.refl x)
  clear_value y
  exact KeepsInv.of_kept ((hx.trans hy).trans (Kept.fw y _))

theorem execThermalShutdown_inv (island : Nat) (temp : BitVec 16) (s : State) : EndsInv s (execThermalShutdown island temp s) :=
  EndsInv.next (KeepsInv.ite (fun _ => powerOff_inv _) (KeepsInv.refl s))

end Sys2Proof.Machine
end

section
/-! # Proofs: every step keeps memory in canonical form -/

namespace Sys2Proof.Machine

theorem Kept.performFp (i : Instr) (f : Fields) (s : State) (lane : Ctx → Nat → List RegWrite × FpFlags) :
    EndsKept s (performFp i f s lane) := Kept.perform (fun _ => Kept.refl s) i f

/-- Every instruction and every event. -/
theorem exec_inv (i : Instr) (s : State) : EndsInv s (exec i s) := by
  unfold exec
  cases i with
  | nop f | mov f | movi f | movk f | movs f | sel f | iadd f | isub f | iaddc f | imul f | imulh f
  | imad f | imal f | idiv f | irem f | imin f | imax f | iabs f | ineg f | iadd64 f | isub64 f | lea f
  | and f | or f | xor f | andn f | not f | shl f | shr f | sha f | rotl f | fshf f | bfe f | bfi f
  | popc f | clz f | ctz f | brev f | bmix f | icmp f | icmp64 f | ptab f | pmovGet f | pmovSet f
  | lpoll f | lxch f | lfold f | lgrp f | unpk8 f => exact EndsInv.of_kept (Kept.performLanes _ f s _)
  | fadd f | fsub f | fmul f | ffma f | fmin f | fmax f | fcmp f | fclass f | fdiv f | fsqrt f | frcp f
  | frsq f | fex2 f | flg2 f | fsin f | fcos f | ftanh f | fsgm f | hadd2 f | hmul2 f | hfma2 f | badd2 f
  | bmul2 f | bfma2 f | dadd f | dmul f | dfma f | cvt f | f2i f | i2f f | pack8 f | tos24 f | froms24 f
  | pack16 f | packi8 f => exact EndsInv.of_kept (Kept.performFp _ f s _)
  | omset f => exact EndsInv.of_kept (Kept.execOmset f s)
  | omld f => exact EndsInv.of_kept (Kept.execOmld f s)
  | gidx f => exact EndsInv.of_kept (Kept.execGidx f s)
  | cvdecl f => exact EndsInv.of_kept (Kept.execCvdecl f s)
  | cvsign f => exact EndsInv.of_kept (Kept.execCvsign f s)
  | mma8 f => exact EndsInv.of_kept (Kept.execMma8 f s)
  | mmah f => exact EndsInv.of_kept (Kept.execMmah f s)
  | mmab f => exact EndsInv.of_kept (Kept.execMmab f s)
  | mmai f => exact EndsInv.of_kept (Kept.execMmai f s)
  | sacc f => exact EndsInv.of_kept (Kept.execSacc f s)
  | iacc f => exact EndsInv.of_kept (Kept.execIacc f s)
  | accz f => exact EndsInv.of_kept (Kept.execAccz f s)
  | accld f => exact EndsInv.of_kept (Kept.execAccld f s)
  | accst f => exact EndsInv.of_kept (Kept.execAccst f s)
  | accmov f => exact EndsInv.of_kept (Kept.execAccmov f s)
  | drain f => exact EndsInv.of_kept (Kept.execDrain f s)
  | draina f => exact EndsInv.of_kept (Kept.execDraina f s)
  | ld f => exact EndsInv.of_kept (Kept.execLd f s)
  | st f => exact EndsInv.of_kept (Kept.execSt f s)
  | ldfe f => exact EndsInv.of_kept (Kept.execLdfe f s)
  | stfe f => exact EndsInv.of_kept (Kept.execStfe f s)
  | feclr f => exact EndsInv.of_kept (Kept.execFeclr f s)
  | atom f => exact EndsInv.of_kept (Kept.execAtom f s)
  | acas f => exact EndsInv.of_kept (Kept.execAcas f s)
  | red f => exact EndsInv.of_kept (Kept.execRed f s)
  | fence f => exact EndsInv.of_kept (Kept.execFence f s)
  | pref f => exact EndsInv.of_kept (Kept.execPref f s)
  | bra f => exact EndsInv.of_kept (Kept.execBra f s)
  | brx f => exact EndsInv.of_kept (Kept.execBrx f s)
  | call f => exact EndsInv.of_kept (Kept.execCall f s)
  | callx f => exact EndsInv.of_kept (Kept.execCallx f s)
  | ret f => exact EndsInv.of_kept (Kept.execRet f s)
  | exit f => exact EndsInv.of_kept (Kept.execExit f s)
  | wsync f => exact EndsInv.of_kept (Kept.execWsync f s)
  | yield f => exact EndsInv.of_kept (Kept.execYield f s)
  | sleep f => exact EndsInv.of_kept (Kept.execSleep f s)
  | rgacq f => exact EndsInv.of_kept (Kept.execRgacq f s)
  | rgrel f => exact EndsInv.of_kept (Kept.execRgrel f s)
  | role f => exact EndsInv.of_kept (Kept.execRole f s)
  | brk f => exact EndsInv.of_kept (Kept.execBrk f s)
  | trap f => exact EndsInv.of_kept (Kept.execTrap f s)
  | kick f => exact EndsInv.of_kept (Kept.execKick f s)
  | kickDie f => exact EndsInv.of_kept (Kept.execKickDie f s)
  | wainst f => exact EndsInv.of_kept (Kept.execWainst f s)
  | qpush f => exact EndsInv.of_kept (Kept.execQpush f s)
  | qpop f => exact EndsInv.of_kept (Kept.execQpop f s)
  | qpeek f => exact EndsInv.of_kept (Kept.execQpeek f s)
  | qclose f => exact EndsInv.of_kept (Kept.execQclose f s)
  | lnch f => exact EndsInv.of_kept (Kept.execLnch f s)
  | shadow f => exact EndsInv.of_kept (Kept.execShadow f s)
  | publish f => exact EndsInv.of_kept (Kept.execPublish f s)
  | bara f => exact EndsInv.of_kept (Kept.execBara f s)
  | barw f => exact EndsInv.of_kept (Kept.execBarw f s)
  | bars f => exact EndsInv.of_kept (Kept.execBars f s)
  | barq f => exact EndsInv.of_kept (Kept.execBarq f s)
  | bcinit f => exact EndsInv.of_kept (Kept.execBcinit f s)
  | bcadd f => exact EndsInv.of_kept (Kept.execBcadd f s)
  | bcwait f => exact EndsInv.of_kept (Kept.execBcwait f s)
  | cntrd f => exact EndsInv.of_kept (Kept.execCntrd f s)
  | gtrd f => exact EndsInv.of_kept (Kept.execGtrd f s)
  | tcinv f => exact EndsInv.of_kept (Kept.execTcinv f s)
  | tcrcl f => exact EndsInv.of_kept (Kept.execTcrcl f s)
  | place f => exact EndsInv.of_kept (Kept.execPlace f s)
  | repl f => exact EndsInv.of_kept (Kept.execRepl f s)
  | probe f => exact EndsInv.of_kept (Kept.execProbe f s)
  | probeF f => exact EndsInv.of_kept (Kept.execProbeF f s)
  | sysrd f => exact EndsInv.of_kept (Kept.execSysrd f s)
  | syswr f => exact EndsInv.of_kept (Kept.execSyswr f s)
  | eret f => exact EndsInv.of_kept (Kept.execEret f s)
  | trqpop f => exact EndsInv.of_kept (Kept.execTrqpop f s)
  | bndset f => exact EndsInv.of_kept (Kept.execBndset f s)
  | bndrd f => exact EndsInv.of_kept (Kept.execBndrd f s)
  | diagst f => exact EndsInv.of_kept (Kept.execDiagst f s)
  | diagld f => exact EndsInv.of_kept (Kept.execDiagld f s)
  | wdog f => exact EndsInv.of_kept (Kept.execWdog f s)
  | halt f => exact EndsInv.of_kept (Kept.execHalt f s)
  | idle f => exact EndsInv.of_kept (Kept.execIdle f s)
  | splitResize col val => exact EndsInv.of_kept (Kept.execSplitResize col val s)
  | resizeComplete col => exact EndsInv.of_kept (Kept.execResizeComplete col s)
  | elastClear die val => exact EndsInv.of_kept (Kept.execElastClear die val s)
  | lcfgWrite dir val => exact EndsInv.of_kept (Kept.execLcfgWrite dir val s)
  | issueOpportunity core => exact execIssueOpportunity_inv core s
  | loadDataReturn wid => exact EndsInv.of_kept (Kept.execLoadDataReturn wid s)
  | entryRetire wid => exact EndsInv.of_kept (Kept.execEntryRetire wid s)
  | translationWalk wid lane => exact EndsInv.of_kept (Kept.execTranslationWalk wid lane s)
  | watchdog wid => exact EndsInv.of_kept (Kept.execWatchdog wid s)
  | feTimeout wid lane => exact EndsInv.of_kept (Kept.execFeTimeout wid lane s)
  | ldfeServe granule => exact EndsInv.of_kept (Kept.execLdfeServe granule s)
  | bcwaitReturn wid => exact EndsInv.of_kept (Kept.execBcwaitReturn wid s)
  | barrierPhaseComplete bar => exact EndsInv.of_kept (Kept.execBarrierPhaseComplete bar s)
  | sleepWake wid => exact EndsInv.of_kept (Kept.execSleepWake wid s)
  | idleWake wid => exact EndsInv.of_kept (Kept.execIdleWake wid s)
  | rgacqGrant core => exact EndsInv.of_kept (Kept.execRgacqGrant core s)
  | kickQueueFree engine => exact EndsInv.of_kept (Kept.execKickQueueFree engine s)
  | gleanerQueueFree silo => exact EndsInv.of_kept (Kept.execGleanerQueueFree silo s)
  | launchRecordEnqueue record => exact EndsInv.of_kept (Kept.execLaunchRecordEnqueue record s)
  | pipelineDescriptor record => exact EndsInv.of_kept (Kept.execPipelineDescriptor record s)
  | gangPlacement queue quad base => exact EndsInv.of_kept (Kept.execGangPlacement queue quad base s)
  | coresidentPlacement queue places => exact EndsInv.of_kept (Kept.execCoresidentPlacement queue places s)
  | stageLaunch pipe stage quad base => exact EndsInv.of_kept (Kept.execStageLaunch pipe stage quad base s)
  | allocationClearDone col unit => exact EndsInv.of_kept (Kept.execAllocationClearDone col unit s)
  | sliceEnd queue => exact EndsInv.of_kept (Kept.execSliceEnd queue s)
  | partialEviction core queue => exact EndsInv.of_kept (Kept.execPartialEviction core queue s)
  | contextRestore wid => exact EndsInv.of_kept (Kept.execContextRestore wid s)
  | saveBoundExpiry wid => exact EndsInv.of_kept (Kept.execSaveBoundExpiry wid s)
  | fatalDieError die => exact EndsInv.of_kept (Kept.execFatalDieError die s)
  | sectorFill fid sector => exact EndsInv.of_kept (Kept.execSectorFill fid sector s)
  | gleanerPolicyMove tenant vpn target => exact EndsInv.of_kept (Kept.execGleanerPolicyMove tenant vpn target s)
  | moveSwitch tenant vpn => exact EndsInv.of_kept (Kept.execMoveSwitch tenant vpn s)
  | evictionSwitch tenant vpn => exact EndsInv.of_kept (Kept.execEvictionSwitch tenant vpn s)
  | forwardingFree fid => exact EndsInv.of_kept (Kept.execForwardingFree fid s)
  | replicaSwitch tenant vpn => exact EndsInv.of_kept (Kept.execReplicaSwitch tenant vpn s)
  | replicaCollapse tenant vpn => exact EndsInv.of_kept (Kept.execReplicaCollapse tenant vpn s)
  | wainRequest core serial => exact EndsInv.of_kept (Kept.execWainRequest core serial s)
  | wainRequestComplete core serial => exact EndsInv.of_kept (Kept.execWainRequestComplete core serial s)
  | dieEngineRequest die engine serial => exact EndsInv.of_kept (Kept.execDieEngineRequest die engine serial s)
  | drainaAddition n => exact EndsInv.of_kept (Kept.execDrainaAddition n s)
  | ordGroupApply line => exact EndsInv.of_kept (Kept.execOrdGroupApply line s)
  | quote nonce => exact EndsInv.of_kept (Kept.execQuote nonce s)
  | extend digest => exact EndsInv.of_kept (Kept.execExtend digest s)
  | update header image => exact EndsInv.of_kept (Kept.execUpdate header image s)
  | dieReadmission die lost => exact EndsInv.of_kept (Kept.execDieReadmission die lost s)
  | load header image => exact execLoad_inv header image s
  | islandRecalibration island ns => exact EndsInv.of_kept (Kept.execIslandRecalibration island ns s)
  | thermalThrottle island temp => exact execThermalThrottle_inv island temp s
  | thermalShutdown island temp => exact execThermalShutdown_inv island temp s
  | flitReceive dir bytes => exact EndsInv.of_kept (Kept.execFlitReceive dir bytes s)
  | checkIntervalEnd dir wave errors => exact EndsInv.of_kept (Kept.execCheckIntervalEnd dir wave errors s)
  | withdrawMsg dir wave => exact EndsInv.of_kept (Kept.execWithdrawMsg dir wave s)
  | trainingAttemptEnd dir wave errors => exact EndsInv.of_kept (Kept.execTrainingAttemptEnd dir wave errors s)
  | restoreMsg dir wave => exact EndsInv.of_kept (Kept.execRestoreMsg dir wave s)
  | lossOfLock dir lost => exact EndsInv.of_kept (Kept.execLossOfLock dir lost s)
  | rds line pkg => exact EndsInv.of_kept (Kept.execRds line pkg s)
  | rdx line pkg => exact EndsInv.of_kept (Kept.execRdx line pkg s)
  | wb line pkg tag keep bytes => exact EndsInv.of_kept (Kept.execWb line pkg tag keep bytes s)
  | ev line pkg => exact EndsInv.of_kept (Kept.execEv line pkg s)
  | homeRead line => exact EndsInv.of_kept (Kept.execHomeRead line s)
  | homeWrite line pkg tag bytes => exact EndsInv.of_kept (Kept.execHomeWrite line pkg tag bytes s)
  | forwardedRequest line => exact EndsInv.of_kept (Kept.execForwardedRequest line s)
  | invalidation line => exact EndsInv.of_kept (Kept.execInvalidation line s)
  | backInvalidation line => exact EndsInv.of_kept (Kept.execBackInvalidation line s)
  | switchFailure switch => exact EndsInv.of_kept (Kept.execSwitchFailure switch s)
  | requestResend wid lane => exact EndsInv.of_kept (Kept.execRequestResend wid lane s)
  | rebuildHoldEnd switch bytes => exact EndsInv.of_kept (Kept.execRebuildHoldEnd switch bytes s)
  | rebuildOpen switch => exact EndsInv.of_kept (Kept.execRebuildOpen switch s)
  | portDownExpiry port => exact EndsInv.of_kept (Kept.execPortDownExpiry port s)
  | cxlMemRead addr n => exact EndsInv.of_kept (Kept.execCxlMemRead addr n s)
  | cxlMemWrite addr bytes => exact EndsInv.of_kept (Kept.execCxlMemWrite addr bytes s)
  | hostLaneFailure lanes => exact EndsInv.of_kept (Kept.execHostLaneFailure lanes s)
  | injectionDurationEnd dir wave => exact EndsInv.of_kept (Kept.execInjectionDurationEnd dir wave s)
  | tokensReachZero tenant => exact EndsInv.of_kept (Kept.execTokensReachZero tenant s)
  | pcmdQueueFree => exact EndsInv.of_kept (Kept.execPcmdQueueFree s)
  | periodBoundary => exact execPeriodBoundary_inv s
  | readpart => exact EndsInv.of_kept (Kept.performCommand 1 s)
  | readten => exact EndsInv.of_kept (Kept.performCommand 2 s)
  | setten => exact EndsInv.of_kept (Kept.performCommand 3 s)
  | mode => exact EndsInv.of_kept (Kept.performCommand 4 s)
  | tenantReset => exact EndsInv.of_kept (Kept.performCommand 5 s)
  | segment => exact EndsInv.of_kept (Kept.performCommand 6 s)
  | save => exact EndsInv.of_kept (Kept.performCommand 7 s)
  | restore => exact EndsInv.of_kept (Kept.performCommand 8 s)
  | cert => exact EndsInv.of_kept (Kept.execCert s)
  | activate => exact EndsInv.of_kept (Kept.execActivate s)
  | activateTimeout => exact EndsInv.of_kept (Kept.execActivateTimeout s)
  | hostReset => exact execHostReset_inv s
  | loftReset => exact EndsInv.next (fun _ => loftReset_inv s)
  | powerLoss => exact EndsInv.next (fun _ => powerOff_inv s)

/-! ## From an instruction to a step -/

/-- The state in which the front end leaves a slot. -/
def Front.state : Front → State
  | .run s _ => s
  | .done s => s

theorem Kept.frontEnd (s : State) (p : Pick) : Kept s (frontEnd s p).state := by
  unfold Machine.frontEnd
  extract_lets w bad x y
  split
  · split
    · split
      · exact Kept.atEntry s _ _ _
      · exact Kept.refl s
    · exact Kept.refl s
  · split
    · exact Kept.dropPick s p
    · have hx : Kept s x := Kept.updWarp s _ _
      have hy : Kept x y := Kept.countIssue x _
      clear_value y x
      split
      · dsimp only [Front.state]
        exact hx.trans (Kept.trapSplit x _ _ _ _ _ _)
      · split
        · exact hx.trans ((Kept.takeLate x _).trans (Kept.current _ _))
        · split
          · dsimp only [Front.state]
            exact (hx.trans hy).trans (Kept.trapSplit y _ _ _ _ _ _)
          · exact (hx.trans hy).trans (Kept.keepEntry y _ _ _)

theorem serve_inv (p : Pick) (s : State) : EndsInv s (serve p s) := by
  have hpay := Kept.payBefore s p.wid
  unfold serve
  extract_lets x
  have hfront := hpay.trans (Kept.frontEnd x p)
  refine EndsInv.ite (EndsInv.next (KeepsInv.of_kept (hpay.trans (Kept.dropPick x p)))) ?_
  cases h : frontEnd x p with
  | run y i =>
    rw [h] at hfront
    exact EndsInv.trans (KeepsInv.of_kept hfront) (exec_inv i y)
  | done y =>
    rw [h] at hfront
    exact EndsInv.next (KeepsInv.of_kept hfront)

theorem happen_inv (i : Instr) (s : State) : EndsInv s (happen i s) :=
  EndsInv.ite (EndsInv.next (KeepsInv.of_kept (Kept.payAll s i))) (EndsInv.trans (KeepsInv.of_kept (Kept.payAll s i)) (exec_inv i _))

theorem nextEvent_mem (s : State) : s.nextEvent.1.mem = s.mem := by
  unfold State.nextEvent
  extract_lets t events
  split <;> rfl

theorem idleStep_inv (s : State) : EndsInv s (idleStep s) := by
  refine EndsInv.ite (EndsInv.trans (fun h => ?_) (happen_inv _ _)) (EndsInv.next (KeepsInv.refl s))
  rw [State.Inv, nextEvent_mem]
  exact h

theorem takeDue_mem {s t : State} {i : Instr} (h : takeDue s = some (t, i)) : t.mem = s.mem := by
  unfold takeDue at h
  split at h
  · split at h
    · cases h; rfl
    · cases h
  · cases h

theorem step_inv (s : State) : EndsInv s (step s) := by
  unfold step
  split
  · exact EndsInv.trans (x := { s with chosen := _ }) id (serve_inv _ _)
  · split
    · rename_i t i hdue
      have ht : KeepsInv s t := fun h => by
        rw [State.Inv, takeDue_mem hdue]
        exact h
      exact EndsInv.ite (EndsInv.trans ht (happen_inv i t)) (EndsInv.next ht)
    · exact idleStep_inv s

/-- Settles O59: each instruction and each event keeps memory in canonical form, and so does what a step does around it. -/
theorem stepKeepsInvariant : Obligations.StepKeepsInvariant := by
  unfold Obligations.StepKeepsInvariant
  intro s t hinv hstep
  exact step_inv s t hstep hinv

end Sys2Proof.Machine
end
